-- ==== Sys2Proof/Word.lean ====
section
/-! DEFINITION. The words of the machine and their plainest arithmetic (spec/00 R6, R7, R11). -/

namespace Sys2Proof

/-- A byte (R6). -/
abbrev Byte := BitVec 8
/-- The coherence word of 4 bytes (R6). -/
abbrev Word32 := BitVec 32
/-- A register or command word of 64 bits (R6, R114). -/
abbrev Word64 := BitVec 64

/-- The four engines, numbered 0 to 3 in this order (R8). -/
inductive Engine where
  | S | V | M | C
  deriving DecidableEq, Repr, Inhabited

/-- The engine numbers of R8. -/
def Engine.num : Engine → Nat
  | .S => 0 | .V => 1 | .M => 2 | .C => 3

/-- The engine of a number of R8, the number taken modulo 4. -/
def Engine.ofNum (n : Nat) : Engine :=
  match n % 4 with
  | 0 => .S | 1 => .V | 2 => .M | _ => .C

/-- All engines in the order of R8. -/
def Engine.all : List Engine := [.S, .V, .M, .C]

end Sys2Proof
end

