-- ==== Sys2Proof/Syntax.lean ====
section
/-! DEFINITION. The instructions and events of spec/opcode_table.json, one constructor a row, and the
coded fields that command words carry (spec/02). A command word's WAIT, SIGNAL and guard stand in its `Hdr`. -/

namespace Sys2Proof

/-- The WAIT byte (R33). -/
inductive Wait where
  | none
  | pop (count : Fin 4) (queue : Fin 16)
  | full (h : Fin 64)
  | free (h : Fin 64)
  deriving DecidableEq, Repr, Inhabited

/-- The SIGNAL byte (R34). -/
inductive Signal where
  | none
  | push (count : Fin 4) (queue : Fin 16)
  | release (h : Fin 64)
  | arm (h : Fin 64)
  deriving DecidableEq, Repr, Inhabited

/-- What every command word carries beside its opcode and operands: the WAIT and SIGNAL bytes (R32) and,
on S, the guard predicate and its inversion (R47, R53, R56). On V, M and C the guard is p0, not inverted. -/
structure Hdr where
  wait : Wait
  sig : Signal
  guard : Fin 8
  neg : Bool
  deriving DecidableEq, Repr, Inhabited

/-- Scope field (R49). -/
inductive Scope where
  | core | clu | die | pkg | sys
  deriving DecidableEq, Repr

/-- Policy field (R50). -/
inductive Policy where
  | si | wi | wt | own
  deriving DecidableEq, Repr

/-- Rounding field (R51). -/
inductive Rounding where
  | rne | rz | rup | rdn | rna
  deriving DecidableEq, Repr

/-- Element types (R52). A P3109 type has precision `p + 1`, may be extended and may be unsigned. -/
inductive ElemType where
  | f32 | bf16 | f16 | e4m3 | e5m2 | e2m1
  | i8 | n8 | i16 | n16 | i32 | n32 | i64 | n64 | i4
  | e8m0 | e8f2
  | b8 (p : Fin 7) (ext : Bool) (uns : Bool)
  deriving DecidableEq, Repr

/-- Integer conditions of CMP and CMPI (R131). -/
inductive IntCond where
  | eq | ne | lt | ge | ltu | geu | le | gt | leu | gtu
  deriving DecidableEq, Repr

/-- Conditions of FCMP (R137). -/
inductive FpCond where
  | eq | lt | le | un
  deriving DecidableEq, Repr

/-- Conditions of VCMP (R155). -/
inductive VecCond where
  | eq | ne | lt | ge | le | gt | un | ord
  deriving DecidableEq, Repr

/-- Conversions of FCVT (R136). -/
inductive Conv where
  | f32i32 | f32n32 | f32i64 | f32n64 | i32f32 | n32f32 | i64f32 | n64f32
  | f32f16 | f16f32 | f32bf16 | bf16f32 | f32rint
  deriving DecidableEq, Repr

/-- Atomic operations (R62, R270). The integer ones carry their width: `true` for 64 bits. -/
inductive Aop where
  | add (w : Bool) | and (w : Bool) | or (w : Bool) | xor (w : Bool)
  | mins (w : Bool) | maxs (w : Bool) | minu (w : Bool) | maxu (w : Bool) | xchg (w : Bool)
  | fadd | bfadd2 | fmin | fmax | fminnum | fmaxnum
  deriving DecidableEq, Repr

/-- The order field of an atomic (R56, R274). -/
inductive AtomOrder where
  | none | acq | rel | ar
  deriving DecidableEq, Repr

/-- The kind field of FENCE (R53, R283). -/
inductive FenceKind where
  | acq | rel | ar
  deriving DecidableEq, Repr

/-- Access sizes of format SM (R56): 1, 2, 4 and 8 bytes. -/
inductive Size where
  | b1 | b2 | b4 | b8
  deriving DecidableEq, Repr

/-- A LOOP's count: an immediate, or a register (R120). -/
inductive LoopCount where
  | imm (n : BitVec 19)
  | reg (r : Fin 32)
  deriving DecidableEq, Repr

/-- The condition of format XB (R54): k = 0, k ≠ 0, or always. -/
inductive XbCond where
  | zero (k : Fin 16) | nonzero (k : Fin 16) | always
  deriving DecidableEq, Repr

/-- VSHAPE's stride source (R57): in 16-byte units, or a k register. -/
inductive StrideSrc where
  | imm (n : BitVec 20)
  | reg (k : Fin 16)
  deriving DecidableEq, Repr

/-- MSHAPE's block-scale mode (R58). -/
inductive BlkMode where
  | none | e8m0 | e8f2
  deriving DecidableEq, Repr

/-- The item GOVRD names (R214). -/
inductive GovItem where
  | hdr | wslot | slot (b : Fin 32)
  deriving DecidableEq, Repr

/-- VRED's and VSCAN's combine function with, for sum, its rounding and .sat (R148, R162). -/
inductive RedOp where
  | sum (rm : Rounding) (sat : Bool) | max | min | amax
  deriving DecidableEq, Repr

/-- COLL's operation (R287, R311). -/
inductive CollOp where
  | sum | max | agree
  deriving DecidableEq, Repr

/-- VGATH's and VSCAT's space (R57): the data area, or global memory with its policy and scope. -/
inductive VecSpace where
  | data
  | global (pol : Policy) (scope : Scope) (inv : Bool)
  deriving DecidableEq, Repr

/-- Who writes over the host link, the sideband or the fabric: the control masters (R400), and an SR-IOV function, which reaches
three words of the queues assigned to it (R396). -/
inductive Master where
  | host0 | host1 | mgmt | fabric
  | function (n : Fin 16)
  deriving DecidableEq, Repr
/-- Who writes, as the operand of an event numbers them. -/
def Master.ofNum : Nat → Master
  | 0 => .host0 | 1 => .host1 | 2 => .mgmt | 3 => .fabric | n + 4 => .function (Fin.ofNat 16 n)


/-- One member's part in a collective step as the fabric brings it (R311, R213): the package, whether the
member's N, TYPE, op and TAG validity agree with ours, its elements' codes, its AMAX contribution and its
agreement word. -/
structure CollPart where
  pkg : Nat
  agrees : Bool
  elems : List Word32
  agreement : Word64
  deriving DecidableEq, Repr

/-- One island's monitor reading of a tentering pass (R434): the island and its slack in picoseconds. -/
structure Reading where
  island : Nat
  slack : Nat
  deriving DecidableEq, Repr

/-- The instruction words of the four engines and the events of the package: one constructor for each row of
spec/opcode_table.json. A shared control instruction names the engine whose ring holds it. -/
inductive Instr where
  -- shared control (R53, R54, R60, R118)
  | nop (e : Engine) (h : Hdr)
  | endw (e : Engine) (h : Hdr)
  | loop (e : Engine) (h : Hdr) (len : BitVec 13) (count : LoopCount)
  | brSb (h : Hdr) (abs : Bool) (off : BitVec 32)
  | brXb (e : Engine) (h : Hdr) (cond : XbCond) (abs : Bool) (off : BitVec 32)
  | callSb (h : Hdr) (abs : Bool) (off : BitVec 32)
  | callXb (e : Engine) (h : Hdr) (cond : XbCond) (abs : Bool) (off : BitVec 32)
  | ret (e : Engine) (h : Hdr)
  | tok (e : Engine) (h : Hdr) (pop : Bool) (q : Fin 16) (r : Fin 32)
  | hset (e : Engine) (h : Hdr) (hd : Fin 64) (base count : Fin 32)
  | hwait (e : Engine) (h : Hdr) (hd : Fin 64) (free : Bool)
  | safe (e : Engine) (h : Hdr) (group : BitVec 8) (map : BitVec 16)
  | trap (e : Engine) (h : Hdr) (code : BitVec 16)
  | brk (e : Engine) (h : Hdr) (code : BitVec 16)
  | fence (e : Engine) (h : Hdr) (kind : FenceKind) (scope : Scope)
  | srd (e : Engine) (h : Hdr) (d : Fin 32) (num : BitVec 12)
  | swr (e : Engine) (h : Hdr) (r : Fin 32) (num : BitVec 12)
  | flagsWrite (e : Engine) (h : Hdr) (r : Fin 32)
  | trapRegisterWrite (e : Engine) (h : Hdr) (r : Fin 32) (which : Fin 5)
  | chHashWrite (e : Engine) (h : Hdr) (r : Fin 32)
  | pcHashWrite (e : Engine) (h : Hdr) (r : Fin 32)
  | preemptWaitWrite (e : Engine) (h : Hdr) (r : Fin 32)
  | pause (e : Engine) (h : Hdr) (n : BitVec 16)
  -- the index-register block of V, M and C (R55, R126)
  | kli (e : Engine) (h : Hdr) (d : Fin 16) (imm : BitVec 32)
  | kaddi (e : Engine) (h : Hdr) (d a : Fin 16) (imm : BitVec 32)
  | kadd (e : Engine) (h : Hdr) (d a b : Fin 16)
  | ksub (e : Engine) (h : Hdr) (d a b : Fin 16)
  | kmul (e : Engine) (h : Hdr) (d a b : Fin 16)
  | kshl (e : Engine) (h : Hdr) (d a b : Fin 16)
  | kshr (e : Engine) (h : Hdr) (d a b : Fin 16)
  | kand (e : Engine) (h : Hdr) (d a b : Fin 16)
  -- S integer (R127 to R130); `uns` is the .n64 signedness choice
  | add (h : Hdr) (d a b : Fin 32)
  | sub (h : Hdr) (d a b : Fin 32)
  | mul (h : Hdr) (d a b : Fin 32)
  | mulh (h : Hdr) (uns : Bool) (d a b : Fin 32)
  | div (h : Hdr) (uns : Bool) (d a b : Fin 32)
  | rem (h : Hdr) (uns : Bool) (d a b : Fin 32)
  | and (h : Hdr) (d a b : Fin 32)
  | or (h : Hdr) (d a b : Fin 32)
  | xor (h : Hdr) (d a b : Fin 32)
  | andn (h : Hdr) (d a b : Fin 32)
  | shl (h : Hdr) (d a b : Fin 32)
  | shr (h : Hdr) (d a b : Fin 32)
  | sar (h : Hdr) (d a b : Fin 32)
  | rotr (h : Hdr) (d a b : Fin 32)
  | min (h : Hdr) (uns : Bool) (d a b : Fin 32)
  | max (h : Hdr) (uns : Bool) (d a b : Fin 32)
  | clz (h : Hdr) (d a : Fin 32)
  | ctz (h : Hdr) (d a : Fin 32)
  | popc (h : Hdr) (d a : Fin 32)
  | sel (h : Hdr) (d a b : Fin 32) (p : Fin 8)
  | bfx (h : Hdr) (uns : Bool) (d a b : Fin 32)
  | bfi (h : Hdr) (d a b : Fin 32)
  | addi (h : Hdr) (d a : Fin 32) (imm : BitVec 27)
  | andi (h : Hdr) (d a : Fin 32) (imm : BitVec 27)
  | ori (h : Hdr) (d a : Fin 32) (imm : BitVec 27)
  | xori (h : Hdr) (d a : Fin 32) (imm : BitVec 27)
  | shli (h : Hdr) (d a : Fin 32) (n : Fin 64)
  | shri (h : Hdr) (d a : Fin 32) (n : Fin 64)
  | sari (h : Hdr) (d a : Fin 32) (n : Fin 64)
  | li (h : Hdr) (d : Fin 32) (imm : BitVec 32)
  | lih (h : Hdr) (d : Fin 32) (imm : BitVec 32)
  | muli (h : Hdr) (d a : Fin 32) (imm : BitVec 27)
  -- compare, predicate, indirect branch (R131 to R134)
  | cmp (h : Hdr) (c : IntCond) (p : Fin 8) (a b : Fin 32)
  | cmpi (h : Hdr) (c : IntCond) (p : Fin 8) (a : Fin 32) (imm : BitVec 23)
  | pset (h : Hdr) (d a b : Fin 8) (f : BitVec 4)
  | pmov (h : Hdr) (toS : Bool) (p : Fin 8) (r : Fin 32)
  | brx (h : Hdr) (a : Fin 32)
  -- scalar FP32 (R135 to R137)
  | fadd (h : Hdr) (rm : Rounding) (sat : Bool) (d a b : Fin 32)
  | fsub (h : Hdr) (rm : Rounding) (sat : Bool) (d a b : Fin 32)
  | fmul (h : Hdr) (rm : Rounding) (sat : Bool) (d a b : Fin 32)
  | ffma (h : Hdr) (rm : Rounding) (sat : Bool) (d a b : Fin 32)
  | fmin (h : Hdr) (d a b : Fin 32)
  | fmax (h : Hdr) (d a b : Fin 32)
  | fcmp (h : Hdr) (c : FpCond) (p : Fin 8) (a b : Fin 32)
  | fcvt (h : Hdr) (rm : Rounding) (sat : Bool) (c : Conv) (d a : Fin 32)
  | fdiv (h : Hdr) (rm : Rounding) (sat : Bool) (d a b : Fin 32)
  | fsqrt (h : Hdr) (rm : Rounding) (sat : Bool) (d a : Fin 32)
  -- S memory (R262 to R276)
  | ld (h : Hdr) (pol : Policy) (scope : Scope) (size : Size) (bit18 : Bool) (d b : Fin 32) (off : BitVec 18)
  | st (h : Hdr) (pol : Policy) (scope : Scope) (size : Size) (d b : Fin 32) (off : BitVec 18)
  | lds (h : Hdr) (size : Size) (sx : Bool) (d b : Fin 32) (off : BitVec 18)
  | sts (h : Hdr) (size : Size) (d b : Fin 32) (off : BitVec 18)
  | sPref (h : Hdr) (pol : Policy) (lines : Size) (b : Fin 32) (off : BitVec 18)
  | flush (h : Hdr) (b : Fin 32) (off : BitVec 18)
  | atom (h : Hdr) (op : Aop) (pol : Policy) (scope : Scope) (ord : AtomOrder) (d b v : Fin 32) (off : BitVec 9)
  | red (h : Hdr) (op : Aop) (pol : Policy) (scope : Scope) (rel : Bool) (b v : Fin 32) (off : BitVec 9)
  | cas (h : Hdr) (w64 : Bool) (pol : Policy) (scope : Scope) (ord : AtomOrder) (d b v : Fin 32) (off : BitVec 9)
  | atoms (h : Hdr) (op : Aop) (ord : AtomOrder) (d b v : Fin 32) (off : BitVec 9)
  -- tasks, scopes, layers, queues (R348 to R353, R366, R367, R374)
  | launch (h : Hdr) (d a b : Fin 32)
  | fsopen (h : Hdr) (d a : Fin 32)
  | fsclose (h : Hdr) (d a : Fin 32)
  | fswait (h : Hdr) (d a : Fin 32)
  | fstest (h : Hdr) (d a : Fin 32)
  | lwait (h : Hdr) (a : Fin 32)
  | lpin (h : Hdr) (rerequest : Bool) (d a : Fin 32)
  | lunpin (h : Hdr) (d a : Fin 32)
  | phase (h : Hdr) (a : Fin 32)
  | qctlSetprio (h : Hdr) (d a b : Fin 32)
  | qctlDetset (h : Hdr) (d a b : Fin 32)
  | qctlSeed (h : Hdr) (d a b : Fin 32)
  | qctlQread (h : Hdr) (d a b : Fin 32)
  -- the governor (R214 to R217), TIME and ERET (R138, R139)
  | goveval (h : Hdr) (rebind : Bool) (d a : Fin 32)
  | govrd (h : Hdr) (item : GovItem) (d a : Fin 32)
  | govhold (h : Hdr) (a : Fin 32)
  | govrel (h : Hdr) (a : Fin 32)
  | time (h : Hdr) (d : Fin 32)
  | eret (h : Hdr)
  -- vector (R142 to R170); `m` is the selecting mask and `z` the zeroing bit
  | vshape (h : Hdr) (rows : Fin 32) (cols : Fin 256) (ty : ElemType) (stride : StrideSrc)
  | vld (h : Hdr) (t : Fin 256) (k : Fin 16) (hd : Fin 64) (off : BitVec 22)
  | vst (h : Hdr) (t : Fin 256) (k : Fin 16) (hd : Fin 64) (off : BitVec 22)
  | vstq (h : Hdr) (t : Fin 256) (k : Fin 16) (hd : Fin 64) (off : BitVec 22)
  | vldq (h : Hdr) (t : Fin 256) (k : Fin 16) (hd : Fin 64) (off : BitVec 22)
  | vgath (h : Hdr) (t idx : Fin 256) (k : Fin 16) (sp : VecSpace) (m : Fin 8) (z : Bool)
  | vscat (h : Hdr) (t idx : Fin 256) (k : Fin 16) (sp : VecSpace) (m : Fin 8) (z : Bool)
  | vmov (h : Hdr) (m : Fin 8) (z : Bool) (d a : Fin 256)
  | vbcast (h : Hdr) (m : Fin 8) (z : Bool) (d : Fin 256) (k : Fin 16)
  | vadd (h : Hdr) (m : Fin 8) (z : Bool) (rm : Rounding) (sat : Bool) (d a b : Fin 256)
  | vsub (h : Hdr) (m : Fin 8) (z : Bool) (rm : Rounding) (sat : Bool) (d a b : Fin 256)
  | vmul (h : Hdr) (m : Fin 8) (z : Bool) (rm : Rounding) (sat : Bool) (d a b : Fin 256)
  | vfma (h : Hdr) (m : Fin 8) (z : Bool) (rm : Rounding) (sat : Bool) (d a b c : Fin 256)
  | vfms (h : Hdr) (m : Fin 8) (z : Bool) (rm : Rounding) (sat : Bool) (d a b c : Fin 256)
  | vfnma (h : Hdr) (m : Fin 8) (z : Bool) (rm : Rounding) (sat : Bool) (d a b c : Fin 256)
  | vmin (h : Hdr) (m : Fin 8) (z : Bool) (d a b : Fin 256)
  | vmax (h : Hdr) (m : Fin 8) (z : Bool) (d a b : Fin 256)
  | vabs (h : Hdr) (m : Fin 8) (z : Bool) (d a : Fin 256)
  | vneg (h : Hdr) (m : Fin 8) (z : Bool) (d a : Fin 256)
  | vdiv (h : Hdr) (m : Fin 8) (z : Bool) (sat : Bool) (d a b : Fin 256)
  | vsqrt (h : Hdr) (m : Fin 8) (z : Bool) (sat : Bool) (d a : Fin 256)
  | vrcp (h : Hdr) (m : Fin 8) (z : Bool) (sat : Bool) (d a : Fin 256)
  | vrsq (h : Hdr) (m : Fin 8) (z : Bool) (sat : Bool) (d a : Fin 256)
  | vexp2 (h : Hdr) (m : Fin 8) (z : Bool) (sat : Bool) (d a : Fin 256)
  | vexp (h : Hdr) (m : Fin 8) (z : Bool) (sat : Bool) (d a : Fin 256)
  | vlog2 (h : Hdr) (m : Fin 8) (z : Bool) (sat : Bool) (d a : Fin 256)
  | vsinpi (h : Hdr) (m : Fin 8) (z : Bool) (sat : Bool) (d a : Fin 256)
  | vcospi (h : Hdr) (m : Fin 8) (z : Bool) (sat : Bool) (d a : Fin 256)
  | vtanh (h : Hdr) (m : Fin 8) (z : Bool) (sat : Bool) (d a : Fin 256)
  | vcmp (h : Hdr) (m : Fin 8) (z : Bool) (c : VecCond) (d : Fin 8) (a b : Fin 256)
  | vsel (h : Hdr) (m : Fin 8) (d a b : Fin 256)
  | mop (h : Hdr) (d a b : Fin 8) (f : BitVec 4)
  | mcnt (h : Hdr) (first : Bool) (d : Fin 16) (a : Fin 8)
  | viadd (h : Hdr) (m : Fin 8) (z : Bool) (sat : Bool) (d a b : Fin 256)
  | visub (h : Hdr) (m : Fin 8) (z : Bool) (sat : Bool) (d a b : Fin 256)
  | vimul (h : Hdr) (m : Fin 8) (z : Bool) (sat : Bool) (d a b : Fin 256)
  | vand (h : Hdr) (m : Fin 8) (z : Bool) (d a b : Fin 256)
  | vor (h : Hdr) (m : Fin 8) (z : Bool) (d a b : Fin 256)
  | vxor (h : Hdr) (m : Fin 8) (z : Bool) (d a b : Fin 256)
  | vshl (h : Hdr) (m : Fin 8) (z : Bool) (d a b : Fin 256)
  | vshr (h : Hdr) (m : Fin 8) (z : Bool) (d a b : Fin 256)
  | vsar (h : Hdr) (m : Fin 8) (z : Bool) (d a b : Fin 256)
  | vimin (h : Hdr) (m : Fin 8) (z : Bool) (d a b : Fin 256)
  | vimax (h : Hdr) (m : Fin 8) (z : Bool) (d a b : Fin 256)
  | vcvt (h : Hdr) (m : Fin 8) (z : Bool) (rm : Rounding) (sat : Bool) (ty : ElemType) (d a : Fin 256)
  | vamax (h : Hdr) (m : Fin 8) (d : Fin 16) (a : Fin 256)
  | vscale (h : Hdr) (m : Fin 8) (z : Bool) (rm : Rounding) (sat : Bool) (divs : Bool) (d a : Fin 256) (k : Fin 16)
  | vred (h : Hdr) (m : Fin 8) (z : Bool) (op : RedOp) (col : Bool) (d a : Fin 256)
  | vscan (h : Hdr) (m : Fin 8) (z : Bool) (op : RedOp) (col : Bool) (d a : Fin 256)
  | vxpose (h : Hdr) (m : Fin 8) (z : Bool) (d a : Fin 256)
  | vperm (h : Hdr) (m : Fin 8) (z : Bool) (d a b : Fin 256)
  | viota (h : Hdr) (m : Fin 8) (z : Bool) (rm : Rounding) (sat : Bool) (d : Fin 256) (k : Fin 16)
  | vrand (h : Hdr) (m : Fin 8) (z : Bool) (unif : Bool) (d : Fin 256) (a b : Fin 16)
  | vdrain (h : Hdr) (m : Fin 8) (z : Bool) (rm : Rounding) (sat : Bool) (d za : Fin 256) (k : Fin 16)
  | vzld (h : Hdr) (m : Fin 8) (z : Bool) (zd a : Fin 256) (k : Fin 16)
  -- matrix (R173 to R186)
  | mshape (h : Hdr) (a b : ElemType) (blk : BlkMode) (sparse : Bool) (rows cols : Fin 4) (kg : BitVec 12)
  | wld (h : Hdr) (w : Fin 16) (off : BitVec 12) (d : Fin 16) (hd : Fin 64) (sparse : Bool) (len : BitVec 13)
  | mma (h : Hdr) (z a : Fin 256) (w : Fin 16) (off : BitVec 12)
  | mmas (h : Hdr) (z : Fin 256) (w d : Fin 16) (off : BitVec 12)
  | mzero (h : Hdr) (z : Fin 256)
  | mdrain (h : Hdr) (z : Fin 256) (k : Fin 16) (hd : Fin 64) (off : BitVec 22)
  | wclr (h : Hdr)
  -- stream (R287); handle 63 in `hd` means none
  | copy (h : Hdr) (hd : Fin 64) (k : Fin 16) (off : BitVec 16) (pol : Policy) (scope : Scope) (drain : Bool)
  | copyc (h : Hdr) (hd : Fin 64) (k : Fin 16) (off : BitVec 16) (pol : Policy) (scope : Scope) (drain : Bool)
  | gather (h : Hdr) (hd : Fin 64) (k : Fin 16) (off : BitVec 16) (pol : Policy) (scope : Scope) (drain : Bool)
  | scatter (h : Hdr) (hd : Fin 64) (k : Fin 16) (off : BitVec 16) (pol : Policy) (scope : Scope) (drain : Bool)
  | fill (h : Hdr) (hd : Fin 64) (k : Fin 16) (off : BitVec 16) (pol : Policy) (scope : Scope) (drain : Bool)
  | win (h : Hdr) (hd : Fin 64) (k : Fin 16) (off : BitVec 16) (pol : Policy) (scope : Scope)
  | adv (h : Hdr) (hd : Fin 64) (pol : Policy) (scope : Scope) (n : BitVec 9)
  | wend (h : Hdr) (hd : Fin 64) (pol : Policy) (scope : Scope)
  | xform (h : Hdr) (hd : Fin 64) (k : Fin 16) (off : BitVec 16) (pol : Policy) (scope : Scope) (drain : Bool)
  | xpq (h : Hdr) (hd : Fin 64) (k : Fin 16) (off : BitVec 16) (pol : Policy) (scope : Scope) (drain : Bool)
  | send (h : Hdr) (hd : Fin 64) (k : Fin 16) (off : BitVec 16) (pol : Policy) (drain : Bool)
  | recv (h : Hdr) (hd : Fin 64) (k : Fin 16) (off : BitVec 16) (pol : Policy) (drain : Bool)
  | coll (h : Hdr) (hd : Fin 64) (k : Fin 16) (off : BitVec 16) (pol : Policy) (op : CollOp) (drain : Bool)
  | cPref (h : Hdr) (k : Fin 16) (off : BitVec 16) (pol : Policy) (scope : Scope)
  | code (h : Hdr) (k : Fin 16) (off : BitVec 16) (pol : Policy) (scope : Scope)
  | cflush (h : Hdr) (hd : Fin 64) (k : Fin 16) (off : BitVec 16) (pol : Policy) (scope : Scope) (drain : Bool)
  -- events inside a core
  | phaseComplete (core : Nat)
  | transferComplete (core entry : Nat) (ext : List CollPart)
  | transferFault (core entry doneBytes : Nat)
  | loadResponse (core op : Nat)
  | codeFeedRefill (core : Nat) (e : Engine)
  | coreDeadlock (core : Nat)
  | budgetExhaustion (task : Nat)
  | budgetBoundaryTrap (core : Nat)
  -- events at the home directories (R247 to R251, R275)
  | homeLoadSi (req : Nat)
  | homeLoadWi (req : Nat)
  | homeLoadWt (req : Nat)
  | homeLoadOwn (req : Nat)
  | homeStoreWi (req : Nat)
  | homeStoreWt (req : Nat)
  | homeStoreOwn (req : Nat)
  | homeWriteback (req : Nat)
  | homeAtomic (req : Nat)
  | recall (idx : Nat)
  | invalidation (idx : Nat)
  | invalidationAck (idx : Nat)
  | l1DirtyTimeout (core line : Nat)
  | l1CleanTimeout (core line : Nat)
  | faultBufferRetry (core idx : Nat)
  -- the host's and the fabric's memory traffic (R255 to R257, R388, R312, R427)
  | hostReadShared (pa : Nat)
  | hostReadExclusive (pa : Nat)
  | hostWrite (pa : Nat) (bytes : List Byte)
  | bisnpComplete (line : Nat) (bytes : List Byte)
  | biconflict (line : Nat)
  | hostSnoop (line : Nat) (excl : Bool) (bytes : List Byte)
  | peerRequest (pkg ctx ia : Nat) (write : Bool) (bytes : List Byte)
  | fabricBlockReceive (port : Nat) (mtag : Nat) (len : Nat) (block : List Byte)
  | linkDown (port : Nat)
  -- the sluice (R325 to R347, R369 to R373)
  | prodWrite (q : Nat) (v : Word32)  -- of queue q % 1024, written by Master.ofNum (q / 1024); so is EVCONS
  | launchRecordEnqueue (q : Nat)
  | scopeOpenPacket (q : Nat)
  | scopeClosePacket (q : Nat)
  | detsetPacket (q : Nat)
  | seedPacket (q : Nat)
  | evconsWrite (q : Nat) (v : Word32)
  | sluiceSelection (die : Nat) (cores : List Nat)
  | taskRetire (task : Nat)
  | preemptionRound (die : Nat)
  | softPreemption (core : Nat)
  | hardPreemption (core : Nat)
  -- the governor and the residency manager (R201, R205, R359 to R364)
  | governorEvaluation (die : Nat)
  | statsMerge (core slot : Nat)
  | layerArrivalStart (die : Nat)
  | layerArrivalComplete (ctx layer : Nat)
  | layerArrivalFail (ctx layer : Nat) (code : Nat)
  | layerEvictionComplete (ctx layer : Nat)
  -- management writes (R357, R392 to R401, R414, R425)
  | contextValidSet (m : Master) (ctx : Nat)
  | contextValidClear (m : Master) (ctx : Nat)
  | seedWrite (m : Master) (ctx : Nat) (v : Word64)
  | sdGo (m : Master)
  | shootdownComplete
  | mgReq (m : Master)
  | mgDone (m : Master)
  | claim (m : Master)
  | handover (m : Master) (dest : BitVec 3)
  | accept (m : Master)
  | heartbeat (m : Master)
  | heartbeatExpiry
  | tcPcWrite (m : Master) (v : Word64)
  | tcActResume (m : Master)
  | tcActAbandon (m : Master)
  | logConsWrite (m : Master) (die : Nat) (v : Word32)
  | mgmtRegisterWrite (m : Master) (off : Nat) (bytes : List Byte)
  -- recovery, reset, power (R418 to R435)
  | errorEventQueued (die channel : Nat)
  | scrubRead (stack : Nat)
  | rowRepair (stack row spare : Nat)
  | powerOnReset
  | deviceReset
  | powerStep (watts temp : Nat)
  | pointChangeEnd (island : Nat)
  | tenteringPass (readings : List Reading)
  | retentionSleepEntry (island : Nat)
  | retentionWake (island : Nat)
  | spdmRequest (code : Byte) (body : List Byte)
  | firmwareUpdateWrite (m : Master) (off : Nat) (bytes : List Byte)
  -- completions and fabric set-up
  | launchPathComplete (task : Nat)
  | saveComplete (core : Nat)
  | unitReply (core : Nat)
  | fabricGroupWrite (group : Nat) (members : List Nat)
  | portTraining (port partner : Nat)
  | linkErrorRetransmitted (die channel : Nat)
  deriving DecidableEq, Repr, Inhabited

/-- The parts of a core's pool beside its data area (R22): the tiles, the accumulators, the rings and the L1. -/
inductive PoolPart where
  | tile | acc | ring (e : Engine) | l1
  deriving DecidableEq, Repr, Inhabited

/-- An error that radiation or wear puts into a memory (R415, R416, R419): into one symbol of a stored line, or a soft error
that a code of the SRAM corrected on a channel, or an uncorrectable one in a slice's line, in eight bytes of a core's data area
or weight buffer, or in an entry of another part of its pool: eight bytes of the tiles, two accumulator elements, a word of a ring or
two words of the L1. -/
inductive Upset where
  | memory (line symbol : Nat) (value : Byte)
  | corrected (die channel : Nat)
  | slice (die slice line : Nat) (dirty : Bool)
  | pool (core granule : Nat)
  | part (core : Nat) (part : PoolPart) (granule : Nat)
  | weights (core granule : Nat)
  deriving DecidableEq, Repr, Inhabited

/-- An eviction that may happen at any time: of a line by another die's slice (R253), or by a core's L1 for capacity (R244). -/
inductive Eviction where
  | slice (die line : Nat)
  | l1 (core line : Nat)
  deriving DecidableEq, Repr, Inhabited

/-- What a turn of the schedule does: one engine of one core attempts its next word, an event row acts, an error strikes, a line is
evicted, one piece of a transfer is made (R224), or a master reads the management registers (R396, R397). -/
inductive Act where
  | engine (core : Nat) (e : Engine)
  | event (i : Instr)
  | upset (u : Upset)
  | evict (x : Eviction)
  | piece (core entry k : Nat)
  | read (m : Master) (off : Nat)
  deriving DecidableEq, Repr, Inhabited

/-- A turn: the fabric cycles since the last one (R6), and what acts. -/
structure Turn where
  dt : Nat := 0
  act : Act := .engine 0 .S
  deriving DecidableEq, Repr, Inhabited

end Sys2Proof
end

