-- ==== Sys2Proof/Config.lean ====
section
/-! DEFINITION. What a package fixes (spec/01 R20 to R25, 21 R429) and the values the spec leaves open. -/

namespace Sys2Proof.Config

/-- The tree of R20: 4 dies of 32 clusters of 12 cores. -/
def dies : Nat := 4
def clustersPerDie : Nat := 32
def coresPerCluster : Nat := 12
/-- Bytes of a tile register (R24), a line and the sideband granule (R6). -/
def tileBytes : Nat := 1024
def lineBytes : Nat := 64
/-- The weight buffer's bytes (R177) and the accumulator's elements (R174). -/
def weightBytes : Nat := 262144
def accElems : Nat := 2048
/-- Depth of a token queue (R35), of the link stack (R121), of the loop stack (R120), of the issue journal (R289). -/
def queueDepth : Nat := 16
def linkDepth : Nat := 8
def loopDepth : Nat := 4
def journalDepth : Nat := 64

/-- A turn's numbers as the schedule leaves them open (R9, R230, R331; log 1): which agent moves next, when, and
with which choices. Nothing constrains it. -/
opaque freeTurn : Nat → Turn
/-- A byte the spec leaves to the outside (log 2): answers of parts the spec does not give. -/
opaque freeByte : Nat → Byte
/-- The rounding of a transcendental result whose enclosures did not separate within the precision the model
computes with (log 8). Nothing constrains it. -/
opaque freeRounding : Nat → Nat → Nat

/-- The block scale of R96 where no finite E8F2 value brings the largest magnitude down to 6 (log 74): the spec states none. -/
opaque freeBlockScale : Nat → Nat → Nat

/-- The row of a stack's offset, by the offset of its first line (R420; log 16): the spec gives no row geometry. -/
opaque rowOf : Nat → Nat → Nat
/-- The bank of a stack that holds a row (R420; log 16). -/
opaque bankOf : Nat → Nat → Nat
/-- Whether the firmware and configuration images verify at a reset (R402, R404; log 17). -/
opaque imagesVerify : Nat → Bool
/-- Value `k` that an image written through the firmware window supplies: the spec gives the image no format (R404; log 17). -/
opaque imageValue : List (Nat × Byte) → Nat → Nat
/-- Byte `i` of the SHA-384 digest of some bytes (R403; log 18): no property of the digest is used. -/
opaque digest : List Byte → Nat → Byte

end Sys2Proof.Config
end

