-- ==== Sys2Proof/Decode.lean ====
section
/-! DEFINITION. Reading a 64-bit command word as an instruction or an illegal encoding (spec/02 R32 to R69), and the
encoder written from the same tables. The checks that need the machine's state (R68 from its fourth item on) stand in
Machine/Ops.lean. -/

namespace Sys2Proof

/-- Why a word is no instruction, before any state is looked at: the first three subcodes of R69, the last two with
the lowest bit of the offending field. -/
inductive Illegal where
  | reservedOp
  | reservedBit (pos : Nat)
  | reservedValue (pos : Nat)
  deriving DecidableEq, Repr

/-! ### Coded fields (R49 to R52) -/

/-- R49. -/
def Scope.code : Scope → Nat
  | .core => 0 | .clu => 1 | .die => 2 | .pkg => 3 | .sys => 4
def Scope.ofCode : Nat → Scope
  | 0 => .core | 1 => .clu | 2 => .die | 3 => .pkg | _ => .sys
/-- R50. -/
def Policy.code : Policy → Nat
  | .si => 0 | .wi => 1 | .wt => 2 | .own => 3
def Policy.ofCode : Nat → Policy
  | 0 => .si | 1 => .wi | 2 => .wt | _ => .own
/-- R51. -/
def Rounding.code : Rounding → Nat
  | .rne => 0 | .rz => 1 | .rup => 2 | .rdn => 3 | .rna => 4
def Rounding.ofCode : Nat → Rounding
  | 0 => .rne | 1 => .rz | 2 => .rup | 3 => .rdn | _ => .rna
/-- R52. -/
def ElemType.code : ElemType → Nat
  | .f32 => 0 | .bf16 => 1 | .f16 => 2 | .e4m3 => 3 | .e5m2 => 4 | .e2m1 => 5 | .i8 => 6 | .n8 => 7
  | .i16 => 8 | .n16 => 9 | .i32 => 10 | .n32 => 11 | .i64 => 12 | .n64 => 13 | .i4 => 14 | .e8m0 => 15
  | .e8f2 => 16
  | .b8 p ext uns => 0x20 + (if uns then 0x10 else 0) + (if ext then 0x08 else 0) + (p.val + 1)
/-- R52: the type of a code, none for a reserved one. -/
def ElemType.ofCode? (n : Nat) : Option ElemType :=
  if n < 0x20 then
    [.f32, .bf16, .f16, .e4m3, .e5m2, .e2m1, .i8, .n8, .i16, .n16, .i32, .n32, .i64, .n64, .i4, .e8m0, .e8f2][n]?
  else if n < 0x40 ∧ n % 8 ≠ 0 then
    some (.b8 (Fin.ofNat 7 (n % 8 - 1)) (n / 8 % 2 == 1) (n / 16 % 2 == 1))
  else none
def ElemType.ofCode (n : Nat) : ElemType := (ElemType.ofCode? n).getD .f32
def ElemType.codeOk (n : Nat) : Bool := (ElemType.ofCode? n).isSome
/-- R131. -/
def IntCond.code : IntCond → Nat
  | .eq => 0 | .ne => 1 | .lt => 2 | .ge => 3 | .ltu => 4 | .geu => 5 | .le => 6 | .gt => 7 | .leu => 8 | .gtu => 9
def IntCond.ofCode : Nat → IntCond
  | 0 => .eq | 1 => .ne | 2 => .lt | 3 => .ge | 4 => .ltu | 5 => .geu | 6 => .le | 7 => .gt | 8 => .leu | _ => .gtu
/-- R137. -/
def FpCond.code : FpCond → Nat
  | .eq => 0 | .lt => 1 | .le => 2 | .un => 3
def FpCond.ofCode : Nat → FpCond
  | 0 => .eq | 1 => .lt | 2 => .le | _ => .un
/-- R155. -/
def VecCond.code : VecCond → Nat
  | .eq => 0 | .ne => 1 | .lt => 2 | .ge => 3 | .le => 4 | .gt => 5 | .un => 6 | .ord => 7
def VecCond.ofCode : Nat → VecCond
  | 0 => .eq | 1 => .ne | 2 => .lt | 3 => .ge | 4 => .le | 5 => .gt | 6 => .un | _ => .ord
/-- R136. -/
def Conv.code : Conv → Nat
  | .f32i32 => 0 | .f32n32 => 1 | .f32i64 => 2 | .f32n64 => 3 | .i32f32 => 4 | .n32f32 => 5 | .i64f32 => 6
  | .n64f32 => 7 | .f32f16 => 8 | .f16f32 => 9 | .f32bf16 => 10 | .bf16f32 => 11 | .f32rint => 12
def Conv.ofCode : Nat → Conv
  | 0 => .f32i32 | 1 => .f32n32 | 2 => .f32i64 | 3 => .f32n64 | 4 => .i32f32 | 5 => .n32f32 | 6 => .i64f32
  | 7 => .n64f32 | 8 => .f32f16 | 9 => .f16f32 | 10 => .f32bf16 | 11 => .bf16f32 | _ => .f32rint
/-- R62. -/
def Aop.code : Aop → Nat
  | .add w => 0 + w.toNat | .and w => 2 + w.toNat | .or w => 4 + w.toNat | .xor w => 6 + w.toNat
  | .mins w => 8 + w.toNat | .maxs w => 10 + w.toNat | .minu w => 12 + w.toNat | .maxu w => 14 + w.toNat
  | .xchg w => 16 + w.toNat
  | .fadd => 18 | .bfadd2 => 19 | .fmin => 20 | .fmax => 21 | .fminnum => 22 | .fmaxnum => 23
def Aop.ofCode (n : Nat) : Aop :=
  let w := n % 2 == 1
  match n / 2 with
  | 0 => .add w | 1 => .and w | 2 => .or w | 3 => .xor w | 4 => .mins w | 5 => .maxs w | 6 => .minu w
  | 7 => .maxu w | 8 => .xchg w
  | 9 => if w then .bfadd2 else .fadd
  | 10 => if w then .fmax else .fmin
  | _ => if w then .fmaxnum else .fminnum
/-- The order field of format SA (R56). -/
def AtomOrder.code : AtomOrder → Nat
  | .none => 0 | .acq => 1 | .rel => 2 | .ar => 3
def AtomOrder.ofCode : Nat → AtomOrder
  | 0 => .none | 1 => .acq | 2 => .rel | _ => .ar
/-- The kind field of FENCE (R53). -/
def FenceKind.code : FenceKind → Nat
  | .acq => 1 | .rel => 2 | .ar => 3
def FenceKind.ofCode : Nat → FenceKind
  | 1 => .acq | 2 => .rel | _ => .ar
/-- Access sizes of format SM (R56). -/
def Size.code : Size → Nat
  | .b1 => 0 | .b2 => 1 | .b4 => 2 | .b8 => 3
def Size.ofCode : Nat → Size
  | 0 => .b1 | 1 => .b2 | 2 => .b4 | _ => .b8
/-- Block-scale modes of format MS (R58). -/
def BlkMode.code : BlkMode → Nat
  | .none => 0 | .e8m0 => 1 | .e8f2 => 2
def BlkMode.ofCode : Nat → BlkMode
  | 0 => .none | 1 => .e8m0 | _ => .e8f2
/-- COLL's op (R287). -/
def CollOp.code : CollOp → Nat
  | .sum => 0 | .max => 1 | .agree => 2
def CollOp.ofCode : Nat → CollOp
  | 0 => .sum | 1 => .max | _ => .agree

/-! ### WAIT and SIGNAL (R33, R34) -/

def Wait.code : Wait → Nat
  | .none => 0
  | .pop c q => 0x40 + c.val * 16 + q.val
  | .full h => 0x80 + h.val
  | .free h => 0xC0 + h.val
def Wait.ofCode (n : Nat) : Wait :=
  match n / 64 with
  | 0 => .none
  | 1 => .pop (Fin.ofNat 4 (n / 16)) (Fin.ofNat 16 n)
  | 2 => .full (Fin.ofNat 64 n)
  | _ => .free (Fin.ofNat 64 n)
def Signal.code : Signal → Nat
  | .none => 0
  | .push c q => 0x40 + c.val * 16 + q.val
  | .release h => 0x80 + h.val
  | .arm h => 0xC0 + h.val
def Signal.ofCode (n : Nat) : Signal :=
  match n / 64 with
  | 0 => .none
  | 1 => .push (Fin.ofNat 4 (n / 16)) (Fin.ofNat 16 n)
  | 2 => .release (Fin.ofNat 64 n)
  | _ => .arm (Fin.ofNat 64 n)

/-! ### Field layouts -/

/-- One field of the 40 operand bits, listed from bit 0 upwards: its width, whether it must be zero (R68, subcode
0x02), and which of its values are legal (subcode 0x03). -/
structure Field where
  width : Nat
  zero : Bool := false
  ok : Nat → Bool := fun _ => true

namespace Layout

def any (w : Nat) : Field := { width := w }
def zero (w : Nat) : Field := { width := w, zero := true }
/-- A field whose values lie below `n`. -/
def below (w n : Nat) : Field := { width := w, ok := fun v => decide (v < n) }
def coded (w : Nat) (ok : Nat → Bool) : Field := { width := w, ok := ok }
def rounding : Field := below 3 5
def scope : Field := below 3 5
def elemType : Field := coded 6 ElemType.codeOk

end Layout

/-- The values of consecutive fields of the given widths, from bit 0 of `n` upwards. -/
def unpackFields : List Nat → Nat → List Nat
  | [], _ => []
  | w :: ws, n => n % 2 ^ w :: unpackFields ws (n / 2 ^ w)

/-- The number whose consecutive fields, from bit 0 upwards, have these widths and values. -/
def packFields : List (Nat × Nat) → Nat
  | [] => 0
  | (w, v) :: fs => v % 2 ^ w + 2 ^ w * packFields fs

/-- The lowest bits of the must-be-zero fields that are not zero. -/
def zeroOffences : Nat → List Field → List Nat → List Nat
  | pos, f :: fs, v :: vs =>
    (if f.zero && v != 0 then [pos] else []) ++ zeroOffences (pos + f.width) fs vs
  | _, _, _ => []

/-- The lowest bits of the fields that hold a reserved value. -/
def valueOffences : Nat → List Field → List Nat → List Nat
  | pos, f :: fs, v :: vs =>
    (if !f.zero && !f.ok v then [pos] else []) ++ valueOffences (pos + f.width) fs vs
  | _, _, _ => []

/-- One opcode of an engine: its fields, the offences that several fields make together (lowest bits, subcodes 0x02
and 0x03), and the instruction its field values name. -/
structure Row where
  op : Nat
  fields : List Field
  zeros : List Nat → List Nat := fun _ => []
  bads : List Nat → List Nat := fun _ => []
  build : Wait → Signal → List Nat → Instr

/-- The header of a word of V, M or C, whose guard is p0 (R53). -/
def Hdr.plain (w : Wait) (s : Signal) : Hdr := ⟨w, s, 0, false⟩
/-- The header of an S word with a guard and its inversion. -/
def Hdr.guarded (w : Wait) (s : Signal) (g n : Nat) : Hdr := ⟨w, s, Fin.ofNat 8 g, n == 1⟩
/-- The header of an XC word, whose top four operand bits hold guard and inversion on S (R53). -/
def Hdr.ctl (w : Wait) (s : Signal) (gn : Nat) : Hdr := ⟨w, s, Fin.ofNat 8 (gn / 2), gn % 2 == 1⟩

namespace Rows

open Layout

abbrev r5 (n : Nat) : Fin 32 := Fin.ofNat 32 n
abbrev p3 (n : Nat) : Fin 8 := Fin.ofNat 8 n
abbrev k4 (n : Nat) : Fin 16 := Fin.ofNat 16 n
abbrev t8 (n : Nat) : Fin 256 := Fin.ofNat 256 n
abbrev h6 (n : Nat) : Fin 64 := Fin.ofNat 64 n

/-- What a row builds from field values that are not as many as its fields; never met by `decode`. -/
def noWord : Instr := .nop .S ⟨.none, .none, 0, false⟩

/-! #### Format XC, XB (R53, R54), on every engine -/

/-- XC bits [39:36]. -/
def gn (e : Engine) : Field := if e = .S then any 4 else zero 4
/-- The top bit of a 5-bit register field of XC (R53). -/
def top (e : Engine) : Field := if e = .S then any 1 else zero 1

def ctlPlain (e : Engine) (op : Nat) (mk : Hdr → Instr) : Row :=
  { op, fields := [zero 36, gn e],
    build := fun w s vs => match vs with | [_, g] => mk (.ctl w s g) | _ => noWord }

def ctlCode (e : Engine) (op : Nat) (mk : Hdr → BitVec 16 → Instr) : Row :=
  { op, fields := [any 16, zero 20, gn e],
    build := fun w s vs => match vs with | [c, _, g] => mk (.ctl w s g) (BitVec.ofNat 16 c) | _ => noWord }

def loopRow (e : Engine) : Row :=
  { op := 0x02, fields := [any 5, any 14, coded 13 (fun v => v != 0), zero 3, any 1, gn e],
    zeros := fun vs => match vs with
      | [lo, hi, _, _, src, _] =>
        (if src = 1 ∧ hi ≠ 0 then [5] else []) ++ (if src = 1 ∧ e ≠ .S ∧ 16 ≤ lo then [4] else [])
      | _ => [],
    build := fun w s vs => match vs with
      | [lo, hi, len, _, src, g] =>
        .loop e (.ctl w s g) (BitVec.ofNat 13 len)
          (if src = 1 then .reg (r5 lo) else .imm (BitVec.ofNat 19 (lo + 32 * hi)))
      | _ => noWord }

def tokRow (e : Engine) : Row :=
  { op := 0x06, fields := [zero 26, any 4, top e, any 4, any 1, gn e],
    build := fun w s vs => match vs with
      | [_, r, rt, q, dir, g] => .tok e (.ctl w s g) (dir == 1) (k4 q) (r5 (r + 16 * rt))
      | _ => noWord }

def hsetRow (e : Engine) : Row :=
  { op := 0x07, fields := [zero 20, any 4, top e, any 4, top e, any 6, gn e],
    build := fun w s vs => match vs with
      | [_, c, ct, b, bt, hd, g] => .hset e (.ctl w s g) (h6 hd) (r5 (b + 16 * bt)) (r5 (c + 16 * ct))
      | _ => noWord }

def hwaitRow (e : Engine) : Row :=
  { op := 0x08, fields := [zero 29, any 1, any 6, gn e],
    build := fun w s vs => match vs with
      | [_, st, hd, g] => .hwait e (.ctl w s g) (h6 hd) (st == 1)
      | _ => noWord }

def safeRow (e : Engine) : Row :=
  { op := 0x09, fields := [zero 12, any 16, any 8, gn e],
    build := fun w s vs => match vs with
      | [_, m, gr, g] => .safe e (.ctl w s g) (BitVec.ofNat 8 gr) (BitVec.ofNat 16 m)
      | _ => noWord }

def fenceRow (e : Engine) : Row :=
  { op := 0x0B, fields := [zero 31, scope, coded 2 (fun v => v != 0), gn e],
    build := fun w s vs => match vs with
      | [_, sc, k, g] => .fence e (.ctl w s g) (.ofCode k) (.ofCode sc)
      | _ => noWord }

def sysRow (e : Engine) (op : Nat) (mk : Hdr → Fin 32 → Nat → Instr) : Row :=
  { op, fields := [zero 19, any 12, any 4, top e, gn e],
    build := fun w s vs => match vs with
      | [_, num, r, rt, g] => mk (.ctl w s g) (r5 (r + 16 * rt)) num
      | _ => noWord }

/-- SWR by register number: the rows of the table that name one register of R67, and SWR for every other. -/
def swrOf (e : Engine) (h : Hdr) (r : Fin 32) (num : Nat) : Instr :=
  if num = 0x022 then .flagsWrite e h r
  else if 0x030 ≤ num ∧ num ≤ 0x034 then .trapRegisterWrite e h r (Fin.ofNat 5 (num - 0x030))
  else if num = 0x100 then .chHashWrite e h r
  else if num = 0x101 then .pcHashWrite e h r
  else if num = 0x102 then .preemptWaitWrite e h r
  else .swr e h r (BitVec.ofNat 12 num)

/-- BR and CALL of V, M and C (format XB, R54). -/
def xbRow (op : Nat) (mk : Hdr → XbCond → Bool → BitVec 32 → Instr) : Row :=
  { op, fields := [any 32, any 1, zero 1, below 2 3, any 4],
    zeros := fun vs => match vs with | [_, _, _, c, k] => if c = 2 ∧ k ≠ 0 then [36] else [] | _ => [],
    build := fun w s vs => match vs with
      | [off, kind, _, c, k] =>
        mk (.plain w s) (if c = 0 then .zero (k4 k) else if c = 1 then .nonzero (k4 k) else .always) (kind == 1)
          (BitVec.ofNat 32 off)
      | _ => noWord }

/-- BR and CALL of S (format SB, R54, R56). -/
def sbRow (op : Nat) (mk : Hdr → Bool → BitVec 32 → Instr) : Row :=
  { op, fields := [any 32, below 4 2, any 4],
    build := fun w s vs => match vs with
      | [off, kind, g] => mk (.ctl w s g) (kind == 1) (BitVec.ofNat 32 off)
      | _ => noWord }

/-- The shared control opcodes but BR and CALL (R60, R118). -/
def control (e : Engine) : List Row :=
  [ctlPlain e 0x00 (.nop e), ctlPlain e 0x01 (.endw e), loopRow e, ctlPlain e 0x05 (.ret e), tokRow e, hsetRow e,
   hwaitRow e, safeRow e, ctlCode e 0x0A (.trap e), fenceRow e,
   sysRow e 0x0C (fun h r num => .srd e h r (BitVec.ofNat 12 num)), sysRow e 0x0D (swrOf e),
   ctlCode e 0x0E (.brk e), ctlCode e 0x0F (.pause e)]

/-- The index-register block of V, M and C (R55, R60, R126). -/
def xk (op : Nat) (mk : Hdr → Fin 16 → Fin 16 → Fin 16 → Instr) : Row :=
  { op, fields := [zero 28, any 4, any 4, any 4],
    build := fun w s vs => match vs with
      | [_, b, a, d] => mk (.plain w s) (k4 d) (k4 a) (k4 b)
      | _ => noWord }

def indexBlock (e : Engine) : List Row :=
  [xbRow 0x03 (.brXb e), xbRow 0x04 (.callXb e),
   { op := 0x10, fields := [any 32, zero 4, any 4],
     build := fun w s vs => match vs with
       | [imm, _, d] => .kli e (.plain w s) (k4 d) (BitVec.ofNat 32 imm)
       | _ => noWord },
   { op := 0x11, fields := [any 32, any 4, any 4],
     build := fun w s vs => match vs with
       | [imm, a, d] => .kaddi e (.plain w s) (k4 d) (k4 a) (BitVec.ofNat 32 imm)
       | _ => noWord },
   xk 0x12 (.kadd e), xk 0x13 (.ksub e), xk 0x14 (.kmul e), xk 0x15 (.kshl e), xk 0x16 (.kshr e), xk 0x17 (.kand e)]

/-! #### Format SR (R56): d, a, b, guard, negate, fn, with [15:0] zero -/

/-- An SR word whose fn is split into `fl` and `fh` and whose d, a and b fields are split into their low and high
parts, so that each part has its own check. -/
def sr (op : Nat) (fl fh b a dl dh : Field) (zeros : List Nat → List Nat)
    (mk : Hdr → (fl fh b a d : Nat) → Instr) : Row :=
  { op, fields := [zero 16, fl, fh, any 1, any 3, b, a, dl, dh], zeros,
    build := fun w s vs => match vs with
      | [_, fl, fh, n, g, b, a, d, dh'] => mk (.guarded w s g n) fl fh b a (d + 2 ^ dl.width * dh')
      | _ => noWord }

def noZeros : List Nat → List Nat := fun _ => []

/-- d, a, b with no fn. -/
def srDab (op : Nat) (mk : Hdr → Fin 32 → Fin 32 → Fin 32 → Instr) : Row :=
  sr op (zero 5) (any 0) (any 5) (any 5) (any 5) (any 0) noZeros (fun h _ _ b a d => mk h (r5 d) (r5 a) (r5 b))
/-- d, a, b with the signedness in fn[0] (R119). -/
def srSign (op : Nat) (mk : Hdr → Bool → Fin 32 → Fin 32 → Fin 32 → Instr) : Row :=
  sr op (any 1) (zero 4) (any 5) (any 5) (any 5) (any 0) noZeros
    (fun h u _ b a d => mk h (u == 1) (r5 d) (r5 a) (r5 b))
/-- d, a with no b and no fn. -/
def srDa (op : Nat) (mk : Hdr → Fin 32 → Fin 32 → Instr) : Row :=
  sr op (zero 5) (any 0) (zero 5) (any 5) (any 5) (any 0) noZeros (fun h _ _ _ a d => mk h (r5 d) (r5 a))
/-- a alone. -/
def srA (op : Nat) (mk : Hdr → Fin 32 → Instr) : Row :=
  sr op (zero 5) (any 0) (zero 5) (any 5) (zero 5) (any 0) noZeros (fun h _ _ _ a _ => mk h (r5 a))
/-- d, a, b with rounding and .sat in fn (R135). -/
def srFp (op : Nat) (mk : Hdr → Rounding → Bool → Fin 32 → Fin 32 → Fin 32 → Instr) : Row :=
  { op, fields := [zero 16, rounding, any 1, zero 1, any 1, any 3, any 5, any 5, any 5],
    build := fun w s vs => match vs with
      | [_, rm, sat, _, n, g, b, a, d] => mk (.guarded w s g n) (.ofCode rm) (sat == 1) (r5 d) (r5 a) (r5 b)
      | _ => noWord }

def scalarInteger : List Row :=
  [srDab 0x10 .add, srDab 0x11 .sub, srDab 0x12 .mul, srSign 0x13 .mulh, srSign 0x14 .div, srSign 0x15 .rem,
   srDab 0x16 .and, srDab 0x17 .or, srDab 0x18 .xor, srDab 0x19 .andn, srDab 0x1A .shl, srDab 0x1B .shr,
   srDab 0x1C .sar, srDab 0x1D .rotr, srSign 0x1E .min, srSign 0x1F .max, srDa 0x20 .clz, srDa 0x21 .ctz,
   srDa 0x22 .popc,
   sr 0x23 (any 3) (zero 2) (any 5) (any 5) (any 5) (any 0) noZeros
     (fun h p _ b a d => .sel h (r5 d) (r5 a) (r5 b) (p3 p)),
   srSign 0x24 .bfx, srDab 0x25 .bfi]

/-- Format SI (R56). -/
def si (op : Nat) (mk : Hdr → Fin 32 → Fin 32 → BitVec 27 → Instr) : Row :=
  { op, fields := [any 27, any 3, any 5, any 5],
    build := fun w s vs => match vs with
      | [imm, g, a, d] => mk (.guarded w s g 0) (r5 d) (r5 a) (BitVec.ofNat 27 imm)
      | _ => noWord }
/-- SHLI, SHRI, SARI: imm27[26:6] zero (R130). -/
def siShift (op : Nat) (mk : Hdr → Fin 32 → Fin 32 → Fin 64 → Instr) : Row :=
  { op, fields := [any 6, zero 21, any 3, any 5, any 5],
    build := fun w s vs => match vs with
      | [n, _, g, a, d] => mk (.guarded w s g 0) (r5 d) (r5 a) (h6 n)
      | _ => noWord }
/-- Format SL (R56). -/
def sl (op : Nat) (mk : Hdr → Fin 32 → BitVec 32 → Instr) : Row :=
  { op, fields := [any 32, any 3, any 5],
    build := fun w s vs => match vs with
      | [imm, g, d] => mk (.guarded w s g 0) (r5 d) (BitVec.ofNat 32 imm)
      | _ => noWord }

def scalarImmediate : List Row :=
  [si 0x30 .addi, si 0x31 .andi, si 0x32 .ori, si 0x33 .xori, siShift 0x34 .shli, siShift 0x35 .shri,
   siShift 0x36 .sari, sl 0x37 .li, sl 0x38 .lih, si 0x39 .muli]

def scalarCompare : List Row :=
  [sr 0x40 (below 4 10) (zero 1) (any 5) (any 5) (any 3) (zero 2) noZeros
     (fun h c _ b a d => .cmp h (.ofCode c) (p3 d) (r5 a) (r5 b)),
   { op := 0x41, fields := [any 23, below 4 10, any 3, any 5, any 3, zero 2],
     build := fun w s vs => match vs with
       | [imm, c, g, a, d, _] => .cmpi (.guarded w s g 0) (.ofCode c) (p3 d) (r5 a) (BitVec.ofNat 23 imm)
       | _ => noWord },
   { op := 0x42, fields := [zero 16, any 4, zero 1, any 1, any 3, any 3, zero 2, any 3, zero 2, any 3, zero 2],
     build := fun w s vs => match vs with
       | [_, f, _, n, g, b, _, a, _, d, _] => .pset (.guarded w s g n) (p3 d) (p3 a) (p3 b) (BitVec.ofNat 4 f)
       | _ => noWord },
   { op := 0x43, fields := [zero 16, any 1, zero 4, any 1, any 3, zero 5, any 3, any 2, any 3, any 2],
     zeros := fun vs => match vs with
       | [_, f, _, _, _, _, _, ah, _, dh] =>
         (if f = 1 ∧ ah ≠ 0 then [33] else []) ++ (if f = 0 ∧ dh ≠ 0 then [38] else [])
       | _ => [],
     build := fun w s vs => match vs with
       | [_, f, _, n, g, _, al, ah, dl, dh] =>
         if f = 1 then .pmov (.guarded w s g n) true (p3 al) (r5 (dl + 8 * dh))
         else .pmov (.guarded w s g n) false (p3 dl) (r5 (al + 8 * ah))
       | _ => noWord },
   sr 0x48 (zero 5) (any 0) (zero 5) (any 5) (zero 5) (any 0) noZeros (fun h _ _ _ a _ => .brx h (r5 a))]

def scalarFloat : List Row :=
  [srFp 0x50 .fadd, srFp 0x51 .fsub, srFp 0x52 .fmul, srFp 0x53 .ffma, srDab 0x54 .fmin, srDab 0x55 .fmax,
   sr 0x56 (zero 3) (any 2) (any 5) (any 5) (any 3) (zero 2) noZeros
     (fun h _ c b a d => .fcmp h (.ofCode c) (p3 d) (r5 a) (r5 b)),
   { op := 0x57, fields := [zero 16, rounding, any 1, zero 1, any 1, any 3, below 5 13, any 5, any 5],
     build := fun w s vs => match vs with
       | [_, rm, sat, _, n, g, c, a, d] =>
         .fcvt (.guarded w s g n) (.ofCode rm) (sat == 1) (.ofCode c) (r5 d) (r5 a)
       | _ => noWord },
   srFp 0x58 .fdiv,
   { op := 0x59, fields := [zero 16, rounding, any 1, zero 1, any 1, any 3, zero 5, any 5, any 5],
     build := fun w s vs => match vs with
       | [_, rm, sat, _, n, g, _, a, d] => .fsqrt (.guarded w s g n) (.ofCode rm) (sat == 1) (r5 d) (r5 a)
       | _ => noWord }]

/-! #### Formats SM and SA (R56) -/

/-- Format SM with its check fields for bit 18, scope, policy and data. -/
def sm (op : Nat) (b18 sc pol data : Field) (mk : Hdr → (off b18 size sc pol base data : Nat) → Instr) : Row :=
  { op, fields := [any 18, b18, below 3 4, any 3, sc, pol, any 5, data],
    build := fun w s vs => match vs with
      | [off, b, sz, g, sc, pol, base, data] => mk (.guarded w s g 0) off b sz sc pol base data
      | _ => noWord }

def sa (op : Nat) (ord sc pol aop d : Field)
    (mk : Hdr → (off ord sc pol aop b base d : Nat) → Instr) : Row :=
  { op, fields := [any 9, ord, sc, pol, aop, any 1, any 3, any 5, any 5, d],
    build := fun w s vs => match vs with
      | [off, ord, sc, pol, aop, n, g, b, base, d] => mk (.guarded w s g n) off ord sc pol aop b base d
      | _ => noWord }

def scalarMemory : List Row :=
  [sm 0x60 (any 1) scope (any 2) (any 5) (fun h off b sz sc pol base d =>
     .ld h (.ofCode pol) (.ofCode sc) (.ofCode sz) (b == 1) (r5 d) (r5 base) (BitVec.ofNat 18 off)),
   sm 0x61 (zero 1) scope (any 2) (any 5) (fun h off _ sz sc pol base d =>
     .st h (.ofCode pol) (.ofCode sc) (.ofCode sz) (r5 d) (r5 base) (BitVec.ofNat 18 off)),
   sm 0x62 (any 1) (zero 3) (zero 2) (any 5) (fun h off b sz _ _ base d =>
     .lds h (.ofCode sz) (b == 1) (r5 d) (r5 base) (BitVec.ofNat 18 off)),
   sm 0x63 (zero 1) (zero 3) (zero 2) (any 5) (fun h off _ sz _ _ base d =>
     .sts h (.ofCode sz) (r5 d) (r5 base) (BitVec.ofNat 18 off)),
   sm 0x64 (zero 1) (zero 3) (any 2) (zero 5) (fun h off _ sz _ pol base _ =>
     .sPref h (.ofCode pol) (.ofCode sz) (r5 base) (BitVec.ofNat 18 off)),
   { op := 0x65, fields := [any 18, zero 1, zero 3, any 3, zero 3, zero 2, any 5, zero 5],
     build := fun w s vs => match vs with
       | [off, _, _, g, _, _, base, _] => .flush (.guarded w s g 0) (r5 base) (BitVec.ofNat 18 off)
       | _ => noWord },
   sa 0x68 (any 2) scope (any 2) (below 5 0x18) (any 5) (fun h off ord sc pol aop b base d =>
     .atom h (.ofCode aop) (.ofCode pol) (.ofCode sc) (.ofCode ord) (r5 d) (r5 base) (r5 b) (BitVec.ofNat 9 off)),
   sa 0x69 (coded 2 (fun v => v % 2 == 0)) scope (any 2) (below 5 0x18) (zero 5)
     (fun h off ord sc pol aop b base _ =>
       .red h (.ofCode aop) (.ofCode pol) (.ofCode sc) (ord == 2) (r5 base) (r5 b) (BitVec.ofNat 9 off)),
   sa 0x6A (any 2) scope (any 2) (below 5 2) (any 5) (fun h off ord sc pol aop b base d =>
     .cas h (aop == 1) (.ofCode pol) (.ofCode sc) (.ofCode ord) (r5 d) (r5 base) (r5 b) (BitVec.ofNat 9 off)),
   sa 0x6B (any 2) (zero 3) (zero 2) (below 5 0x18) (any 5) (fun h off ord _ _ aop b base d =>
     .atoms h (.ofCode aop) (.ofCode ord) (r5 d) (r5 base) (r5 b) (BitVec.ofNat 9 off))]

/-! #### The task, layer, queue and governor words, TIME and ERET (R348, R366, R367, R374, R214, R138, R139) -/

def qctl (op : Nat) (h : Hdr) (d a b : Fin 32) : Instr :=
  match op with
  | 0 => .qctlSetprio h d a b | 1 => .qctlDetset h d a b | 2 => .qctlSeed h d a b | _ => .qctlQread h d a b

def scalarSystem : List Row :=
  [srDab 0x70 .launch, srDa 0x71 .fsopen, srDa 0x72 .fsclose, srDa 0x73 .fswait, srDa 0x74 .fstest, srA 0x75 .lwait,
   sr 0x76 (any 1) (zero 4) (zero 5) (any 5) (any 5) (any 0) noZeros
     (fun h r _ _ a d => .lpin h (r == 1) (r5 d) (r5 a)),
   srDa 0x77 .lunpin, srA 0x78 .phase,
   sr 0x79 (below 3 4) (zero 2) (any 5) (any 5) (any 5) (any 0) noZeros
     (fun h op _ b a d => qctl op h (r5 d) (r5 a) (r5 b)),
   sr 0x80 (any 1) (zero 4) (zero 5) (any 5) (any 5) (any 0) noZeros
     (fun h r _ _ a d => .goveval h (r == 1) (r5 d) (r5 a)),
   sr 0x81 (below 3 3) (zero 2) (any 5) (any 5) (any 5) (any 0)
     (fun vs => match vs with
       | [_, item, _, _, _, b, _, _, _] => if item ≠ 2 ∧ b ≠ 0 then [25] else []
       | _ => [])
     (fun h item _ b a d =>
       .govrd h (if item = 0 then .hdr else if item = 1 then .wslot else .slot (r5 b)) (r5 d) (r5 a)),
   srA 0x82 .govhold, srA 0x83 .govrel,
   sr 0x90 (zero 5) (any 0) (zero 5) (zero 5) (any 5) (any 0) noZeros (fun h _ _ _ _ d => .time h (r5 d)),
   sr 0x91 (zero 5) (any 0) (zero 5) (zero 5) (zero 5) (any 0) noZeros (fun h _ _ _ _ _ => .eret h)]

/-! #### Vector formats (R57, R148) -/

/-- A VR word whose fn, mask, c, b, a and d fields are split in two where R148 uses only a part. -/
structure VrFields where
  fl : Field := zero 3
  fh : Field := zero 1
  z : Field := any 1
  m : Field := any 3
  cl : Field := zero 8
  ch : Field := any 0
  bl : Field := zero 8
  bh : Field := any 0
  al : Field := any 8
  ah : Field := any 0
  dl : Field := any 8
  dh : Field := any 0

def vr (op : Nat) (f : VrFields) (mk : Wait → Signal → (fl fh z m c b a d : Nat) → Instr)
    (zeros bads : List Nat → List Nat := noZeros) : Row :=
  { op, fields := [f.fl, f.fh, f.z, f.m, f.cl, f.ch, f.bl, f.bh, f.al, f.ah, f.dl, f.dh], zeros, bads,
    build := fun w s vs => match vs with
      | [fl, fh, z, m, c, _, b, _, a, _, d, _] => mk w s fl fh z m c b a d
      | _ => noWord }

/-- The four fn bits unused: one field of R148's dash. -/
def noFn : VrFields := { fl := zero 4, fh := any 0 }
/-- fn[3] .sat and fn[2:0] a rounding field ("rs" of R148). -/
def fnRs : VrFields := { fl := rounding, fh := any 1 }
/-- fn[3] .sat and fn[2:0] zero ("s" of R148). -/
def fnS : VrFields := { fl := zero 3, fh := any 1 }

def vr1 (op : Nat) (mk : Hdr → Fin 8 → Bool → Fin 256 → Fin 256 → Instr) : Row :=
  vr op noFn (fun w s _ _ z m _ _ a d => mk (.plain w s) (p3 m) (z == 1) (t8 d) (t8 a))
def vr2 (op : Nat) (mk : Hdr → Fin 8 → Bool → Fin 256 → Fin 256 → Fin 256 → Instr) : Row :=
  vr op { noFn with bl := any 8 } (fun w s _ _ z m _ b a d => mk (.plain w s) (p3 m) (z == 1) (t8 d) (t8 a) (t8 b))
def vr2rs (op : Nat)
    (mk : Hdr → Fin 8 → Bool → Rounding → Bool → Fin 256 → Fin 256 → Fin 256 → Instr) : Row :=
  vr op { fnRs with bl := any 8 } (fun w s rm sat z m _ b a d =>
    mk (.plain w s) (p3 m) (z == 1) (.ofCode rm) (sat == 1) (t8 d) (t8 a) (t8 b))
def vr3rs (op : Nat)
    (mk : Hdr → Fin 8 → Bool → Rounding → Bool → Fin 256 → Fin 256 → Fin 256 → Fin 256 → Instr) : Row :=
  vr op { fnRs with bl := any 8, cl := any 8 } (fun w s rm sat z m c b a d =>
    mk (.plain w s) (p3 m) (z == 1) (.ofCode rm) (sat == 1) (t8 d) (t8 a) (t8 b) (t8 c))
def vr1s (op : Nat) (mk : Hdr → Fin 8 → Bool → Bool → Fin 256 → Fin 256 → Instr) : Row :=
  vr op fnS (fun w s _ sat z m _ _ a d => mk (.plain w s) (p3 m) (z == 1) (sat == 1) (t8 d) (t8 a))
def vr2s (op : Nat) (mk : Hdr → Fin 8 → Bool → Bool → Fin 256 → Fin 256 → Fin 256 → Instr) : Row :=
  vr op { fnS with bl := any 8 } (fun w s _ sat z m _ b a d =>
    mk (.plain w s) (p3 m) (z == 1) (sat == 1) (t8 d) (t8 a) (t8 b))

/-- Format VM (R57); VLDQ's handle is mandatory (R169). -/
def vm (op : Nat) (needHandle : Bool) (mk : Hdr → Fin 256 → Fin 16 → Fin 64 → BitVec 22 → Instr) : Row :=
  { op, fields := [any 22, any 6, any 4, any 8],
    zeros := fun vs => match vs with
      | [_, hd, _, _] => if needHandle ∧ hd = 63 then [22] else []
      | _ => [],
    build := fun w s vs => match vs with
      | [off, hd, k, t] => mk (.plain w s) (t8 t) (k4 k) (h6 hd) (BitVec.ofNat 22 off)
      | _ => noWord }

/-- Format VX (R57): policy, scope and .inv are zero in space 0; only a gather carries .inv (R152). -/
def vx (op : Nat) (invField : Field)
    (mk : Hdr → Fin 256 → Fin 256 → Fin 16 → VecSpace → Fin 8 → Bool → Instr) : Row :=
  { op, fields := [zero 9, invField, any 1, any 3, scope, any 2, any 1, any 4, any 8, any 8],
    zeros := fun vs => match vs with
      | [_, inv, _, _, sc, pol, sp, _, _, _] =>
        if sp = 0 then
          (if inv ≠ 0 then [9] else []) ++ (if sc ≠ 0 then [14] else []) ++ (if pol ≠ 0 then [17] else [])
        else []
      | _ => [],
    build := fun w s vs => match vs with
      | [_, inv, z, m, sc, pol, sp, k, idx, t] =>
        mk (.plain w s) (t8 t) (t8 idx) (k4 k)
          (if sp = 0 then .data else .global (.ofCode pol) (.ofCode sc) (inv == 1)) (p3 m) (z == 1)
      | _ => noWord }

/-- Whether a destination type accepts a rounding mode (R111). -/
def modeOk (ty : ElemType) (rm : Rounding) : Bool :=
  match ty with
  | .e4m3 | .e5m2 | .e2m1 | .e8m0 | .e8f2 | .b8 _ _ _ => rm ≠ .rup ∧ rm ≠ .rdn
  | _ => true

/-- The op of VRED and VSCAN with, for sum, the rounding and .sat that fn carries (R148). -/
def redOp (op rm sat : Nat) : RedOp :=
  match op with
  | 0 => .sum (.ofCode rm) (sat == 1) | 1 => .max | 2 => .min | _ => .amax

def vredRow (op : Nat) (mk : Hdr → Fin 8 → Bool → RedOp → Bool → Fin 256 → Fin 256 → Instr) : Row :=
  vr op { fnRs with cl := any 3, ch := zero 5 }
    (fun w s rm sat z m c _ a d =>
      mk (.plain w s) (p3 m) (z == 1) (redOp (c % 4) rm sat) (c / 4 == 1) (t8 d) (t8 a))
    (zeros := fun vs => match vs with
      | [rm, sat, _, _, c, _, _, _, _, _, _, _] => if c % 4 ≠ 0 ∧ (rm ≠ 0 ∨ sat ≠ 0) then [0] else []
      | _ => [])

def vectorMove : List Row :=
  [{ op := 0x20, fields := [any 4, any 16, any 1, elemType, any 8, any 5],
     zeros := fun vs => match vs with | [_, hi, src, _, _, _] => if src = 1 ∧ hi ≠ 0 then [4] else [] | _ => [],
     build := fun w s vs => match vs with
       | [lo, hi, src, ty, cols, rows] =>
         .vshape (.plain w s) (r5 rows) (t8 cols) (.ofCode ty)
           (if src = 1 then .reg (k4 lo) else .imm (BitVec.ofNat 20 (lo + 16 * hi)))
       | _ => noWord },
   vm 0x21 false .vld, vm 0x22 false .vst, vm 0x23 false .vstq, vm 0x24 true .vldq, vx 0x25 (any 1) .vgath,
   vx 0x26 (zero 1) .vscat, vr1 0x27 .vmov,
   vr 0x28 { noFn with al := any 4, ah := zero 4 } (fun w s _ _ z m _ _ a d =>
     .vbcast (.plain w s) (p3 m) (z == 1) (t8 d) (k4 a))]

def vectorFloat : List Row :=
  [vr2rs 0x30 .vadd, vr2rs 0x31 .vsub, vr2rs 0x32 .vmul, vr3rs 0x33 .vfma, vr3rs 0x34 .vfms, vr3rs 0x35 .vfnma,
   vr2 0x36 .vmin, vr2 0x37 .vmax, vr1 0x38 .vabs, vr1 0x39 .vneg, vr2s 0x3A .vdiv, vr1s 0x3B .vsqrt, vr1s 0x3C .vrcp,
   vr1s 0x3D .vrsq, vr1s 0x3E .vexp2, vr1s 0x3F .vexp, vr1s 0x40 .vlog2, vr1s 0x41 .vsinpi, vr1s 0x42 .vcospi,
   vr1s 0x43 .vtanh]

def vectorCompare : List Row :=
  [vr 0x48 { fl := below 4 8, fh := any 0, bl := any 8, dl := any 3, dh := zero 5 } (fun w s c _ z m _ b a d =>
     .vcmp (.plain w s) (p3 m) (z == 1) (.ofCode c) (p3 d) (t8 a) (t8 b)),
   vr 0x49 { noFn with z := zero 1, bl := any 8 } (fun w s _ _ _ m _ b a d =>
     .vsel (.plain w s) (p3 m) (t8 d) (t8 a) (t8 b)),
   vr 0x4A { fl := any 4, fh := any 0, z := zero 1, m := zero 3, bl := any 3, bh := zero 5, al := any 3, ah := zero 5,
             dl := any 3, dh := zero 5 } (fun w s f _ _ _ _ b a d =>
     .mop (.plain w s) (p3 d) (p3 a) (p3 b) (BitVec.ofNat 4 f)),
   vr 0x4B { fl := any 1, fh := zero 3, z := zero 1, m := zero 3, al := any 3, ah := zero 5, dl := any 4, dh := zero 4 }
     (fun w s f _ _ _ _ _ a d => .mcnt (.plain w s) (f == 1) (k4 d) (p3 a))]

def vectorInteger : List Row :=
  [vr2s 0x50 .viadd, vr2s 0x51 .visub, vr2s 0x52 .vimul, vr2 0x53 .vand, vr2 0x54 .vor, vr2 0x55 .vxor, vr2 0x56 .vshl,
   vr2 0x57 .vshr, vr2 0x58 .vsar, vr2 0x59 .vimin, vr2 0x5A .vimax]

def vectorConvert : List Row :=
  [vr 0x60 { fnRs with cl := coded 6 ElemType.codeOk, ch := zero 2 }
     (fun w s rm sat z m c _ a d =>
       .vcvt (.plain w s) (p3 m) (z == 1) (.ofCode rm) (sat == 1) (.ofCode c) (t8 d) (t8 a))
     (bads := fun vs => match vs with
       | [rm, _, _, _, c, _, _, _, _, _, _, _] =>
         if ElemType.codeOk c ∧ ¬ modeOk (.ofCode c) (.ofCode rm) then [0] else []
       | _ => []),
   vr 0x61 { noFn with z := zero 1, dl := any 4, dh := zero 4 } (fun w s _ _ _ m _ _ a d =>
     .vamax (.plain w s) (p3 m) (k4 d) (t8 a)),
   vr 0x62 { fnRs with cl := any 1, ch := zero 7, bl := any 4, bh := zero 4 } (fun w s rm sat z m c b a d =>
     .vscale (.plain w s) (p3 m) (z == 1) (.ofCode rm) (sat == 1) (c == 1) (t8 d) (t8 a) (k4 b))]

def vectorPermute : List Row :=
  [vredRow 0x68 .vred, vredRow 0x6D .vscan, vr1 0x69 .vxpose, vr2 0x6A .vperm,
   vr 0x6B { fnRs with al := any 4, ah := zero 4 } (fun w s rm sat z m _ _ a d =>
     .viota (.plain w s) (p3 m) (z == 1) (.ofCode rm) (sat == 1) (t8 d) (k4 a)),
   vr 0x6C { fl := any 1, fh := zero 3, bl := any 4, bh := zero 4, al := any 4, ah := zero 4 }
     (fun w s f _ z m _ b a d => .vrand (.plain w s) (p3 m) (z == 1) (f == 1) (t8 d) (k4 a) (k4 b)),
   vr 0x70 { fnRs with bl := any 4, bh := zero 4 } (fun w s rm sat z m _ b a d =>
     .vdrain (.plain w s) (p3 m) (z == 1) (.ofCode rm) (sat == 1) (t8 d) (t8 a) (k4 b)),
   vr 0x71 { noFn with bl := any 4, bh := zero 4 } (fun w s _ _ z m _ b a d =>
     .vzld (.plain w s) (p3 m) (z == 1) (t8 d) (t8 a) (k4 b))]

/-! #### Matrix formats (R58) -/

def isFp8 : ElemType → Bool
  | .e4m3 | .e5m2 | .b8 _ _ _ => true
  | _ => false

/-- The permitted pairs of A and B types (R172). -/
def pairOk (a b : ElemType) : Bool :=
  (isFp8 a && isFp8 b) || (a == .e2m1 && b == .e2m1) || (a == .bf16 && b == .bf16) || (a == .f16 && b == .f16)
    || ((a == .i8 || a == .n8) && (b == .i8 || b == .n8 || b == .i4))

/-- The block-scale modes a pair permits (R172). -/
def blockOk (a : ElemType) (m : BlkMode) : Bool :=
  if a = .e2m1 then m ≠ .none else m = .none

def mm (op : Nat) (off kd kw a : Field) (mk : Hdr → (off kd kw a z : Nat) → Instr) : Row :=
  { op, fields := [zero 4, off, kd, kw, a, any 8],
    build := fun w s vs => match vs with
      | [_, off, kd, kw, a, z] => mk (.plain w s) off kd kw a z
      | _ => noWord }

def matrixRows : List Row :=
  [{ op := 0x20, fields := [zero 9, coded 12 (fun v => v != 0), any 2, any 2, any 1, below 2 3, elemType, elemType],
     bads := fun vs => match vs with
       | [_, _, _, _, _, blk, b, a] =>
         if ElemType.codeOk a ∧ ElemType.codeOk b then
           if pairOk (.ofCode a) (.ofCode b) then
             if blockOk (.ofCode a) (.ofCode blk) then [] else [26]
           else [28]
         else []
       | _ => [],
     build := fun w s vs => match vs with
       | [_, kg, cols, rows, sp, blk, b, a] =>
         .mshape (.plain w s) (.ofCode a) (.ofCode b) (.ofCode blk) (sp == 1) (Fin.ofNat 4 rows) (Fin.ofNat 4 cols)
           (BitVec.ofNat 12 kg)
       | _ => noWord },
   { op := 0x21, fields := [coded 13 (fun v => decide (1 ≤ v ∧ v ≤ 4096)), any 1, any 6, any 4, any 12, any 4],
     build := fun w s vs => match vs with
       | [len, sp, hd, d, off, kw] =>
         .wld (.plain w s) (k4 kw) (BitVec.ofNat 12 off) (k4 d) (h6 hd) (sp == 1) (BitVec.ofNat 13 len)
       | _ => noWord },
   mm 0x22 (any 12) (zero 4) (any 4) (any 8) (fun h off _ kw a z => .mma h (t8 z) (t8 a) (k4 kw) (BitVec.ofNat 12 off)),
   mm 0x23 (any 12) (any 4) (any 4) (zero 8) (fun h off kd kw _ z =>
     .mmas h (t8 z) (k4 kw) (k4 kd) (BitVec.ofNat 12 off)),
   mm 0x24 (zero 12) (zero 4) (zero 4) (zero 8) (fun h _ _ _ _ z => .mzero h (t8 z)),
   vm 0x25 false .mdrain,
   { op := 0x26, fields := [zero 40],
     build := fun w s vs => match vs with | [_] => .wclr (.plain w s) | _ => noWord }]

/-! #### Stream format (R59, R287) -/

/-- A CX word whose fn is split in three; a handle is optional, required (63 offends) or absent (63 demanded). -/
def cx (op : Nat) (fl fm fh sc off k : Field) (need : Nat)
    (mk : Hdr → (fl fm fh sc pol off k hd : Nat) → Instr) : Row :=
  { op, fields := [fl, fm, fh, sc, any 2, off, k, any 6],
    zeros := fun vs => match vs with
      | [_, _, _, _, _, _, _, hd] => if (need = 1 ∧ hd = 63) ∨ (need = 2 ∧ hd ≠ 63) then [34] else []
      | _ => [],
    build := fun w s vs => match vs with
      | [fl, fm, fh, sc, pol, off, k, hd] => mk (.plain w s) fl fm fh sc pol off k hd
      | _ => noWord }

/-- A command with a descriptor, an optional handle and drain in fn[0]. -/
def cxDrain (op : Nat)
    (mk : Hdr → Fin 64 → Fin 16 → BitVec 16 → Policy → Scope → Bool → Instr) : Row :=
  cx op (any 1) (zero 8) (any 0) scope (any 16) (any 4) 0 (fun h dr _ _ sc pol off k hd =>
    mk h (h6 hd) (k4 k) (BitVec.ofNat 16 off) (.ofCode pol) (.ofCode sc) (dr == 1))

/-- The scope field of SEND, RECV and COLL must hold 4 (R287). -/
def scopeSys : Field := coded 3 (fun v => v == 4)

def streamRows : List Row :=
  [cxDrain 0x20 .copy, cxDrain 0x21 .copyc, cxDrain 0x22 .gather, cxDrain 0x23 .scatter, cxDrain 0x24 .fill,
   cx 0x25 (zero 9) (any 0) (any 0) scope (any 16) (any 4) 1 (fun h _ _ _ sc pol off k hd =>
     .win h (h6 hd) (k4 k) (BitVec.ofNat 16 off) (.ofCode pol) (.ofCode sc)),
   { op := 0x26, fields := [any 9, scope, any 2, zero 20, any 6],
     zeros := fun vs => match vs with | [_, _, _, _, hd] => if hd = 63 then [34] else [] | _ => [],
     build := fun w s vs => match vs with
       | [n, sc, pol, _, hd] => .adv (.plain w s) (h6 hd) (.ofCode pol) (.ofCode sc) (BitVec.ofNat 9 n)
       | _ => noWord },
   { op := 0x27, fields := [zero 9, scope, any 2, zero 20, any 6],
     zeros := fun vs => match vs with | [_, _, _, _, hd] => if hd = 63 then [34] else [] | _ => [],
     build := fun w s vs => match vs with
       | [_, sc, pol, _, hd] => .wend (.plain w s) (h6 hd) (.ofCode pol) (.ofCode sc)
       | _ => noWord },
   cxDrain 0x28 .xform, cxDrain 0x29 .xpq,
   cx 0x2A (any 1) (zero 8) (any 0) scopeSys (any 16) (any 4) 0 (fun h dr _ _ _ pol off k hd =>
     .send h (h6 hd) (k4 k) (BitVec.ofNat 16 off) (.ofCode pol) (dr == 1)),
   cx 0x2B (any 1) (zero 8) (any 0) scopeSys (any 16) (any 4) 0 (fun h dr _ _ _ pol off k hd =>
     .recv h (h6 hd) (k4 k) (BitVec.ofNat 16 off) (.ofCode pol) (dr == 1)),
   cx 0x2C (any 1) (below 2 3) (zero 6) scopeSys (any 16) (any 4) 0 (fun h dr op _ _ pol off k hd =>
     .coll h (h6 hd) (k4 k) (BitVec.ofNat 16 off) (.ofCode pol) (.ofCode op) (dr == 1)),
   cx 0x2D (zero 9) (any 0) (any 0) scope (any 16) (any 4) 2 (fun h _ _ _ sc pol off k _ =>
     .cPref h (k4 k) (BitVec.ofNat 16 off) (.ofCode pol) (.ofCode sc)),
   cx 0x2E (zero 9) (any 0) (any 0) scope (any 16) (any 4) 2 (fun h _ _ _ sc pol off k _ =>
     .code h (k4 k) (BitVec.ofNat 16 off) (.ofCode pol) (.ofCode sc)),
   cxDrain 0x2F .cflush]

end Rows

/-- The opcode map of an engine (R60 to R66); an opcode with no row is reserved. -/
def rowsOf (e : Engine) : List Row :=
  match e with
  | .S => Rows.control .S ++ [Rows.sbRow 0x03 .brSb, Rows.sbRow 0x04 .callSb] ++ Rows.scalarInteger
      ++ Rows.scalarImmediate ++ Rows.scalarCompare ++ Rows.scalarFloat ++ Rows.scalarMemory ++ Rows.scalarSystem
  | .V => Rows.control .V ++ Rows.indexBlock .V ++ Rows.vectorMove ++ Rows.vectorFloat ++ Rows.vectorCompare
      ++ Rows.vectorInteger ++ Rows.vectorConvert ++ Rows.vectorPermute
  | .M => Rows.control .M ++ Rows.indexBlock .M ++ Rows.matrixRows
  | .C => Rows.control .C ++ Rows.indexBlock .C ++ Rows.streamRows

def rowOf (e : Engine) (op : Nat) : Option Row := (rowsOf e).find? (fun r => r.op == op)

/-- Reserved bits of a coupling byte of kind none (R33, R34). -/
def couplingZeros (pos byte : Nat) : List Nat :=
  if byte < 64 ∧ byte ≠ 0 then [pos] else []

/-- The 0x02 and 0x03 offences of a word under its opcode's row (R68). -/
def Row.zeroOffences (r : Row) (n : Nat) (vs : List Nat) : List Nat :=
  Sys2Proof.zeroOffences 0 r.fields vs ++ r.zeros vs ++ couplingZeros 48 (n / 2 ^ 48 % 256)
    ++ couplingZeros 56 (n / 2 ^ 56 % 256)
def Row.valueOffences (r : Row) (vs : List Nat) : List Nat :=
  Sys2Proof.valueOffences 0 r.fields vs ++ r.bads vs

/-- Reading one command word on an engine: the first failing check of R68's first three, lowest bit first, or the
instruction. -/
def decode (e : Engine) (w : Word64) : Except Illegal Instr :=
  let n := w.toNat
  match rowOf e (n / 2 ^ 40 % 256) with
  | none => .error .reservedOp
  | some r =>
    let vs := unpackFields (r.fields.map Field.width) n
    match (r.zeroOffences n vs).min? with
    | some p => .error (.reservedBit p)
    | none =>
      match (r.valueOffences vs).min? with
      | some p => .error (.reservedValue p)
      | none => .ok (r.build (Wait.ofCode (n / 2 ^ 56)) (Signal.ofCode (n / 2 ^ 48 % 256)) vs)

/-! ### The encoder -/

namespace Enc

/-- What an instruction's word holds: its engine, opcode, header and operand fields from bit 0 upwards as pairs of
width and value. -/
abbrev Parts := Engine × Nat × Hdr × List (Nat × Nat)

/-- Guard and inversion as the four bits of XC and SB (R53, R56); zero on V, M and C. -/
def gn (e : Engine) (h : Hdr) : Nat × Nat := (4, if e = .S then 2 * h.guard.val + h.neg.toNat else 0)
def xc (e : Engine) (op : Nat) (h : Hdr) (fs : List (Nat × Nat)) : Option Parts := some (e, op, h, fs ++ [gn e h])
def sr (op : Nat) (h : Hdr) (fn b a d : Nat) : Option Parts :=
  some (.S, op, h, [(16, 0), (5, fn), (1, h.neg.toNat), (3, h.guard.val), (5, b), (5, a), (5, d)])
def si (op : Nat) (h : Hdr) (imm a d : Nat) : Option Parts :=
  some (.S, op, h, [(27, imm), (3, h.guard.val), (5, a), (5, d)])
def sl (op : Nat) (h : Hdr) (imm d : Nat) : Option Parts := some (.S, op, h, [(32, imm), (3, h.guard.val), (5, d)])
def sm (op : Nat) (h : Hdr) (off b18 size sc pol base d : Nat) : Option Parts :=
  some (.S, op, h, [(18, off), (1, b18), (3, size), (3, h.guard.val), (3, sc), (2, pol), (5, base), (5, d)])
def sa (op : Nat) (h : Hdr) (off ord sc pol aop b base d : Nat) : Option Parts :=
  some (.S, op, h, [(9, off), (2, ord), (3, sc), (2, pol), (5, aop), (1, h.neg.toNat), (3, h.guard.val), (5, b),
    (5, base), (5, d)])
def xb (e : Engine) (op : Nat) (h : Hdr) (c : XbCond) (abs : Bool) (off : BitVec 32) : Option Parts :=
  let (cc, k) : Nat × Nat := match c with | .zero k => (0, k.val) | .nonzero k => (1, k.val) | .always => (2, 0)
  some (e, op, h, [(32, off.toNat), (1, abs.toNat), (1, 0), (2, cc), (4, k)])
def xk (e : Engine) (op : Nat) (h : Hdr) (b a d : Nat) : Option Parts := some (e, op, h, [(28, 0), (4, b), (4, a), (4, d)])
def vr (op : Nat) (h : Hdr) (fn z m c b a d : Nat) : Option Parts :=
  some (.V, op, h, [(4, fn), (1, z), (3, m), (8, c), (8, b), (8, a), (8, d)])
def rs (rm : Rounding) (sat : Bool) : Nat := rm.code + 8 * sat.toNat
def vm (e : Engine) (op : Nat) (h : Hdr) (off : BitVec 22) (hd k t : Nat) : Option Parts :=
  some (e, op, h, [(22, off.toNat), (6, hd), (4, k), (8, t)])
def vx (op : Nat) (h : Hdr) (z m : Nat) (sp : VecSpace) (k idx t : Nat) : Option Parts :=
  let (inv, sc, pol, g) : Nat × Nat × Nat × Nat :=
    match sp with | .data => (0, 0, 0, 0) | .global p s i => (i.toNat, s.code, p.code, 1)
  some (.V, op, h, [(9, 0), (1, inv), (1, z), (3, m), (3, sc), (2, pol), (1, g), (4, k), (8, idx), (8, t)])
def mm (op : Nat) (h : Hdr) (off kd kw a z : Nat) : Option Parts :=
  some (.M, op, h, [(4, 0), (12, off), (4, kd), (4, kw), (8, a), (8, z)])
def cx (op : Nat) (h : Hdr) (fn sc pol off k hd : Nat) : Option Parts :=
  some (.C, op, h, [(9, fn), (3, sc), (2, pol), (16, off), (4, k), (6, hd)])
def redFn : RedOp → Nat × Nat
  | .sum rm sat => (rs rm sat, 0) | .max => (0, 1) | .min => (0, 2) | .amax => (0, 3)
def vred (op : Nat) (h : Hdr) (z m : Nat) (r : RedOp) (col : Bool) (a d : Nat) : Option Parts :=
  vr op h (redFn r).1 z m ((redFn r).2 + 4 * col.toNat) 0 a d
def sys (e : Engine) (op : Nat) (h : Hdr) (num r : Nat) : Option Parts := xc e op h [(19, 0), (12, num), (5, r)]

end Enc

open Enc in
/-- The parts of an instruction's word, none for an event. -/
def Instr.parts : Instr → Option Enc.Parts
  | .nop e h => xc e 0x00 h [(36, 0)]
  | .endw e h => xc e 0x01 h [(36, 0)]
  | .loop e h len (.imm n) => xc e 0x02 h [(19, n.toNat), (13, len.toNat), (3, 0), (1, 0)]
  | .loop e h len (.reg r) => xc e 0x02 h [(19, r.val), (13, len.toNat), (3, 0), (1, 1)]
  | .brSb h abs off => some (.S, 0x03, h, [(32, off.toNat), (4, abs.toNat), gn .S h])
  | .brXb e h c abs off => xb e 0x03 h c abs off
  | .callSb h abs off => some (.S, 0x04, h, [(32, off.toNat), (4, abs.toNat), gn .S h])
  | .callXb e h c abs off => xb e 0x04 h c abs off
  | .ret e h => xc e 0x05 h [(36, 0)]
  | .tok e h pop q r => xc e 0x06 h [(26, 0), (5, r.val), (4, q.val), (1, pop.toNat)]
  | .hset e h hd base count => xc e 0x07 h [(20, 0), (5, count.val), (5, base.val), (6, hd.val)]
  | .hwait e h hd free => xc e 0x08 h [(29, 0), (1, free.toNat), (6, hd.val)]
  | .safe e h group map => xc e 0x09 h [(12, 0), (16, map.toNat), (8, group.toNat)]
  | .trap e h c => xc e 0x0A h [(16, c.toNat), (20, 0)]
  | .fence e h kind scope => xc e 0x0B h [(31, 0), (3, scope.code), (2, kind.code)]
  | .srd e h d num => sys e 0x0C h num.toNat d.val
  | .swr e h r num => sys e 0x0D h num.toNat r.val
  | .flagsWrite e h r => sys e 0x0D h 0x022 r.val
  | .trapRegisterWrite e h r which => sys e 0x0D h (0x030 + which.val) r.val
  | .chHashWrite e h r => sys e 0x0D h 0x100 r.val
  | .pcHashWrite e h r => sys e 0x0D h 0x101 r.val
  | .preemptWaitWrite e h r => sys e 0x0D h 0x102 r.val
  | .brk e h c => xc e 0x0E h [(16, c.toNat), (20, 0)]
  | .pause e h n => xc e 0x0F h [(16, n.toNat), (20, 0)]
  | .kli e h d imm => some (e, 0x10, h, [(32, imm.toNat), (4, 0), (4, d.val)])
  | .kaddi e h d a imm => some (e, 0x11, h, [(32, imm.toNat), (4, a.val), (4, d.val)])
  | .kadd e h d a b => xk e 0x12 h b.val a.val d.val
  | .ksub e h d a b => xk e 0x13 h b.val a.val d.val
  | .kmul e h d a b => xk e 0x14 h b.val a.val d.val
  | .kshl e h d a b => xk e 0x15 h b.val a.val d.val
  | .kshr e h d a b => xk e 0x16 h b.val a.val d.val
  | .kand e h d a b => xk e 0x17 h b.val a.val d.val
  | .add h d a b => sr 0x10 h 0 b a d
  | .sub h d a b => sr 0x11 h 0 b a d
  | .mul h d a b => sr 0x12 h 0 b a d
  | .mulh h u d a b => sr 0x13 h u.toNat b a d
  | .div h u d a b => sr 0x14 h u.toNat b a d
  | .rem h u d a b => sr 0x15 h u.toNat b a d
  | .and h d a b => sr 0x16 h 0 b a d
  | .or h d a b => sr 0x17 h 0 b a d
  | .xor h d a b => sr 0x18 h 0 b a d
  | .andn h d a b => sr 0x19 h 0 b a d
  | .shl h d a b => sr 0x1A h 0 b a d
  | .shr h d a b => sr 0x1B h 0 b a d
  | .sar h d a b => sr 0x1C h 0 b a d
  | .rotr h d a b => sr 0x1D h 0 b a d
  | .min h u d a b => sr 0x1E h u.toNat b a d
  | .max h u d a b => sr 0x1F h u.toNat b a d
  | .clz h d a => sr 0x20 h 0 0 a d
  | .ctz h d a => sr 0x21 h 0 0 a d
  | .popc h d a => sr 0x22 h 0 0 a d
  | .sel h d a b p => sr 0x23 h p b a d
  | .bfx h u d a b => sr 0x24 h u.toNat b a d
  | .bfi h d a b => sr 0x25 h 0 b a d
  | .addi h d a imm => si 0x30 h imm.toNat a d
  | .andi h d a imm => si 0x31 h imm.toNat a d
  | .ori h d a imm => si 0x32 h imm.toNat a d
  | .xori h d a imm => si 0x33 h imm.toNat a d
  | .shli h d a n => si 0x34 h n a d
  | .shri h d a n => si 0x35 h n a d
  | .sari h d a n => si 0x36 h n a d
  | .li h d imm => sl 0x37 h imm.toNat d
  | .lih h d imm => sl 0x38 h imm.toNat d
  | .muli h d a imm => si 0x39 h imm.toNat a d
  | .cmp h c p a b => sr 0x40 h c.code b a p
  | .cmpi h c p a imm => si 0x41 h (imm.toNat + 2 ^ 23 * c.code) a p
  | .pset h d a b f => sr 0x42 h f.toNat b a d
  | .pmov h true p r => sr 0x43 h 1 0 p r
  | .pmov h false p r => sr 0x43 h 0 0 r p
  | .brx h a => sr 0x48 h 0 0 a 0
  | .fadd h rm sat d a b => sr 0x50 h (rs rm sat) b a d
  | .fsub h rm sat d a b => sr 0x51 h (rs rm sat) b a d
  | .fmul h rm sat d a b => sr 0x52 h (rs rm sat) b a d
  | .ffma h rm sat d a b => sr 0x53 h (rs rm sat) b a d
  | .fmin h d a b => sr 0x54 h 0 b a d
  | .fmax h d a b => sr 0x55 h 0 b a d
  | .fcmp h c p a b => sr 0x56 h (8 * c.code) b a p
  | .fcvt h rm sat c d a => sr 0x57 h (rs rm sat) c.code a d
  | .fdiv h rm sat d a b => sr 0x58 h (rs rm sat) b a d
  | .fsqrt h rm sat d a => sr 0x59 h (rs rm sat) 0 a d
  | .ld h pol sc sz x d b off => sm 0x60 h off.toNat x.toNat sz.code sc.code pol.code b d
  | .st h pol sc sz d b off => sm 0x61 h off.toNat 0 sz.code sc.code pol.code b d
  | .lds h sz x d b off => sm 0x62 h off.toNat x.toNat sz.code 0 0 b d
  | .sts h sz d b off => sm 0x63 h off.toNat 0 sz.code 0 0 b d
  | .sPref h pol lines b off => sm 0x64 h off.toNat 0 lines.code 0 pol.code b 0
  | .flush h b off => sm 0x65 h off.toNat 0 0 0 0 b 0
  | .atom h op pol sc ord d b v off => sa 0x68 h off.toNat ord.code sc.code pol.code op.code v b d
  | .red h op pol sc rel b v off => sa 0x69 h off.toNat (2 * rel.toNat) sc.code pol.code op.code v b 0
  | .cas h w64 pol sc ord d b v off => sa 0x6A h off.toNat ord.code sc.code pol.code w64.toNat v b d
  | .atoms h op ord d b v off => sa 0x6B h off.toNat ord.code 0 0 op.code v b d
  | .launch h d a b => sr 0x70 h 0 b a d
  | .fsopen h d a => sr 0x71 h 0 0 a d
  | .fsclose h d a => sr 0x72 h 0 0 a d
  | .fswait h d a => sr 0x73 h 0 0 a d
  | .fstest h d a => sr 0x74 h 0 0 a d
  | .lwait h a => sr 0x75 h 0 0 a 0
  | .lpin h r d a => sr 0x76 h r.toNat 0 a d
  | .lunpin h d a => sr 0x77 h 0 0 a d
  | .phase h a => sr 0x78 h 0 0 a 0
  | .qctlSetprio h d a b => sr 0x79 h 0 b a d
  | .qctlDetset h d a b => sr 0x79 h 1 b a d
  | .qctlSeed h d a b => sr 0x79 h 2 b a d
  | .qctlQread h d a b => sr 0x79 h 3 b a d
  | .goveval h r d a => sr 0x80 h r.toNat 0 a d
  | .govrd h .hdr d a => sr 0x81 h 0 0 a d
  | .govrd h .wslot d a => sr 0x81 h 1 0 a d
  | .govrd h (.slot b) d a => sr 0x81 h 2 b a d
  | .govhold h a => sr 0x82 h 0 0 a 0
  | .govrel h a => sr 0x83 h 0 0 a 0
  | .time h d => sr 0x90 h 0 0 0 d
  | .eret h => sr 0x91 h 0 0 0 0
  | .vshape h rows cols ty (.imm n) =>
    some (.V, 0x20, h, [(20, n.toNat), (1, 0), (6, ty.code), (8, cols.val), (5, rows.val)])
  | .vshape h rows cols ty (.reg k) =>
    some (.V, 0x20, h, [(20, k.val), (1, 1), (6, ty.code), (8, cols.val), (5, rows.val)])
  | .vld h t k hd off => vm .V 0x21 h off hd k t
  | .vst h t k hd off => vm .V 0x22 h off hd k t
  | .vstq h t k hd off => vm .V 0x23 h off hd k t
  | .vldq h t k hd off => vm .V 0x24 h off hd k t
  | .vgath h t idx k sp m z => vx 0x25 h z.toNat m sp k idx t
  | .vscat h t idx k sp m z => vx 0x26 h z.toNat m sp k idx t
  | .vmov h m z d a => vr 0x27 h 0 z.toNat m 0 0 a d
  | .vbcast h m z d k => vr 0x28 h 0 z.toNat m 0 0 k d
  | .vadd h m z rm sat d a b => vr 0x30 h (rs rm sat) z.toNat m 0 b a d
  | .vsub h m z rm sat d a b => vr 0x31 h (rs rm sat) z.toNat m 0 b a d
  | .vmul h m z rm sat d a b => vr 0x32 h (rs rm sat) z.toNat m 0 b a d
  | .vfma h m z rm sat d a b c => vr 0x33 h (rs rm sat) z.toNat m c b a d
  | .vfms h m z rm sat d a b c => vr 0x34 h (rs rm sat) z.toNat m c b a d
  | .vfnma h m z rm sat d a b c => vr 0x35 h (rs rm sat) z.toNat m c b a d
  | .vmin h m z d a b => vr 0x36 h 0 z.toNat m 0 b a d
  | .vmax h m z d a b => vr 0x37 h 0 z.toNat m 0 b a d
  | .vabs h m z d a => vr 0x38 h 0 z.toNat m 0 0 a d
  | .vneg h m z d a => vr 0x39 h 0 z.toNat m 0 0 a d
  | .vdiv h m z sat d a b => vr 0x3A h (8 * sat.toNat) z.toNat m 0 b a d
  | .vsqrt h m z sat d a => vr 0x3B h (8 * sat.toNat) z.toNat m 0 0 a d
  | .vrcp h m z sat d a => vr 0x3C h (8 * sat.toNat) z.toNat m 0 0 a d
  | .vrsq h m z sat d a => vr 0x3D h (8 * sat.toNat) z.toNat m 0 0 a d
  | .vexp2 h m z sat d a => vr 0x3E h (8 * sat.toNat) z.toNat m 0 0 a d
  | .vexp h m z sat d a => vr 0x3F h (8 * sat.toNat) z.toNat m 0 0 a d
  | .vlog2 h m z sat d a => vr 0x40 h (8 * sat.toNat) z.toNat m 0 0 a d
  | .vsinpi h m z sat d a => vr 0x41 h (8 * sat.toNat) z.toNat m 0 0 a d
  | .vcospi h m z sat d a => vr 0x42 h (8 * sat.toNat) z.toNat m 0 0 a d
  | .vtanh h m z sat d a => vr 0x43 h (8 * sat.toNat) z.toNat m 0 0 a d
  | .vcmp h m z c d a b => vr 0x48 h c.code z.toNat m 0 b a d
  | .vsel h m d a b => vr 0x49 h 0 0 m 0 b a d
  | .mop h d a b f => vr 0x4A h f.toNat 0 0 0 b a d
  | .mcnt h first d a => vr 0x4B h first.toNat 0 0 0 0 a d
  | .viadd h m z sat d a b => vr 0x50 h (8 * sat.toNat) z.toNat m 0 b a d
  | .visub h m z sat d a b => vr 0x51 h (8 * sat.toNat) z.toNat m 0 b a d
  | .vimul h m z sat d a b => vr 0x52 h (8 * sat.toNat) z.toNat m 0 b a d
  | .vand h m z d a b => vr 0x53 h 0 z.toNat m 0 b a d
  | .vor h m z d a b => vr 0x54 h 0 z.toNat m 0 b a d
  | .vxor h m z d a b => vr 0x55 h 0 z.toNat m 0 b a d
  | .vshl h m z d a b => vr 0x56 h 0 z.toNat m 0 b a d
  | .vshr h m z d a b => vr 0x57 h 0 z.toNat m 0 b a d
  | .vsar h m z d a b => vr 0x58 h 0 z.toNat m 0 b a d
  | .vimin h m z d a b => vr 0x59 h 0 z.toNat m 0 b a d
  | .vimax h m z d a b => vr 0x5A h 0 z.toNat m 0 b a d
  | .vcvt h m z rm sat ty d a => vr 0x60 h (rs rm sat) z.toNat m ty.code 0 a d
  | .vamax h m d a => vr 0x61 h 0 0 m 0 0 a d
  | .vscale h m z rm sat divs d a k => vr 0x62 h (rs rm sat) z.toNat m divs.toNat k a d
  | .vred h m z op col d a => Enc.vred 0x68 h z.toNat m op col a d
  | .vxpose h m z d a => vr 0x69 h 0 z.toNat m 0 0 a d
  | .vperm h m z d a b => vr 0x6A h 0 z.toNat m 0 b a d
  | .viota h m z rm sat d k => vr 0x6B h (rs rm sat) z.toNat m 0 0 k d
  | .vrand h m z unif d a b => vr 0x6C h unif.toNat z.toNat m 0 b a d
  | .vscan h m z op col d a => Enc.vred 0x6D h z.toNat m op col a d
  | .vdrain h m z rm sat d za k => vr 0x70 h (rs rm sat) z.toNat m 0 k za d
  | .vzld h m z zd a k => vr 0x71 h 0 z.toNat m 0 k a zd
  | .mshape h a b blk sp rows cols kg =>
    some (.M, 0x20, h, [(9, 0), (12, kg.toNat), (2, cols.val), (2, rows.val), (1, sp.toNat), (2, blk.code), (6, b.code),
      (6, a.code)])
  | .wld h w off d hd sp len =>
    some (.M, 0x21, h, [(13, len.toNat), (1, sp.toNat), (6, hd.val), (4, d.val), (12, off.toNat), (4, w.val)])
  | .mma h z a w off => mm 0x22 h off.toNat 0 w a z
  | .mmas h z w d off => mm 0x23 h off.toNat d w 0 z
  | .mzero h z => mm 0x24 h 0 0 0 0 z
  | .mdrain h z k hd off => vm .M 0x25 h off hd k z
  | .wclr h => some (.M, 0x26, h, [(40, 0)])
  | .copy h hd k off pol sc dr => cx 0x20 h dr.toNat sc.code pol.code off.toNat k hd
  | .copyc h hd k off pol sc dr => cx 0x21 h dr.toNat sc.code pol.code off.toNat k hd
  | .gather h hd k off pol sc dr => cx 0x22 h dr.toNat sc.code pol.code off.toNat k hd
  | .scatter h hd k off pol sc dr => cx 0x23 h dr.toNat sc.code pol.code off.toNat k hd
  | .fill h hd k off pol sc dr => cx 0x24 h dr.toNat sc.code pol.code off.toNat k hd
  | .win h hd k off pol sc => cx 0x25 h 0 sc.code pol.code off.toNat k hd
  | .adv h hd pol sc n => cx 0x26 h n.toNat sc.code pol.code 0 0 hd
  | .wend h hd pol sc => cx 0x27 h 0 sc.code pol.code 0 0 hd
  | .xform h hd k off pol sc dr => cx 0x28 h dr.toNat sc.code pol.code off.toNat k hd
  | .xpq h hd k off pol sc dr => cx 0x29 h dr.toNat sc.code pol.code off.toNat k hd
  | .send h hd k off pol dr => cx 0x2A h dr.toNat 4 pol.code off.toNat k hd
  | .recv h hd k off pol dr => cx 0x2B h dr.toNat 4 pol.code off.toNat k hd
  | .coll h hd k off pol op dr => cx 0x2C h (dr.toNat + 2 * op.code) 4 pol.code off.toNat k hd
  | .cPref h k off pol sc => cx 0x2D h 0 sc.code pol.code off.toNat k 63
  | .code h k off pol sc => cx 0x2E h 0 sc.code pol.code off.toNat k 63
  | .cflush h hd k off pol sc dr => cx 0x2F h dr.toNat sc.code pol.code off.toNat k hd
  | .phaseComplete _ | .transferComplete _ _ _ | .transferFault _ _ _ | .loadResponse _ _
  | .codeFeedRefill _ _ | .coreDeadlock _ | .budgetExhaustion _ | .budgetBoundaryTrap _ | .homeLoadSi _
  | .homeLoadWi _ | .homeLoadWt _ | .homeLoadOwn _ | .homeStoreWi _ | .homeStoreWt _ | .homeStoreOwn _
  | .homeWriteback _ | .homeAtomic _ | .recall _ | .invalidation _ | .invalidationAck _
  | .l1DirtyTimeout _ _ | .l1CleanTimeout _ _ | .faultBufferRetry _ _ | .hostReadShared _
  | .hostReadExclusive _ | .hostWrite _ _ | .bisnpComplete _ _ | .biconflict _ | .hostSnoop _ _ _
  | .peerRequest _ _ _ _ _ | .fabricBlockReceive _ _ _ _ | .linkDown _ | .prodWrite _ _
  | .launchRecordEnqueue _ | .scopeOpenPacket _ | .scopeClosePacket _ | .detsetPacket _ | .seedPacket _
  | .evconsWrite _ _ | .sluiceSelection _ _ | .taskRetire _ | .preemptionRound _ | .softPreemption _
  | .hardPreemption _ | .governorEvaluation _ | .statsMerge _ _ | .layerArrivalStart _
  | .layerArrivalComplete _ _ | .layerArrivalFail _ _ _ | .layerEvictionComplete _ _ | .contextValidSet _ _
  | .contextValidClear _ _ | .seedWrite _ _ _ | .sdGo _ | .shootdownComplete | .mgReq _ | .mgDone _
  | .claim _ | .handover _ _ | .accept _ | .heartbeat _ | .heartbeatExpiry | .tcPcWrite _ _ | .tcActResume _
  | .tcActAbandon _ | .logConsWrite _ _ _ | .mgmtRegisterWrite _ _ _ | .errorEventQueued _ _ | .scrubRead _
  | .rowRepair _ _ _ | .powerOnReset | .deviceReset | .powerStep _ _ | .pointChangeEnd _ | .tenteringPass _
  | .retentionSleepEntry _ | .retentionWake _ | .spdmRequest _ _ | .firmwareUpdateWrite _ _ _
  | .launchPathComplete _ | .saveComplete _ | .unitReply _ | .fabricGroupWrite _ _ | .portTraining _ _
  | .linkErrorRetransmitted _ _ => none

/-- The word of an instruction: WAIT, SIGNAL, OP and the 40 operand bits (R32). -/
def Enc.wordOf (p : Enc.Parts) : Word64 :=
  BitVec.ofNat 64 (packFields p.2.2.2 + 2 ^ 40 * p.2.1 + 2 ^ 48 * p.2.2.1.sig.code + 2 ^ 56 * p.2.2.1.wait.code)

/-- The word of an instruction, none for an event. -/
def encode? (i : Instr) : Option Word64 := i.parts.map Enc.wordOf

/-- The engine that executes an instruction, none for an event. -/
def Instr.engine? (i : Instr) : Option Engine := i.parts.map (·.1)

/-- The WAIT byte, SIGNAL byte and guard of an instruction; those of NOP for an event. -/
def Instr.hdr (i : Instr) : Hdr := (i.parts.map (·.2.2.1)).getD ⟨.none, .none, 0, false⟩

/-- The word of an instruction; the word of NOP for an event, which has none. -/
def encode (i : Instr) : Word64 := (encode? i).getD 0#64

/-- The eight bytes of a word as memory and the rings hold it, lowest address first (R7, R32). -/
def wordBytes (w : Word64) : List Byte := (List.range 8).map (fun i => BitVec.ofNat 8 (w.toNat / 2 ^ (8 * i)))

/-- The little-endian number of a list of bytes (R7). -/
def natOfBytes : List Byte → Nat
  | [] => 0
  | b :: bs => b.toNat + 256 * natOfBytes bs

/-- Reading the bytes of one command word; fewer or more than eight are no word. -/
def decodeBytes (e : Engine) (bs : List Byte) : Except Illegal Instr :=
  if bs.length = 8 then decode e (BitVec.ofNat 64 (natOfBytes bs)) else .error .reservedOp

/-- The instruction a table word names: bits 63 to 0 are the command word, and bits 65 and 64 the engine that
executes it (R8), 0 where the word is given no such bits (log 9). -/
def decodeTableWord (nbits w : Nat) : Option Instr :=
  match decodeBytes (Engine.ofNum (w % 2 ^ nbits / 2 ^ 64)) (wordBytes (BitVec.ofNat 64 (w % 2 ^ nbits))) with
  | .ok i => some i
  | .error _ => none

end Sys2Proof
end

