-- ==== Sys2Proof/Machine/Flags.lean ====
section
/-! DEFINITION. The FLAGS bits (spec/04 R112): what the roundings of Num.lean raise and the engines accumulate. -/

namespace Sys2Proof.Machine

/-- The six sticky bits of R112. -/
abbrev Flags := BitVec 6
/-- Invalid. -/
def Flags.nv : Flags := 0x01
/-- Division by zero. -/
def Flags.dz : Flags := 0x02
/-- Overflow. -/
def Flags.of : Flags := 0x04
/-- Underflow. -/
def Flags.uf : Flags := 0x08
/-- Inexact. -/
def Flags.nx : Flags := 0x10
/-- Saturated. -/
def Flags.sa : Flags := 0x20

end Sys2Proof.Machine
end

