-- ==== Sys2Proof/Machine/Num.lean ====
section
/-! DEFINITION. Number formats, exact values and the one rounding (spec/04 R88 to R113). -/

namespace Sys2Proof.Machine

/-! ### Exact values (R106) -/

/-- An exact value: a NaN with the property of being signalling, a signed infinity, or a signed rational `num / den`
(so that zero has a sign). A `nan true` met by `quant` sets NV, so it also stands for an invalid operation (R88). -/
inductive Val where
  | nan (sig : Bool)
  | inf (neg : Bool)
  | fin (neg : Bool) (num den : Nat)
  deriving DecidableEq, Repr

namespace Val

def zero (neg : Bool := false) : Val := .fin neg 0 1
def isNan : Val → Bool
  | .nan _ => true | _ => false
def isSig : Val → Bool
  | .nan s => s | _ => false
def isZero : Val → Bool
  | .fin _ n _ => n == 0 | _ => false
/-- The sign of a zero, infinity or number; false for a NaN. -/
def sign : Val → Bool
  | .nan _ => false | .inf s => s | .fin s _ _ => s
def ofInt (i : Int) : Val := .fin (i < 0) i.natAbs 1
/-- `m × 2^e` with a sign. -/
def scaled (neg : Bool) (m : Nat) (e : Int) : Val :=
  if 0 ≤ e then .fin neg (m * 2 ^ e.toNat) 1 else .fin neg m (2 ^ (-e).toNat)
def neg : Val → Val
  | .nan s => .nan s | .inf s => .inf (!s) | .fin s n d => .fin (!s) n d
def abs : Val → Val
  | .nan s => .nan s | .inf _ => .inf false | .fin _ n d => .fin false n d

/-- Signed comparison of two numbers, none when either is a NaN; −0 = +0 (R137). -/
def cmp (a b : Val) : Option Ordering :=
  match a, b with
  | .nan _, _ | _, .nan _ => none
  | .inf s, .inf t => some (if s = t then .eq else if s then .lt else .gt)
  | .inf s, .fin _ _ _ => some (if s then .lt else .gt)
  | .fin _ _ _, .inf s => some (if s then .gt else .lt)
  | .fin s n d, .fin t m c =>
    let x : Int := (if s then -1 else 1) * (n * c : Int)
    let y : Int := (if t then -1 else 1) * (m * d : Int)
    some (compare x y)

/-- The NaN that an operation on these operands gives when one is a NaN: signalling if any is (R90). -/
def anyNan (vs : List Val) : Option Val :=
  if vs.any isNan then some (.nan (vs.any isSig)) else none

/-- The exact sum of terms none of which is a NaN; the sign of an exact zero follows R88. -/
def sumTerms (rm : Rounding) (vs : List Val) : Val :=
  let pos := vs.any (fun v => v == .inf false)
  let negInf := vs.any (fun v => v == .inf true)
  if pos && negInf then .nan true
  else if pos then .inf false
  else if negInf then .inf true
  else
    let den := vs.foldl (fun d v => match v with | .fin _ _ c => Nat.lcm d c | _ => d) 1
    let s : Int := vs.foldl (fun (acc : Int) v => match v with
      | .fin sg n c => acc + (if sg then -1 else 1) * ((n * (den / c) : Nat) : Int)
      | _ => acc) 0
    if s = 0 then
      if vs.all (fun v => v.isZero && !v.sign) then .zero false
      else if vs.all (fun v => v.isZero && v.sign) then .zero true
      else .zero (rm = .rdn)
    else .fin (s < 0) s.natAbs den

def add (rm : Rounding) (a b : Val) : Val := (anyNan [a, b]).getD (sumTerms rm [a, b])
def sub (rm : Rounding) (a b : Val) : Val := add rm a b.neg

def mul (a b : Val) : Val :=
  match anyNan [a, b] with
  | some v => v
  | none =>
    let s := a.sign != b.sign
    match a, b with
    | .inf _, x | x, .inf _ => if x.isZero then .nan true else .inf s
    | .fin _ n d, .fin _ m c => .fin s (n * m) (d * c)
    | _, _ => .nan false

/-- a × b + c with the rules of R88 for its invalid cases. -/
def fma (rm : Rounding) (a b c : Val) : Val :=
  let p := mul a b
  match anyNan [p, c] with
  | some v => .nan (v.isSig || [a, b, c].any isSig)
  | none => sumTerms rm [p, c]

/-- a ÷ b; the flag is DZ where a finite nonzero value is divided by zero. -/
def div (a b : Val) : Val × Flags :=
  match anyNan [a, b] with
  | some v => (v, 0)
  | none =>
    let s := a.sign != b.sign
    match a, b with
    | .inf _, .inf _ => (.nan true, 0)
    | .inf _, _ => (.inf s, 0)
    | _, .inf _ => (.zero s, 0)
    | .fin _ n d, .fin _ m c =>
      if m = 0 then (if n = 0 then (.nan true, 0) else (.inf s, .dz)) else (.fin s (n * c) (d * m), 0)
    | _, _ => (.nan false, 0)

end Val

/-- The integer square root of `n`, found bit by bit from bit `fuel` down. -/
def isqrt : Nat → Nat → Nat → Nat
  | 0, _, r => r
  | k + 1, n, r => if (r + 2 ^ k) * (r + 2 ^ k) ≤ n then isqrt k n (r + 2 ^ k) else isqrt k n r

/-- √(num/den): exactly where it is rational on a grid of at least 128 significant bits, otherwise the middle of the
grid step that holds it, which rounds as the irrational root does in every format of at most 64 bits. -/
def sqrtRat (num den : Nat) : Nat × Nat :=
  let k := 128 + den.log2
  let n := num * den * 4 ^ k
  let r := isqrt (n.log2 / 2 + 1) n 0
  if r * r = n then (r, den * 2 ^ k) else (2 * r + 1, 2 * den * 2 ^ k)

def Val.sqrt : Val → Val
  | .nan s => .nan s
  | .inf s => if s then .nan true else .inf false
  | .fin s n d =>
    if n = 0 then .fin s 0 1 else if s then .nan true else let (a, b) := sqrtRat n d; .fin false a b

/-- 1 ÷ √x (R154). A zero gives an infinity of its sign with DZ. -/
def Val.rsqrt : Val → Val × Flags
  | .nan s => (.nan s, 0)
  | .inf s => if s then (.nan true, 0) else (.zero, 0)
  | .fin s n d =>
    if n = 0 then (.inf s, .dz)
    else if s then (.nan true, 0) else let (a, b) := sqrtRat d n; (.fin false a b, 0)

/-! ### The formats (R92 to R100) -/

/-- What rounding needs of a floating or scale type: its trailing bits, bias, sign, the magnitude code of maxfin, its
width, whether maxfin + 1 encodes infinity, its canonical NaN, and whether it is a scale type. -/
structure Fmt where
  t : Nat
  bias : Int
  signed : Bool
  maxfin : Nat
  width : Nat
  hasInf : Bool
  nan : Option Nat
  scale : Bool := false
  deriving DecidableEq, Repr

/-- A type is floating (with its format), or an integer (with its width and sign). -/
inductive Kind where
  | flt (f : Fmt)
  | int (width : Nat) (signed : Bool)
  deriving DecidableEq, Repr

def Fmt.f32 : Fmt := ⟨23, 127, true, 0x7F7FFFFF, 32, true, some 0x7FC00000, false⟩
def Fmt.f16 : Fmt := ⟨10, 15, true, 0x7BFF, 16, true, some 0x7E00, false⟩
def Fmt.bf16 : Fmt := ⟨7, 127, true, 0x7F7F, 16, true, some 0x7FC0, false⟩
def Fmt.e4m3 : Fmt := ⟨3, 7, true, 0x7E, 8, false, some 0x7F, false⟩
def Fmt.e5m2 : Fmt := ⟨2, 15, true, 0x7B, 8, true, some 0x7E, false⟩
def Fmt.e2m1 : Fmt := ⟨1, 1, true, 7, 4, false, none, false⟩
def Fmt.e8m0 : Fmt := ⟨0, 127, false, 254, 8, false, some 0xFF, true⟩
def Fmt.e8f2 : Fmt := ⟨2, 127, false, 1019, 16, false, some 0x3FC, true⟩
/-- The binary8 types (R97, R98), `p` being the precision less one. -/
def Fmt.binary8 (p : Nat) (ext uns : Bool) : Fmt :=
  if uns then ⟨p, 2 ^ (7 - p), false, if ext then 0xFD else 0xFE, 8, ext, some 0xFF, false⟩
  else ⟨p, 2 ^ (6 - p), true, if ext then 0x7E else 0x7F, 8, ext, some 0x80, false⟩

/-- R92, R94, R97, R98, R100. -/
def kindOf : ElemType → Kind
  | .f32 => .flt .f32 | .bf16 => .flt .bf16 | .f16 => .flt .f16 | .e4m3 => .flt .e4m3 | .e5m2 => .flt .e5m2
  | .e2m1 => .flt .e2m1
  | .i8 => .int 8 true | .n8 => .int 8 false | .i16 => .int 16 true | .n16 => .int 16 false
  | .i32 => .int 32 true | .n32 => .int 32 false | .i64 => .int 64 true | .n64 => .int 64 false
  | .i4 => .int 4 true | .e8m0 => .flt .e8m0 | .e8f2 => .flt .e8f2
  | .b8 p ext uns => .flt (.binary8 p.val ext uns)

/-- The bits of an element (R52). -/
def elemBits : ElemType → Nat
  | .f32 | .i32 | .n32 => 32
  | .bf16 | .f16 | .i16 | .n16 | .e8f2 => 16
  | .i64 | .n64 => 64
  | .e2m1 | .i4 => 4
  | _ => 8

/-- The signed reading of the low `w` bits of `q` (R100). -/
def signedOf (w q : Nat) : Int :=
  let v := q % 2 ^ w
  if w ≠ 0 ∧ 2 ^ (w - 1) ≤ v then (v : Int) - 2 ^ w else v

/-- The integer an integer code stands for (R100). -/
def intOf (w : Nat) (signed : Bool) (q : Nat) : Int := if signed then signedOf w q else ((q % 2 ^ w : Nat) : Int)

/-- The `w`-bit two's complement code of an integer (R17). -/
def codeOfInt (w : Nat) (i : Int) : Nat := (i % 2 ^ w).toNat

/-- The exact value of a floating or scale code (R93, R94, R97, R98). -/
def Fmt.decode (f : Fmt) (q : Nat) : Val :=
  let q := q % 2 ^ f.width
  if f.scale then
    if 2 ^ (8 + f.t) ≤ q ∨ q / 2 ^ f.t = 255 then .nan false
    else .scaled false (2 ^ f.t + q % 2 ^ f.t) ((q / 2 ^ f.t : Nat) - f.bias - f.t)
  else
    let s := f.signed && decide (2 ^ (f.width - 1) ≤ q)
    let m := if f.signed then q % 2 ^ (f.width - 1) else q
    if f.nan = some q then .nan false
    else if f.hasInf ∧ m = f.maxfin + 1 then .inf s
    else if f.maxfin < m then
      -- an IEEE-style NaN; .f32, .f16 and .bf16 tell the signalling ones by their top trailing bit (R90)
      .nan (decide (16 ≤ f.width) && m / 2 ^ (f.t - 1) % 2 == 0)
    else
      let e := m / 2 ^ f.t
      let tr := m % 2 ^ f.t
      if e = 0 then .scaled s tr (1 - f.bias - f.t) else .scaled s (2 ^ f.t + tr) ((e : Nat) - f.bias - f.t)

/-- R106. -/
def decodeVal (ty : ElemType) (q : Nat) : Val :=
  match kindOf ty with
  | .flt f => f.decode q
  | .int w s => .ofInt (intOf w s q)

/-! ### Rounding (R101 to R108) -/

/-- Whether a magnitude is rounded up from `m` to `m + 1`: `rem / den` is the fraction above `m`, `even` tells
whether `m` is the even neighbour (R101). -/
def roundsUp (rm : Rounding) (neg even : Bool) (rem den : Nat) : Bool :=
  match rm with
  | .rne => decide (den < 2 * rem) || (2 * rem == den && !even)
  | .rna => decide (den ≤ 2 * rem)
  | .rz => false
  | .rup => !neg && rem != 0
  | .rdn => neg && rem != 0

/-- floor(log2(n ÷ d)) of a positive quotient. -/
def floorLog2 (n d : Nat) : Int :=
  let e : Int := (n.log2 : Int) - d.log2
  let lower : Bool := if 0 ≤ e then decide (d * 2 ^ e.toNat ≤ n) else decide (d ≤ n * 2 ^ (-e).toNat)
  if lower then e else e - 1

/-- The code of a sign and a magnitude code. -/
def Fmt.withSign (f : Fmt) (neg : Bool) (m : Nat) : Nat :=
  if f.signed && neg then m + 2 ^ (f.width - 1) else m

/-- A zero of a format with the sign it came from, in a type that has −0 (R104, R105). -/
def Fmt.zeroCode (f : Fmt) (neg : Bool) : Nat :=
  if f.nan = some 0x80 ∨ !f.signed then 0 else f.withSign neg 0

def Fmt.nanCode (f : Fmt) : Nat := f.nan.getD 0

/-- The overflow result of R103 without OF and NX: its code and SA where it clamps. -/
def Fmt.overflow (f : Fmt) (neg : Bool) (rm : Rounding) (sat : Bool) : Nat × Flags :=
  if f.nan = none then (f.withSign neg f.maxfin, .sa)
  else if sat then (f.withSign neg f.maxfin, .sa)
  else if !f.hasInf then (f.nanCode, 0)
  else if f.width = 8 then (f.withSign neg (f.maxfin + 1), 0)
  else
    let clampToMax := match rm with | .rne | .rna => false | .rz => true | .rup => neg | .rdn => !neg
    (f.withSign neg (if clampToMax then f.maxfin else f.maxfin + 1), 0)

/-- The magnitude code chosen for a positive quotient (R101, R102): the code may exceed maxfin. The second component
says whether the choice is inexact. -/
def Fmt.choose (f : Fmt) (neg : Bool) (rm : Rounding) (n d : Nat) : Nat × Bool :=
  let emin : Int := if f.scale then -f.bias else 1 - f.bias
  let e := floorLog2 n d
  if f.scale ∧ e < emin then (0, true)
  else
    let q : Int := max e emin - f.t
    let n' := if 0 ≤ q then n else n * 2 ^ (-q).toNat
    let d' := if 0 ≤ q then d * 2 ^ q.toNat else d
    let m := n' / d'
    let rem := n' % d'
    let even : Bool := if f.t = 0 then m == 0 || (max e emin + f.bias) % 2 == 0 else m % 2 == 0
    let m' := if roundsUp rm neg even rem d' then m + 1 else m
    (((q + f.t + f.bias - 1) * 2 ^ f.t + m').toNat, rem != 0)

/-- The magnitude code of a format's min normal (R92, R99). -/
def Fmt.minNormal (f : Fmt) : Nat := if f.scale then 0 else 2 ^ f.t

/-- quant into a floating or scale type (R107), the exact value already divided by σ. -/
def Fmt.quant (f : Fmt) (rm : Rounding) (sat : Bool) (y : Val) : Nat × Flags :=
  match y with
  | .nan sig => (f.nanCode, if sig ∨ f.nan = none then .nv else 0)
  | .inf neg =>
    if f.scale ∧ neg then (f.nanCode, .nv)
    else if f.hasInf ∧ (f.signed ∨ !neg) then (f.withSign neg (f.maxfin + 1), 0)
    else if !f.signed ∧ neg then (if sat then (0, .nv ||| .sa) else (f.nanCode, .nv))
    else let (c, fl) := f.overflow neg rm sat; (c, fl ||| .nv)
  | .fin neg n d =>
    if f.scale ∧ (neg ∨ n = 0) then (f.nanCode, .nv)
    else if n = 0 then (f.zeroCode neg, 0)
    else
      let (m, inexact) := f.choose neg rm n d
      let nx : Flags := if inexact then .nx else 0
      if !f.signed ∧ neg ∧ m ≠ 0 then (if sat then (0, nx ||| .nv ||| .sa) else (f.nanCode, nx ||| .nv))
      else if f.maxfin < m then
        let (c, fl) := f.overflow neg rm sat
        (c, nx ||| fl ||| .of ||| .nx)
      else
        let uf : Flags := if inexact ∧ m < f.minNormal then .uf else 0
        (if m = 0 ∧ !f.scale then f.zeroCode neg else f.withSign neg m, nx ||| uf)

/-- The integer chosen for a value by a mode, and whether it is inexact (R101). -/
def roundToInt (rm : Rounding) (neg : Bool) (n d : Nat) : Int × Bool :=
  let m := n / d
  let rem := n % d
  let m' := if roundsUp rm neg (m % 2 == 0) rem d then m + 1 else m
  (if neg then -(m' : Int) else m', rem != 0)

def intMin (w : Nat) (signed : Bool) : Int := if signed then -(2 ^ (w - 1)) else 0
def intMax (w : Nat) (signed : Bool) : Int := if signed then 2 ^ (w - 1) - 1 else 2 ^ w - 1

/-- quant into an integer type (R103, R107). -/
def quantInt (w : Nat) (signed : Bool) (rm : Rounding) (y : Val) : Nat × Flags :=
  match y with
  | .nan _ => (0, .nv)
  | .inf neg => (codeOfInt w (if neg then intMin w signed else intMax w signed), .nv ||| .sa)
  | .fin neg n d =>
    let (v, inexact) := roundToInt rm neg n d
    if v < intMin w signed then (codeOfInt w (intMin w signed), .nv ||| .sa)
    else if intMax w signed < v then (codeOfInt w (intMax w signed), .nv ||| .sa)
    else (codeOfInt w v, if inexact then .nx else 0)

/-- An exact value divided by a positive scale; a NaN scale makes an invalid value (R107). -/
def Val.scaleDown (x σ : Val) : Val :=
  match σ with
  | .fin _ n d => (match x with | .fin s a b => .fin s (a * d) (b * n) | v => v)
  | _ => .nan true

/-- quant(x, fmt, σ, mode, sat) (R107): the code and the flags it raises. -/
def quant (ty : ElemType) (σ : Val) (rm : Rounding) (sat : Bool) (x : Val) : Nat × Flags :=
  let y := x.scaleDown σ
  match kindOf ty with
  | .flt f => f.quant rm sat y
  | .int w s => quantInt w s rm y

/-- quant with σ = 1. -/
def quant1 (ty : ElemType) (rm : Rounding) (sat : Bool) (x : Val) : Nat × Flags :=
  match kindOf ty with
  | .flt f => f.quant rm sat x
  | .int w s => quantInt w s rm x

def isIntType (ty : ElemType) : Bool :=
  match kindOf ty with | .int _ _ => true | .flt _ => false

/-- A conversion between types (R109, R110). -/
def convert (src dst : ElemType) (rm : Rounding) (sat : Bool) (q : Nat) : Nat × Flags :=
  if src = dst then (q % 2 ^ elemBits src, 0)
  else
    match kindOf src, kindOf dst with
    | .int w s, .int w' s' =>
      let v := intOf w s q
      if sat then
        if v < intMin w' s' then (codeOfInt w' (intMin w' s'), .sa)
        else if intMax w' s' < v then (codeOfInt w' (intMax w' s'), .sa)
        else (codeOfInt w' v, 0)
      else (codeOfInt w' v, 0)
    | _, _ => quant1 dst rm sat (decodeVal src q)

/-! ### IEEE 754-2019 minimum, maximum, minimumNumber, maximumNumber on codes (R135, R153, R275) -/

/-- The lesser (or greater) operand bit for bit, −0 below +0. -/
def pickCode (max : Bool) (a b : Val) (qa qb : Nat) : Nat :=
  let aLess := match Val.cmp a b with | some .lt => true | some .eq => a.sign && !b.sign | _ => false
  if max then (if aLess then qb else qa) else (if aLess || Val.cmp a b = some .eq && a.sign == b.sign then qa else qb)

/-- minimum and maximum: a NaN operand gives the canonical NaN, with NV for a signalling one. -/
def minMax (ty : ElemType) (max : Bool) (qa qb : Nat) : Nat × Flags :=
  let a := decodeVal ty qa
  let b := decodeVal ty qb
  if a.isNan || b.isNan then ((quant1 ty .rne false (.nan false)).1, if a.isSig || b.isSig then .nv else 0)
  else (pickCode max a b qa qb, 0)

/-- minimumNumber and maximumNumber: a NaN gives way to a number. -/
def minMaxNum (ty : ElemType) (max : Bool) (qa qb : Nat) : Nat × Flags :=
  let a := decodeVal ty qa
  let b := decodeVal ty qb
  let fl : Flags := if a.isSig || b.isSig then .nv else 0
  if a.isNan && b.isNan then ((quant1 ty .rne false (.nan false)).1, fl)
  else if a.isNan then (qb, fl)
  else if b.isNan then (qa, fl)
  else (pickCode max a b qa qb, fl)

/-- FCVT's f32_rint (R136): an integral FP32 value under the mode. -/
def rint (rm : Rounding) (q : Nat) : Nat × Flags :=
  match Fmt.f32.decode q with
  | .nan s => (0x7FC00000, if s then .nv else 0)
  | .inf neg => (Fmt.f32.withSign neg 0x7F800000, 0)
  | .fin neg n d =>
    let (v, inexact) := roundToInt rm neg n d
    ((Fmt.f32.quant rm false (.fin neg v.natAbs 1)).1, if inexact then .nx else 0)

end Sys2Proof.Machine
end

