-- ==== Sys2Proof/Machine/Store.lean ====
section
/-! DEFINITION. Sparse stores in one canonical form: keys strictly rising, no entry equal to what an unlisted key reads
as. Device and host memory, tiles, accumulators, rings and the data area are such stores. -/

namespace Sys2Proof.Machine

/-- A list sorted by `le`, elements that it does not tell apart staying in their order. -/
def insertBy {α : Type} (le : α → α → Bool) (x : α) : List α → List α
  | [] => [x]
  | y :: ys => if le x y then x :: y :: ys else y :: insertBy le x ys
def sortBy {α : Type} (l : List α) (le : α → α → Bool) : List α := l.foldr (insertBy le) []

/-- A sparse store. -/
abbrev SMap (α : Type) := List (Nat × α)

namespace SMap

variable {α : Type}

/-- The value at a key; `d` is what an unlisted key reads as. -/
def get (d : α) : SMap α → Nat → α
  | [], _ => d
  | (k, v) :: m, j => if k = j then v else get d m j

/-- The entry at a key, if one is listed. -/
def find? : SMap α → Nat → Option α
  | [], _ => none
  | (k, v) :: m, j => if k = j then some v else if j < k then none else find? m j

/-- The store with a key put in, whatever its value. -/
def put : SMap α → Nat → α → SMap α
  | [], j, x => [(j, x)]
  | (k, v) :: m, j, x => if k = j then (j, x) :: m else if j < k then (j, x) :: (k, v) :: m else (k, v) :: put m j x

/-- The store with a key taken out. -/
def erase : SMap α → Nat → SMap α
  | [], _ => []
  | (k, v) :: m, j => if k = j then m else if j < k then (k, v) :: m else (k, v) :: erase m j

/-- The store with a key written: writing the unlisted value removes the entry. -/
def set [DecidableEq α] (d : α) (m : SMap α) (j : Nat) (x : α) : SMap α := if x = d then erase m j else put m j x

/-- Whether every key lies above `lo`, the keys rise strictly, and no value is the unlisted one. -/
def wfFrom [DecidableEq α] (d : α) : Option Nat → SMap α → Bool
  | _, [] => true
  | lo, (k, v) :: m => (match lo with | none => true | some l => decide (l < k)) && decide (v ≠ d) && wfFrom d (some k) m

/-- The canonical form. -/
def wf [DecidableEq α] (d : α) (m : SMap α) : Bool := wfFrom d none m

/-- Consecutive keys written from a list of values. -/
def setRange [DecidableEq α] (d : α) (m : SMap α) (j : Nat) : List α → SMap α
  | [] => m
  | x :: xs => setRange d (set d m j x) (j + 1) xs

/-- Consecutive values read. -/
def getRange (d : α) (m : SMap α) (j n : Nat) : List α := (List.range n).map (fun i => get d m (j + i))

/-- The entries whose keys meet a test, taken out. -/
def drop (m : SMap α) (p : Nat → Bool) : SMap α := m.filter (fun e => !p e.1)

end SMap

/-- The little-endian number of bytes (R7), and the low bytes of a number. -/
def ofBytes (bs : List Byte) : Nat := natOfBytes bs
def toBytes (n v : Nat) : List Byte := (List.range n).map (fun i => BitVec.ofNat 8 (v / 256 ^ i))

/-- The canonical memory and its unlisted byte (log 5, spec/21 R429 step 5: zeroed at bring-up). -/
abbrev Memory := List Host.Cell
def Memory.read (m : Memory) (a : Nat) : Byte := SMap.get 0 m a
def Memory.write (m : Memory) (a : Nat) (b : Byte) : Memory := SMap.set 0 m a b
def Memory.wf (m : Memory) : Bool := SMap.wf (0 : Byte) m
def Memory.readN (m : Memory) (a n : Nat) : List Byte := SMap.getRange 0 m a n
def Memory.writeN (m : Memory) (a : Nat) (bs : List Byte) : Memory := SMap.setRange 0 m a bs

/-! ### The line code (spec/20 R415, R416) -/

namespace Line

/-- Multiplication by α in GF(2^8) with x^8 + x^4 + x^3 + x^2 + 1 (R415). -/
def mulA (x : Byte) : Byte := let y := x <<< 1; if x.getLsbD 7 then y ^^^ 0x1D else y
def mulPow : Nat → Byte → Byte
  | 0, x => x
  | k + 1, x => mulA (mulPow k x)
/-- The product of two field elements. -/
def mul (a b : Byte) : Byte :=
  (List.range 8).foldl (fun acc i => if b.getLsbD i then acc ^^^ mulPow i a else acc) 0

/-- The syndrome of 68 symbols at α^j: the symbols are the coefficients from the highest power down. -/
def syndrome (j : Nat) (symbols : List Byte) : Byte := symbols.foldl (fun acc x => mulPow j acc ^^^ x) 0

/-- The three check symbols of the 64 data bytes and the TAG byte: the remainder of the message times x³ modulo
(x − α)(x − α²)(x − α³). -/
def check (data : List Byte) (tag : BitVec 4) : List Byte :=
  -- the generator x³ + g2 x² + g1 x + g0
  let a1 := mulPow 1 1
  let a2 := mulPow 2 1
  let a3 := mulPow 3 1
  let g2 := a1 ^^^ a2 ^^^ a3
  let g1 := mul a1 a2 ^^^ mul a1 a3 ^^^ mul a2 a3
  let g0 := mul (mul a1 a2) a3
  let r := (data ++ [tag.zeroExtend 8]).foldl (fun (r : Byte × Byte × Byte) x =>
    let f := r.1 ^^^ x
    (r.2.1 ^^^ mul f g2, r.2.2 ^^^ mul f g1, mul f g0)) (0, 0, 0)
  [r.1, r.2.1, r.2.2]

/-- What a controller's read of a line finds (R416). -/
inductive Decoded where
  | clean
  | poisoned
  | corrected (symbol : Nat) (error : Byte)
  | uncorrectable
  deriving DecidableEq, Repr

/-- Decoding 68 symbols in the order of R416. -/
def decodeSymbols (symbols : List Byte) : Decoded :=
  let s1 := syndrome 1 symbols
  let s2 := syndrome 2 symbols
  let s3 := syndrome 3 symbols
  let p : List Byte := List.replicate 65 0 ++ [1, 1, 1]
  if s1 = 0 ∧ s2 = 0 ∧ s3 = 0 then .clean
  else if s1 = syndrome 1 p ∧ s2 = syndrome 2 p ∧ s3 = syndrome 3 p then .poisoned
  else
    -- an error of value v at coefficient power i has syndromes v·α^i, v·α^2i, v·α^3i
    match (List.range 68).find? (fun i => mulPow i s1 == s2 && mulPow i s2 == s3) with
    | some i =>
      -- v = s1 ÷ α^i = s1·α^(255 − i)
      if s1 = 0 then .uncorrectable else .corrected (67 - i) (mulPow (255 - i) s1)
    | none => .uncorrectable

end Line

end Sys2Proof.Machine
end

