-- ==== Sys2Proof/Machine/CoreState.lean ====
section
/-! DEFINITION. The state of one core (spec/01 R20 to R29, 02 R35 to R46, 05, 06, 07, 11 R241, 13, 16, 19, 20). -/

namespace Sys2Proof.Machine

/-- A loop-stack entry (R120). -/
structure LoopEntry where
  first : Nat
  last : Nat
  remaining : Nat
  level : Nat
  deriving DecidableEq, Repr

/-- An engine's ring: its slots, the window's base and the stream's length in words (R40, R41). The trap window is
one with 256 slots (R407). -/
structure Ring where
  slots : SMap Word64 := []
  base : Nat := 0
  len : Nat := 0
  deriving DecidableEq, Repr

/-- What a trap reports (R406, R409): cause, TRAP_ADDR, TRAP_INFO; `late` tells a condition that its word met after its issue,
with its WAIT byte performed (log 80). -/
structure TrapInfo where
  cause : Nat
  addr : Nat := 0
  info : Nat := 0
  late : Bool := false
  deriving DecidableEq, Repr

/-- What follows a signal once it has been performed: the trap of a TRAP, BRK or SAFE (R124, R339), a SAFE's parking with
its group and live map (R369), or the abandonment by a handler's END (R118, R412). -/
inductive After where
  | nothing
  | trap (t : TrapInfo)
  | park (group map : Nat)
  | abandon
  deriving DecidableEq, Repr

/-- A signal still to be performed, in stream order (R45, R46), whether a trap handler's word carries it, and what follows
it. -/
structure SigEntry where
  id : Nat
  ready : Bool
  sig : Signal
  pc : Nat
  inTrap : Bool := false
  after : After := .nothing
  deriving DecidableEq, Repr

/-- One engine (R40, R41, R44 to R46, R112, R114, R120, R121). `pause` is the core cycle up to which a PAUSE holds
issue (R118), with the identity its signal is queued under; `parked` is the SAFE's group and live map (R369); `held` is a
fault met in trap mode (R405), with the word it stopped; `taken` tells that the word at the PC has issued, its WAIT byte
performed, and waits for the end of its own effect (R33, R122, R123, R436). -/
structure Eng where
  pc : Nat := 0
  link : List Nat := []
  loops : List LoopEntry := []
  flags : BitVec 6 := 0
  ended : Bool := false
  parked : Option (Nat × Nat) := none
  pause : Option (Nat × Nat) := none
  sigs : List SigEntry := []
  held : Option (Nat × TrapInfo) := none
  k : Vector Word64 16 := Vector.replicate 16 0
  ring : Ring := {}
  taken : Bool := false
  deriving DecidableEq, Repr

/-- Handle states (R291, R293). -/
inductive HState where
  | free | filling | full | draining
  deriving DecidableEq, Repr

/-- A sliding window (R305): the descriptor's fields, the policy and scope of its WIN, and the next row index to fetch. -/
structure Window where
  base : Nat
  rstride : Int
  rowb : Nat
  trows : Nat
  slots : Nat
  first : Nat
  next : Nat
  deriving DecidableEq, Repr

/-- A handle (R123, R291 to R294, R305), with the flags of conversions that go to C's FLAGS at FULL (R113). -/
structure Handle where
  st : HState := .free
  base : Nat := 0
  expected : Nat := 0
  counted : Nat := 0
  pending : Nat := 0
  rcd : Option (Nat × Nat) := none
  widest : Nat := 0
  flags : BitVec 6 := 0
  win : Option Window := none
  deriving DecidableEq, Repr

/-- For each engine, the identity below which its requests are known to happen before a point (R228). -/
structure Clock where
  s : Nat := 0
  v : Nat := 0
  m : Nat := 0
  c : Nat := 0
  deriving DecidableEq, Repr

/-- What each engine has learnt by its acquires and what each token queue carries (R39, R227, R228). -/
structure Clocks where
  eng : Vector Clock 4 := Vector.replicate 4 {}
  queue : Vector Clock 12 := Vector.replicate 12 {}
  deriving DecidableEq, Repr

/-- What a cycle of the core samples at its start (R38): the cycle, the last engine that has acted in it, the tokens and the
room of each queue still open to the waits of the cycle, the handles' states, and the flags that C's transfers have set in
it (R113), the shared tiles that are FULL (R147), and the handle signals performed in it, each with its handle before it. -/
structure Sample where
  cycle : Nat
  last : Option Nat := none
  avail : Vector Nat 12
  room : Vector Nat 12
  handles : Vector HState 64
  full : List Nat := []
  sigs : List (Nat × Engine × SigEntry × Handle) := []
  raised : BitVec 6 := 0
  deriving DecidableEq, Repr

/-- The vector shape (R142): rows and columns as numbers, the stride in bytes. -/
structure VShape where
  rows : Nat := 8
  cols : Nat := 32
  ty : ElemType := .f32
  stride : Nat := 128
  deriving DecidableEq, Repr

/-- The matrix shape (R173). -/
structure MShape where
  a : ElemType := .e4m3
  b : ElemType := .e4m3
  blk : BlkMode := .none
  sparse : Bool := false
  rows : Nat := 32
  cols : Nat := 64
  kgroups : Nat := 1
  deriving DecidableEq, Repr

/-- An accumulator tile's records (R174): its class, and its scale product as (odd part, power of two). -/
inductive AccClass where
  | flt | int
  deriving DecidableEq, Repr
structure AccRec where
  cls : Option AccClass := none
  prod : Option (Nat × Int) := none
  deriving DecidableEq, Repr

/-- The state of an L1 word (R241). A clean word tells whether an .inv load filled it; `kept` is such a word after an
acquire, which only .inv loads may still hit (R235, R243). A dirty word tells which bytes the core wrote (R224, R244)
and whether its other bytes are a valid copy. -/
inductive L1State where
  | clean (inv : Bool) | kept | registered | dirty (bytes : BitVec 4) (whole : Bool) | owned
  deriving DecidableEq, Repr

structure L1Word where
  st : L1State
  val : Word32
  deriving DecidableEq, Repr

/-- What a request asks of the home (R242, R251). -/
inductive ReqKind where
  | load
  | store
  | atomic (op : Aop)
  | cas (cmp : Nat)
  | writeback
  deriving DecidableEq, Repr

/-- What comes back for a request: a value, or poison at a virtual address (R260). -/
inductive Reply where
  | value (v : Nat) | poison (va : Nat)
  deriving DecidableEq, Repr

/-- One access of a load, store, gather or scatter still to be sent (R152, R224): load or store, with the store's data. -/
structure Todo where
  store : Bool
  pol : Policy
  inv : Bool
  va : Nat
  n : Nat
  data : Nat
  deriving DecidableEq, Repr

/-- One element of a memory instruction in flight, or one word of an eight-byte access: what is still to be sent, its request, where
its result goes, and what returned. -/
structure Part where
  req : Nat
  idx : Nat
  got : Option Reply
  todo : Option Todo := none
  deriving DecidableEq, Repr

/-- An atomic to global memory (R270 to R274) with its operands as sampled at its issue; `d` is none for RED. -/
structure AtomicOp where
  kind : ReqKind
  bytes : Nat
  pol : Policy
  scope : Scope
  rel : Bool
  acq : Bool
  d : Option (Fin 32)
  v : Word64
  va : Nat
  deriving DecidableEq, Repr

/-- A memory instruction of S that has issued and is still to be performed, with its operands as sampled at its issue: an earlier
FENCE, acquire, release or access to the same word comes first (R265, R274, R283, R436). The data-area forms carry an offset. -/
inductive MemOp where
  | atomic (w : AtomicOp)
  | lds (n : Nat) (sext : Bool) (d : Fin 32) (o : Nat)
  | sts (n o data : Nat)
  | atoms (op : Aop) (rel acq : Bool) (d : Fin 32) (v : Word64) (o : Nat)
  | pref (pol : Policy) (lines va : Nat)
  | flush (va : Nat)
  deriving DecidableEq, Repr

/-- What an instruction in flight does when its last part is back, or when its own conditions are met (R152, R263, R268, R269, R271,
R273, R274, R283). -/
inductive FlightKind where
  | load (d : Fin 32) (bytes : Nat) (sext : Bool)
  | store
  | atom (d : Fin 32)
  | gather (t : Fin 256) (bytes : Nat) (zeroed : List Nat)
  | scatter
  | fence (kind : FenceKind) (scope : Scope)
  | flush (line : Nat)
  | waiting (op : MemOp)
  deriving DecidableEq, Repr

/-- An issued instruction that has not finished (R45, R269); `acq` is the scope of an ordered atomic's acquire
(R274), `inTrap` tells a trap handler's word, and `pushed` the point at which a release, all that precedes it being performed, sent the
core's dirty words home. -/
structure Flight where
  id : Nat
  eng : Engine
  pc : Nat
  kind : FlightKind
  parts : List Part
  acq : Option Scope := none
  inTrap : Bool := false
  pushed : Option Nat := none
  deriving DecidableEq, Repr

/-- An access stalled on a fault-buffer entry (R395): its address in the task's space, or the request that it is, a held sequenced
contribution (R280) or, with `wb`, a write-back to a locked page (R392). -/
structure FaultEntry where
  eng : Engine
  va : Nat
  req : Option Nat
  wb : Bool := false
  deriving DecidableEq, Repr

/-- The commands of the stream engine (R287). -/
inductive CKind where
  | copy | copyc | gather | scatter | fill | win | adv (rows : Nat) | wend | xform | xpq | send | recv
  | coll (op : CollOp) | pref | code | cflush
  deriving DecidableEq, Repr

/-- A C command: what it does, its handle (63: none), policy, scope and role (R291). -/
structure CCmd where
  kind : CKind
  hd : Fin 64
  pol : Policy
  scope : Scope
  drain : Bool
  deriving DecidableEq, Repr

/-- A journal entry (R289, R290): the command, its offset, its descriptor, its handle's base at issue, the bytes it counts,
the (TMR, version) pair it fixed at issue, the window row it starts at, whether it was cancelled by an earlier entry's
fault, its fault, and, once all is moved, its flags and the pair it offers, while it waits for acknowledgements or for its release
(R227, R250, R292). `made` lists the pieces made already, with the flags they raised and the version that the first of their lines
resolved to (R198, R224). -/
structure JEntry where
  id : Nat
  pc : Nat
  cmd : CCmd
  desc : List Byte
  base : Nat
  count : Nat
  tmr : Option (Nat × Nat)
  row : Nat
  cancelled : Bool
  fault : Option TrapInfo
  moved : Option (BitVec 6 × Option (Nat × Nat)) := none
  made : List Nat := []
  raised : BitVec 6 := 0
  found : Option Nat := none
  deriving DecidableEq, Repr

/-- Counts of the store path (R168, R202). -/
structure Counts where
  hist : List Nat := List.replicate 32 0
  ovf : Nat := 0
  sat : Nat := 0
  ufz : Nat := 0
  nanInf : Nat := 0
  elems : Nat := 0
  blocks : Nat := 0
  wideblk : Nat := 0
  deriving DecidableEq, Repr

/-- A slot of the statistics unit (R201, R215): its TMR, its pending counts, and the version it was rebound to. The least
recently fed slot stands first. -/
structure StatSlot where
  tmr : Nat
  counts : Counts := {}
  rebound : Option Nat := none
  deriving DecidableEq, Repr

/-- The unit that holds S back (R436): the instruction, its destination, what it asks of the unit, and the answer. -/
structure UnitHold where
  id : Nat
  cmd : Instr
  d : Fin 32
  arg : Nat
  arg2 : Nat
  answer : Option Nat
  fault : Option TrapInfo
  deriving DecidableEq, Repr

/-- S's task state set aside at trap entry (R405). -/
structure SavedS where
  pc : Nat
  link : List Nat
  loops : List LoopEntry
  ended : Bool
  pause : Option (Nat × Nat)
  parked : Option (Nat × Nat)
  taken : Bool := false
  deriving DecidableEq, Repr

/-- The trap registers and what trap mode keeps (R405, R406, R410, R411, R413): the trapped engine, whether the trap came at
an instruction boundary (cause 0x09), after its word's issue or with subcode 0x07, and the faulting command of C. -/
structure TrapState where
  mode : Bool := false
  engine : Engine := .S
  cause : Nat := 0
  eng : Nat := 0
  pc : Nat := 0
  addr : Word64 := 0
  info : Word64 := 0
  pcWritten : Bool := false
  boundary : Bool := false
  late : Bool := false
  sub07 : Bool := false
  hostHeld : Bool := false
  saved : Option SavedS := none
  cEntry : Option JEntry := none
  deriving DecidableEq, Repr

/-- A live map's item (R81, R86): its kind, first and count. -/
structure MapItem where
  kind : Nat
  first : Nat
  count : Nat
  deriving DecidableEq, Repr

structure LiveMap where
  number : Nat
  group : Nat
  eng : Nat
  items : List MapItem
  deriving DecidableEq, Repr

/-- What the loaded code object gives the core (R85 to R87): where its streams and trap section lie, its declarations,
live maps and data image, and how it identifies itself for a warm launch (R26), with the ring fields that its rings are
partitioned by (R313). -/
structure ObjectInfo where
  ctx : Nat := 0
  addr : Nat := 0
  rings : Nat := 0
  streams : List (Nat × Nat) := []
  trapAt : Nat := 0
  trapLen : Nat := 0
  tiles : List (Nat × Nat × Nat) := []
  queues : List Nat := []
  handles : List Nat := []
  maps : List LiveMap := []
  image : List Byte := []
  deriving DecidableEq, Repr

/-- A range register (R383): virtual base and size in 64 KiB units, the kind with a streamed range's layer (R86), and
its bits. -/
structure RangeReg where
  vbase : Nat := 0
  units : Nat := 0
  valid : Bool := false
  kind : Nat := 0
  layer : Nat := 0
  rdonly : Bool := false
  deny : Bool := false
  remote : Bool := false
  deriving DecidableEq, Repr

/-- What the data area held before a write: the runs (start, length) written, and the bytes it replaced. -/
structure Image where
  runs : List (Nat × Nat)
  bytes : SMap Byte
  deriving DecidableEq, Repr

/-- What an instruction does to an accumulator tile's elements (R170): M's product, from its A operand's bytes at an offset and the weight
buffer from a start; MZERO; or VZLD. -/
inductive AccWork where
  | product (sh : MShape) (src : SMap Byte) (at_ : Nat) (wbuf : SMap Byte) (start : Nat)
  | zero
  | load
  deriving DecidableEq, Repr

/-- An instruction that has updated an accumulator tile, with what the accumulators held before (R170): of M's the elements that VZLD has
overwritten since, of VZLD's the elements and the values it loaded. -/
structure AccMark where
  z : Nat
  work : AccWork
  elems : List Nat := []
  before : SMap Word32
  after : List (Nat × Nat) := []
  deriving DecidableEq, Repr

/-- A command in flight as the scratchpad order checker sees it (R238): its engine and offset, of a C command its journal entry
and the handle it names, the data-area runs it reads and writes, and whether a fault holds it back (R290). At level 0, `old` is what
its writes replaced, and `met` what others replaced since its issue (R240). `acc` is what it did to an accumulator tile (R170), `d` the
register that an LDS or ATOMS of S writes: a use of it shows that the instruction has finished (R44). -/
structure Footprint where
  held : Bool := false
  eng : Nat := 3
  id : Nat := 0
  pc : Nat
  handle : Option Nat := none
  reads : List (Nat × Nat)
  writes : List (Nat × Nat)
  old : List Image := []
  met : List Image := []
  acc : Option AccMark := none
  d : Option (Fin 32) := none
  deriving DecidableEq, Repr

/-- One core. -/
structure Core where
  /-- The task bound to the core and its position in the gang, none while the core is free (R29). -/
  task : Option Nat := none
  gangPos : Nat := 0
  started : Bool := false
  /-- The context of the last task that ran here (R26). -/
  lastCtx : Option Nat := none
  part : Word64 := 0x84103333
  engS : Eng := {}
  engV : Eng := {}
  engM : Eng := {}
  engC : Eng := {}
  s : Vector Word64 32 := Vector.replicate 32 0
  p : Vector Bool 8 := Vector.replicate 8 false
  m : Vector (BitVec 2048) 8 := Vector.replicate 8 0
  queues : Vector (List Word32) 12 := Vector.replicate 12 []
  handles : Vector Handle 64 := Vector.replicate 64 {}
  vshape : VShape := {}
  mshape : MShape := {}
  /-- Tile bytes at t × 1,024 + j, the data area, the weight buffer with its layout bits (one per 64 bytes), the
  accumulator elements at z × 2,048 + i with the tiles' records, and the shared tiles that are FULL. -/
  tiles : SMap Byte := []
  data : SMap Byte := []
  wbuf : SMap Byte := []
  wlay : List Nat := []
  acc : SMap Word32 := []
  accRec : SMap AccRec := []
  fullTiles : List Nat := []
  /-- What the fill of a shared tile released (R227, R228). -/
  tileClocks : SMap Clock := []
  /-- Shared tiles that a gather's finish fills, in the step in which its signal is performed (R147). -/
  fills : List (Nat × Clock) := []
  trap : TrapState := {}
  trapRing : Ring := {}
  obj : ObjectInfo := {}
  ranges : Vector RangeReg 16 := Vector.replicate 16 {}
  l1 : SMap L1Word := []
  /-- The name, as context and intermediate line, under which a .si store last dirtied a line of the L1 (R389). -/
  l1Names : SMap (Nat × Nat) := []
  /-- Since which core cycle a line of the L1 has held clean or dirty words (R234, R244). -/
  l1Since : SMap Nat := []
  flights : List Flight := []
  faults : List FaultEntry := []
  journal : List JEntry := []
  /-- Entries in flight when the task was abandoned, whose partial writes stand (R412). -/
  stopped : List JEntry := []
  stats : List StatSlot := []
  versions : List (Nat × Nat) := []
  tmrCache : List Nat := []
  unit : Option UnitHold := none
  /-- A pre-emption request: since which core cycle, and the group its first SAFE fixed (R369); a PHASE's word and new
  partition while it drains (R374); a budget trap that waits for a boundary, and since when (R339). -/
  preempt : Option Nat := none
  preemptGroup : Option Nat := none
  phase : Option (Hdr × Word64) := none
  budget : Option Nat := none
  budgetTaken : Bool := false
  /-- Since which core cycle every live engine has been blocked (R376). -/
  blockedSince : Option Nat := none
  checker : List Footprint := []
  /-- The code feed's reads under way, by the engine they feed (R41). -/
  feeds : List Engine := []
  clocks : Clocks := {}
  sample : Option Sample := none
  /-- The layer that an LWAIT of S waits for (R365, R366). -/
  lwait : Option Nat := none
  /-- The eight-byte granules of the data area and of the weight buffer that hold an uncorrectable soft error (R419). -/
  upsets : List Nat := []
  wupsets : List Nat := []
  /-- The entries of the pool's other parts that hold one. -/
  soft : List (PoolPart × Nat) := []
  deriving DecidableEq, Repr

/-- A core at reset (R22, R26, R115, R142, R144, R173, R406). -/
def Core.reset : Core := {}

end Sys2Proof.Machine
end

