-- ==== Sys2Proof/Machine/PackageState.lean ====
section
/-! DEFINITION. The state of the package outside its cores: coherence (spec/11, 12), contexts and layers (16), the
sluice (15), the governor (08), isolation and management (19), recovery (20), power and bring-up (21), the fabric (13). -/

namespace Sys2Proof.Machine

/-! ### Coherence -/

/-- A directory entry (R247) with the cluster vectors of the other dies' slices (R253); `busy` names the request that
holds BUSY, `dieDirty` tells that the slice at ODIE holds the line in M, `claim` names the slot recalled for a request that
asks for ownership, `conflict` tells that a host request which collided with a snoop is still to come (R256), and `hostLine` is
what the device's slice holds of a host line: 1 shared, 2 exclusive (R257). -/
structure Dir where
  clu : BitVec 32 := 0
  die : BitVec 4 := 0
  owned : BitVec 16 := 0
  own0 : Nat := 0
  v0 : Bool := false
  own1 : Nat := 0
  v1 : Bool := false
  older : Bool := false
  who : BitVec 16 := 0
  odie : Nat := 0
  lst : Nat := 0
  mstale : Bool := false
  host : Nat := 0
  busy : Option Nat := none
  dieDirty : Bool := false
  remote : SMap (BitVec 32) := []
  claim : Option Bool := none
  conflict : Bool := false
  hostLine : Nat := 0
  deriving DecidableEq, Repr

/-- How far a request has come: at the home's door, applied with acknowledgements awaited, or answered. -/
inductive ReqStage where
  | sent | acks | done
  deriving DecidableEq, Repr

/-- A memory request under way (R246 to R251, R269, R278): the issuing core and engine, the physical byte address and
size, the intermediate name it was sent under, the data, the core's own dirty words (key, value, bytes) that travel with
it, the contributor index of a sequenced atomic with its object's NCON, the value that answers it, its word's offset,
the name that a write-back is translated by (R389), whether the line may be
delegated (R251, R253), the point of its instruction's issue, whether it is the second word of an eight-byte access (R224), and
whether a trap handler's word sent it (R412). -/
structure Req where
  id : Nat
  core : Nat
  eng : Engine
  kind : ReqKind
  pol : Policy
  inv : Bool
  addr : Nat
  size : Nat
  va : Nat
  ctx : Nat
  ia : Nat
  data : Nat
  wb : List (Nat × Word32 × BitVec 4)
  seq : Option Nat
  ncon : Nat
  stage : ReqStage
  reply : Nat := 0
  pc : Nat := 0
  name : Option (Nat × Nat) := none
  delegable : Bool := true
  since : Nat := 0
  half : Bool := false
  inTrap : Bool := false
  deriving DecidableEq, Repr

/-- A recall of owned words on its way to a core, for a request or for the host (R249). -/
structure Recall where
  core : Nat
  line : Nat
  words : BitVec 16
  req : Nat
  deriving DecidableEq, Repr

/-- An invalidation on its way to a cluster, or its acknowledgement on its way back (R249, R250): the core whose next
release awaits it, and the request that awaits it. -/
structure Inval where
  line : Nat
  cluster : Nat
  delivered : Bool
  writer : Option Nat
  keep : Bool
  req : Option Nat
  deriving DecidableEq, Repr

/-- A snoop of the host (R255): whether it takes the line away, the request that awaits it (0 for a unit), and whether the
host has announced a conflict, which the device then acknowledges (R256). -/
structure Snoop where
  line : Nat
  inv : Bool
  req : Nat
  conflict : Bool := false
  deriving DecidableEq, Repr

/-- A contribution held in a weir (R279, R280), in arrival order. It holds its word's name, no translation (R394); `out` tells that its
object's declaration has gone, and that it awaits only its line (R281). -/
structure WeirEntry where
  slice : Nat
  contributor : Nat
  req : Nat
  core : Nat
  eng : Engine
  op : Aop
  data : Nat
  ctx : Nat
  ia : Nat
  va : Nat
  pc : Nat := 0
  inTrap : Bool := false
  since : Nat := 0
  out : Bool := false
  deriving DecidableEq, Repr

/-- A next-contributor counter (R279): its word's intermediate name, and the next index. -/
structure SeqCounter where
  ctx : Nat
  ia : Nat
  next : Nat
  deriving DecidableEq, Repr

/-- An update of a TMR at its home (R193, R210): a statistics merge of a core, a line's new tag beside its old one, a software hold set
or released by an instruction of a core, an evaluation asked for, a scope's trigger, and what a task's leaving its cores or a rise of COVER may settle (R199). -/
inductive TmrUpdate where
  | merge (core : Nat) (c : Counts)
  | cover (old : BitVec 4) (v : Nat)
  | hold (core : Nat)
  | release (core : Nat)
  | ask
  | pend (scope : Nat)
  | settle (left : Bool)
  deriving DecidableEq, Repr

/-- Such an update that waits for the record's lines, in order. -/
structure TmrTask where
  ctx : Nat
  idx : Nat
  act : TmrUpdate
  deriving DecidableEq, Repr

/-- `hostReply` is what the last host access returned, none where it is marked poisoned (R255, R316, R417); `posted` lists the
writes of the package's units that wait for a line's BUSY or for a snoop of the host, in order (R248, R255), and `later` those that wait
for a page's lock, with its context and address (R392). -/
structure Coherence where
  dirs : SMap Dir := []
  reqs : List Req := []
  recalls : List Recall := []
  invals : List Inval := []
  snoops : List Snoop := []
  counters : List SeqCounter := []
  hostReply : Option (List Byte) := none
  weir : List WeirEntry := []
  tmrs : List TmrTask := []
  posted : List (Nat × List Byte × BitVec 4) := []
  later : List (Nat × Nat × List Byte) := []
  deriving DecidableEq, Repr

/-! ### Contexts, layers, scopes -/

inductive LayerState where
  | absent | arriving | resident | evicting | failed
  deriving DecidableEq, Repr

/-- What the residency manager holds of a layer (R358 to R361): its pages, the image and source (kind, package, address) read
at its arrival's start, and when it was last accessed (R364); `chosen` is the cycle in which it was chosen for eviction, and `met`
the last one in which an instruction met it (R368). -/
structure Layer where
  st : LayerState := .absent
  req : Bool := false
  fail : Nat := 0
  pins : Nat := 0
  lpins : Nat := 0
  pages : List Nat := []
  ibase : Nat := 0
  source : Nat × Nat × Nat := (0, 0, 0)
  access : Nat := 0
  chosen : Option Nat := none
  met : Option Nat := none
  deriving DecidableEq, Repr

inductive ScopeState where
  | free | opened | closing | complete
  deriving DecidableEq, Repr

/-- A finish scope (R346). -/
structure FScope where
  st : ScopeState := .free
  gen : BitVec 16 := 0
  parent : Nat := 0
  members : Nat := 0
  children : Nat := 0
  deriving DecidableEq, Repr

/-- A model context (R356): the descriptor, the enqueue counter (R323), layers and scopes, and the page tables that the residency
manager has added, as (entry, page) (log 97). -/
structure Ctx where
  valid : Bool := false
  evprio : Nat := 0
  detlevel : Nat := 0
  seed : Word64 := 0
  ptroot : Nat := 0
  ltab : Nat := 0
  lcount : Nat := 0
  tmrcount : Nat := 0
  tmrtab : Nat := 0
  rotab : Nat := 0
  save : Nat := 0
  saveslots : Nat := 0
  slotsused : Nat := 0
  lresb : Nat := 0
  taskSeq : Nat := 0
  layers : SMap Layer := []
  scopes : SMap FScope := []
  tables : List (Nat × Nat) := []
  deriving DecidableEq, Repr

/-! ### The sluice -/

/-- A queue control block (R324); PROD, CONS, EVPROD and EVCONS count records since the queue was enabled. -/
structure Queue where
  ring : Nat := 0
  rlog : Nat := 0
  ctx : Nat := 0
  en : Bool := false
  priv : Bool := false
  dlok : Bool := false
  devq : Bool := false
  qprio : Nat := 0
  evring : Nat := 0
  evlog : Nat := 0
  prod : Nat := 0
  cons : Nat := 0
  evprod : Nat := 0
  evcons : Nat := 0
  evlost : Nat := 0
  preemptWait : Nat := 0
  deriving DecidableEq, Repr

/-- Where a task stands (R323, R340, R372). -/
inductive TaskState where
  | enqueued | launching | running | preempted | retired
  deriving DecidableEq, Repr

/-- A task (R323, R326, R329, R338, R339): its record, what it latched at enqueue and at binding, its cores in gang order.
`issuer` is the core whose LAUNCH made it and `seen` tells that a selection has passed it by (R341); `locks` are the pages
whose migration locks its launch path holds, `waits` that the path waits for the host (R391), `layers` those its leases
declare (R368), `remote` its remote ranges as (lease, context, first address, bytes) (R392), `hot` its hotness ranges (R345);
`qprio` is the QPRIO it was first bound under (R353), `asked` the pages whose locks its path has asked for, with the context and
the fabric cycle (R392), and `pins` its pinned pages of device memory (R391). -/
structure Task where
  ctx : Nat
  queue : Nat
  seq : Nat
  record : List Byte
  st : TaskState
  order : Nat
  seed : Word64
  det : Nat
  bindTime : Nat
  cores : List Nat
  resumeAt : Nat
  budget : Nat
  budgetUsed : Nat
  fullPath : Bool := true
  issuer : Option Nat := none
  seen : Bool := false
  locks : List Nat := []
  waits : Bool := false
  layers : List Nat := []
  remote : List (Nat × Nat × Nat × Nat) := []
  hot : List (Nat × Nat × Nat) := []
  qprio : Option Nat := none
  asked : List (Nat × Nat × Nat) := []
  pins : List Nat := []
  loops : List (Nat × Nat)
  scopeGen : Nat
  deps : List (Nat × Nat)
  gangSize : Nat
  deriving DecidableEq, Repr

/-- A save slot in use (R372): the context, its slot number, the task, the gang place and the core's state, with the
atomics withdrawn from their homes (R371), and whether it is a hard save, which holds the whole pool. -/
structure Saved where
  ctx : Nat
  slot : Nat
  task : Nat
  place : Nat
  core : Core
  reqs : List Req := []
  hard : Bool := false
  deriving DecidableEq, Repr

/-- Per die: the sluice's round-robin pointers and reservation, the victims of its last round each with the cycle of its binding (R334
to R337), the governor's GOVEVAL requests as
(context, TMR, core) (R215), and the error log (R424, R425), with the records raised in the present cycle, by ascending channel. -/
structure LogChannel where
  count : Nat := 0
  last : Option Nat := none
  queue : List (List Byte) := []
  deriving DecidableEq, Repr

structure Die where
  lastSelect : Nat := 0
  rr : SMap Nat := []
  holder : Option Nat := none
  reserved : List Nat := []
  since : Nat := 0
  victims : List (Nat × Nat) := []
  asks : List (Nat × Nat × Nat) := []
  logWr : Nat := 0
  logCons : Nat := 0
  logLost : Nat := 0
  staged : List (Nat × List Byte) := []
  slots : SMap (List Byte) := []
  channels : SMap LogChannel := []
  deriving DecidableEq, Repr

/-! ### Isolation, management, power, fabric -/

/-- The shoot-down and migration block (R393), ownership (R400) with the cycle of a claim that a lower number of the same cycle
still wins (R401), trap-control selector (R414), the access tables
(R398) as the bytes of block 2 that differ from the open tables', the identity and placement registers (R397), and what the last read
of the registers returned, none for Unsupported Request (R396, R399). -/
structure Mgmt where
  owner : Nat := 0
  offer : Nat := 0
  epoch : Nat := 0
  hblimit : Nat := 0
  hbSince : Nat := 0
  claimAt : Option Nat := none
  sdCtx : Nat := 0
  sdAll : Bool := false
  sdBase : Nat := 0
  sdPages : Nat := 0
  sdBusy : Bool := false
  sdDone : Nat := 0
  sdWaits : List Nat := []
  mgCtx : Nat := 0
  mgPage : Nat := 0
  mgRes : Nat := 0
  tcSel : Nat := 0
  reply : Option Nat := none
  access : SMap Byte := []
  chHash : Word64 := 0x7F800
  pcHash : Word64 := 0x7F800
  place : Word64 := 0
  step : Nat := 0
  pkgId : Nat := 0
  resbase : List Nat := [0, 0, 0, 0]
  ressize : List Nat := [0, 0, 0, 0]
  deriving DecidableEq, Repr

/-- What the configuration image supplies (R404), beside the fields of the State that it is loaded into: `vmv` lists the islands whose
starting VMV is not 750, `access` the bytes of the access tables that differ from the open ones, `requesters` the PCIe requester
IDs of the two host sockets, `fabricMaster` the fabric manager's port and package, `functions` what SR-IOV enables, and `queueFn`
the function that a queue is assigned to (R396). -/
structure ConfigImage where
  pkgId : Nat := 0
  place : Word64 := 0
  chHash : Word64 := 0x7F800
  pcHash : Word64 := 0x7F800
  resbase : List Nat := [0, 0, 0, 0]
  ressize : List Nat := [0, 0, 0, 0]
  hblimit : Nat := 0
  cap : Nat := 2400
  scrubH : Nat := 0
  pprTh : Nat := 0
  vmv : SMap Nat := []
  requesters : List Nat := [0, 0]
  fabricMaster : Nat × Nat := (0, 0)
  functions : BitVec 16 := 0
  queueFn : SMap Nat := []
  access : SMap Byte := []
  deriving DecidableEq, Repr

/-- Scrub and repair (R418, R420, R421) with the rows whose repair was refused, the firmware window and the image in effect (R397, R404), the last SPDM answer (R403), and
the count of retirements (R426). -/
structure Recovery where
  scrubH : Nat := 0
  pprTh : Nat := 0
  remap : SMap Word64 := []
  scrubAt : SMap Nat := []
  rowErrors : SMap Nat := []
  kept : SMap Word64 := []
  refused : List Nat := []
  fwWindow : SMap Byte := []
  spdm : List Byte := []
  retired : Nat := 0
  image : ConfigImage := {}
  deriving DecidableEq, Repr

/-- An island (R431 to R435). `changing` is the fabric cycle at which a change of point ends; `cycles`, `since` and `frac`
count its cores' cycles; asleep, it holds the HORIZON of each cached TMR as (address, HORIZON) and the retirement count
(R426). `waits` is a reading that waits for the end of a change (R435). `slowed` counts the points that the package limit takes (R433), `applied` is the supply in force (R435). -/
structure Island where
  op : Nat := 3
  opcap : Nat := 0
  slack : Nat := 0
  vmv : Nat := 750
  demote : Bool := false
  changing : Option Nat := none
  waits : Option Nat := none
  slowed : Nat := 0
  applied : Nat := 750
  asleep : Bool := false
  horizons : List (Nat × Nat) := []
  retiredAt : Nat := 0
  cycles : Nat := 0
  since : Nat := 0
  frac : Nat := 0
  deriving DecidableEq, Repr

/-- The package's power (R432 to R435): the limit, readings, the tentering runs, the fabric cycles of the last decision about the limit and
of the last tentering pass, and what the last pass sent to the management controller, by island: SLACK, VMV and DEMOTE. -/
structure Power where
  cap : Nat := 2400
  stepped : Option Nat := none
  passed : Nat := 0
  report : SMap (Nat × Nat × Bool) := []
  now : Nat := 0
  tjMax : Nat := 0
  tentRuns : Nat := 0
  islands : SMap Island := []
  stage : Nat := 7
  recov : Bool := false
  deriving DecidableEq, Repr

/-- A fabric message in reassembly or received, or one sent, with its coded blocks (R310, R312). -/
structure Msg where
  port : Nat
  pkg : Nat
  mtag : Nat
  len : Nat
  data : List Byte
  blocks : List (List Byte) := []
  deriving DecidableEq, Repr

/-- `down` lists the packages that no link reaches any more (R427). -/
structure Fabric where
  domains : SMap Nat := []
  down : List Nat := []
  reply : Option (List Byte) := none
  ports : SMap Nat := []
  groups : SMap (List Nat) := []
  received : List Msg := []
  sent : List Msg := []
  deriving DecidableEq, Repr

end Sys2Proof.Machine
end

