-- ==== Sys2Proof/Machine/State.lean ====
section
/-! DEFINITION. The machine's state, its reset, and the reasons a step can stop. -/

namespace Sys2Proof.Machine

/-- Why the machine stops with a fault. -/
inductive Fault where
  /-- Raised by `step` when the schedule names a core that R20 does not give the package: safe, since no such core
  exists to act. -/
  | noSuchCore
  deriving DecidableEq, Repr

/-- Why the machine has no meaning for an instruction. -/
inductive Refusal where
  /-- Raised by an arm of `exec` whose instruction has no meaning yet: safe, the machine stops there. -/
  | notModelled (mnemonic : String)
  deriving DecidableEq, Repr

/-- The machine. `cur` is the core whose engine has the turn; `schedule` lists forced turns, after which turns come from
the free value Config.freeTurn at `turns` (log 1); `nextId` numbers requests, journal entries and tasks (log 2);
`fabric` counts fabric cycles since reset (R6, R138); `aliases` lists, by 64 KiB page, the names (context and intermediate page)
under which a physical page has been reached (R382, R390; log 81); `tlb` holds what the translation homes have cached, by context
and page: the leaf's address, the leaf as it was read, and its size (R389). `past` lists, by physical word, the values it has held, each
with the fabric cycle in which it was replaced (R235); `edge` is the start, in 3,696ths of a fabric cycle, of the latest core cycle in
which an engine has acted (R138; log 1); `views` are the older values that a name of a page with several names still
finds in its words (R390). -/
structure State where
  cur : Nat := 0
  schedule : List Turn := []
  turns : Nat := 0
  nextId : Nat := 1
  fabric : Nat := 0
  edge : Nat := 0
  cores : SMap Core := []
  mem : Memory := []
  side : SMap (BitVec 32) := []
  past : SMap (List (Nat × Word32)) := []
  views : SMap Word32 := []
  aliases : SMap (List (Nat × Nat)) := []
  tlb : SMap (Nat × Nat × Bool) := []
  coh : Coherence := {}
  ctxs : SMap Ctx := []
  queues : SMap Queue := []
  tasks : SMap Task := []
  saves : List Saved := []
  die0 : Die := {}
  die1 : Die := {}
  die2 : Die := {}
  die3 : Die := {}
  mgmt : Mgmt := {}
  rcv : Recovery := {}
  power : Power := {}
  fab : Fabric := {}
  deriving DecidableEq, Repr

/-- The machine right after reset and bring-up (R428, R429; logs 3 to 6). -/
def State.reset : State := {}

end Sys2Proof.Machine
end

