-- ==== Sys2Proof/Machine/Base.lean ====
section
/-! DEFINITION. Cores, registers, the partition word, time, lines of device memory and the L1 (spec/01 R20 to R25, 05 R114, 11
R241 to R244, 20 R415 to R417). -/

namespace Sys2Proof.Machine

/-- The outcome of a step of this machine. -/
abbrev Out := Host.Outcome State Fault Refusal

/-! ### Cores and engines -/

def Core.eng (c : Core) : Engine → Eng
  | .S => c.engS | .V => c.engV | .M => c.engM | .C => c.engC
def Core.setEng (c : Core) (e : Engine) (x : Eng) : Core :=
  match e with
  | .S => { c with engS := x } | .V => { c with engV := x } | .M => { c with engM := x } | .C => { c with engC := x }

def State.coreAt (s : State) (n : Nat) : Core := SMap.get Core.reset s.cores n
def State.setCoreAt (s : State) (n : Nat) (c : Core) : State := { s with cores := SMap.put s.cores n c }
/-- The core whose engine has the turn. -/
def State.core (s : State) : Core := s.coreAt s.cur
def State.setCore (s : State) (c : Core) : State := s.setCoreAt s.cur c
def State.modCore (s : State) (f : Core → Core) : State := s.setCore (f s.core)
def State.modCoreAt (s : State) (n : Nat) (f : Core → Core) : State := s.setCoreAt n (f (s.coreAt n))
def State.eng (s : State) (e : Engine) : Eng := s.core.eng e
def State.setEng (s : State) (e : Engine) (x : Eng) : State := s.setCore (s.core.setEng e x)
def State.modEng (s : State) (e : Engine) (f : Eng → Eng) : State := s.setEng e (f (s.eng e))

/-- Core identifiers (R247): die in [10:9], cluster in [8:4], core in [3:0]; the core numbers of the state are these. -/
def coreDie (n : Nat) : Nat := n / 512
def coreCluster (n : Nat) : Nat := n / 16
def coreClu (n : Nat) : Nat := n / 16 % 32
def coreInCluster (n : Nat) : Nat := n % 16
def coreExists (n : Nat) : Bool := decide (n < 2048 ∧ n % 16 < 12)
/-- The island of a core: CLU_ID × 4 + CORE_ID ÷ 3 within its die (R21). -/
def coreIsland (n : Nat) : Nat := coreDie n * 128 + coreClu n * 4 + coreInCluster n / 3

/-! ### Registers (R114) -/

def Core.readS (c : Core) (r : Fin 32) : Word64 := if r = 0 then 0 else c.s[r]
def Core.writeS (c : Core) (r : Fin 32) (v : Word64) : Core := if r = 0 then c else { c with s := c.s.set r v }
def Core.readP (c : Core) (r : Fin 8) : Bool := if r = 0 then true else c.p[r]
def Core.writeP (c : Core) (r : Fin 8) (v : Bool) : Core := if r = 0 then c else { c with p := c.p.set r v }
def Core.readK (c : Core) (e : Engine) (r : Fin 16) : Word64 := (c.eng e).k[r]
def Core.writeK (c : Core) (e : Engine) (r : Fin 16) (v : Word64) : Core :=
  c.setEng e { c.eng e with k := (c.eng e).k.set r v }
/-- A register field of a control word: an s register on S, a k register elsewhere (R53). -/
def Core.readR (c : Core) (e : Engine) (r : Fin 32) : Word64 :=
  if e = .S then c.readS r else c.readK e (Fin.ofNat 16 r.val)
def Core.writeR (c : Core) (e : Engine) (r : Fin 32) (v : Word64) : Core :=
  if e = .S then c.writeS r v else c.writeK e (Fin.ofNat 16 r.val) v
/-- Masks (R144): m0 reads ones and discards writes. -/
def Core.readM (c : Core) (r : Fin 8) : BitVec 2048 := if r = 0 then BitVec.allOnes 2048 else c.m[r]
def Core.writeM (c : Core) (r : Fin 8) (v : BitVec 2048) : Core := if r = 0 then c else { c with m := c.m.set r v }
/-- Flags accumulate by OR (R113). -/
def Core.addFlags (c : Core) (e : Engine) (f : Flags) : Core :=
  c.setEng e { c.eng e with flags := (c.eng e).flags ||| f }

/-! ### The partition word (R22, R23) -/

namespace Part

def field (p : Word64) (lo w : Nat) : Nat := p.toNat / 2 ^ lo % 2 ^ w
/-- A ring's bytes. -/
def ringBytes (p : Word64) (e : Engine) : Nat := (field p (4 * e.num) 4 + 1) * 4096
def ringWords (p : Word64) (e : Engine) : Nat := ringBytes p e / 8
def tiles (p : Word64) : Nat := 8 * field p 16 6
def accs (p : Word64) : Nat := 8 * field p 22 6
def l1Bytes (p : Word64) : Nat := 16384 * field p 28 5
/-- The bytes of the four rings, the tiles, the accumulators and the L1. -/
def taken (p : Word64) : Nat :=
  ringBytes p .S + ringBytes p .V + ringBytes p .M + ringBytes p .C + 1024 * tiles p + 8192 * accs p + l1Bytes p
def dataBytes (p : Word64) : Nat := 2560 * 1024 - taken p
/-- A partition word of 0 selects the default. -/
def resolve (p : Word64) : Word64 := if p = 0 then 0x84103333 else p
def valid (p : Word64) : Bool :=
  decide (8 ≤ field p 16 6 ∧ field p 16 6 ≤ 32 ∧ field p 22 6 ≤ 32 ∧ field p 28 5 ≤ 16 ∧ p.toNat / 2 ^ 33 = 0
    ∧ taken p ≤ 2560 * 1024)

end Part

/-! ### Time (R6, R138, R431) -/

/-- Core cycles per 33 fabric cycles at each operating point (R431). -/
def pointRate (op : Nat) : Nat :=
  match op with | 0 => 33 | 1 => 28 | 2 => 22 | _ => 16

def State.island (s : State) (n : Nat) : Island := SMap.get {} s.power.islands n
/-- The cycles an island's cores have run since reset. -/
def State.islandCycles (s : State) (n : Nat) : Nat :=
  let i := s.island n
  if i.asleep then i.cycles else i.cycles + (i.frac + (s.fabric - i.since) * pointRate i.op) / 33
/-- CYCLE of a core. -/
def State.cycleOf (s : State) (core : Nat) : Nat := s.islandCycles (coreIsland core)
/-- TIME: whole nanoseconds since reset; the fabric clock runs at 3.3 GHz. -/
def State.time (s : State) : Nat := s.fabric * 10 / 33

/-- The starting edge of a core's present cycle, in 3,696ths of a fabric cycle: whole numbers at every point's rate (R138). -/
def State.edgeOf (s : State) (core : Nat) : Nat :=
  let i := s.island (coreIsland core)
  let r := pointRate i.op
  (i.since * r + (33 * ((i.frac + (s.fabric - i.since) * r) / 33) - i.frac)) * (3696 / r)
/-- TIME as a core samples it: at that edge (R138). -/
def State.coreTime (s : State) (core : Nat) : Nat :=
  if (s.island (coreIsland core)).asleep then s.time else s.edgeOf core * 10 / (33 * 3696)

/-- The next identity for a request, journal entry, signal or task. -/
def State.fresh (s : State) : Nat × State := (s.nextId, { s with nextId := s.nextId + 1 })

/-- A word the spec leaves to the outside. -/
def State.freeWord (s : State) : Nat × State :=
  (ofBytes ((List.range 8).map (fun i => Config.freeByte (s.nextId * 2 ^ 100 + i))), { s with nextId := s.nextId + 1 })

/-! ### The task's context -/

def State.task? (s : State) : Option Task := s.core.task.bind (SMap.find? s.tasks)
def State.ctxOf (s : State) (n : Nat) : Ctx := SMap.get {} s.ctxs n
def State.setCtx (s : State) (n : Nat) (c : Ctx) : State := { s with ctxs := SMap.put s.ctxs n c }
def State.queueOf (s : State) (n : Nat) : Queue := SMap.get {} s.queues n
def State.setQueue (s : State) (n : Nat) (q : Queue) : State := { s with queues := SMap.put s.queues n q }
def State.setTask (s : State) (n : Nat) (t : Task) : State := { s with tasks := SMap.put s.tasks n t }
/-- A privileged task's queue has PRIV = 1 (R386). -/
def State.privileged (s : State) : Bool :=
  match s.task? with | some t => (s.queueOf t.queue).priv | none => false
def State.detlevel (s : State) : Nat := match s.task? with | some t => t.det | none => 0

def State.die (s : State) : Nat → Die
  | 0 => s.die0 | 1 => s.die1 | 2 => s.die2 | _ => s.die3
def State.setDie (s : State) (n : Nat) (d : Die) : State :=
  match n with
  | 0 => { s with die0 := d } | 1 => { s with die1 := d } | 2 => { s with die2 := d } | _ => { s with die3 := d }

/-! ### Lines of device memory (R415 to R417) -/

def lineOf (a : Nat) : Nat := a / 64 * 64
/-- The keys of host memory lie above device memory's: a host physical address is offset by 2^64 (R257). -/
def hostBase : Nat := 2 ^ 64
/-- A line is named by its context and intermediate address (R382): where several names lead to one physical page they are
aliases, each with its own copies and directory entry (R390). The keys of the alias with index i lie i × 2^80 above the physical
address (log 81). -/
def aliasBase : Nat := 2 ^ 80
/-- The physical address of a key. -/
def paOf (a : Nat) : Nat := a % aliasBase
def isHost (a : Nat) : Bool := decide (hostBase ≤ paOf a)
/-- The device offsets that exist (R316): of each stack's 2^36 offsets the last bands read as absent. -/
def State.sideOf (s : State) (line : Nat) : BitVec 32 := SMap.get 0 s.side (paOf line)
def State.tagOf (s : State) (line : Nat) : BitVec 4 := (s.sideOf line).extractLsb' 24 4
def checkWord (cs : List Byte) : Nat := ofBytes cs
/-- The 68 symbols of a line as stored. -/
def State.symbols (s : State) (line : Nat) : List Byte :=
  let w := s.sideOf line
  s.mem.readN (paOf line) 64 ++ [(w.extractLsb' 24 4).zeroExtend 8, w.extractLsb' 0 8, w.extractLsb' 8 8, w.extractLsb' 16 8]
def State.lineState (s : State) (line : Nat) : Line.Decoded :=
  if isHost line then (if s.sideOf line = 0 then .clean else .poisoned) else Line.decodeSymbols (s.symbols line)
/-- Whether a read of the line finds it poisoned or marks it so (R416). -/
def State.poisoned (s : State) (line : Nat) : Bool :=
  match s.lineState line with | .poisoned | .uncorrectable => true | _ => false

/-- A line's sideband rewritten for its present bytes: valid, or with the poison mark (R415). Of a host line only the mark is held,
as CXL carries it (R255, R361). -/
def State.recode (s : State) (line : Nat) (tag : BitVec 4) (poison : Bool) : State :=
  if isHost line then { s with side := SMap.set 0 s.side (paOf line) (if poison then 1 else 0) }
  else
    let c := checkWord (Line.check (s.mem.readN (paOf line) 64) tag)
    let c := if poison then c ^^^ 0x010101 else c
    { s with side := SMap.set 0 s.side (paOf line) (BitVec.ofNat 32 (c + 2 ^ 24 * tag.toNat)) }

/-! ### The core's L1 (R241 to R244) -/

/-- What an acquire leaves of a word (R243): clean words go but those of .inv loads, and of a dirty word the bytes that
the core did not write. -/
def L1Word.acquired (w : L1Word) : Option L1Word :=
  match w.st with
  | .clean false => none
  | .clean true => some { w with st := .kept }
  | .dirty b _ => some { w with st := .dirty b (b == 15) }
  | _ => some w
/-- An acquire at cluster scope or wider. -/
def Core.acquireL1 (c : Core) : Core :=
  { c with l1 := c.l1.filterMap (fun e => e.2.acquired.map (fun w => (e.1, w))) }

def Core.l1At (c : Core) (w : Nat) : Option L1Word := SMap.find? c.l1 w
def Core.putL1 (c : Core) (w : Nat) (st : L1State) (v : Word32) : Core := { c with l1 := SMap.put c.l1 w ⟨st, v⟩ }
def Core.dropL1 (c : Core) (w : Nat) : Core := { c with l1 := SMap.erase c.l1 w }

/-- A word with some of its bytes replaced (R224). -/
def mergeWord (old : Word32) (bytes : BitVec 4) (v : Word32) : Word32 :=
  let m : Word32 := (List.range 4).foldl (fun m i => if bytes.getLsbD i then m ||| (0xFF#32 <<< (8 * i)) else m) 0
  (old &&& ~~~ m) ||| (v &&& m)

/-- The dirty words of a core whose keys meet a test, with the bytes written, and its owned words. -/
def Core.dirtyWords (c : Core) (p : Nat → Bool) : List (Nat × Word32 × BitVec 4) :=
  c.l1.filterMap (fun e => match e.2.st with | .dirty b _ => if p e.1 then some (e.1, e.2.val, b) else none | _ => none)
def Core.ownedWords (c : Core) (p : Nat → Bool) : List (Nat × Word32) :=
  c.l1.filterMap (fun e => if e.2.st = .owned ∧ p e.1 then some (e.1, e.2.val) else none)
/-- Dirty words that a write-back has taken: a clean copy stays where every byte is valid (log 10). -/
def Core.cleanWords (c : Core) (ks : List Nat) : Core :=
  ks.foldl (fun c k =>
    match c.l1At k with
    | some ⟨.dirty _ true, v⟩ => c.putL1 k (.clean false) v
    | some ⟨.dirty _ false, _⟩ => c.dropL1 k
    | _ => c) c

/-- The word keys (byte addresses ÷ 4) of a line. -/
def inLine (line k : Nat) : Bool := k / 16 == line / 64
/-- The lines that hold the given words. -/
def linesOf (ks : List Nat) : List Nat := (ks.map (fun k => k / 16 * 64)).eraseDups

/-- A write-back request of a core for its dirty words of one line (R243, R244). -/
def State.sendWriteback (s : State) (n : Nat) (line : Nat) : State :=
  let ws := (s.coreAt n).dirtyWords (inLine line)
  if ws.isEmpty then s
  else
    let (id, s) := s.fresh
    let r : Req :=
      { id, core := n, eng := .S, kind := .writeback, pol := .si, inv := false, addr := line, size := 64, va := 0,
        ctx := 0, ia := 0, data := 0, wb := ws, seq := none, ncon := 0, stage := .sent,
        name := SMap.find? (s.coreAt n).l1Names line }
    let s := { s with coh := { s.coh with reqs := s.coh.reqs ++ [r] } }
    s.modCoreAt n (fun c => c.cleanWords (ws.map (·.1)))

/-- A line of a core's L1 noted as holding clean or dirty words from now on (R234, R244). -/
def State.noteL1 (s : State) (n line : Nat) : State :=
  s.modCoreAt n (fun c =>
    if (SMap.find? c.l1Since line).isSome then c else { c with l1Since := SMap.put c.l1Since line (s.cycleOf n) })

def Core.dropClean (c : Core) (line : Nat) : Core :=
  { c with l1 := c.l1.filter (fun e => !(inLine line e.1 && (match e.2.st with | .clean _ | .kept => true | _ => false))) }

/-- Write-backs sent for every dirty word of a core (R243). -/
def State.writebackAll (s : State) (n : Nat) : State :=
  (linesOf (((s.coreAt n).dirtyWords (fun _ => true)).map (·.1))).foldl (fun s l => s.sendWriteback n l) s

end Sys2Proof.Machine
end

