-- ==== Sys2Proof/Machine/Layout.lean ====
section
/-! DEFINITION. Where device memory lies, who may reach it, and the error log (spec/13 R315 to R317, 19 R398, 20 R415 to
R417, R422 to R424). -/

namespace Sys2Proof.Machine

/-! ### Placement (R315 to R317) -/

/-- Bits `lo` to `lo + w − 1` of a number. -/
def bits (v lo w : Nat) : Nat := v / 2 ^ lo % 2 ^ w

/-- The exclusive or of five-bit or three-bit groups of an offset, as the hashes take them. -/
def xorGroups (v lo w : Nat) : Nat → Nat
  | 0 => 0
  | n + 1 => bits v lo w ^^^ xorGroups v (lo + w) w n

/-- The stack and offset of a device physical address (R315). -/
def State.place (s : State) (pa : Nat) : Nat × Nat :=
  let band := bits pa 30 6
  if s.mgmt.place.getLsbD band then
    let x := bits pa 36 3 * 2 ^ 30 + bits pa 0 30
    let stack := xorGroups x 13 3 6 ^^^ bits x 31 2
    (stack, band * 2 ^ 30 + bits x 16 17 * 2 ^ 13 + bits x 0 13)
  else (bits pa 36 3, bits pa 0 36)

/-- Offsets with no memory (R316). -/
def absentOffset (o : Nat) : Bool := decide (64000000000 ≤ o)
def State.absent (s : State) (pa : Nat) : Bool := absentOffset (s.place pa).2

/-- The names that lead to a physical page, in the order of their first use. -/
def State.namesAt (s : State) (a : Nat) : List (Nat × Nat) := SMap.get [] s.aliases (paOf a / 65536)
/-- The key of a physical address under a name (R382, R390). -/
def State.keyed (s : State) (ctx ia a : Nat) : Nat := paOf a + (s.namesAt a).idxOf (ctx, ia / 65536) * aliasBase
/-! #### Names whose page has moved (R382) -/

/-- What stands for a name that has left a physical page: no context has it. -/
def goneName : Nat × Nat := (2 ^ 64, 2 ^ 64)
/-- A byte key moved from one page key to another, and a word key. -/
def moveKey (p q k : Nat) : Nat := if k / 65536 = p / 65536 then q + k % 65536 else k
def moveWord (p q k : Nat) : Nat := moveKey p q (4 * k) / 4
/-- A store with its keys renamed. -/
def SMap.rename {α : Type} (m : SMap α) (f : Nat → Nat) : SMap α :=
  if m.all (fun e => f e.1 == e.1) then m else m.foldl (fun r e => SMap.put r (f e.1) e.2) []

/-- The copies and directory entries of a page moved with its name, from the page key `p` to `q`: data is named by context and
intermediate address (R382). -/
def State.movePage (s : State) (p q : Nat) : State :=
  { s with
    cores := s.cores.map (fun e => (e.1,
      { e.2 with l1 := e.2.l1.rename (moveWord p q), l1Names := e.2.l1Names.rename (moveKey p q),
                 l1Since := e.2.l1Since.rename (moveKey p q) })),
    coh := { s.coh with dirs := s.coh.dirs.rename (moveKey p q) } }
/-- The page keys other than `a`'s under which a name still stands, with nothing of the page under way at its home. -/
def State.oldPages (s : State) (name : Nat × Nat) (a : Nat) : List (Nat × Nat) :=
  s.aliases.filterMap (fun e =>
    if e.1 ≠ paOf a / 65536 ∧ e.2.contains name
      ∧ (s.coh.dirs.all (fun d => decide (d.1 / 65536 ≠ e.1 + e.2.idxOf name * (aliasBase / 65536)) || d.2.busy.isNone)) then
      some (e.1, e.1 * 65536 + e.2.idxOf name * aliasBase)
    else none)

/-- The name noted where it is new; what it named under another page follows it (R382). -/
def State.noteName (s : State) (ctx ia a : Nat) : State :=
  let name := (ctx, ia / 65536)
  let ns := s.namesAt a
  let s := if ns.contains name then s else { s with aliases := SMap.put s.aliases (paOf a / 65536) (ns ++ [name]) }
  (s.oldPages name a).foldl (fun s p =>
    let s := s.movePage p.2 (s.keyed ctx ia a / 65536 * 65536)
    { s with aliases := SMap.put s.aliases p.1 ((SMap.get [] s.aliases p.1).map (fun n => if n = name then goneName else n)) }) s
/-- The name of a key. -/
def State.nameOf (s : State) (a : Nat) : Option (Nat × Nat) := (s.namesAt a)[a / aliasBase]?
/-- The keys of a physical line under all its names. -/
def State.aliasLines (s : State) (line : Nat) : List Nat :=
  (List.range (max 1 (s.namesAt line).length)).map (fun i => paOf line + i * aliasBase)

/-! #### What a word has held (R235, R390) -/

/-- A word's bytes in memory. -/
def State.rawWord (s : State) (k : Nat) : Word32 := BitVec.ofNat 32 (ofBytes (s.mem.readN (paOf (4 * k)) 4))
/-- The value a word holds, noted as held up to now: a write replaces it. -/
def State.notePast (s : State) (k : Nat) (v : Word32) : State :=
  let p := paOf (4 * k) / 4
  { s with past := SMap.put s.past p (SMap.get [] s.past p ++ [(s.fabric, v)]) }
/-- A word about to be written under a key: its other names may find what it held, its own finds what is written (R390). -/
def State.noteView (s : State) (k : Nat) : State :=
  let keys := (s.aliasLines (k / 16 * 64)).map (fun l => l / 4 + k % 16)
  let views := SMap.erase s.views k
  { s with views := keys.foldl (fun v x => if x = k ∨ (SMap.find? v x).isSome then v else SMap.put v x (s.rawWord k)) views }
/-- Words about to be written at their home under their keys. -/
def State.noteWrite (s : State) (ks : List Nat) : State := ks.foldl (fun s k => (s.notePast k (s.rawWord k)).noteView k) s
/-- Words about to be written by a unit or the host, which every name finds from then on. -/
def State.noteUnitWrite (s : State) (ks : List Nat) : State :=
  ks.foldl (fun s k =>
    let s := s.notePast k (s.rawWord k)
    { s with views := s.views.filter (fun e => paOf (4 * e.1) != paOf (4 * k)) }) s
/-- The names that come to find a word's present value: at any time, as the outside's choice says (R390). -/
def State.settleViews (s : State) : State :=
  if s.views.isEmpty then s
  else { s with views := s.views.filter (fun e => (Config.freeByte (s.turns * 2 ^ 100 + 2 ^ 94 + e.1)).toNat % 2 == 0) }

/-- The home slice of an address: its die and its slice there (R315, R257). -/
def State.homeDie (s : State) (a : Nat) : Nat := if isHost a then 0 else (s.place a).1 / 2
def State.homeSlice (s : State) (a : Nat) : Nat :=
  if isHost a then xorGroups (paOf a - hostBase) 6 5 12
  else xorGroups (s.place a).2 6 5 6
/-- A slice's number in the package. -/
def State.slice (s : State) (a : Nat) : Nat := s.homeDie a * 32 + s.homeSlice a

/-- The exclusive or of selected offset bits (R317). -/
def foldBit (mask o : Nat) (p : Nat → Bool) : Nat :=
  (List.range 23).foldl (fun x j => if p j ∧ mask.testBit j then x ^^^ bits o (13 + j) 1 else x) 0
def State.channelOf (s : State) (o : Nat) : Nat :=
  bits o 7 5 ^^^ (List.range 5).foldl (fun x b => x + 2 ^ b * foldBit s.mgmt.chHash.toNat o (fun j => j % 5 == b)) 0
def State.pseudoOf (s : State) (o : Nat) : Nat := bits o 12 1 ^^^ foldBit s.mgmt.pcHash.toNat o (fun _ => true)

/-- The device address of a stack's offset, the placement's inverse. -/
def State.unplace (s : State) (stack o : Nat) : Nat :=
  let band := bits o 30 6
  if s.mgmt.place.getLsbD band then
    let hi := bits o 13 17
    let x := hi * 2 ^ 16 + bits o 0 13
    let low := stack ^^^ xorGroups x 16 3 5 ^^^ bits x 31 2
    let x := x + low * 2 ^ 13
    bits x 30 3 * 2 ^ 36 + band * 2 ^ 30 + bits x 0 30
  else stack * 2 ^ 36 + o

/-- Whether bring-up has finished and no recovery holds the package (R402, R430). -/
def State.ready (s : State) : Bool := s.power.stage == 7 && !s.power.recov

/-! ### Access tables (R398) -/

/-- The targets of R398 that have a table. -/
def tableDefined (t : Nat) : Bool := decide (t ≤ 0x222 ∨ (0x230 ≤ t ∧ t ≤ 0x237))
/-- The tables of the configuration image: every defined master may read and write every defined target (log 6). -/
def imageAccess (k : Nat) : Byte :=
  if !tableDefined (k / 32) then 0 else if k % 32 < 24 then 0xFF else if k % 32 = 24 then 0x0F else 0
/-- Such a byte as it can be held: reserved masters and targets stay 0 (R10, R398). -/
def accessMask (k : Nat) (b : Byte) : Byte :=
  if !tableDefined (k / 32) then 0 else if k % 32 < 24 then b else if k % 32 = 24 then b &&& 0x0F else 0
/-- Byte `k` of the tables; those that differ from the image's are listed. -/
def Mgmt.accessByte (m : Mgmt) (k : Nat) : Byte := (SMap.find? m.access k).getD (imageAccess k)
/-- The two bits a target's table holds for a master. -/
def State.accessCode (s : State) (target master : Nat) : Nat :=
  bits (s.mgmt.accessByte (32 * target + master / 4)).toNat (2 * (master % 4)) 2
def mayRead (code : Nat) : Bool := code == 1 || code == 3
def mayWrite (code : Nat) : Bool := code == 3
/-- The target of a device or host address. -/
def State.target (s : State) (a : Nat) : Nat := if isHost a then 0x210 else 64 * (s.place a).1 + bits a 30 6
/-- Whether a master may read, or write, an address. -/
def State.allows (s : State) (master a : Nat) (write : Bool) : Bool :=
  let c := s.accessCode (s.target a) master
  if write then mayWrite c else mayRead c

/-! ### The error log (R422 to R424) -/

def satCount (n : Nat) : Nat := min n (2 ^ 32 - 1)

/-- A record without its COUNT (R423). -/
structure ErrorRecord where
  time : Nat
  channel : Nat
  type : Nat
  symbol : Nat := 0xFF
  pa : Nat := 0
  agent : Nat := 0

def ErrorRecord.bytes (r : ErrorRecord) (count : Nat) : List Byte :=
  toBytes 8 r.time ++ toBytes 2 r.channel ++ toBytes 1 r.type ++ toBytes 1 r.symbol ++ toBytes 4 count ++ toBytes 8 r.pa
    ++ toBytes 8 r.agent

/-- A record raised in the present cycle, kept with the cycle's others in ascending channel order (R424). -/
def Die.stage (d : Die) (channel : Nat) (bytes : List Byte) : Die :=
  { d with staged := insertBy (fun a b => decide (a.1 < b.1)) (channel, bytes) d.staged }
/-- A record stored, or lost where the log is full (R424). -/
def Die.store (d : Die) (bytes : List Byte) : Die :=
  if (d.logWr + 2 ^ 32 - d.logCons) % 2 ^ 32 = 256 then { d with logLost := (d.logLost + 1) % 2 ^ 32 }
  else { d with slots := SMap.put d.slots (d.logWr % 256) bytes, logWr := (d.logWr + 1) % 2 ^ 32 }

/-- The records of a cycle stored at its end: a LOG_CONS write of the cycle has made room first (R424). -/
def Die.storeStaged (d : Die) : Die := d.staged.foldl (fun d r => d.store r.2) { d with staged := [] }
def State.storeLogs (s : State) : State :=
  { s with die0 := s.die0.storeStaged, die1 := s.die1.storeStaged, die2 := s.die2.storeStaged, die3 := s.die3.storeStaged }

def Die.channel (d : Die) (c : Nat) : LogChannel := SMap.get {} d.channels c
def Die.setChannel (d : Die) (c : Nat) (x : LogChannel) : Die := { d with channels := SMap.put d.channels c x }

/-- The COUNT field written into a queued record's bytes. -/
def withCount (bytes : List Byte) (count : Nat) : List Byte := bytes.take 0x0C ++ toBytes 4 count ++ bytes.drop 0x10

/-- An error met by a channel: raised in its cycle, queued behind another of the cycle, or counted without a record
(R424). Until bring-up has finished the log stays as at reset (R430). -/
def State.logError (s : State) (die : Nat) (r : ErrorRecord) : State :=
  let d := s.die die
  let c := d.channel r.channel
  let s' : Die :=
    if c.queue.isEmpty ∧ c.last ≠ some s.fabric then
      let n := satCount (c.count + 1)
      (d.setChannel r.channel { c with count := n, last := some s.fabric }).stage r.channel (r.bytes n)
    else if c.queue.length < 4 then d.setChannel r.channel { c with queue := c.queue ++ [r.bytes 0] }
    else { d.setChannel r.channel { c with count := satCount (c.count + 1) } with logLost := (d.logLost + 1) % 2 ^ 32 }
  if s.ready then s.setDie die s' else s

/-- The agent word of a record: a core and its engine, or the host. -/
def agentCore (core : Nat) (e : Engine) : Nat := core + 2 ^ 11 * e.num
def agentHost : Nat := 2 ^ 13

def coreChannel (core : Nat) : Nat := 160 + 12 * coreClu core + coreInCluster core

/-- A consumption of poison by an engine of a core (R417). -/
def State.logConsumed (s : State) (core : Nat) (e : Engine) (pa : Nat) : State :=
  s.logError (coreDie core)
    { time := s.time, channel := coreChannel core, type := 3, pa := if isHost pa then 0 else paOf pa, agent := agentCore core e }

/-! ### A controller's read of a line (R416) -/

/-- The line with the error `v` of one symbol taken out. -/
def State.correctLine (s : State) (line symbol : Nat) (v : Byte) : State :=
  let a := paOf line + symbol
  let s := if symbol < 64 then { s with mem := s.mem.write a (s.mem.read a ^^^ v) } else s
  s.recode line (if symbol = 64 then s.tagOf line ^^^ v.truncate 4 else s.tagOf line) false

/-- A corrected error counted for its row (R420); which row an offset lies in is the device's (log 16). -/
def State.countRow (s : State) (stack o : Nat) : State :=
  let k := 2 ^ 36 * stack + Config.rowOf stack o
  { s with rcv := { s.rcv with rowErrors := SMap.put s.rcv.rowErrors k (SMap.get 0 s.rcv.rowErrors k + 1) } }

/-- A read of a line decodes it: a correctable line is put right, an uncorrectable one is marked, both with their
records. Which symbol's position a type 2 record names is free: of several symbols in error R423 states no choice (log 103). -/
def State.readDecode (s : State) (line : Nat) : State :=
  if isHost line then s
  else
    let (stack, o) := s.place line
    let r : ErrorRecord :=
      { time := s.time, channel := 64 * (stack % 2) + 2 * s.channelOf o + s.pseudoOf o, type := 1, pa := paOf line }
    match s.lineState line with
    | .clean | .poisoned => s
    | .corrected i v => ((s.correctLine line i v).countRow stack o).logError (stack / 2) { r with symbol := i }
    | .uncorrectable =>
      (s.recode line (s.tagOf line) true).logError (stack / 2)
        { r with type := 2, symbol := (Config.freeByte (s.turns * 2 ^ 100 + 2 ^ 93 + line)).toNat % 68 }

/-- Bytes written into one line: fewer than 64 keep its poison, all 64 clear it (R417). A write of fewer is joined to the line
as a read of it finds it. A write sets the line's tag: 0 but for a write on behalf of a TMR (R197). -/
def State.writeLine (s : State) (a : Nat) (bs : List Byte) (tag : BitVec 4 := 0) : State :=
  let line := lineOf a
  let whole := decide (64 ≤ bs.length)
  let s := if whole then s else s.readDecode line
  let poison := s.poisoned line && !whole
  let s := s.noteUnitWrite ((List.range ((a % 4 + bs.length + 3) / 4)).map (a / 4 + ·))
  let s := { s with mem := s.mem.writeN (paOf a) bs }
  s.recode line tag poison

end Sys2Proof.Machine
end

