-- ==== Sys2Proof/Machine/Home.lean ====
section
/-! DEFINITION. Words at their homes: directories, ownership, writes and the invalidations they cause (spec/11 R247 to
R257). -/

namespace Sys2Proof.Machine

/-! ### Words of an access (R224) -/

/-- The word keys of `n` bytes at a byte address. -/
def wordKeys (a n : Nat) : List Nat := (List.range ((a % 4 + n + 3) / 4)).map (a / 4 + ·)
/-- The bytes of a word that the access covers. -/
def pieceMask (a n k : Nat) : BitVec 4 :=
  (List.range 4).foldl (fun m i => if a ≤ 4 * k + i ∧ 4 * k + i < a + n then m ||| (1#4 <<< i) else m) 0
/-- The access's data as they stand in a word. -/
def pieceVal (a data k : Nat) : Word32 :=
  if 4 * k ≤ a then BitVec.ofNat 32 (data * 2 ^ (8 * (a - 4 * k))) else BitVec.ofNat 32 (data / 2 ^ (8 * (4 * k - a)))
def pieces (a n data : Nat) : List (Nat × Word32 × BitVec 4) :=
  (wordKeys a n).map (fun k => (k, pieceVal a data k, pieceMask a n k))
/-- The value of an access from the values of its words. -/
def fromWords (a n : Nat) (ws : List Word32) : Nat :=
  ws.foldr (fun w r => w.toNat + 2 ^ 32 * r) 0 / 2 ^ (8 * (a % 4)) % 2 ^ (8 * n)

/-! ### The directory (R247) -/

def State.dirOf (s : State) (line : Nat) : Dir := SMap.get {} s.coh.dirs line
def State.setDir (s : State) (line : Nat) (d : Dir) : State :=
  { s with coh := { s.coh with dirs := SMap.set {} s.coh.dirs line d } }
def State.modDir (s : State) (line : Nat) (f : Dir → Dir) : State := s.setDir line (f (s.dirOf line))

def lineOfWord (k : Nat) : Nat := k / 16 * 64
/-- What the host holds of a physical line (R255): one directory entry keeps it, under the line's first key. -/
def State.hostOf (s : State) (line : Nat) : Nat := (s.dirOf (paOf line)).host

/-- The owner of a word. -/
def Dir.ownerOf (d : Dir) (k : Nat) : Option Nat :=
  if d.owned.getLsbD (k % 16) then some (if d.who.getLsbD (k % 16) then d.own1 else d.own0) else none
/-- The words of a slot. -/
def Dir.slotWords (d : Dir) (slot : Bool) : BitVec 16 := if slot then d.owned &&& d.who else d.owned &&& ~~~ d.who
/-- A slot left with no words becomes invalid, its owner's number standing; OLDER names the valid one where one is. -/
def Dir.tidy (d : Dir) : Dir :=
  let v0 := d.v0 && d.slotWords false != 0
  let v1 := d.v1 && d.slotWords true != 0
  { d with v0, v1, older := if v0 && v1 then d.older else v1 }
/-- A word given up. -/
def Dir.giveUp (d : Dir) (k : Nat) : Dir :=
  let b : BitVec 16 := 1#16 <<< (k % 16)
  Dir.tidy { d with owned := d.owned &&& ~~~ b, who := d.who &&& ~~~ b }
/-- A word granted: to the core's slot, to the slot recalled for it, or to a free one. -/
def Dir.grant (d : Dir) (core k : Nat) : Dir :=
  let b : BitVec 16 := 1#16 <<< (k % 16)
  let slot :=
    if d.v0 && d.own0 == core then false
    else if d.v1 && d.own1 == core then true
    else if d.v0 then true else if d.v1 then false else d.claim.getD false
  let d := { d with claim := none }
  let d :=
    if slot then { d with owned := d.owned ||| b, who := d.who ||| b, own1 := core, v1 := true }
    else { d with owned := d.owned ||| b, who := d.who &&& ~~~ b, own0 := core, v0 := true }
  { d with older := if d.v0 && d.v1 then !slot else slot }

/-- The words that must be recalled before a core is granted a word (R247). -/
def Dir.recallsFor (d : Dir) (core k : Nat) : BitVec 16 :=
  let other : BitVec 16 :=
    match d.ownerOf k with | some x => if x = core then 0 else 1#16 <<< (k % 16) | none => 0
  let mine := (d.v0 && d.own0 == core) || (d.v1 && d.own1 == core)
  if !mine && d.v0 && d.v1 then other ||| d.slotWords d.older else other
/-- The slot that such a recall empties for the core. -/
def Dir.claims (d : Dir) (core : Nat) : Option Bool :=
  if !((d.v0 && d.own0 == core) || (d.v1 && d.own1 == core)) && d.v0 && d.v1 then some d.older else d.claim

/-! ### Values (R251, R252) -/

/-- A word at its home as its name finds it (R390). -/
def State.memWord (s : State) (k : Nat) : Word32 := (SMap.find? s.views k).getD (s.rawWord k)
/-- A word's present value: its owner's, else the home's. -/
def State.wordNow (s : State) (k : Nat) : Word32 :=
  match (s.dirOf (lineOfWord k)).ownerOf k with
  | some x => (match (s.coreAt x).l1At k with | some w => w.val | none => s.memWord k)
  | none => s.memWord k
/-- Bytes as the homes hold them now. -/
def State.readNow (s : State) (a n : Nat) : List Byte :=
  (((List.range ((a % 4 + n + 3) / 4)).flatMap (fun i => toBytes 4 (s.wordNow (a / 4 + i)).toNat)).drop (a % 4)).take n

/-- The key of a physical line under the name by which a core owns words of it, else under its first name. -/
def State.ownedKey (s : State) (a : Nat) : Nat :=
  ((s.aliasLines (lineOf a)).find? (fun l => (s.dirOf l).owned != 0)).getD (paOf (lineOf a)) + a % 64

/-- Bytes within one line with the units' posted writes to it over them. -/
def State.withPosted (s : State) (a : Nat) (bs : List Byte) : List Byte :=
  s.coh.posted.foldl (fun bs p =>
    if lineOf (paOf p.1) = lineOf (paOf a) then
      (List.range bs.length).map (fun i =>
        let o := paOf a + i
        if paOf p.1 ≤ o ∧ o < paOf p.1 + p.2.1.length then p.2.1.getD (o - paOf p.1) 0 else bs.getD i 0)
    else bs) bs

/-- Bytes within one line as a unit's read finds them, a correctable error taken out; none where the line is poisoned
(R416). -/
def State.readChecked (s : State) (a n : Nat) : Option (List Byte) :=
  match s.lineState (lineOf a) with
  | .clean => some (s.withPosted a (s.readNow a n))
  | .corrected i v => some (s.withPosted a ((s.correctLine (lineOf a) i v).readNow a n))
  | .poisoned | .uncorrectable => none

/-- Words written into a line's memory: a write of all 64 bytes clears its poison, one of fewer keeps what a read of the line
finds (R416, R417). -/
def State.putWords (s : State) (line : Nat) (ws : List (Nat × Word32 × BitVec 4)) (tag : BitVec 4 := 0) : State :=
  if ws.isEmpty then s
  else
    let full := ws.length == 16 && ws.all (fun w => w.2.2 == 15)
    let s := if full then s else s.readDecode line
    let poison := s.poisoned line && !full
    let s := s.noteWrite (ws.map (·.1))
    let mem := ws.foldl (fun (m : Memory) w =>
      let a := paOf (4 * w.1)
      m.writeN a (toBytes 4 (mergeWord (BitVec.ofNat 32 (ofBytes (m.readN a 4))) w.2.2 w.2.1).toNat)) s.mem
    State.recode { s with mem } line tag poison

/-! ### BUSY and the snoops of the host (R248, R255) -/

def State.setBusy (s : State) (line : Nat) (id : Nat) : State := s.modDir line (fun d => { d with busy := some id })
/-- A request's hold of a line ends, of its first key too; after a conflict the line stays BUSY for the host's request (R256). -/
def State.clearBusy (s : State) (line : Nat) (id : Nat) : State :=
  let free (d : Dir) : Dir := if d.busy = some id then { d with busy := if d.conflict then some 0 else none } else d
  let s := s.modDir line free
  if paOf line = line then s else s.modDir (paOf line) free
/-- A snoop of the host for a request, or for a unit (0), which holds the line BUSY. -/
def State.sendSnoop (s : State) (line : Nat) (inv : Bool) (id : Nat) : State :=
  let x : Snoop := { line := paOf line, inv, req := id }
  let s := State.setBusy { s with coh := { s.coh with snoops := s.coh.snoops ++ [x] } } (paOf line) id
  if id = 0 ∨ paOf line = line then s else s.setBusy line id

/-- Whether nothing holds a line BUSY under any of its names. -/
def State.idle (s : State) (line : Nat) : Bool := (s.aliasLines line).all (fun l => (s.dirOf l).busy.isNone)
/-- The host snooped for a unit where a line is otherwise free and the host's copy is in the way. -/
def State.snoopFor (s : State) (line : Nat) (write : Bool) : State :=
  if s.idle line ∧ (if write then s.hostOf line ≠ 0 else s.hostOf line = 2) then s.sendSnoop (paOf line) write 0 else s
/-- Whether a line gives its data to a unit's read now: what holds it BUSY comes first, and the host's dirty data (R248, R255). -/
def State.readable (s : State) (line : Nat) : Bool := s.idle line && s.hostOf line != 2

/-! ### Copies and their invalidation (R249, R250, R253) -/

/-- The clusters, numbered through the package, whose cores hold registered or TMR-cache copies of a line. -/
def Dir.clusters (d : Dir) (home : Nat) : List Nat :=
  ((List.range 32).filter (fun i => d.clu.getLsbD i)).map (fun i => home * 32 + i)
    ++ d.remote.flatMap (fun e =>
      if d.die.getLsbD e.1 then ((List.range 32).filter (fun i => e.2.getLsbD i)).map (fun i => e.1 * 32 + i) else [])

/-- The directory after a write by a core of die `w` (or by no core): the other copies cleared, a .wi writer's cluster
kept, the line in M at a remote writer's die where it may be delegated (R250, R253). -/
def Dir.afterWrite (d : Dir) (home : Nat) (w : Option Nat) (keep : Option Nat) (delegable : Bool) : Dir :=
  let remoteDie := match w with | some x => if x ≠ home then some x else none | none => none
  let keptRemote := match keep with | some c => if c / 32 ≠ home then some (c / 32) else none | none => none
  let del := remoteDie.isSome && delegable && d.host == 0
  { d with
    clu := match keep with | some c => if c / 32 = home ∧ d.clu.getLsbD (c % 32) then 1#32 <<< (c % 32) else 0 | none => 0,
    remote :=
      match keep, keptRemote with
      | some c, some x => if (SMap.get 0 d.remote x).getLsbD (c % 32) then [(x, 1#32 <<< (c % 32))] else []
      | _, _ => [],
    die :=
      match remoteDie, keptRemote with
      | some x, _ => if del ∨ keptRemote = some x then 1#4 <<< x else 0
      | none, some x => 1#4 <<< x
      | none, none => 0,
    lst := if del then 1 else 0, odie := if del then remoteDie.getD 0 else 0, dieDirty := del, mstale := false }

/-- A delegated line whose holder another die's read meets: O from M, S from E (R253). -/
def Dir.undelegate (d : Dir) : Dir :=
  if d.lst = 1 then (if d.dieDirty then { d with lst := 2, mstale := true } else { d with lst := 0, odie := 0 }) else d
/-- The line returned to its home (R253, last row). -/
def Dir.returned (d : Dir) : Dir := { d with lst := 0, odie := 0, dieDirty := false, mstale := false }

/-- The line dropped from the slices as well: of the other dies those with no sharing cluster hold it no more (R301). -/
def Dir.flushed (d : Dir) : Dir :=
  { d.returned with
    die := (List.range 4).foldl (fun m x => if SMap.get 0 d.remote x = 0 then m &&& ~~~ (1#4 <<< x) else m) d.die }

/-- The directory after a read by a core of die `x` (R253). -/
def Dir.afterRead (d : Dir) (home x : Nat) (delegable : Bool) : Dir :=
  if x = home then d.undelegate
  else if d.die.getLsbD x then d
  else
    let alone := d.die == 0 && d.clu == 0 && d.owned == 0 && d.host == 0 && delegable
    let d := d.undelegate
    if alone then { d with die := 1#4 <<< x, lst := 1, odie := x, dieDirty := false }
    else { d with die := d.die ||| (1#4 <<< x) }

/-- A core's cluster registered as a sharer (R242, R253). -/
def Dir.register (d : Dir) (home core : Nat) : Dir :=
  let b : BitVec 32 := 1#32 <<< coreClu core
  if coreDie core = home then { d with clu := d.clu ||| b }
  else { d with die := d.die ||| (1#4 <<< coreDie core),
                remote := SMap.put d.remote (coreDie core) (SMap.get 0 d.remote (coreDie core) ||| b) }

/-- A core's copies of a line dropped by an invalidation: registered and clean words, and TMR copies (R249, R254). -/
def Core.invalidate (c : Core) (line : Nat) (keepWords : Bool) : Core :=
  { c with
    l1 := if keepWords then c.l1
          else c.l1.filter (fun e => !(inLine line e.1 &&
            (match e.2.st with | .clean _ | .kept | .registered => true | _ => false))),
    tmrCache := c.tmrCache.filter (fun t => t / 256 != line / 256) }

def clusterCores (cl : Nat) : List Nat := (List.range 12).map (fun i => cl * 16 + i)
/-- An invalidation at every core of a cluster. -/
def State.invalidateCluster (s : State) (cl line : Nat) (spare : Option Nat) : State :=
  (clusterCores cl).foldl (fun s n =>
    if (SMap.find? s.cores n).isSome then s.modCoreAt n (fun c => c.invalidate line (spare == some n)) else s) s

/-- Every registered copy of a line and the host's dropped in this step, its directory as after a write by no core (R210,
R255). -/
def State.dropCopies (s : State) (line : Nat) : State :=
  let home := s.homeDie line
  let d := s.dirOf line
  let s := (d.clusters home).foldl (fun s c => s.invalidateCluster c line none) s
  s.modDir line (fun d => { d.afterWrite home none none true with host := 0 })

/-- Invalidations sent to the clusters that hold copies; `req` awaits their acknowledgements and holds BUSY (R248,
R250). -/
def State.sendInvals (s : State) (line : Nat) (core : Option Nat) (wi delegable : Bool) (req : Nat) : State :=
  let home := s.homeDie line
  let d := s.dirOf line
  let keep := if wi then core.map coreCluster else none
  let invs : List Inval := (d.clusters home).map (fun c =>
    { line, cluster := c, delivered := false, writer := core, keep := keep == some c, req := some req })
  let s := s.setDir line (d.afterWrite home (core.map coreDie) keep delegable)
  if invs.isEmpty then s
  else
    let s := { s with coh := { s.coh with invals := s.coh.invals ++ invs } }
    s.modDir line (fun d => { d with busy := some req })

/-! ### Ownership taken back (R249) -/

/-- One word returned by its owner to the home as its latest write. -/
def State.recallWord (s : State) (k : Nat) : State :=
  match (s.dirOf (lineOfWord k)).ownerOf k with
  | some x =>
    let s := s.putWords (lineOfWord k) [(k, s.wordNow k, 15)]
    let s := s.modCoreAt x (fun c => c.dropL1 k)
    s.modDir (lineOfWord k) (fun d => d.giveUp k)
  | none => s
/-- Words of a line returned in this step, the line's other copies dropped as a recalled value's (R249, R250, R253). -/
def State.recallNow (s : State) (line : Nat) (words : BitVec 16) : State :=
  if (s.dirOf line).owned &&& words = 0 then s
  else
    ((List.range 16).foldl (fun s j => if words.getLsbD j then s.recallWord (line / 4 + j) else s) s).dropCopies line

/-- Bytes of one line written at once under all its names: owned words return first, copies are dropped in the step (R210,
R250). -/
def State.applyLine (s : State) (a : Nat) (bs : List Byte) (tag : BitVec 4 := 0) : State :=
  let line := lineOf a
  let touched : BitVec 16 :=
    (List.range 16).foldl (fun m j => if (pieceMask a bs.length (line / 4 + j)) ≠ 0 then m ||| (1#16 <<< j) else m) 0
  let s := (s.aliasLines line).foldl (fun s l => s.recallNow l touched) s
  let s := s.writeLine a bs tag
  (s.aliasLines line).foldl State.dropCopies s

/-- Whether a line takes a unit's write now: no request holds it BUSY, no host copy awaits a snoop, and no earlier posted write of
it waits (R248, R255). -/
def State.writable (s : State) (line : Nat) : Bool :=
  s.idle line && s.hostOf line == 0
    && !s.coh.posted.any (fun p => lineOf (paOf p.1) == paOf line)

/-- A write of a unit of the package to bytes of one line: applied at once, or posted until the line takes it. -/
def State.writeNowLine (s : State) (a : Nat) (bs : List Byte) (tag : BitVec 4 := 0) : State :=
  if s.writable (lineOf a) then s.applyLine a bs tag
  else { s with coh := { s.coh with posted := s.coh.posted ++ [(a, bs, tag)] } }
def State.writeNow (s : State) (a : Nat) (bs : List Byte) (tag : BitVec 4 := 0) : Nat → State
  | 0 => s
  | fuel + 1 =>
    if bs.isEmpty then s
    else
      let n := min bs.length (lineOf a + 64 - a)
      State.writeNow (s.writeNowLine a (bs.take n) tag) (a + n) (bs.drop n) tag fuel
/-- Enough lines for any run of bytes. -/
def lineCount (bs : List Byte) : Nat := bs.length / 64 + 2

/-! ### An L1 line evicted or cleaned (R244) -/

/-- Whether the words that a core owns of a line can go home now: their line is not BUSY, and no host copy awaits a snoop (R248,
R255). -/
def State.mayEvict (s : State) (n line : Nat) : Bool :=
  ((s.coreAt n).ownedWords (inLine line)).isEmpty || (s.idle line && s.hostOf line == 0)

/-- The line's dirty words sent home, its owned words returned, its clean words dropped; registered words go too where
`all` is set. While its owned words cannot go home it stays, and the host is snooped for it. -/
def State.evictLine (s : State) (n line : Nat) (all : Bool) : State :=
  if !s.mayEvict n line then s.snoopFor line true
  else
  let s := s.sendWriteback n line
  let owned := (s.coreAt n).ownedWords (inLine line)
  let words : BitVec 16 := owned.foldl (fun m w => m ||| (1#16 <<< (w.1 % 16))) 0
  let s := s.recallNow line words
  s.modCoreAt n (fun c =>
    { c with l1 := c.l1.filter (fun e => !(inLine line e.1 && (all || e.2.st != .registered))), l1Since := SMap.erase c.l1Since line })

/-- A remote die's slice gives a line up: what it holds in M or O is at the home from then on, of an E or S copy the DIE bit goes. A
slice whose own cluster vector names sharers keeps the line, by which their copies are reached (R253; log 100). -/
def State.evictSlice (s : State) (die line : Nat) : State :=
  let d := s.dirOf line
  if 4 ≤ die ∨ die = s.homeDie line ∨ d.busy.isSome ∨ SMap.get 0 d.remote die ≠ 0 then s
  else
    let d := if d.lst ≠ 0 ∧ d.odie = die then d.returned else d
    s.setDir line { d with die := d.die &&& ~~~ (1#4 <<< die) }
def State.evict (s : State) : Eviction → State
  | .slice die line => s.evictSlice die (lineOf line)
  | .l1 core line => if coreExists core then s.evictLine core (lineOf line) true else s

def Core.l1Lines (c : Core) : List Nat := linesOf (c.l1.map (·.1))
/-- The whole L1 cleaned, as at a retirement or a pre-emption save (R244). -/
def State.cleanL1 (s : State) (n : Nat) : State :=
  (s.coreAt n).l1Lines.foldl (fun s l => s.evictLine n l false) s
/-- Lines beyond a carve-out evicted, all words with them: a line of the L1 that the outside's choice names goes while the
lines are too many (R244). A line whose owned words cannot go home now is no such line yet: the excess goes before a later turn. -/
def State.shrinkL1 (s : State) (n bytes : Nat) (spare : Option Nat) : Nat → State
  | 0 => s
  | fuel + 1 =>
    let ls := (s.coreAt n).l1Lines
    if ls.length * 64 ≤ bytes then s
    else
      let victims := ls.filter (fun l => spare != some l && s.mayEvict n l)
      match victims[(Config.freeByte (s.nextId * 2 ^ 100)).toNat % max 1 victims.length]? with
      | some l => State.shrinkL1 ({ s with nextId := s.nextId + 1 }.evictLine n l true) n bytes spare fuel
      | none => (ls.filter (fun l => spare != some l)).foldl (fun s l => s.snoopFor l true) s

/-- The same after a line has come into the L1, which itself goes where there is no carve-out (R245). -/
def State.trimL1 (s : State) (n line : Nat) : State :=
  let bytes := Part.l1Bytes (s.coreAt n).part
  s.shrinkL1 n bytes (if bytes = 0 then none else some line) (s.coreAt n).l1Lines.length

/-- Lines that a BUSY line or a snoop left beyond the carve-out evicted. -/
def State.retrimL1 (s : State) (n : Nat) : State :=
  let bytes := Part.l1Bytes (s.coreAt n).part
  if (s.coreAt n).l1Lines.length * 64 ≤ bytes then s else s.shrinkL1 n bytes none (s.coreAt n).l1Lines.length

/-! ### Time limits of the L1 (R234, R244) -/

/-- The registered words of a line whose words another core owns: no invalidation told of that core's writes (R247, R251). -/
def State.staleWord (s : State) (n k : Nat) : Bool :=
  match (s.dirOf (lineOfWord k)).ownerOf k with | some x => x != n | none => false
def State.dropStale (s : State) (n line : Nat) : State :=
  s.modCoreAt n (fun c => { c with l1 := c.l1.filter (fun e => !(inLine line e.1 && e.2.st == .registered && s.staleWord n e.1)) })
/-- A grant starts the time of the registered copies that other cores hold of the line (R234; log 104). -/
def State.noteGrant (s : State) (n line : Nat) : State :=
  s.cores.foldl (fun s e =>
    if e.1 ≠ n ∧ e.2.l1.any (fun w => inLine line w.1 && w.2.st == .registered) then s.noteL1 e.1 line else s) s

/-- Lines whose dirty words have stood for 4,096 cycles are written back, their clean ones dropped, and their registered ones that
another core owns (R234, R244; logs 82, 104). -/
def State.expireL1 (s : State) (n : Nat) : State :=
  let now := s.cycleOf n
  ((s.coreAt n).l1Since.filter (fun e => decide (e.2 + 4096 ≤ now))).foldl (fun s e =>
    ((s.sendWriteback n e.1).modCoreAt n (fun c => { c.dropClean e.1 with l1Since := SMap.erase c.l1Since e.1 })).dropStale n e.1) s

end Sys2Proof.Machine
end

