-- ==== Sys2Proof/Machine/Ops.lean ====
section
/-! DEFINITION. The named operations over events, couplings, trap entry and the issue of a command word (spec/02 R33 to R47,
05 R120 to R125, 15 R344, 20 R405 to R413). -/

namespace Sys2Proof.Machine

/-! ### Events for the host (R344) -/

def eventRecord (kind reason scope : Nat) (seq time info : Nat) : List Byte :=
  toBytes 1 kind ++ toBytes 1 reason ++ toBytes 1 scope ++ toBytes 5 0 ++ toBytes 8 seq ++ toBytes 8 time ++ toBytes 8 info

/-- An event written into a queue's event ring, or dropped and counted (R344). -/
def State.postEvent (s : State) (q : Nat) (kind reason scope seq info : Nat) : State :=
  let b := s.queueOf q
  let size := 2 ^ (b.evlog + 6)
  if size ≤ (b.evprod + 2 ^ 32 - b.evcons) % 2 ^ 32 then
    s.setQueue q { b with evlost := (b.evlost + 1) % 2 ^ 32 }
  else
    let pa := b.evring + b.evprod % size * 32
    let s := if 2 ^ 39 ≤ pa ∨ s.absent pa then s else s.writeNow pa (eventRecord kind reason scope seq s.time info) 0 2
    s.setQueue q { b with evprod := (b.evprod + 1) % 2 ^ 32 }

def recordField (r : List Byte) (off n : Nat) : Nat := ofBytes ((r.drop off).take n)
def Task.scope (t : Task) : Nat := recordField t.record 0x34 1

/-- The 8-byte field of a kind-3 event (R413). -/
def trapEventInfo (core : Nat) (t : TrapState) (abandoned double : Bool) : Nat :=
  core % 2048 + 2 ^ 11 * (t.eng % 4) + 2 ^ 13 * abandoned.toNat + 2 ^ 14 * double.toNat + 2 ^ 16 * (t.pc % 2 ^ 13)
    + 2 ^ 32 * (t.info.toNat % 2 ^ 32)

def State.postTrapEvent (s : State) (core : Nat) (abandoned double : Bool) : State :=
  let c := s.coreAt core
  match c.task with
  | none => s
  | some id =>
    match SMap.find? s.tasks id with
    | none => s
    | some t => s.postEvent t.queue 3 c.trap.cause t.scope t.seq (trapEventInfo core c.trap abandoned double)

/-! ### What acquires learn (R39, R227, R228) -/

def Clock.get (k : Clock) : Engine → Nat
  | .S => k.s | .V => k.v | .M => k.m | .C => k.c
def Clock.join (a b : Clock) : Clock := { s := max a.s b.s, v := max a.v b.v, m := max a.m b.m, c := max a.c b.c }
/-- All that has been issued so far. -/
def Clock.all (now : Nat) : Clock := { s := now, v := now, m := now, c := now }
/-- What an engine's release carries: its own accesses so far and those it has learnt. -/
def Clock.own (k : Clock) (e : Engine) (now : Nat) : Clock :=
  match e with
  | .S => { k with s := now } | .V => { k with v := now } | .M => { k with m := now } | .C => { k with c := now }

def Core.clock (c : Core) (e : Engine) : Clock := c.clocks.eng[e.num % 4]'(Nat.mod_lt _ (by decide))
def Core.learn (c : Core) (e : Nat) (k : Clock) : Core :=
  { c with clocks := { c.clocks with eng := c.clocks.eng.mapIdx (fun i x => if i = e then x.join k else x) } }
/-- Every engine learns what one carries. -/
def Core.learnAll (c : Core) (k : Clock) : Core :=
  { c with clocks := { c.clocks with eng := c.clocks.eng.map (·.join k) } }
/-- The data-area commands in flight but those of an engine, which have finished (R238). -/
def Core.othersInFlight (c : Core) (e : Engine) : List Footprint := c.checker.filter (fun f => f.eng != e.num)
/-- Those of C. -/
def Core.inFlightC (c : Core) : List Footprint := c.checker.filter (fun f => f.eng == 3)

/-! ### Trap entry (R405, R408, R412, R413) -/

/-- A core stopped for good: every engine ended, the journal discarded, what was held given up (R412). The partial writes of the
transfers in flight are settled before the next turn. -/
def Core.stopAll (c : Core) : Core :=
  let stop (x : Eng) : Eng := { x with ended := true, parked := none, pause := none, sigs := [], held := none, loops := [],
                                       taken := false }
  { c with started := false, engS := stop c.engS, engV := stop c.engV, engM := stop c.engM, engC := stop c.engC, journal := [],
           stopped := c.journal.filter (fun j => !j.cancelled && j.fault.isNone && j.moved.isNone), lwait := none,
           flights := [], unit := none, phase := none, faults := [], checker := [], feeds := [], fills := [],
           preempt := none, preemptGroup := none,
           trap := { c.trap with mode := false, hostHeld := false, saved := none, cEntry := none } }

/-- A task's save slots given back to its context (R343, R372). -/
def State.dropSaves (s : State) (id : Nat) : State :=
  match SMap.find? s.tasks id, s.saves.filter (fun x => x.task == id) with
  | some t, x :: xs =>
    { s.setCtx t.ctx { s.ctxOf t.ctx with slotsused := (s.ctxOf t.ctx).slotsused - (x :: xs).length } with
      saves := s.saves.filter (fun x => x.task != id) }
  | _, _ => s

/-- The task of a core is abandoned (R412): every core of its gang stops, those already saved are not resumed, and kind 3 is written. -/
def State.abandon (s : State) (core : Nat) (double : Bool) : State :=
  let s := s.postTrapEvent core true double
  let own := (s.coreAt core).task
  let gang := match own.bind (SMap.find? s.tasks) with | some t => t.cores | none => []
  let s := match own with | some id => s.dropSaves id | none => s
  (core :: gang).eraseDups.foldl (fun s n => s.modCoreAt n Core.stopAll) s

/-- What trap entry does with a condition of engine `e` at stream offset `pc` (R405). A draining PHASE is withdrawn, to
issue again after ERET. -/
def Core.trapEntry (c : Core) (e : Engine) (pc : Nat) (t : TrapInfo) : Core :=
  let x := c.engS
  let saved : SavedS := { pc := x.pc, link := x.link, loops := x.loops, ended := x.ended, pause := x.pause,
                          parked := x.parked, taken := x.taken }
  { c with
    phase := none, blockedSince := none, checker := c.inFlightC,
    trap := { mode := true, engine := e, cause := t.cause, eng := e.num, pc, addr := BitVec.ofNat 64 t.addr,
              info := BitVec.ofNat 64 t.info, pcWritten := false, boundary := t.cause == 9 && t.info % 2 == 1, late := t.late,
              sub07 := t.cause == 1 && t.info % 256 == 7, hostHeld := c.obj.trapLen == 0, saved := some saved, cEntry := none },
    engS := { x with pc := 0, link := [], loops := [], ended := false, pause := none, parked := none, taken := false } }

/-- A double trap's registers: its own condition, TRAP_ENG 0, the handler's word (R412). -/
def Core.doubleTrap (c : Core) (pc : Nat) (t : TrapInfo) : Core :=
  { c with trap := { c.trap with cause := t.cause, eng := 0, pc, addr := BitVec.ofNat 64 t.addr,
                                 info := BitVec.ofNat 64 t.info } }

/-- TAKING A TRAP, the one operation: outside trap mode the core enters it; in trap mode a condition on S abandons the
task and one on another engine is held (R405, R412). Trap entry orders at core scope, where the L1 needs nothing (R227,
R243); with no trap section the trap goes to the host (R413). -/
def State.takeTrap (s : State) (e : Engine) (pc : Nat) (t : TrapInfo) : State :=
  if s.core.trap.mode then
    if e = .S then (s.setCore (s.core.doubleTrap pc t)).abandon s.cur true
    else s.modEng e (fun x => { x with held := some (x.held.getD (pc, t)) })
  else
    let s := s.setCore ((s.core.trapEntry e pc t).learnAll (Clock.all s.nextId))
    if s.core.trap.hostHeld then s.postTrapEvent s.cur false false else s

/-- A condition that a word meets after its issue: one of the task's own words met while a handler runs is held, on S
too (R405). -/
def State.lateTrap (s : State) (e : Engine) (inTrap : Bool) (pc : Nat) (t : TrapInfo) : State :=
  let t := { t with late := true }
  if s.core.trap.mode ∧ !inTrap then s.modEng e (fun x => { x with held := some (x.held.getD (pc, t)) })
  else s.takeTrap e pc t

/-! ### Causes (R69, R385, R409) -/

def illegal (sub : Nat) (at_ : Nat := 0) : TrapInfo := { cause := 1, info := sub + 256 * at_ }
def misaligned (a : Nat) : TrapInfo := { cause := 1, addr := a, info := 0x0E }
def leaseFault (sub addr : Nat) (idx : Nat := 0) : TrapInfo := { cause := 2, addr, info := sub + 256 * idx }
def uncorrectable (sub addr : Nat) : TrapInfo := { cause := 0x0B, addr, info := sub }

/-! ### Couplings (R33 to R39) -/

/-- Source and destination engine numbers of a queue (R35). -/
def queueSource (q : Nat) : Nat := q / 3
def queueDest (q : Nat) : Nat := if q % 3 < q / 3 then q % 3 else q % 3 + 1

def Core.queue (c : Core) (q : Fin 16) : List Word32 := if h : q.val < 12 then c.queues[q.val] else []
def Core.setQueue (c : Core) (q : Fin 16) (l : List Word32) : Core :=
  if h : q.val < 12 then { c with queues := c.queues.set q.val l } else c
def Core.handle (c : Core) (h : Fin 64) : Handle := c.handles[h]
def Core.setHandle (c : Core) (h : Fin 64) (x : Handle) : Core := { c with handles := c.handles.set h x }

/-! #### A cycle's sample (R38) -/

/-- The tokens of a queue that the cycle's waits may take, its room for the cycle's pushes, and a handle's state as the
cycle's waits see it. -/
def Core.availOf (c : Core) (q : Fin 16) : Nat :=
  match c.sample with
  | some m => if h : q.val < 12 then min m.avail[q.val] (c.queue q).length else 0
  | none => (c.queue q).length
def Core.roomOf (c : Core) (q : Fin 16) : Nat :=
  match c.sample with
  | some m => if h : q.val < 12 then min m.room[q.val] (16 - (c.queue q).length) else 16
  | none => 16 - (c.queue q).length
def Core.stateOf (c : Core) (h : Fin 64) : HState :=
  match c.sample with
  | some m => m.handles[h]
  | none => (c.handle h).st

/-- Whether a shared tile is FULL as the cycle's waits see it (R147). -/
def Core.fullOf (c : Core) (t : Nat) : Bool :=
  match c.sample with
  | some m => m.full.contains t
  | none => c.fullTiles.contains t

/-- The sample of a core cycle as it starts. -/
def Core.sampled (c : Core) (cycle : Nat) : Core :=
  match c.sample with
  | some m => if m.cycle = cycle then c else { c with sample := some (fresh c) }
  | none => { c with sample := some (fresh c) }
where
  fresh (c : Core) : Sample :=
    { cycle, avail := c.queues.map List.length, room := c.queues.map (fun l => 16 - l.length),
      handles := c.handles.map (·.st), full := c.fullTiles }

/-- The cycle's sample taken where a cycle of the core starts (R38). -/
def State.sampleCycle (s : State) : State := s.modCore (fun c => c.sampled (s.cycleOf s.cur))

/-- Whether engine `e` may still act in the cycle sampled: each acts once, in engine order, the transfers of C before all
(R38, R44, R408). -/
def Core.turnLeft (c : Core) (e : Engine) : Bool :=
  match c.sample with
  | some m => (match m.last with | some n => decide (n < e.num) | none => true)
  | none => true

/-- Whether C's transfers may still act in it. -/
def Core.transfersLeft (c : Core) : Bool := match c.sample with | some m => m.last.isNone | none => true
/-- Flags that a transfer of C sets, noted for the cycle (R113). -/
def Core.raiseC (c : Core) (f : Flags) : Core :=
  { c.addFlags .C f with sample := c.sample.map (fun m => { m with raised := m.raised ||| f }) }

/-- A pop acquires what the queue's pushes released. -/
def Core.learnPop (c : Core) (q : Fin 16) : Core :=
  if h : q.val < 12 then c.learn (queueDest q.val) c.clocks.queue[q.val] else c
def Core.teachPush (c : Core) (q : Fin 16) (k : Clock) : Core :=
  if h : q.val < 12 then { c with clocks := { c.clocks with queue := c.clocks.queue.set q.val (c.clocks.queue[q.val].join k) } } else c

/-- Tokens leave the head of a queue, and enter it at its end. -/
def Core.popTokens (c : Core) (q : Fin 16) (n : Nat) : Core :=
  let c := (c.setQueue q ((c.queue q).drop n)).learnPop q
  { c with sample := c.sample.map (fun m =>
      if h : q.val < 12 then { m with avail := m.avail.set q.val (m.avail[q.val] - n) } else m) }
def Core.pushTokens (c : Core) (q : Fin 16) (ts : List Word32) : Core :=
  let c := c.setQueue q (c.queue q ++ ts)
  { c with sample := c.sample.map (fun m =>
      if h : q.val < 12 then { m with room := m.room.set q.val (m.room[q.val] - ts.length) } else m) }

/-- Whether a WAIT byte is satisfied (R33, R38). -/
def Core.waitOk (c : Core) : Wait → Bool
  | .none => true
  | .pop n q => decide (n.val + 1 ≤ c.availOf q)
  | .full h => c.stateOf h == .full
  | .free h => c.stateOf h == .free
/-- What a satisfied WAIT byte takes (R33). -/
def Core.takeWait (c : Core) : Wait → Core
  | .pop n q => c.popTokens q (n.val + 1)
  | _ => c

/-- A handle disarmed: its counts kept, its window closed (R37, R293). -/
def Handle.toFree (h : Handle) : Handle := { h with st := .free }

/-- Performing one due signal: none where a push finds no room; otherwise the core after it and, where the handle's
state forbids it, the trap of R37. -/
def Core.perform (c : Core) : Signal → Option (Core × Option TrapInfo)
  | .none => some (c, none)
  | .push n q =>
    if n.val + 1 ≤ c.roomOf q then some (c.pushTokens q (List.replicate (n.val + 1) 0), none) else none
  | .release h =>
    match (c.handle h).st with
    | .full => some (c.setHandle h (c.handle h).toFree, none)
    | .free => some (c, none)
    | _ => some (c, some (illegal 0x07 h.val))
  | .arm h =>
    match (c.handle h).st with
    | .free => some (c.setHandle h { c.handle h with st := .filling, widest := 0 }, none)
    | _ => some (c, some (illegal 0x07 h.val))

/-- A handle signal noted in its cycle's sample: a transition of C's engine in the same cycle comes before it (R38). -/
def Core.noteSig (c : Core) (e : Engine) (g : SigEntry) (before : Core) : Core :=
  match g.sig with
  | .release h | .arm h => { c with sample := c.sample.map (fun m => { m with sigs := m.sigs ++ [(h.val, e, g, before.handle h)] }) }
  | _ => c
/-- A handle before the signals of the cycle. -/
def Core.beforeSigs (c : Core) (h : Fin 64) : Handle :=
  match c.sample.bind (fun m => m.sigs.find? (fun x => x.1 == h.val)) with
  | some x => x.2.2.2
  | none => c.handle h

/-- A performed signal as a release (R39): a push's at its queue, a handle's at every engine that may wait for it. What the engine
did before it has finished (R45, R238). -/
def State.teach (s : State) (e : Engine) : Signal → State
  | .none | .arm _ => s
  | .push _ q => s.modCore (fun c => { c.teachPush q ((c.clock e).own e s.nextId) with checker := if e = .C then c.checker else c.othersInFlight e })
  | .release _ => s.modCore (fun c => { c.learnAll ((c.clock e).own e s.nextId) with checker := if e = .C then c.checker else c.othersInFlight e })

/-- What follows a performed signal (R118, R124, R369, R412); an END abandons its task only as a handler's. -/
def State.follow (s : State) (e : Engine) (g : SigEntry) : State :=
  match g.after with
  | .nothing => s
  | .trap t => s.lateTrap e g.inTrap g.pc t
  | .park group map => s.modEng e (fun x => { x with parked := some (group, map) })
  | .abandon => if s.core.trap.mode then s.abandon s.cur false else s

/-- Performs an engine's due signals in stream order until one is not ready, finds no room, or traps (R37, R46). -/
def State.flushSigs (s : State) (e : Engine) : List SigEntry → State
  | [] => s.modEng e (fun x => { x with sigs := [] })
  | g :: gs =>
    if !g.ready then s.modEng e (fun x => { x with sigs := g :: gs })
    else
      match s.core.perform g.sig with
      | none => s.modEng e (fun x => { x with sigs := g :: gs })
      | some (c, none) =>
        let c := c.noteSig e g s.core
        if g.after = .nothing then ((s.setCore c).teach e g.sig).flushSigs e gs
        else (((s.setCore c).teach e g.sig).modEng e (fun x => { x with sigs := gs })).follow e g
      | some (c, some t) => ((s.setCore c).modEng e (fun x => { x with sigs := gs })).lateTrap e g.inTrap g.pc t

/-- Whether queued signals hold back an engine's next word: a handle signal still to be performed (R46), one that a trap, a
parking or an abandonment follows (R124, R369), or a due push that found no room (R34; log 11). -/
def Eng.sigHold (x : Eng) : Bool :=
  x.sigs.any (fun g => match g.sig with | .release _ | .arm _ => true | _ => g.after != .nothing)
    || (match x.sigs with | g :: _ => g.ready | [] => false)

/-! ### The program counter and loops (R40, R42, R120) -/

/-- The loop rule at a word's issue: the innermost entry that ends on the word at its call level counts down. -/
def loopBack (pc level : Nat) : List LoopEntry → List LoopEntry × Option Nat
  | [] => ([], none)
  | l :: ls =>
    if l.last = pc ∧ l.level = level then
      if 1 < l.remaining then ({ l with remaining := l.remaining - 1 } :: ls, some l.first) else loopBack pc level ls
    else (l :: ls, none)

/-- The engine past a word that transfers nothing. -/
def Eng.advance (x : Eng) : Eng :=
  let (ls, back) := loopBack x.pc x.link.length x.loops
  { x with loops := ls, pc := back.getD (x.pc + 1), taken := false }

/-- Whether the word at the PC is the last of an active loop entry (R120). -/
def Eng.endsLoop (x : Eng) : Bool := x.loops.any (fun l => l.last == x.pc && l.level == x.link.length)

/-- The length of the stream an engine runs: the trap section's in trap mode on S (R407). -/
def Core.streamLen (c : Core) (e : Engine) : Nat :=
  if e = .S ∧ c.trap.mode then c.obj.trapLen else (c.eng e).ring.len

/-! ### The checks before the wait (R68, from its fourth item; R36) -/

/-- What a word names that the state must allow: tiles and accumulators from the lowest field up (`false` for a tile
register), queues with the direction they are used in (`true`: pushed), handles, a system register number, QCTL, a
limit's bit position, the shape's verdict, whether it must not issue as the last word of a loop body (R120), and a reserved mode for the shape's
type (R111). -/
structure Names where
  mode : Option TrapInfo := none
  regs : List (Bool × Nat) := []
  queues : List (Nat × Bool) := []
  handles : List Nat := []
  sysreg : Option Nat := none
  qctl : Bool := false
  limit : Option Nat := none
  shape : Option TrapInfo := none
  branch : Bool := false

/-- Queues of the coupling bytes, SIGNAL first as the lower field. -/
def hdrQueues (h : Hdr) : List (Nat × Bool) :=
  (match h.sig with | .push _ q => [(q.val, true)] | _ => []) ++ (match h.wait with | .pop _ q => [(q.val, false)] | _ => [])
def hdrHandles (h : Hdr) : List Nat :=
  (match h.sig with | .release x | .arm x => [x.val] | _ => []) ++ (match h.wait with | .full x | .free x => [x.val] | _ => [])

/-- R36: the engine at the right end, and declared. -/
def Core.queueOk (c : Core) (e : Engine) (u : Nat × Bool) : Bool :=
  decide (u.1 < 12) && (if u.2 then queueSource u.1 == e.num else queueDest u.1 == e.num) && c.obj.queues.contains u.1

/-- The system registers of R67. -/
def sysregAssigned (n : Nat) : Bool :=
  decide (n ≤ 0x00D ∨ (0x010 ≤ n ∧ n ≤ 0x015) ∨ (0x018 ≤ n ∧ n ≤ 0x01B) ∨ (0x020 ≤ n ∧ n ≤ 0x023)
    ∨ (0x030 ≤ n ∧ n ≤ 0x034) ∨ (0x100 ≤ n ∧ n ≤ 0x103))

/-- The first failing check of R68 after its third item, R143's shape check last. -/
def State.illegal? (s : State) (e : Engine) (h : Hdr) (n : Names) : Option TrapInfo :=
  let c := s.core
  let badReg := n.regs.find? (fun r => if r.1 then decide (Part.accs c.part ≤ r.2) else decide (Part.tiles c.part ≤ r.2))
  let badQueue := (n.queues ++ hdrQueues h).find? (fun u => !c.queueOk e u)
  let badHandle := (n.handles ++ hdrHandles h).find? (fun x => !c.obj.handles.contains x)
  match n.mode, badReg, badQueue, badHandle with
  | some t, _, _, _ => some t
  | none, some r, _, _ => some (illegal 0x04 (r.2 % 256))
  | none, none, some q, _ => some (illegal 0x05 q.1)
  | none, none, none, some x => some (illegal 0x06 x)
  | none, none, none, none =>
    match n.sysreg with
    | some r =>
      if !sysregAssigned r || (decide (0x100 ≤ r) && !s.privileged) then
        some { cause := 1, info := 0x08 + 256 * (r % 256) + 2 ^ 16 * (r / 256 % 16) }
      else none
    | none =>
      if n.qctl && !s.privileged then some (illegal 0x11)
      else
        match n.limit with
        | some p => some (illegal 0x0A p)
        | none => n.shape

/-! ### Issuing a word -/

/-- What an instruction's own effect comes to. A trap or a stall leaves the state before the word's wait but for what
its function does to it: a stalled word has not issued (R405). A word that holds has issued and waits, its WAIT byte
performed. One that resumes has put the engine where it goes on, with what it waits for. Of a word with more to follow its signal, `doneThen` says what. -/
inductive Res where
  | done (s : State)
  | goto (s : State) (pc : Nat)
  | resume (s : State)
  | pend (s : State) (id : Nat)
  | stall (f : State → State)
  | hold (s : State)
  | trap (f : State → State) (t : TrapInfo)
  | doneThen (s : State) (a : After)
  | stop (s : State)

/-- A signal appended to an engine's queue, and what is due performed (R45, R46). -/
def State.signal (s : State) (e : Engine) (id : Nat) (ready : Bool) (pc : Nat) (sig : Signal) : State :=
  if sig = .none then s.flushSigs e (s.eng e).sigs
  else s.flushSigs e ((s.eng e).sigs ++ [⟨id, ready, sig, pc, s.core.trap.mode, .nothing⟩])

/-- Marks a queued signal ready, to be performed in its engine's next turn (R38, R46). -/
def State.finishSig (s : State) (e : Engine) (id : Nat) : State :=
  s.modEng e (fun x => { x with sigs := x.sigs.map (fun g => if g.id = id then { g with ready := true } else g) })

/-- The word at the PC done: the PC past it, its signal performed (R45). -/
def State.retire (s : State) (e : Engine) (h : Hdr) (pc : Nat) : State :=
  (s.modEng e Eng.advance).signal e 0 true pc h.sig

/-- The same with more to follow the word's signal once that is performed (R118, R124, R369): nothing, where the signal's own
condition is taken instead (log 19). A word with no signal to perform goes on at once. -/
def State.retireThen (s : State) (e : Engine) (h : Hdr) (pc : Nat) (a : After) : State :=
  let s := s.modEng e Eng.advance
  let g : SigEntry := ⟨0, true, h.sig, pc, s.core.trap.mode, a⟩
  if h.sig = .none then (s.flushSigs e (s.eng e).sigs).follow e g else s.flushSigs e ((s.eng e).sigs ++ [g])

/-- A word's WAIT byte performed at its issue, once (R33). -/
def State.begin (s : State) (e : Engine) (h : Hdr) : State :=
  if (s.eng e).taken then s else s.setCore { s.core.takeWait h.wait with blockedSince := none }

/-- THE ISSUE OF A WORD on its engine: the checks before its wait, the wait, a branch as the last word of a loop body, the
guard, its effect, its signal (R33, R44 to R47, R68, R116, R120; logs 79, 80). `busy` tells that it needs a register an
unfinished instruction still has to write, for which a word whose guard fails does not wait (R47). A word that has issued
and waits goes on where it stands. The 0x0A trap of a branch or LOOP as the last body word reports 0 in TRAP_INFO[15:8] and comes
before the guard: DESIGN CHOICE, R120 gives neither (log 79). -/
def State.issue (s : State) (e : Engine) (h : Hdr) (n : Names) (busy : Bool) (eff : State → Res) : State :=
  let pc := (s.eng e).pc
  match if (s.eng e).taken then none else s.illegal? e h n with
  | some t => s.takeTrap e pc t
  | none =>
    if !((s.eng e).taken || s.core.waitOk h.wait) then s
    else if n.branch && (s.eng e).endsLoop then s.takeTrap e pc (illegal 0x0A)
    else
      let s1 := s.begin e h
      if e = .S ∧ (s.core.readP h.guard == h.neg) then s1.retire e h pc
      else if busy then s
      else
        match eff s1 with
        | .done s2 => s2.retire e h pc
        | .goto s2 target => (s2.modEng e (fun x => { x with pc := target, taken := false })).signal e 0 true pc h.sig
        | .resume s2 => s2.signal e 0 true pc h.sig
        | .pend s2 id => (s2.modEng e Eng.advance).signal e id false pc h.sig
        | .stall f => f s
        | .hold s2 => s2.modEng e (fun x => { x with taken := true })
        | .trap f t => (f s).takeTrap e pc t
        | .doneThen s2 a => s2.retireThen e h pc a
        | .stop s2 => (s2.modEng e (fun x => { x with ended := true, loops := [], taken := false })).signal e 0 true pc h.sig

/-! ### Instructions in flight and the registers they still have to write (R44, R269) -/

inductive Reg where
  | s (r : Fin 32) | t (n : Fin 256)
  deriving DecidableEq, Repr

/-- The register that a waiting memory instruction writes. -/
def MemOp.dest : MemOp → Option (Fin 32)
  | .atomic w => w.d.bind (fun d => if d = 0 then none else some d)
  | .lds _ _ d _ | .atoms _ _ _ d _ _ => if d = 0 then none else some d
  | .sts _ _ _ | .pref _ _ _ | .flush _ => none
def Flight.dest (f : Flight) : Option Reg :=
  match f.kind with
  | .load d _ _ | .atom d => if d = 0 then none else some (.s d)
  | .gather t _ _ => some (.t t)
  | .waiting op => op.dest.map .s
  | _ => none

/-- Whether a word that reads or writes these registers must wait for an instruction in flight. -/
def Core.busyFor (c : Core) (rs : List Reg) : Bool := c.flights.any (fun f => match f.dest with | some r => rs.contains r | none => false)

end Sys2Proof.Machine
end

