-- ==== Sys2Proof/Machine/Rank.lean ====
section
/-! DEFINITION. Launch-record fields, gang coordinates, ranks and budgets (spec/15 R326, R330, R333, R339). -/

namespace Sys2Proof.Machine

namespace Task

def prioField (t : Task) : Nat := recordField t.record 0x35 1 % 8
def flags (t : Task) : Nat := recordField t.record 0x36 1
def overlap (t : Task) : Bool := t.flags % 2 == 1
def deadlineClass (t : Task) : Bool := t.flags / 2 % 2 == 1
def notify (t : Task) : Bool := t.flags / 4 % 2 == 1
def deadline (t : Task) : Nat := recordField t.record 0x28 8

/-- The extents of the C and D levels (kinds 2 and 3) multiply to the gang's size (R330). -/
def spread (t : Task) : List (Nat × Nat) := t.loops.filter (fun l => l.2 == 2 || l.2 == 3)
def dieCount (t : Task) : Nat := (t.loops.filter (fun l => l.2 == 3)).foldl (fun n l => n * l.1) 1

/-- The coordinates of a gang position over the loop levels, outermost first; `stride` counts the C and D levels
further in (R330). -/
def coords (pos : Nat) : List (Nat × Nat) → List Nat
  | [] => []
  | l :: ls =>
    let inner := (ls.filter (fun l => l.2 == 2 || l.2 == 3)).foldl (fun n l => n * l.1) 1
    (if l.2 = 2 ∨ l.2 = 3 then pos / inner % l.1 else 0) :: coords pos ls

/-- The mixed-radix number of the D coordinates of a position (R331). -/
def delta (t : Task) (pos : Nat) : Nat :=
  ((coords pos t.loops).zip t.loops).foldl (fun n cl => if cl.2.2 = 3 then n * cl.2.1 + cl.1 else n) 0

end Task

/-! ### Ranks (R333) -/

/-- Ranks as numbers: the priority class above 2^64, the deadline band being class 8 with the earlier deadline higher. -/
def bandRank (deadline : Nat) : Nat := 8 * 2 ^ 64 + (2 ^ 64 - 1 - deadline)
/-- A bound or pre-empted task keeps the QPRIO it was bound under: a write of QPRIO ranks the records not yet bound (R353). -/
def State.baseRank (s : State) (t : Task) : Nat :=
  if t.deadlineClass then bandRank t.deadline else min t.prioField (t.qprio.getD (s.queueOf t.queue).qprio) * 2 ^ 64

/-- Whether a scope is another's descendant, or itself, following parents. -/
def scopeWithin (c : Ctx) (anc : Nat) : Nat → Nat → Bool
  | _, 0 => anc == 0
  | 0, n => n == anc
  | fuel + 1, n => n == anc || scopeWithin c anc fuel (SMap.get {} c.scopes n).parent

/-- The scope generation that a core's FSWAIT still waits for. -/
def Core.fswait (c : Core) : Option (Nat × Nat) :=
  match c.unit with
  | some u => (match u.cmd with | .fswait _ _ _ => if u.answer.isNone then some (u.arg, u.arg2) else none | _ => none)
  | none => none
/-- The scope generations that the engines of a task wait for in FSWAIT, in a save slot too (R352, R371). -/
def State.fswaits (s : State) (id : Nat) : List (Nat × Nat) :=
  s.cores.filterMap (fun e => if e.2.task = some id then e.2.fswait else none)
    ++ s.saves.filterMap (fun x => if x.task = id then x.core.fswait else none)

/-- The scope generations a waiting task depends on or waits for; empty for one that does not wait. -/
def State.waitsFor (s : State) (id : Nat) (t : Task) : List (Nat × Nat) :=
  (if t.st = .enqueued ∨ t.st = .preempted then t.deps else []) ++ s.fswaits id

/-- The tasks that a waiting task contributes to. -/
def State.recipients (s : State) (id : Nat) (t : Task) : List Nat :=
  let c := s.ctxOf t.ctx
  let members := s.tasks.filter (fun e =>
    e.2.ctx == t.ctx && e.2.st != .retired
      && (s.waitsFor id t).any (fun w => scopeWithin c w.1 256 e.2.scope && (w.1 != e.2.scope || w.2 == e.2.scopeGen)))
  let ahead := s.tasks.filter (fun e =>
    e.2.st != .retired && members.any (fun m => m.2.st == .enqueued && m.2.queue == e.2.queue && e.2.order < m.2.order))
  ((members ++ ahead).map (·.1)).eraseDups

def State.rankRound (s : State) (r : SMap Nat) : SMap Nat :=
  s.tasks.foldl (fun r e =>
    if e.2.st = .retired ∨ (e.2.st = .running ∧ (s.fswaits e.1).isEmpty) then r
    else (s.recipients e.1 e.2).foldl (fun r j => SMap.put r j (max (SMap.get 0 r j) (SMap.get 0 r e.1))) r) r

def iterate {α : Type} (f : α → α) : Nat → α → α
  | 0, x => x
  | n + 1, x => iterate f n (f x)

/-- Every task's effective rank: contributions passed on until they settle. -/
def State.ranks (s : State) : SMap Nat :=
  iterate s.rankRound s.tasks.length (s.tasks.map (fun e => (e.1, s.baseRank e.2)))
def State.effRank (s : State) (id : Nat) : Nat := SMap.get 0 s.ranks id
/-- PRIO reads the effective priority; the deadline band reads 8 (log 12). -/
def State.effPrio (s : State) (id : Nat) : Nat := s.effRank id / 2 ^ 64

/-! ### Budgets (R339) -/

/-- Fabric cycles a task has been bound. -/
def State.budgetLeft (s : State) (t : Task) : Nat :=
  if t.deadlineClass then
    t.budget - (t.budgetUsed + (if t.st = .running ∨ t.st = .launching then s.fabric - t.resumeAt else 0))
  else 2 ^ 64 - 1

end Sys2Proof.Machine
end

