-- ==== Sys2Proof/Machine/Operands.lean ====
section
/-! DEFINITION. Operand forms: s registers, immediates, data-area and global operands (spec/05 R116, 12 R258, R261). -/

namespace Sys2Proof.Machine

/-- The registers an S word reads or writes, as `busyFor` takes them (R44). -/
def sRegs (rs : List (Fin 32)) : List Reg := rs.map .s

/-- An S instruction that writes `f` of the register file to s[d] and raises flags (R127, R135). -/
def State.sop (s : State) (h : Hdr) (d : Fin 32) (rs : List (Fin 32)) (f : Core → Word64 × Flags) : Out :=
  .next (s.issue .S h {} (s.core.busyFor (sRegs (d :: rs))) (fun s =>
    let r := f s.core
    .done (s.setCore ((s.core.writeS d r.1).addFlags .S r.2))))

/-- An S instruction that writes a predicate. -/
def State.pop (s : State) (h : Hdr) (p : Fin 8) (rs : List (Fin 32)) (f : Core → Bool × Flags) : Out :=
  .next (s.issue .S h {} (s.core.busyFor (sRegs rs)) (fun s =>
    let r := f s.core
    .done (s.setCore ((s.core.writeP p r.1).addFlags .S r.2))))

/-- Bytes of an access size (R56). -/
def sizeBytes : Size → Nat
  | .b1 => 1 | .b2 => 2 | .b4 => 4 | .b8 => 8

/-- A value loaded with `n` bytes, sign-extended or zero-extended to a register (R263). -/
def extendLoad (n : Nat) (sext : Bool) (v : Nat) : Word64 :=
  if n < 8 ∧ sext then BitVec.ofInt 64 (signedOf (8 * n) v) else BitVec.ofNat 64 v

/-- A base register plus a signed byte offset, wrapped to 64 bits (R258, R261). -/
def baseOffset {w : Nat} (base : Word64) (off : BitVec w) : Nat := (base + off.signExtend 64).toNat

/-- The checks of a data-area operand of `n` bytes (R261). -/
def Core.dataCheck (c : Core) (o n : Nat) : Option TrapInfo :=
  if Part.dataBytes c.part < o + n then some (leaseFault 0x05 o)
  else if o % n ≠ 0 then some (misaligned o) else none

/-- Bytes of the data area. -/
def Core.readData (c : Core) (o n : Nat) : List Byte := SMap.getRange 0 c.data o n
def Core.writeData (c : Core) (o : Nat) (bs : List Byte) : Core :=
  { c with data := SMap.setRange 0 c.data o bs,
           upsets := c.upsets.filter (fun g => decide (8 * g < o ∨ o + bs.length < 8 * g + 8)) }

/-! ### Shared tiles (R147, R183) -/

/-- Whether a tile is declared shared with an engine. -/
def Core.sharedWith (c : Core) (e : Engine) (t : Nat) : Bool :=
  c.obj.tiles.any (fun x => x.1 == t && (x.2.1 == e.num || x.2.2 == e.num))
/-- The tiles among these that are shared with V become FULL, each a release that carries `k` (R227). -/
def Core.fillTiles (c : Core) (k : Clock) (ts : List Nat) : Core :=
  let new := (ts.filter (fun t => c.sharedWith .V t && !c.fullTiles.contains t)).eraseDups
  { c with fullTiles := new ++ c.fullTiles, checker := if new.isEmpty then c.checker else c.othersInFlight .V,
           tileClocks := new.foldl (fun m t => SMap.put m t k) c.tileClocks }
/-- The shared tiles among those that a V word has written FULL at its finish. -/
def State.filled (s : State) (ts : List Nat) : State := s.modCore (fun c => c.fillTiles ((c.clock .V).own .V s.nextId) ts)
/-- Tiles shared with M that it has read become EMPTY: its read acquires what filled them (R227, R228). -/
def Core.emptyTiles (c : Core) (ts : List Nat) : Core :=
  let c := ts.foldl (fun c t => c.learn Engine.M.num (SMap.get {} c.tileClocks t)) c
  { c with fullTiles := c.fullTiles.filter (fun t => !ts.contains t), checker := if ts.isEmpty then c.checker else c.othersInFlight .M }
/-- What V waits for, as the cycle's start has them: the tiles it reads FULL, those it only writes EMPTY. -/
def Core.sharedReady (c : Core) (reads writes : List Nat) : Bool :=
  reads.all (fun t => !c.sharedWith .V t || c.fullOf t)
    && writes.all (fun t => reads.contains t || !c.sharedWith .V t || !c.fullOf t)

/-! ### Runs of data-area bytes with their bounds (R149, R184) -/

/-- The lowest byte of a run outside the data area, or outside [base, base + count). -/
def lowestOutside (size base count : Nat) (run : Nat × Nat) : Option Nat :=
  let hi := min size (base + count)
  if run.2 = 0 then none
  else if run.1 < base then some run.1
  else if hi < run.1 + run.2 then some (max run.1 hi) else none
/-- The lease fault of runs named with a handle or without one. -/
def Core.runsFault (c : Core) (hd : Fin 64) (runs : List (Nat × Nat)) : Option TrapInfo :=
  let size := Part.dataBytes c.part
  let r : Nat × Nat := if hd = 63 then (0, size) else ((c.handle hd).base, (c.handle hd).expected)
  ((runs.filterMap (lowestOutside size r.1 r.2)).min?).map (leaseFault 0x05)

/-! ### Commands in flight on the data area (R187, R238 to R240) -/

def runsOverlap (a b : Nat × Nat) : Option Nat :=
  let lo := max a.1 b.1
  if lo < min (a.1 + a.2) (b.1 + b.2) then some lo else none

/-- The lowest shared byte of two lists of runs. -/
def lowestShared (xs ys : List (Nat × Nat)) : Option Nat :=
  (xs.flatMap (fun x => ys.filterMap (runsOverlap x))).min?

/-- The lowest byte that a command shares with one in flight, one of the two writing it. -/
def Footprint.clash (f : Footprint) (reads writes : List (Nat × Nat)) : Option Nat :=
  ([lowestShared writes (f.reads ++ f.writes), lowestShared reads f.writes].filterMap (fun x => x)).min?
/-- The commands in flight that a command of engine `e` clashes with and is not ordered with, each with the lowest byte they share:
those of other engines and, of C's, all but the journal entry `own` itself. -/
def Core.unordered (c : Core) (e : Engine) (own : Nat) (reads writes : List (Nat × Nat)) : List (Footprint × Nat) :=
  c.checker.filterMap (fun f =>
    if f.held || (f.eng == e.num && (e != .C || f.id == own)) then none else (f.clash reads writes).map (fun a => (f, a)))

/-- The determinism fault of a command: of the commands in flight that it clashes with, the one with the lowest shared byte (R239). -/
def State.orderFault (s : State) (e : Engine) (reads writes : List (Nat × Nat)) : Option TrapInfo :=
  if s.detlevel = 0 then none
  else
    let lowest := (s.core.unordered e 0 reads writes).foldl (fun (m : Option (Footprint × Nat)) h =>
      match m with | some k => if h.2 < k.2 then some h else some k | none => some h) none
    lowest.map (fun h => { cause := 7, addr := h.2, info := 0x01 + 2 ^ 8 * h.1.eng + 2 ^ 16 * h.1.pc })

/-- The values of a byte before the writes of some images. -/
def staleBytes (is : List Image) (b : Nat) : List Byte :=
  (is.filter (fun i => i.runs.any (fun r => decide (r.1 ≤ b ∧ b < r.1 + r.2)))).map (fun i => SMap.get 0 i.bytes b)
/-- The data area as a command reads it beside unordered writes: of each byte that one wrote, its old or its new value. -/
def mixReads (key : Nat) (is : List Image) (reads : List (Nat × Nat)) (d : SMap Byte) : SMap Byte :=
  reads.foldl (fun d r => (List.range r.2).foldl (fun d i =>
    let b := r.1 + i
    let l := SMap.get 0 d b :: staleBytes is b
    if l.length = 1 then d else SMap.set 0 d b ((l[(Config.freeByte (key + b)).toNat % l.length]?).getD 0)) d) d
/-- The data area after a command's writes: of each word that an unordered command wrote too, the bytes of one of the two. -/
def mixWrites (key : Nat) (is : List Image) (reads writes : List (Nat × Nat)) (before after : SMap Byte) : SMap Byte :=
  let d := reads.foldl (fun d r => SMap.setRange 0 d r.1 (SMap.getRange 0 before r.1 r.2)) after
  writes.foldl (fun d r => SMap.setRange 0 d r.1 ((List.range r.2).map (fun i =>
    let b := r.1 + i
    if !(staleBytes is b).isEmpty && (Config.freeByte (key + 2 ^ 96 + b / 4)).toNat % 2 == 1 then SMap.get 0 before b
    else SMap.get 0 after b))) d

/-- A command that has made its accesses, on a data area that was `d`, noted with the checker. -/
def Core.noted (c : Core) (level : Nat) (d : SMap Byte) (f : Footprint) : Core :=
  let is : List Image := if level = 0 then [⟨f.writes, d⟩] else []
  let met (g : Footprint) : Footprint :=
    if g.eng == 3 && (g.clash f.reads f.writes).isSome then { g with met := g.met ++ is } else g
  { c with checker := (c.checker.filter (fun g => f.eng != 3 || g.eng != 3 || g.id != f.id)).map met ++ [{ f with old := f.old ++ is }] }

/-- The images of a command's unordered companions: what they replaced, and what they met since its own issue. -/
def imagesOf (xs : List (Footprint × Nat)) (f : Footprint) : List Image := xs.flatMap (fun x => x.1.old) ++ f.met
/-- The state as a command finds it, and after its accesses, where others in flight are not ordered with it (R240). -/
def State.facing (s : State) (is : List Image) (reads : List (Nat × Nat)) : State :=
  if is.isEmpty then s
  else { s.modCore (fun c => { c with data := mixReads (s.nextId * 2 ^ 100 + 2 ^ 98) is reads c.data }) with nextId := s.nextId + 1 }
def State.faced (t s : State) (is : List Image) (f : Footprint) : State :=
  t.modCore (fun c =>
    let c := if is.isEmpty then c
             else { c with data := mixWrites (s.nextId * 2 ^ 100 + 2 ^ 98) is f.reads f.writes s.core.data c.data }
    c.noted s.detlevel s.core.data f)

/-! ### Soft errors of the pool (R419) -/

/-- The trap of reads of the data area that meet an uncorrectable soft error. -/
def Core.sramFault (c : Core) (reads : List (Nat × Nat)) : Option TrapInfo :=
  ((c.upsets.filter (fun g => reads.any (fun r => decide (8 * g < r.1 + r.2 ∧ r.1 < 8 * g + 8)))).min?).map (fun g =>
    uncorrectable 0x03 (8 * g))
/-- What a command's accesses to the data area meet: the order checker first. -/
def State.dataFault (s : State) (e : Engine) (reads writes : List (Nat × Nat)) : Option TrapInfo :=
  (s.orderFault e reads writes).or (s.core.sramFault reads)
/-- Whether nothing stands against those accesses: no unordered command in flight, no soft error. -/
def State.clear (s : State) (e : Engine) (reads writes : List (Nat × Nat)) : Bool :=
  (s.core.unordered e 0 reads writes).isEmpty && (s.core.sramFault reads).isNone

/-- The record of an uncorrectable soft error that an engine meets. -/
def State.logSram (s : State) (e : Engine) (t : TrapInfo) : State :=
  if t.cause = 0x0B ∧ t.info = 0x03 then
    s.logError (coreDie s.cur) { time := s.time, channel := coreChannel s.cur, type := 7, agent := agentCore s.cur e }
  else s

/-- Whether reads of a part of the pool meet one: runs of bytes, a tile at 1,024 bytes from the last and an accumulator at 8,192. -/
def Core.softIn (c : Core) (p : PoolPart) (reads : List (Nat × Nat)) : Bool :=
  c.soft.any (fun x => x.1 == p && reads.any (fun r => decide (8 * x.2 < r.1 + r.2 ∧ r.1 < 8 * x.2 + 8)))
/-- Its trap: R419 gives TRAP_ADDR for the data area and the weight buffer alone, elsewhere it is free (log 77). -/
def State.softTrap (s : State) : TrapInfo :=
  uncorrectable 0x03 (ofBytes ((List.range 8).map (fun i => Config.freeByte (s.turns * 2 ^ 100 + 2 ^ 93 + i))))
/-- A word's reads of a part of the pool, then its effect. -/
def State.onPool (s : State) (e : Engine) (p : PoolPart) (reads : List (Nat × Nat)) (f : State → Res) : Res :=
  if s.core.softIn p reads then .trap (fun s => s.logSram e s.softTrap) s.softTrap else f s
/-- The entries of a part that are written whole hold no error any more (log 77). -/
def Core.mendPool (c : Core) (p : PoolPart) (writes : List (Nat × Nat)) : Core :=
  { c with soft := c.soft.filter (fun x => !(x.1 == p && writes.any (fun r => decide (r.1 ≤ 8 * x.2 ∧ 8 * x.2 + 8 ≤ r.1 + r.2)))) }
/-- The trap of an L1 hit on words that hold one. -/
def State.l1Fault (s : State) (ks : List Nat) : Option TrapInfo :=
  if s.core.soft.any (fun x => x.1 == .l1 && ks.any (fun k => k / 2 == x.2)) then some s.softTrap else none

/-- What a word does past its own effect, at once or where it has issued. -/
def Res.after (r : Res) (g : State → State) : Res :=
  match r with
  | .done s => .done (g s)
  | .pend s id => .pend (g s) id
  | r => r
/-- THE ACCESSES OF AN S, V OR M WORD TO THE DATA AREA: the order checker, the pool's code, then its effect beside what is in
flight unordered with it, and its own footprint from then on (R187, R238 to R240, R419). `pc` is the word's offset, `d` the register
that a load of S writes. -/
def State.onDataAt (s : State) (e : Engine) (pc : Nat) (d : Option (Fin 32)) (reads writes : List (Nat × Nat)) (f : State → Res) : Res :=
  match s.dataFault e reads writes with
  | some t => .trap (fun s => s.logSram e t) t
  | none =>
    let x : Footprint := { eng := e.num, pc, reads, writes, d }
    let is := imagesOf (s.core.unordered e 0 reads writes) x
    (f (s.facing is reads)).after (fun t => t.faced s is x)
def State.onData (s : State) (e : Engine) (reads writes : List (Nat × Nat)) (f : State → Res) : Res :=
  s.onDataAt e (s.eng e).pc none reads writes f

end Sys2Proof.Machine
end

