-- ==== Sys2Proof/Machine/Translate.lean ====
section
/-! DEFINITION. Addresses, leases, page tables and layers as an access meets them (spec/19 R382 to R395, 16 R357 to
R365). -/

namespace Sys2Proof.Machine

/-! ### Page tables (R387 to R389) -/

/-- What a walk finds: a leaf with its entry's address, a missing page with the entry that holds its lock, or an invalid
entry, with the poisoned table line if that is why. -/
inductive Walked where
  | page (entryAt entry : Nat) (big : Bool)
  | missing (entryAt : Option Nat) (lock : Bool)
  | invalid (poison : Option Nat)
  deriving DecidableEq, Repr

/-- A table entry, or the line that gives none: it is poisoned or absent (R389). -/
def State.tableEntry (s : State) (a : Nat) : Except (Option Nat) Nat :=
  if 2 ^ 39 ≤ a ∨ s.absent a then .error (some (lineOf a))
  else match s.readChecked a 8 with | some bs => .ok (ofBytes bs) | none => .error (some (lineOf a))

def nonLeafOk (e : Nat) : Bool := bits e 1 1 == 0 && bits e 2 6 == 0 && bits e 8 2 == 0 && bits e 10 6 == 0 && bits e 39 25 == 0
def pageBytes (big : Bool) : Nat := if big then 2 ^ 21 else 2 ^ 16
/-- The rules of R388 and R316 for a leaf. -/
def State.leafOk (s : State) (e : Nat) (big : Bool) : Bool :=
  let tgt := bits e 3 2
  bits e 1 1 == 1 && bits e 8 2 == 0 && tgt != 3 && (tgt == 2 || bits e 10 6 == 0) && (!big || bits e 16 5 == 0)
    && (tgt != 0 || (bits e 39 25 == 0 && !s.absent (bits e 16 23 * 2 ^ 16 + pageBytes big - 1)))
def nextTable (e : Nat) : Nat := bits e 16 23 * 2 ^ 16

def State.walkLeaf (s : State) (a e : Nat) (big : Bool) : Walked :=
  if s.leafOk e big then .page a e big else .invalid none

/-- The walk from a context's root. -/
def State.walk (s : State) (ctx ia : Nat) : Walked :=
  let level (table idx : Nat) (k : Nat → Nat → Walked) : Walked :=
    match s.tableEntry (table + 8 * idx) with
    | .error p => .invalid p
    | .ok e => k (table + 8 * idx) e
  let inner (k : Nat → Walked) (lockable : Bool) (a e : Nat) : Walked :=
    if bits e 0 1 = 0 then .missing (if lockable then some a else none) (lockable && bits e 7 1 == 1)
    else if nonLeafOk e then k (nextTable e) else .invalid none
  level (s.ctxOf ctx).ptroot (bits ia 47 5) (inner (fun t1 =>
    level t1 (bits ia 34 13) (inner (fun t2 =>
      level t2 (bits ia 21 13) (fun a e =>
        if bits e 0 1 = 1 ∧ bits e 1 1 = 1 then s.walkLeaf a e true
        else inner (fun t3 =>
          level t3 (bits ia 16 5) (fun a e =>
            if bits e 0 1 = 0 then .missing (some a) (bits e 7 1 == 1) else s.walkLeaf a e false)) true a e)) false)) false)

/-- Where a translation leads: an address of device or host memory, a peer's page, a locked page, or nowhere. -/
inductive Xlate where
  | addr (a : Nat)
  | peer (pkg pctx ia : Nat)
  | locked
  | refused
  deriving DecidableEq, Repr

/-- The address of an intermediate address in a leaf. -/
def leafAddr (e ia : Nat) (big : Bool) : Xlate :=
  let off := ia % pageBytes big
  match bits e 3 2 with
  | 0 => .addr (bits e 16 23 * 2 ^ 16 + off)
  | 1 => .addr (hostBase + bits e 16 48 * 2 ^ 16 + off)
  | _ => .peer (bits e 52 12) (bits e 10 6) (bits e 16 36 * 2 ^ 16 + off)

/-- The Eloazel port by which the package reaches another: the lowest whose partner it is, else port 0 (log 90). -/
def State.portTo (s : State) (pkg : Nat) : Nat := match List.find? (fun e => e.2 == pkg) s.fab.ports with | some e => e.1 | none => 0
/-- What the table of that port lets a master do: read is receive, write is send (R398). -/
def State.portCode (s : State) (pkg master : Nat) : Nat := s.accessCode (0x211 + s.portTo pkg) master

/-- A request's translation for a master that reads or writes, by what the walk found. -/
def State.translateBy (s : State) (w : Walked) (master ia : Nat) (write : Bool) : Xlate :=
  match w with
  | .page _ e big =>
    if bits e 7 1 = 1 then .locked
    else if write ∧ bits e 2 1 = 0 then .refused
    else
      match leafAddr e ia big with
      | .addr a => if s.allows master a write then .addr a else .refused
      | .peer pkg pctx ia =>
        let c := s.portCode pkg master
        if if write then mayWrite c else mayRead c then .peer pkg pctx ia else .refused
      | x => x
  | .missing _ lock => if lock then .locked else .refused
  | .invalid _ => .refused

/-- The key of a page in the translation caches. -/
def tlbKey (ctx ia : Nat) : Nat := ctx * 2 ^ 36 + ia / 65536
/-- Whether a walk finds what a cache holds, the A bit apart. -/
def Walked.agrees (w : Walked) (a e : Nat) (big : Bool) : Bool :=
  match w with | .page a' e' big' => a' == a && e' ||| 32 == e ||| 32 && big' == big | _ => false
/-- A walk, or a leaf that the translation home cached earlier: an entry may have left the cache at any time, so where the two
differ the outside's choice says which is found (R389, R394; log 86). -/
def State.lookup (s : State) (ctx ia : Nat) : Walked :=
  let w := s.walk ctx ia
  match SMap.find? s.tlb (tlbKey ctx ia) with
  | some (a, e, big) =>
    if w.agrees a e big then w
    else if (Config.freeByte (s.nextId * 2 ^ 100 + 2 ^ 99 + tlbKey ctx ia)).toNat % 2 = 1 then .page a e big else w
  | none => w
def State.translate (s : State) (ctx master ia : Nat) (write : Bool) : Xlate := s.translateBy (s.lookup ctx ia) master ia write
/-- A page's translations dropped from the caches (R392, R394). -/
def State.dropTlb (s : State) (p : Nat → Bool) : State := { s with tlb := s.tlb.filter (fun e => !p e.1) }

/-- The die of a page's translation home (R389). -/
def xlateDie (ia : Nat) : Nat := bits ia 16 2 ^^^ bits ia 31 2

/-- What a walk leaves behind: the leaf's A bit set and its translation cached, or a poisoned table line logged (R388, R389). -/
def State.walked (s : State) (ctx ia agent : Nat) : State :=
  match s.walk ctx ia with
  | .page a e big =>
    if bits e 7 1 = 1 then s
    else
      let s := if SMap.find? s.tlb (tlbKey ctx ia) = some (a, e, big) then s else { s with tlb := SMap.put s.tlb (tlbKey ctx ia) (a, e, big) }
      if bits e 5 1 = 1 then s
      else s.putWords (lineOf a) [(a / 4, BitVec.ofNat 32 (bits e 0 8 + 32), 1)]
  | .invalid (some line) => s.logError (xlateDie ia) { time := s.time, channel := 566, type := 3, pa := line, agent }
  | _ => s
/-- The walks of a unit's access to some bytes, one for each 64 KiB page (R388). -/
def State.unitWalks (s : State) (ctx ia n : Nat) : State :=
  (List.range ((ia % 65536 + n + 65535) / 65536)).foldl (fun s i => s.walked ctx (if i = 0 then ia else ia / 65536 * 65536 + 65536 * i) 0) s

/-! ### Units' accesses through a context's page tables -/

/-- One line's bytes, or none where the page or the data cannot be read. -/
def State.unitReadLine (s : State) (ctx ia n : Nat) : Option (List Byte) :=
  match s.translate ctx ctx ia false with
  | .addr a => s.readChecked (s.keyed ctx ia a) n
  | _ => none
/-- Bytes of a context read by a unit, line by line. -/
def State.unitRead (s : State) (ctx ia n : Nat) : Nat → Option (List Byte)
  | 0 => if n = 0 then some [] else none
  | fuel + 1 =>
    if n = 0 then some []
    else
      let m := min n (lineOf ia + 64 - ia)
      match s.unitReadLine ctx ia m, State.unitRead s ctx (ia + m) (n - m) fuel with
      | some x, some y => some (x ++ y)
      | _, _ => none
def State.unitBytes (s : State) (ctx ia n : Nat) : Option (List Byte) := s.unitRead ctx ia n (n / 64 + 2)
/-- The lines of some bytes of a context. -/
def unitLines (ia n : Nat) : List Nat := (List.range ((ia % 64 + n + 63) / 64)).map (fun i => if i = 0 then ia else lineOf ia + 64 * i)
/-- Whether a unit's read of some bytes can be made now: no page is locked, no line is BUSY or held exclusively by the host (R248,
R255, R392). -/
def State.unitReady (s : State) (ctx ia n : Nat) : Bool :=
  (unitLines ia n).all (fun x =>
    match s.translate ctx ctx x false with
    | .addr a => s.readable (lineOf (s.keyed ctx x a))
    | .locked => false
    | _ => true)
/-- What a unit's read of some bytes does beside answering: its walks, the lines' decoding where it can be made, and the host's snoop
where it waits (R255, R388, R416). -/
def State.unitTouch (s : State) (ctx ia n : Nat) : State :=
  (unitLines ia n).foldl (fun s x =>
    match s.translate ctx ctx x false with
    | .addr a => if s.readable (lineOf a) then s.readDecode (lineOf a) else s.snoopFor (lineOf a) false
    | _ => s) (s.unitWalks ctx ia n)
/-- The key of a context's byte for a unit's read. -/
def State.unitAddr (s : State) (ctx ia : Nat) : Option Nat :=
  match s.translate ctx ctx ia false with | .addr a => some (s.keyed ctx ia a) | _ => none
/-- Bytes within one page written by a unit; nothing where the page is not writable. To a locked page they are written once the lock
clears (R392). -/
def State.unitWrite (s : State) (ctx ia : Nat) (bs : List Byte) : State :=
  let s' := s.walked ctx ia 0
  match s.translate ctx ctx ia true with
  | .addr a => (s'.noteName ctx ia a).writeNow (s.keyed ctx ia a) bs 0 (lineCount bs)
  | .locked => { s' with coh := { s'.coh with later := s'.coh.later ++ [(ctx, ia, bs)] } }
  | _ => s'

/-! ### Layers (R357 to R361) -/

/-- A layer table entry as software wrote it (R358). -/
structure LayerEntry where
  ibase : Nat
  size : Nat
  srckind : Nat
  peer : Nat
  srcaddr : Nat
  deriving DecidableEq, Repr

/-- The entry of a layer; none where it describes no layer or the number is at or above LCOUNT. -/
def State.layerEntry (s : State) (ctx l : Nat) : Option LayerEntry :=
  let c := s.ctxOf ctx
  if c.lcount ≤ l then none
  else
    match s.unitBytes ctx (c.ltab + 32 * l) 24 with
    | none => none
    | some bs =>
      let w0 := recordField bs 0 8
      let w1 := recordField bs 8 8
      let e : LayerEntry :=
        { ibase := bits w0 0 52, size := bits w1 0 32, srckind := bits w1 32 2, peer := bits w1 34 12, srcaddr := recordField bs 16 8 }
      if bits w1 46 1 = 1 ∧ e.size ≠ 0 ∧ e.srckind < 2 ∧ bits w0 52 12 = 0 ∧ bits w1 47 17 = 0 then some e else none

/-- Whether the entry can be read now, and what reading it does beside (R248, R255, R388, R392, R416). -/
def State.layerReady (s : State) (ctx l : Nat) : Bool :=
  decide ((s.ctxOf ctx).lcount ≤ l) || s.unitReady ctx ((s.ctxOf ctx).ltab + 32 * l) 24
def State.layerTouch (s : State) (ctx l : Nat) : State :=
  if (s.ctxOf ctx).lcount ≤ l then s else s.unitTouch ctx ((s.ctxOf ctx).ltab + 32 * l) 24

def pageSize : Nat := 65536
/-- The die whose manager serves a context (R359). -/
def layerDie (ctx : Nat) : Nat := ctx % 4
def State.resSize (s : State) (d : Nat) : Nat := (s.mgmt.ressize[d]?).getD 0
def State.resBase (s : State) (d : Nat) : Nat := (s.mgmt.resbase[d]?).getD 0

/-- A failed layer's record of type 12 (R361, R423). -/
def State.logLayer (s : State) (ctx ibase : Nat) : State :=
  s.logError (layerDie ctx) { time := s.time, channel := 567, type := 12, pa := ibase % 2 ^ 52 + 2 ^ 52 * ctx }

def LayerState.code : LayerState → Nat
  | .absent => 0 | .arriving => 1 | .resident => 2 | .evicting => 3 | .failed => 4
/-- Word 0x18 of a layer entry. -/
def Layer.word (l : Layer) : Nat :=
  l.st.code + 8 * l.req.toNat + 16 * l.fail + 2 ^ 8 * l.pins + 2 ^ 24 * l.lpins
def State.layer (s : State) (ctx l : Nat) : Layer := SMap.get {} (s.ctxOf ctx).layers l
/-- A layer changed by the manager, and its entry's word 0x18 with it (R357). -/
def State.setLayer (s : State) (ctx l : Nat) (x : Layer) : State :=
  let changed := x.word ≠ (s.layer ctx l).word
  let c := s.ctxOf ctx
  let s := s.setCtx ctx { c with layers := SMap.set {} c.layers l x }
  if changed then s.unitWrite ctx (c.ltab + 32 * l + 0x18) (toBytes 8 x.word) else s
/-- The layer as an instruction finds it: an eviction chosen in the same cycle is yet to come (R368). -/
def State.seenLayer (s : State) (ctx l : Nat) : Layer :=
  let x := s.layer ctx l
  if x.st = .evicting ∧ x.chosen = some s.fabric then { x with st := .resident, chosen := none } else x
/-- An ABSENT layer requested: one larger than its die's residency region fails at once (R361, R404). -/
def State.requestAbsent (s : State) (ctx l : Nat) (x : Layer) : State :=
  match s.layerEntry ctx l with
  | some e =>
    if s.resSize (layerDie ctx) < pageSize * e.size then
      (s.setLayer ctx l { x with st := .failed, fail := 4, req := false }).logLayer ctx e.ibase
    else s.setLayer ctx l { x with req := true }
  | none => s.setLayer ctx l { x with req := true }
/-- A request for a layer (R360): a FAILED one is not requested, and of one chosen for eviction in the same cycle nothing changes. -/
def State.requestLayer (s : State) (ctx l : Nat) : State :=
  let x := { s.layer ctx l with met := some s.fabric }
  match (s.seenLayer ctx l).st with
  | .absent => s.requestAbsent ctx l x
  | .evicting => s.setLayer ctx l { x with req := true }
  | _ => s.setLayer ctx l x

/-- The swap fault of a failed layer (R365). -/
def swapFault (addr ctx l fail : Nat) : TrapInfo :=
  { cause := 3, addr, info := l % 2 ^ 10 + 2 ^ 10 * (fail % 16) + 2 ^ 16 * ctx }

/-! ### An engine's access (R258 to R260, R384) -/

def vaWindow (va : Nat) : Nat := bits va 52 5
def vaImage (va : Nat) : Nat := va % 2 ^ 52
def State.taskCtx (s : State) : Nat := match s.task? with | some t => t.ctx | none => 0
/-- The context whose space a virtual address names (R382). -/
def State.spaceOf (s : State) (va : Nat) : Nat := if vaWindow va = 1 then 0 else s.taskCtx

/-- The lease check of R384. -/
def Core.lease (c : Core) (va n : Nat) (write : Bool) : Except TrapInfo (Nat × RangeReg) :=
  if 2 ^ 57 ≤ va ∨ 2 ≤ vaWindow va then .error (leaseFault 0x02 va)
  else
    let hit (i : Nat) : Option (Nat × RangeReg) :=
      match c.ranges.toList[i]? with
      | some r => if r.valid ∧ r.vbase ≤ va ∧ va + n ≤ r.vbase + r.units * 65536 then some (i, r) else none
      | none => none
    match (List.range 16).findSome? hit with
    | none => .error (leaseFault 0x01 va)
    | some (i, r) =>
      if r.deny then .error (leaseFault 0x04 va i)
      else if write ∧ r.rdonly then .error (leaseFault 0x03 va i) else .ok (i, r)

/-- A 64-byte request held in the core's fault buffer while one of its 64 entries is free (R395). -/
def State.addFault (s : State) (e : Engine) (va : Nat) (req : Option Nat := none) (wb : Bool := false) : State :=
  s.modCore (fun c =>
    if 64 ≤ c.faults.length ∨ c.faults.any (fun f => f.eng == e && f.req == req && (f.va == va || (req.isNone && lineOf f.va == lineOf va))) then c
    else { c with faults := c.faults ++ [{ eng := e, va, req, wb }] })

/-- How an access stands: performed at an address, waiting, or trapping. -/
inductive Acc where
  | go (a : Nat) (s : State)
  | peer (pkg pctx ia : Nat) (s : State)
  | wait (f : State → State)
  | trap (f : State → State) (t : TrapInfo)

/-- Whether a lower-numbered engine of the core stands stalled on a layer, in an access or in LWAIT: its swap fault comes first
(R365). -/
def State.lowerStalled (s : State) (e : Engine) (l : Nat) : Bool :=
  (e != .S && s.core.lwait == some l)
    || s.core.faults.any (fun f => decide (f.eng.num < e.num) && f.req.isNone
        && (match s.core.lease f.va 1 false with | .ok (_, r) => r.kind == 2 && r.layer == l | .error _ => false))
/-- An engine's stalled access given up. -/
def State.dropFault (s : State) (e : Engine) (va : Nat) : State :=
  s.modCore (fun c => { c with faults := c.faults.filter (fun f => !(f.eng == e && lineOf f.va == lineOf va && f.req.isNone)) })

/-- An access of the current core's engine, its lease found: the layer, then the translation. S and V reach no peer package
(R27): they cannot reach such a page in the way they ask (R389). -/
def State.accessIn (s : State) (e : Engine) (peers : Bool) (i : Nat) (r : RangeReg) (va : Nat) (write : Bool) : Acc :=
  let ctx := s.spaceOf va
  let ia := vaImage va
  let reach (s : State) : Acc :=
    let f (s : State) : State := s.walked ctx ia (agentCore s.cur e)
    match s.translate ctx s.taskCtx ia write with
    | .addr a => .go (s.keyed ctx ia a) (f (s.noteName ctx ia a))
    | .peer p c x => if peers then .peer p c x (f s) else .trap f (leaseFault 0x07 va i)
    | .locked => .wait (fun s => s.addFault e va)
    | .refused => .trap f (leaseFault 0x07 va i)
  if r.kind = 2 then
    let l := s.layer ctx r.layer
    match (s.seenLayer ctx r.layer).st with
    | .resident =>
      let c := s.ctxOf ctx
      reach (s.setCtx ctx { c with layers := SMap.set {} c.layers r.layer { l with access := s.fabric } })
    | .failed =>
      if s.lowerStalled e r.layer then .wait id else .trap (fun s => s.dropFault e va) (swapFault va ctx r.layer l.fail)
    | _ => .wait (fun s => (s.requestLayer ctx r.layer).addFault e va)
  else reach s

/-- An engine's global access past its alignment (R259, R389): lease, layer, translation. An access that waits in the fault
buffer stays there until it is sent again, and a full buffer takes no further access (R395). -/
def State.accessAt (s : State) (e : Engine) (va n : Nat) (write : Bool) : Acc :=
  match s.core.lease va n write with
  | .error t => .trap id t
  | .ok (i, r) =>
    let failed := r.kind = 2 ∧ (s.layer (s.spaceOf va) r.layer).st = .failed
    if !failed ∧ s.core.faults.any (fun f => f.eng == e && lineOf f.va == lineOf va && f.req.isNone) then .wait id
    else if !failed ∧ 64 ≤ s.core.faults.length then .wait id
    else s.accessIn e (e == .C) i r va write
/-- An engine's global access, its alignment checked first (R258). -/
def State.access (s : State) (e : Engine) (va n : Nat) (write : Bool) : Acc :=
  if va % n ≠ 0 then .trap id (misaligned va) else s.accessAt e va n write

end Sys2Proof.Machine
end

