-- ==== Sys2Proof/Machine/Coherence.lean ====
section
/-! DEFINITION. Requests to the homes and the events that serve them, and the invalidation channel (spec/11 R241 to R257,
12 R269 to R282, 19 R395). -/

namespace Sys2Proof.Machine

/-! ### Requests and what answers them -/

def State.addReq (s : State) (r : Req) : State := { s with coh := { s.coh with reqs := s.coh.reqs ++ [r] } }
def State.req? (s : State) (id : Nat) : Option Req := s.coh.reqs.find? (fun r => r.id == id)
def State.removeReq (s : State) (id : Nat) : State := { s with coh := { s.coh with reqs := s.coh.reqs.filter (fun r => r.id != id) } }
def State.modReq (s : State) (id : Nat) (f : Req → Req) : State :=
  { s with coh := { s.coh with reqs := s.coh.reqs.map (fun r => if r.id = id then f r else r) } }

/-- Something done with another core as the current one. -/
def State.onCore (s : State) (n : Nat) (f : State → State) : State := { f { s with cur := n } with cur := s.cur }

/-- An instruction in flight taken off its engine without its signal (R405). -/
def State.dropFlight (s : State) (f : Flight) : State :=
  (s.modCore (fun c => { c with flights := c.flights.filter (fun g => g.id != f.id) })).modEng f.eng (fun x =>
    { x with sigs := x.sigs.filter (fun g => g.id != f.id) })

/-- The first poisoned part of an instruction in flight. -/
def Flight.poison (f : Flight) : Option Nat :=
  f.parts.findSome? (fun p => match p.got with | some (.poison va) => some va | _ => none)
def Flight.complete (f : Flight) : Bool := f.parts.all (fun p => p.got.isSome)
def Flight.values (f : Flight) : List (Nat × Nat) :=
  f.parts.filterMap (fun p => match p.got with | some (.value v) => some (p.idx, v) | _ => none)

/-- What the last part's return does to the destination (R263, R271, R273, R152). -/
def Core.arrive (c : Core) (f : Flight) : Core :=
  match f.kind with
  | .load d n sext =>
    -- the words of an eight-byte access, the lower first
    (match f.values with | [] => c | vs => c.writeS d (extendLoad n sext (vs.foldl (fun x v => x + v.2 * 2 ^ (32 * v.1)) 0)))
  | .atom d => (match f.values with | (_, v) :: _ => c.writeS d (BitVec.ofNat 64 v) | [] => c)
  | .gather _ n zs =>
    let c := zs.foldl (fun c k => { c with tiles := SMap.setRange 0 c.tiles k (toBytes n 0) }) c
    f.values.foldl (fun c v => { c with tiles := SMap.setRange 0 c.tiles v.1 (toBytes n v.2) }) c
  | .store | .scatter | .fence _ _ | .flush _ | .waiting _ => c
/-- A gather's shared tile, filled in the step in which the gather's signal is performed (R147). -/
def Core.noteFill (c : Core) (f : Flight) : Core :=
  match f.kind with
  | .gather t _ _ => if c.sharedWith .V t.val then { c with fills := c.fills ++ [(t.val, (c.clock .V).own .V (f.id + 1))] } else c
  | _ => c
def Core.applyFills (c : Core) : Core := c.fills.foldl (fun c x => c.fillTiles x.2 [x.1]) { c with fills := [] }

/-- An acquire of a core at cluster scope or wider (R243). Of the registered words those go whose word another core owns, or which
an invalidation on its way concerns: a load after the acquire must not hit them (R229, R230; log 29). -/
def State.acquireNow (s : State) (n : Nat) : State :=
  let stale (k : Nat) : Bool :=
    s.staleWord n k || s.coh.invals.any (fun i => i.line == lineOfWord k && i.cluster == coreCluster n && !i.delivered
      && !(i.keep && i.writer == some n))
  s.modCoreAt n (fun c =>
    let c := c.acquireL1
    { c with l1 := c.l1.filter (fun e => !(e.2.st == .registered && stale e.1)) })

/-- The finish of an instruction in flight whose parts are all back: its destination, its acquire and its signal, or the
trap of a poisoned part (R45, R260, R269, R274). -/
def State.finishFlight (s : State) (f : Flight) : State :=
  match f.poison with
  | some va => (s.dropFlight f).lateTrap f.eng f.inTrap f.pc (uncorrectable 0x01 va)
  | none =>
    let s := s.modCore (fun c => { (c.arrive f).noteFill f with flights := c.flights.filter (fun g => g.id != f.id) })
    let s := if f.acq.isSome ∧ f.acq ≠ some .core then s.acquireNow s.cur else s
    s.finishSig f.eng f.id

/-- A part's answer recorded; a store finishes with its last one (R269). -/
def State.deliver (s : State) (r : Req) (x : Reply) : State :=
  (s.removeReq r.id).onCore r.core (fun s =>
    match s.core.flights.find? (fun f => f.parts.any (fun p => p.req == r.id)) with
    | none =>
      match x with
      | .poison va => (match r.kind with
        | .atomic _ => if s.core.started then s.lateTrap r.eng r.inTrap r.pc (uncorrectable 0x01 va) else s
        | _ => s)
      | .value _ => s
    | some f =>
      let f' := { f with parts := f.parts.map (fun p => if p.req = r.id then { p with got := some x } else p) }
      let s := s.modCore (fun c => { c with flights := c.flights.map (fun g => if g.id = f.id then f' else g) })
      match f.kind with
      | .store | .scatter => if f'.complete then s.finishFlight f' else s
      | _ => s)

/-- LOAD_RESPONSE: the value of a load, gather or returning atomic whose parts are back reaches its destination (R269). -/
def State.loadResponse (s : State) (core op : Nat) : State :=
  s.onCore core (fun s =>
    match s.core.flights.find? (fun f => f.id == op && f.complete) with
    | some f => s.finishFlight f
    | none => s)
def execLoadResponse (core op : Nat) (s : State) : Out := .next (s.loadResponse core op)

/-! ### What a request waits for at its home (R248) -/

/-- The order of one core's requests to one line (R226, R246). -/
def State.earlier (s : State) (r : Req) : Bool :=
  s.coh.reqs.any (fun q => q.core == r.core && decide (q.id < r.id) && q.stage == .sent && lineOf q.addr == lineOf r.addr)

def State.held (s : State) (r : Req) : Bool := (s.coreAt r.core).faults.any (fun f => f.req == some r.id)
def State.awaiting (s : State) (id : Nat) : Bool :=
  s.coh.recalls.any (fun x => x.req == id) || s.coh.invals.any (fun x => x.req == some id) || s.coh.snoops.any (fun x => x.req == id)

def Req.isAtomic (r : Req) : Bool := match r.kind with | .atomic _ | .cas _ => true | _ => false

/-- Whether the host's copy must be snooped first, and whether it is taken away (R255). -/
def Dir.snoopNeeded (d : Dir) (write : Bool) : Option Bool :=
  if write then (if d.host ≠ 0 then some true else none) else if d.host = 2 then some false else none

/-- Recalls sent to the owners of words of a line (R249). -/
def State.sendRecalls (s : State) (line : Nat) (words : BitVec 16) (id : Nat) : State :=
  let d := s.dirOf line
  let ask (slot : Bool) (core : Nat) : List Recall :=
    let w := d.slotWords slot &&& words
    if w = 0 then [] else [{ core, line, words := w, req := id }]
  State.setBusy { s with coh := { s.coh with recalls := s.coh.recalls ++ ask false d.own0 ++ ask true d.own1 } } line id

/-- What the device's slice must hold of a host line for a request: it obtains it from the host (R257; log 84). -/
def State.obtainHost (s : State) (line : Nat) (excl : Bool) : State :=
  if isHost line then s.modDir line (fun d => { d with hostLine := if excl then 2 else max 1 d.hostLine }) else s

/-- The line made ready for a request: `writes` are the words written at the home, `grants` those it is to own, `self`
tells that its own ownership returns too (R279). Until it is ready the state is the one with what has been sent. -/
def State.prepare (s : State) (r : Req) (writes grants : List Nat) (self : Bool) : Except State State :=
  let line := lineOf r.addr
  let d := s.dirOf line
  if s.earlier r || s.held r || (d.busy.isSome && d.busy != some r.id) || s.awaiting r.id then .error s
  else
    match (s.dirOf (paOf line)).snoopNeeded (!writes.isEmpty || !grants.isEmpty) with
    | some inv => .error (s.sendSnoop line inv r.id)
    | none =>
      let w := writes.foldl (fun (m : BitVec 16) k =>
        match d.ownerOf k with | some x => if x ≠ r.core ∨ self then m ||| (1#16 <<< (k % 16)) else m | none => m) 0
      let need := grants.foldl (fun m k => m ||| d.recallsFor r.core k) w
      if need ≠ 0 then
        let claim := if grants.isEmpty then d.claim else d.claims r.core
        .error ((s.sendRecalls line need r.id).modDir line (fun d => { d with claim }))
      else
        let s := s.clearBusy line r.id
        let s := if r.delegable ∨ d.lst = 0 then s else s.modDir line Dir.returned
        .ok (s.obtainHost line (!grants.isEmpty || r.isAtomic))

/-! ### Applying requests -/

/-- Words of a core applied at a line's home (R250): its own ownership of them ends, its stale copies go, the other copies
are invalidated. Of a .wi writer the registered copies are updated in place. The line takes a tag, 0 but for a TMR's write (R197). -/
def State.applyWords (s : State) (r : Req) (ws : List (Nat × Word32 × BitVec 4)) (wi : Bool) (tag : BitVec 4 := 0) : State :=
  if ws.isEmpty then s
  else
    let line := lineOf r.addr
    let s := ws.foldl (fun s w =>
      if (s.dirOf line).ownerOf w.1 = some r.core then s.recallWord w.1 else s) s
    let s := s.putWords line ws tag
    let s := s.modCoreAt r.core (fun c => ws.foldl (fun c w =>
      match c.l1At w.1 with
      | some ⟨.registered, v⟩ => if wi then c.putL1 w.1 .registered (mergeWord v w.2.2 w.2.1) else c.dropL1 w.1
      | some ⟨.clean _, _⟩ | some ⟨.kept, _⟩ => c.dropL1 w.1
      | _ => c) c)
    s.sendInvals line (some r.core) wi r.delegable r.id

/-- The bookkeeping of a read between dies (R253). -/
def State.noteRead (s : State) (r : Req) : State :=
  let line := lineOf r.addr
  let free := s.hostOf line == 0
  s.modDir line (fun d => d.afterRead (s.homeDie line) (coreDie r.core) (r.delegable && free))

/-- A word read anew from the home: a copy of it that the core holds takes the value (R226). -/
def Core.refresh (c : Core) (k : Nat) (v : Word32) : Core :=
  match c.l1At k with
  | some ⟨.clean i, _⟩ => c.putL1 k (.clean i) v
  | some ⟨.kept, _⟩ => c.putL1 k .kept v
  | some ⟨.registered, _⟩ => c.putL1 k .registered v
  | _ => c
/-- A home's word under what a core has itself sent home and the home has still to apply: its own later loads return no older value
(R226). -/
def State.withOwn (s : State) (n k : Nat) : Word32 :=
  -- a write-back to another page that the word's name led to before counts too
  let mine (r : Req) (w : Nat) : Bool :=
    w == k || (match r.name with
      | some (c, x) => s.nameOf (4 * k) == some (c, x / 65536) && 4 * k % 65536 / 64 == x % 65536 / 64 && w % 16 == k % 16
      | none => false)
  s.coh.reqs.foldl (fun v r =>
    if r.core = n ∧ r.stage = .sent then r.wb.foldl (fun v w => if mine r w.1 then mergeWord v w.2.2 w.2.1 else v) v else v) (s.wordNow k)
def State.refreshWords (s : State) (n : Nat) (ks : List Nat) : State :=
  let vals := ks.map (fun k => (k, s.withOwn n k))
  s.modCoreAt n (fun c => vals.foldl (fun c kv => c.refresh kv.1 kv.2) c)

/-- A line filled into a core's L1 (R242): its words that are not dirty or owned take the given state; then the carve-out's
excess goes (R244). -/
def State.fillLine (s : State) (n line : Nat) (st : L1State) : State :=
  let vals := (List.range 16).map (fun j => (line / 4 + j, s.withOwn n (line / 4 + j)))
  let s := s.modCoreAt n (fun c => vals.foldl (fun c kv =>
    match c.l1At kv.1 with
    | some ⟨.owned, _⟩ | some ⟨.dirty _ _, _⟩ => c
    | _ => c.putL1 kv.1 st kv.2) c)
  (s.noteL1 n line).trimL1 n line

/-- A core granted words, which enter its L1 as owned with the home's value or its own dirty one (R247, R251). -/
def State.grantWords (s : State) (n line : Nat) (ks : List Nat) (wb : List (Nat × Word32 × BitVec 4)) : State :=
  let home (k : Nat) : Word32 :=
    match wb.find? (fun w => w.1 == k) with | some w => mergeWord (s.wordNow k) w.2.2 w.2.1 | none => s.wordNow k
  let vals := ks.map (fun k => (k, home k))
  let s := (s.modDir line (fun d => (ks.foldl (fun d k => d.grant n k) d))).noteGrant n line
  let s := s.modDir line (fun d => if d.lst = 1 then d.returned else d)
  s.modCoreAt n (fun c => vals.foldl (fun c kv =>
    match c.l1At kv.1 with
    | some ⟨.owned, _⟩ => c
    | some ⟨.dirty b _, v⟩ => c.putL1 kv.1 .owned (mergeWord kv.2 b v)
    | _ => c.putL1 kv.1 .owned kv.2) c)

/-- The same, lines beyond the carve-out going (R244). -/
def State.grantLine (s : State) (n line : Nat) (ks : List Nat) (wb : List (Nat × Word32 × BitVec 4)) : State :=
  (s.grantWords n line ks wb).trimL1 n line

/-- A core's value of a word as its own load sees it: its dirty bytes over the home's value. -/
def State.coreWord (s : State) (n k : Nat) : Word32 :=
  match (s.coreAt n).l1At k with
  | some ⟨.owned, v⟩ => v
  | some ⟨.dirty b _, v⟩ => mergeWord (s.wordNow k) b v
  | _ => s.wordNow k

/-- What an .inv load of a core's word returns: its value or, where the promise of R235 is broken, any value that the word has held
since the binding of the core's task. -/
def State.invWord (s : State) (n k : Nat) (v : Word32) : Word32 :=
  let bound := match (s.coreAt n).task.bind (SMap.find? s.tasks) with | some t => t.bindTime | none => 0
  let older := (SMap.get [] s.past (paOf (4 * k) / 4)).filter (fun x => decide (bound ≤ x.1 * 10 / 33))
  match older with
  | [] => v
  | _ => (((v :: older.map (·.2))[(Config.freeByte (s.nextId * 2 ^ 100 + 2 ^ 92 + k)).toNat % (older.length + 1)]?).getD v)

/-- The answer to a load: its value, or poison, which is logged as consumed (R260, R417). A prefetch skips the line. -/
def State.answerLoad (s : State) (r : Req) (fill : State → State) : State :=
  let line := lineOf r.addr
  let s := s.readDecode line
  if s.poisoned line then
    let s := if r.pol = .own then s.applyWords r r.wb false else s
    if r.size = 64 then s.removeReq r.id
    else (s.logConsumed r.core r.eng line).deliver r (.poison r.va)
  else
    let s := fill (s.noteRead r)
    s.deliver r (.value (fromWords r.addr r.size ((wordKeys r.addr r.size).map (fun k =>
      if r.inv then s.invWord r.core k (s.coreWord r.core k) else s.coreWord r.core k))))

/-- A load at its home under a policy; a request of another kind or policy is not this event's. -/
def State.homeLoad (s : State) (id : Nat) (pol : Policy) : State :=
  match s.req? id with
  | none => s
  | some r =>
    if r.kind ≠ .load ∨ r.pol ≠ pol ∨ r.stage ≠ .sent then s
    else
      let line := lineOf r.addr
      let ks := wordKeys r.addr r.size
      match s.prepare r (if pol = .own then [] else r.wb.map (·.1)) (if pol = .own then ks else []) false with
      | .error s => s
      | .ok s =>
        match pol with
        | .si => (s.applyWords r r.wb false).answerLoad r (fun s => s.fillLine r.core line (.clean r.inv))
        | .wi =>
          (s.applyWords r r.wb false).answerLoad r (fun s =>
            if r.inv then s.fillLine r.core line (.clean true)
            else
              (s.modDir line (fun d => d.register (s.homeDie line) r.core)).fillLine r.core line .registered)
        | .wt =>
          (s.applyWords r r.wb false).answerLoad r (fun s =>
            if r.inv then s.fillLine r.core line (.clean true)
            else if r.size = 64 then s
            else s.refreshWords r.core ks)
        | .own => s.answerLoad r (fun s => s.grantLine r.core line ks r.wb)

def execHomeLoadSi (req : Nat) (s : State) : Out := .next (s.homeLoad req .si)
def execHomeLoadWi (req : Nat) (s : State) : Out := .next (s.homeLoad req .wi)
def execHomeLoadWt (req : Nat) (s : State) : Out := .next (s.homeLoad req .wt)
def execHomeLoadOwn (req : Nat) (s : State) : Out := .next (s.homeLoad req .own)

/-! ### Sequenced contributions (R277 to R282) -/

/-- A reduction object as its table entry declares it: base, size and contributors. -/
structure RObject where
  base : Nat
  size : Nat
  ncon : Nat
  deriving DecidableEq, Repr

/-- Whether the homes can read a context's table of reduction objects now: its page is not locked, its lines not BUSY. -/
def State.rotabReady (s : State) (ctx : Nat) : Bool :=
  (s.ctxOf ctx).rotab == 0 || s.unitReady ctx (s.ctxOf ctx).rotab 1024
/-- Entry j of a context's table with VALID and its fields in range; its reserved bits are ignored (R10). One whose translation is
invalid or refused declares nothing (R277); what a poisoned entry declares is free (log 105). -/
def State.robjectEntry (s : State) (ctx j : Nat) : Option RObject :=
  let ia := (s.ctxOf ctx).rotab + 16 * j
  match s.unitAddr ctx ia with
  | none => none
  | some a =>
    let bs := (s.readChecked a 16).getD ((List.range 16).map (fun i => Config.freeByte (ctx * 2 ^ 100 + 2 ^ 91 + ia + i)))
    let e := recordField bs 0 16
    let o : RObject := { base := bits e 0 52, size := bits e 64 32, ncon := bits e 96 12 }
    if bits e 108 1 = 1 ∧ o.base % 64 = 0 ∧ o.size % 64 = 0 ∧ 64 ≤ o.size ∧ 1 ≤ o.ncon then some o else none
def RObject.overlaps (a b : RObject) : Bool := decide (a.base < b.base + b.size ∧ b.base < a.base + a.size)
/-- The declared object that holds an intermediate address. An entry that overlaps another valid entry declares nothing; DESIGN CHOICE: one
with VALID = 1 and a field out of range is no valid entry in that test, R277 leaving open whether it is (log 103). -/
def State.robject (s : State) (ctx ia : Nat) : Option RObject :=
  if (s.ctxOf ctx).rotab = 0 then none
  else
    let es := (List.range 64).filterMap (fun j => (s.robjectEntry ctx j).map (fun o => (j, o)))
    (es.find? (fun e => decide (e.2.base ≤ ia ∧ ia < e.2.base + e.2.size)
      && es.all (fun f => f.1 == e.1 || !e.2.overlaps f.2))).map (·.2)

/-- Whether a line, named by its intermediate address, may be delegated (R251). -/
def State.delegable (s : State) (ctx ia : Nat) : Bool :=
  let c := s.ctxOf ctx
  s.rotabReady ctx && !(decide (c.tmrtab ≤ ia ∧ ia < c.tmrtab + 256 * c.tmrcount)) && (s.robject ctx ia).isNone

namespace Atomic

def wide : Aop → Bool
  | .add w | .and w | .or w | .xor w | .mins w | .maxs w | .minu w | .maxu w | .xchg w => w
  | _ => false
def bytes (op : Aop) : Nat := if wide op then 8 else 4
def isFloat : Aop → Bool
  | .fadd | .bfadd2 | .fmin | .fmax | .fminnum | .fmaxnum => true
  | _ => false

/-- fpadd of R271. -/
def fpadd (ty : ElemType) (a b : Nat) : Nat := (quant1 ty .rne false (Val.add .rne (decodeVal ty a) (decodeVal ty b))).1

/-- The new value of an atomic (R271, R272). -/
def apply (op : Aop) (old v : Nat) : Nat :=
  let w := 8 * bytes op
  let sgn (x : Nat) : Int := signedOf w x
  match op with
  | .add _ => (old + v) % 2 ^ w
  | .and _ => old &&& v
  | .or _ => old ||| v
  | .xor _ => old ^^^ v
  | .mins _ => if sgn old ≤ sgn v then old else v
  | .maxs _ => if sgn v ≤ sgn old then old else v
  | .minu _ => min old v
  | .maxu _ => max old v
  | .xchg _ => v
  | .fadd => fpadd .f32 old v
  | .bfadd2 => fpadd .bf16 (old % 2 ^ 16) (v % 2 ^ 16) + 2 ^ 16 * fpadd .bf16 (old / 2 ^ 16) (v / 2 ^ 16)
  | .fmin => (minMax .f32 false old v).1
  | .fmax => (minMax .f32 true old v).1
  | .fminnum => (minMaxNum .f32 false old v).1
  | .fmaxnum => (minMaxNum .f32 true old v).1

end Atomic

/-- The new value of an atomic or CAS request; none where nothing is written (R273). -/
def Req.newValue (r : Req) (old : Nat) : Option Nat :=
  match r.kind with
  | .atomic op => some (Atomic.apply op old r.data)
  | .cas cmp => if old = cmp then some r.data else none
  | _ => none

/-- A core's own unregistered copies of a word dropped, as its write of the word leaves them behind (R226). -/
def Core.dropOwnCopy (c : Core) (k : Nat) : Core :=
  match c.l1At k with
  | some ⟨.clean _, _⟩ | some ⟨.kept, _⟩ | some ⟨.registered, _⟩ => c.dropL1 k
  | _ => c

/-- An atomic refused after its issue (R389): the lease fault of its instruction, with the lease that covers it (R385). -/
def State.refuseAtomic (s : State) (r : Req) : State :=
  (s.removeReq r.id).onCore r.core (fun s =>
    let i := match s.core.lease r.va r.size true with | .ok (i, _) => i | .error _ => 0
    match s.core.flights.find? (fun f => f.parts.any (fun p => p.req == r.id)) with
    | some f => (s.dropFlight f).lateTrap r.eng f.inTrap f.pc (leaseFault 0x07 r.va i)
    | none => if s.core.started then s.lateTrap r.eng r.inTrap r.pc (leaseFault 0x07 r.va i) else s)

/-- A held contribution as the request it came as. -/
def WeirEntry.req' (w : WeirEntry) (a : Nat) : Req :=
  { id := w.req, core := w.core, eng := w.eng, kind := .atomic w.op, pol := .wt, inv := false, addr := a, size := 4,
    va := w.va, ctx := w.ctx, ia := w.ia, data := w.data, wb := [], seq := none, ncon := 0, stage := .done, pc := w.pc,
    inTrap := w.inTrap, since := w.since }
/-- A sequenced request as what a weir holds of it. -/
def Req.weirEntry (r : Req) (slice : Nat) (op : Aop) (c : Nat) : WeirEntry :=
  { slice, contributor := c, req := r.id, core := r.core, eng := r.eng, op, data := r.data, ctx := r.ctx, ia := r.ia, va := r.va,
    pc := r.pc, inTrap := r.inTrap, since := r.since }

/-- A contribution performed on its word at the home, an owner's value taken back first (R251, R279); on a poisoned line it is
a consumption (R260). -/
def State.contribute (s : State) (w : WeirEntry) (a : Nat) : State :=
  let line := lineOf a
  let k := a / 4
  let s := (s.readDecode line).recallNow line (1#16 <<< (k % 16))
  if s.poisoned line then (s.logConsumed w.core w.eng line).deliver (w.req' a) (.poison w.va)
  else
    let old := (s.memWord k).toNat
    let s := (s.putWords line [(k, BitVec.ofNat 32 (Atomic.apply w.op old w.data), 15)]).dropCopies line
    (s.modCoreAt w.core (fun c => c.dropOwnCopy k)).deliver (w.req' a) (.value old)

def WeirEntry.at_ (w : WeirEntry) (ctx ia : Nat) : Bool := w.ctx == ctx && w.ia == ia
def State.seqNext (s : State) (ctx ia : Nat) : Nat :=
  match s.coh.counters.find? (fun c => c.ctx == ctx && c.ia == ia) with | some c => c.next | none => 0
def State.setSeqNext (s : State) (w : WeirEntry) (n : Nat) : State :=
  let c : SeqCounter := { ctx := w.ctx, ia := w.ia, next := n }
  { s with coh := { s.coh with counters := s.coh.counters.filter (fun c => !w.at_ c.ctx c.ia) ++ [c] } }

/-- Contributions held for a word performed while one has the next index, the earliest arrival first (R279), where the word's name
leads now (R394). -/
def State.drainWeir (s : State) (w : WeirEntry) (a ncon : Nat) : Nat → State
  | 0 => s
  | fuel + 1 =>
    let e := s.seqNext w.ctx w.ia
    match s.coh.weir.find? (fun x => x.at_ w.ctx w.ia && x.contributor == e && !x.out) with
    | none => s
    | some x =>
      let s := { s with coh := { s.coh with weir := s.coh.weir.filter (fun y => y.req != x.req) } }
      State.drainWeir ((s.contribute x a).setSeqNext w ((e + 1) % ncon)) w a ncon fuel

/-- A contribution whose object is no longer declared, applied where its name leads now: while its page is locked, its line BUSY or
in the host's hands it waits (R248, R255, R281, R394). -/
def State.applyOut (s : State) (w : WeirEntry) : State :=
  let out (s : State) : State := { s with coh := { s.coh with weir := s.coh.weir.filter (fun y => y.req != w.req) } }
  match s.translate w.ctx (State.taskCtx { s with cur := w.core }) w.ia true with
  | .addr a =>
    let a := s.keyed w.ctx w.ia a
    if s.idle (lineOf a) ∧ s.hostOf (lineOf a) = 0 then (out s).contribute w a else s.snoopFor (lineOf a) true
  | .locked => s
  | .peer _ _ _ | .refused => (out s).refuseAtomic (w.req' 0)

/-- After a write at a home: contributions of objects no longer declared, held in the weirs or in the cores' fault buffers, are applied in
ascending index, then in arrival order, and their counters go (R281). -/
def State.settleWeir (s : State) : State :=
  if s.coh.weir.isEmpty ∧ s.coh.counters.isEmpty ∧ !s.coh.reqs.any (fun r => r.seq.isSome) then s
  else
    let gone (ctx ia : Nat) : Bool := s.rotabReady ctx && (s.robject ctx ia).isNone
    let held : List WeirEntry := s.cores.flatMap (fun e => e.2.faults.filterMap (fun f =>
      match f.req.bind s.req? with
      | some r =>
        (match r.kind, r.seq with
         | .atomic op, some c => if !f.wb && gone r.ctx r.ia then some { r.weirEntry (s.slice r.addr) op c with out := true } else none
         | _, _ => none)
      | none => none))
    let left (id : Nat) : Bool := held.any (fun w => w.req == id)
    let weir := s.coh.weir.map (fun w => { w with out := w.out || gone w.ctx w.ia }) ++ held
    let s' := { s with
      cores := if held.isEmpty then s.cores
               else s.cores.map (fun e => (e.1, { e.2 with faults := e.2.faults.filter (fun f => !(f.req.any left)) })),
      coh := { s.coh with weir, reqs := s.coh.reqs.filter (fun r => !left r.id),
                          counters := s.coh.counters.filter (fun c => !gone c.ctx c.ia) } }
    (sortBy (weir.filter (·.out)) (fun a b => decide (a.contributor ≤ b.contributor))).foldl State.applyOut s'

/-! ### Stores, write-backs, atomics at the home -/

/-- A request applied: it is over, or waits for the acknowledgements that `s` still awaits for it (R250). -/
def State.applied (s : State) (r : Req) (wait : Bool) (v : Nat) : State :=
  if wait ∧ s.awaiting r.id then s.modReq r.id (fun q => { q with stage := .acks, reply := v }) else s.deliver r (.value v)

/-- A store at its home under a policy. One under .own to a poisoned line is written through: no word of such a line is granted
(R260; log 83). -/
def State.homeStore (s : State) (id : Nat) (pol : Policy) : State :=
  match s.req? id with
  | none => s
  | some r =>
    if r.kind ≠ .store ∨ r.pol ≠ pol ∨ r.stage ≠ .sent then s
    else
      let line := lineOf r.addr
      let ks := wordKeys r.addr r.size
      let ws := pieces r.addr r.size r.data
      match s.prepare r (if pol = .own then [] else ks) (if pol = .own then ks else []) false with
      | .error s => s
      | .ok s =>
        let s := if pol = .own then s.readDecode line else s
        if pol = .own ∧ !s.poisoned line then
          let s := s.grantWords r.core line ks r.wb
          let s := s.modCoreAt r.core (fun c => ws.foldl (fun c w =>
            match c.l1At w.1 with | some ⟨_, v⟩ => c.putL1 w.1 .owned (mergeWord v w.2.2 w.2.1) | none => c) c)
          (s.trimL1 r.core line).applied r false 0
        else ((s.applyWords r r.wb false).applyWords r ws (pol = .wi)).applied r (pol = .wi) 0

def execHomeStoreWi (req : Nat) (s : State) : Out := .next (s.homeStore req .wi)
def execHomeStoreWt (req : Nat) (s : State) : Out := .next (s.homeStore req .wt)
def execHomeStoreOwn (req : Nat) (s : State) : Out := .next (s.homeStore req .own)

/-- Where a write-back's name leads now (R389): to its line, with the walk's A bit; elsewhere, to which it is sent on; to a locked
page, for which it waits in its core's fault buffer; or nowhere, where it is dropped and logged. -/
def State.wbTarget (s : State) (r : Req) : Except State State :=
  match r.name with
  | none => .ok s
  | some (ctx, ia) =>
    let w := s.walked ctx ia (agentCore r.core r.eng)
    if s.awaiting r.id then .error s
    else
      match s.translate ctx (State.taskCtx { s with cur := r.core }) ia true with
      | .addr a =>
        let a := s.keyed ctx ia a
        if lineOf a = lineOf r.addr then .ok w
        else
          .error ((w.clearBusy (lineOf r.addr) r.id).modReq r.id (fun r =>
            { r with addr := lineOf a, wb := r.wb.map (fun x => (lineOf a / 4 + x.1 % 16, x.2)) }))
      | .locked => .error (State.onCore (s.clearBusy (lineOf r.addr) r.id) r.core (fun s => s.addFault r.eng r.addr (some r.id) true))
      | .peer _ _ _ | .refused =>
        .error (((w.clearBusy (lineOf r.addr) r.id).logError (xlateDie ia)
          { time := s.time, channel := 566, type := 8, pa := ia + 2 ^ 52 * ctx, agent := agentCore r.core r.eng }).removeReq r.id)

/-- A write-back applied (R251). -/
def State.homeWriteback (s : State) (id : Nat) : State :=
  match s.req? id with
  | none => s
  | some r =>
    if r.kind ≠ .writeback ∨ r.stage ≠ .sent ∨ s.held r then s
    else
      match s.wbTarget r with
      | .error s => s
      | .ok s =>
        let r := match r.name with | some (ctx, ia) => { r with delegable := s.delegable ctx ia } | none => r
        match s.prepare r (r.wb.map (·.1)) [] false with
        | .error s => s
        | .ok s => (s.applyWords r r.wb false).removeReq r.id
def execHomeWriteback (req : Nat) (s : State) : Out := .next (s.homeWriteback req)

/-- An atomic in place in its core's L1 (R275). -/
def State.atomicInPlace (s : State) (r : Req) : State × Nat :=
  let ks := wordKeys r.addr r.size
  let old := fromWords r.addr r.size (ks.map (s.coreWord r.core))
  match r.newValue old with
  | none => (s, old)
  | some v =>
    (s.modCoreAt r.core (fun c => (pieces r.addr r.size v).foldl (fun c w =>
      match c.l1At w.1 with | some ⟨_, x⟩ => c.putL1 w.1 .owned (mergeWord x w.2.2 w.2.1) | none => c) c), old)
/-- An atomic at the home slice (R251, R275). -/
def State.atomicAtHome (s : State) (r : Req) : State :=
  let ks := wordKeys r.addr r.size
  let s := s.applyWords r r.wb false
  let old := fromWords r.addr r.size (ks.map s.wordNow)
  match r.newValue old with
  | none => (s.refreshWords r.core ks).applied r false old
  | some v => (s.applyWords r (pieces r.addr r.size v) false).applied r true old

/-- Whether an earlier contribution of the core waits in its fault buffer: a later one never passes it (R280). -/
def State.heldBefore (s : State) (r : Req) : Bool :=
  (s.coreAt r.core).faults.any (fun f => !f.wb && (match f.req.bind s.req? with | some q => q.seq.isSome && decide (q.since < r.since) | none => false))
/-- A sequenced contribution at its home (R279, R280); one that comes when no valid object declares its word is performed on its
arrival (log 85). -/
def State.sequenced (s : State) (r : Req) (op : Aop) (c : Nat) : State :=
  match s.robject r.ctx r.ia with
  | none => s.atomicAtHome r
  | some o =>
    let s := s.unitTouch r.ctx (s.ctxOf r.ctx).rotab 1024
    let slice := s.slice r.addr
    let w := r.weirEntry slice op c
    let s := (s.applyWords r r.wb false).modReq r.id (fun q => { q with wb := [] })
    let e := s.seqNext r.ctx r.ia
    if s.heldBefore r then s.onCore r.core (fun s => s.addFault r.eng r.va (some r.id))
    else if c = e then
      (((s.removeReq r.id).contribute w r.addr).setSeqNext w ((e + 1) % o.ncon)).drainWeir w r.addr o.ncon s.coh.weir.length
    else if (s.coh.weir.filter (fun x => x.slice == slice)).length < 512 then
      let s := s.removeReq r.id
      { s with coh := { s.coh with weir := s.coh.weir ++ [w] } }
    else s.onCore r.core (fun s => s.addFault r.eng r.va (some r.id))

def State.ownsAll (s : State) (n : Nat) (ks : List Nat) : Bool :=
  ks.all (fun k => (s.dirOf (lineOfWord k)).ownerOf k == some n)

/-- An atomic's read of its line: poison is consumed and answers it, else `f` performs it (R417). The core's own words that travel
with it are written in either case (R246). -/
def State.unlessPoisoned (s : State) (r : Req) (f : State → State) : State :=
  let line := lineOf r.addr
  let s := s.readDecode line
  if s.poisoned line then ((s.applyWords r r.wb false).logConsumed r.core r.eng line).deliver r (.poison r.va) else f s

/-- The event at the home of an atomic or CAS request. -/
def State.homeAtomic (s : State) (id : Nat) : State :=
  match s.req? id with
  | none => s
  | some r =>
    let line := lineOf r.addr
    let ks := wordKeys r.addr r.size
    if r.stage ≠ .sent then s
    else
      match r.kind with
      | .load | .store | .writeback => s
      | .atomic op =>
        match r.seq with
        | some c =>
          if !s.rotabReady r.ctx then s.unitTouch r.ctx (s.ctxOf r.ctx).rotab 1024 else
          (match s.prepare r ks [] true with
           | .error s => s
           | .ok s => s.unlessPoisoned r (fun s => s.sequenced r op c))
        | none => serve r line ks
      | .cas _ => serve r line ks
where
  serve (r : Req) (line : Nat) (ks : List Nat) : State :=
    if r.pol = .own then
      match s.prepare r [] ks false with
      | .error s => s
      | .ok s =>
        s.unlessPoisoned r (fun s =>
          let x := (s.grantWords r.core line ks r.wb).atomicInPlace r
          (x.1.trimL1 r.core line).applied r false x.2)
    else
      match s.prepare r ks [] false with
      | .error s => s
      | .ok s => s.unlessPoisoned r (fun s => s.atomicAtHome r)
def execHomeAtomic (req : Nat) (s : State) : Out := .next (s.homeAtomic req)

/-! ### The invalidation channel (R249, R250) -/

/-- RECALL: the words return to the home, whose other copies their values invalidate before the request goes on. -/
def State.recallEvent (s : State) (idx : Nat) : State :=
  match s.coh.recalls[idx]? with
  | none => s
  | some r =>
    let s := { s with coh := { s.coh with recalls := s.coh.recalls.eraseIdx idx } }
    let s := (List.range 16).foldl (fun s j =>
      if r.words.getLsbD j ∧ (s.dirOf r.line).ownerOf (r.line / 4 + j) = some r.core then s.recallWord (r.line / 4 + j) else s) s
    let s := s.sendInvals r.line none false true r.req
    s.setBusy r.line r.req
def execRecall (idx : Nat) (s : State) : Out := .next (s.recallEvent idx)

/-- INVALIDATION: one message reaches every core of its cluster. -/
def State.invalidationEvent (s : State) (idx : Nat) : State :=
  match s.coh.invals[idx]? with
  | none => s
  | some i =>
    if i.delivered then s
    else
      let s := s.invalidateCluster i.cluster i.line (if i.keep then i.writer else none)
      { s with coh := { s.coh with invals := s.coh.invals.set idx { i with delivered := true } } }
def execInvalidation (idx : Nat) (s : State) : Out := .next (s.invalidationEvent idx)

/-- Whether something sent for a requester is under way for one line. -/
def State.awaitingAt (s : State) (id line : Nat) : Bool :=
  s.coh.recalls.any (fun x => x.req == id && x.line == line) || s.coh.invals.any (fun x => x.req == some id && x.line == line)
    || s.coh.snoops.any (fun x => x.req == id && x.line == line)

/-- INVALIDATION_ACK: the last one of a request ends BUSY and lets the request finish; the last one of a copy's write to a line ends
the line's BUSY. -/
def State.invalidationAck (s : State) (idx : Nat) : State :=
  match s.coh.invals[idx]? with
  | none => s
  | some i =>
    if !i.delivered then s
    else
      let s := { s with coh := { s.coh with invals := s.coh.invals.eraseIdx idx } }
      match i.req with
      | none => s
      | some id =>
        match s.req? id with
        | some r => if s.awaiting id ∨ r.stage ≠ .acks then s else (s.clearBusy i.line id).deliver r (.value r.reply)
        | none => if s.awaitingAt id i.line then s else s.clearBusy i.line id
def execInvalidationAck (idx : Nat) (s : State) : Out := .next (s.invalidationAck idx)

/-- A dirty line written back, and the clean words of a line dropped, by time (R244). -/
def execL1DirtyTimeout (core line : Nat) (s : State) : Out := .next (s.sendWriteback core line)
def execL1CleanTimeout (core line : Nat) (s : State) : Out := .next (s.modCoreAt core (fun c => c.dropClean line))

/-! ### The fault buffer (R395) -/

/-- Whether the condition of an entry has cleared: its lock, its layer, or its weir. Where the layer has failed the entry stands until
its engine takes the swap fault (R365). -/
def State.faultCleared (s : State) (f : FaultEntry) : Bool :=
  match f.req with
  | some id =>
    (match s.req? id with
     | none => true
     | some r =>
       if f.wb then
         (match r.name with
          | some (ctx, ia) => s.translate ctx s.taskCtx ia true != .locked
          | none => true)
       else r.seq == some (s.seqNext r.ctx r.ia)
         || decide ((s.coh.weir.filter (fun x => x.slice == s.slice r.addr)).length < 512))
  | none =>
    let ctx := s.spaceOf f.va
    match s.core.lease f.va 1 false with
    | .error _ => true
    | .ok (_, r) =>
      (r.kind != 2 || (s.layer ctx r.layer).st == .resident)
        && s.translate ctx s.taskCtx (vaImage f.va) false != .locked

/-- A held contribution sent again from translation (R394, R395): at its page's present address, still held where the page is
locked, or with the lease fault of R389. -/
def State.resend (s : State) (idx : Nat) (r : Req) : State :=
  let out (s : State) : State := s.modCore (fun c => { c with faults := c.faults.eraseIdx idx })
  match s.translate r.ctx s.taskCtx r.ia true with
  | .addr a => (out ((s.walked r.ctx r.ia (agentCore s.cur r.eng)).noteName r.ctx r.ia a)).modReq r.id (fun q =>
      { q with addr := s.keyed r.ctx r.ia a })
  | .locked => s
  | .peer _ _ _ | .refused => (out s).refuseAtomic r

/-- FAULT_BUFFER_RETRY: entries whose condition has cleared leave in arrival order, each to be sent again; a core's contributions
keep their order (R280). -/
def State.faultRetry (s : State) (core idx : Nat) : State :=
  s.onCore core (fun s =>
    match s.core.faults[idx]? with
    | none => s
    | some f =>
      if s.faultCleared f ∧ (s.core.faults.take idx).all (fun g => !s.faultCleared g && (f.req.isNone || f.wb || g.req.isNone || g.wb)) then
        match if f.wb then none else f.req.bind s.req? with
        | some r => s.resend idx r
        | none => s.modCore (fun c => { c with faults := c.faults.eraseIdx idx })
      else s)
def execFaultBufferRetry (core idx : Nat) (s : State) : Out := .next (s.faultRetry core idx)

/-! ### The host and the peers (R255 to R257, R316, R388, R399) -/

def State.refuseRecord (s : State) (die pa agent : Nat) : State :=
  s.logError die { time := s.time, channel := 566, type := 9, pa, agent }

/-- Whether a line takes a host access now: nothing holds it BUSY, or only the conflict that this access resolves (R248, R256). -/
def State.hostMayGo (s : State) (line : Nat) : Bool :=
  let d := s.dirOf line
  (s.aliasLines line).all (fun l => l == line || (s.dirOf l).busy.isNone)
    && (d.busy.isNone || (d.conflict && d.busy == some 0 && !s.coh.snoops.any (fun x => x.line == line)))
/-- A host access done: a conflict that waited for it is over. -/
def State.hostDone (s : State) (line : Nat) : State :=
  s.modDir line (fun d => if d.conflict then { d with conflict := false, busy := none } else d)

/-- Every owned word of a line returned and every copy dropped, under all its names (R255, R257). -/
def State.recallLine (s : State) (line : Nat) : State :=
  (s.aliasLines line).foldl (fun s l => (s.recallNow l (s.dirOf l).owned).dropCopies l) s

/-- A host read of a line for a shared or an exclusive copy. -/
def State.hostRead (s : State) (pa : Nat) (excl : Bool) : State :=
  let line := lineOf (pa % 2 ^ 39)
  let reply (s : State) (x : Option (List Byte)) : State := { s with coh := { s.coh with hostReply := x } }
  if !s.ready then reply s none
  else if s.absent line then reply (s.refuseRecord 0 0 agentHost) none
  else if !s.allows 64 line false then reply s none
  else if !s.hostMayGo line then s
  else
    let s := (s.hostDone line).readDecode line
    let s :=
      if excl then s.recallLine line |>.modDir line (fun d => { d.returned with host := 2 })
      else s.modDir line (fun d => { (if d.lst = 1 then d.returned else d) with host := 1 })
    if s.poisoned line then
      reply (s.logError 0 { time := s.time, channel := 547, type := 3, pa := line, agent := agentHost }) none
    else reply s (some (s.readNow (s.ownedKey line) 64))
def execHostReadShared (pa : Nat) (s : State) : Out := .next (s.hostRead pa false)
def execHostReadExclusive (pa : Nat) (s : State) : Out := .next (s.hostRead pa true)

/-- A host write of bytes within one line: a whole line written back gives up an exclusive copy. -/
def State.hostWrite (s : State) (pa : Nat) (bs : List Byte) : State :=
  let pa := pa % 2 ^ 39
  let line := lineOf pa
  let bs := bs.take (line + 64 - pa)
  if !s.ready then s
  else if s.absent line ∨ !s.allows 64 line true then s.refuseRecord 0 0 agentHost
  else if !s.hostMayGo line then s
  else
    let host := (s.dirOf line).host
    ((s.hostDone line).applyLine pa bs).modDir line (fun d => { d with host := if host = 2 ∧ bs.length = 64 then 0 else host })
def execHostWrite (pa : Nat) (bytes : List Byte) (s : State) : Out := .next (s.hostWrite pa bytes)

/-- BISNP_COMPLETE: the host's dirty data are applied and its copy downgraded or gone (R255). -/
def State.bisnpComplete (s : State) (line : Nat) (bs : List Byte) : State :=
  match s.coh.snoops.find? (fun x => x.line == line) with
  | none => s
  | some x =>
    let s := if bs.length = 64 ∧ (s.dirOf line).host = 2 then s.applyLine line bs else s
    let s := { s with coh := { s.coh with snoops := s.coh.snoops.filter (fun y => y.line != line) } }
    s.modDir line (fun d =>
      { d with host := if x.inv then 0 else 1, busy := if x.req = 0 ∧ !d.conflict then none else some x.req })
def execBisnpComplete (line : Nat) (bytes : List Byte) (s : State) : Out := .next (s.bisnpComplete line bytes)

/-- BICONFLICT: the snoop's order being fixed by its sending, the conflict is acknowledged; the host's request is ordered behind the
snoop, and BUSY stays set until it completes (R256). -/
def State.biconflict (s : State) (line : Nat) : State :=
  if s.coh.snoops.any (fun x => x.line == line) then
    State.modDir
      { s with coh := { s.coh with snoops := s.coh.snoops.map (fun x => if x.line = line then { x with conflict := true } else x) } }
      line (fun d => { d with conflict := true })
  else s
def execBiconflict (line : Nat) (s : State) : Out := .next (s.biconflict line)

/-- HOST_SNOOP: the host takes a host-memory line from the device's slice, or shares it, and leaves its own data there
(R257): a line that it rewrites is valid from then on (R361). -/
def State.hostSnoop (s : State) (line : Nat) (excl : Bool) (bs : List Byte) : State :=
  let line := hostBase + lineOf (line % 2 ^ 64)
  if !s.idle line then s
  else if excl then
    let s := (s.recallLine line).modDir line (fun d => { d with hostLine := 0 })
    if bs.length = 64 then
      let s := s.noteUnitWrite ((List.range 16).map (line / 4 + ·))
      State.recode { s with mem := s.mem.writeN line bs } line 0 false
    else s
  else s.modDir line (fun d => { (if d.lst = 1 then d.returned else d) with hostLine := min 1 d.hostLine })
def execHostSnoop (line : Nat) (excl : Bool) (bytes : List Byte) (s : State) : Out := .next (s.hostSnoop line excl bytes)

/-- PEER_REQUEST: a peer's access to bytes within one page, checked for its domain and through the context's page tables
(R388, R398, R399); the host's copy is snooped first (R255). -/
def State.peerRequest (s : State) (pkg ctx ia : Nat) (write : Bool) (bs : List Byte) : State :=
  let master := 82 + SMap.get 0 s.fab.domains pkg % 16
  let s1 := s.walked ctx ia 0
  match s.translate ctx master ia write with
  | .addr a =>
    let d := s.dirOf (lineOf a)
    if !s.idle (lineOf a) then s
    else
      match d.snoopNeeded write with
      | some inv => s.sendSnoop (lineOf a) inv 0
      | none =>
        if write then s1.writeNow a bs 0 (lineCount bs)
        else
          let s1 := s1.readDecode (lineOf a)
          { s1 with fab := { s1.fab with
              reply := if s1.poisoned (lineOf a) then none else some (s1.readNow (s1.ownedKey a) (lineOf a + 64 - a)) } }
  | .locked => s
  | _ => { s1 with fab := { s1.fab with reply := none } }
def execPeerRequest (pkg ctx ia : Nat) (write : Bool) (bytes : List Byte) (s : State) : Out :=
  .next (s.peerRequest pkg ctx ia write bytes)

/-! ### What the machine does between turns -/

/-- The units' posted writes that their lines take now are applied in order; for the others the host is snooped (R248, R255). -/
def State.drainPosted (s : State) : State :=
  s.coh.posted.foldl (fun s p =>
    let line := paOf (lineOf p.1)
    let again (s : State) : State := { s with coh := { s.coh with posted := s.coh.posted ++ [p] } }
    if s.writable line then s.applyLine p.1 p.2.1 p.2.2
    else again (s.snoopFor line true)) { s with coh := { s.coh with posted := [] } }

/-- Before each turn: the time limits of the L1s and their excess lines (R234, R244), the names that come to find a word's present value
(R390), the contributions of objects no longer declared (R281), and the units' posted writes and those to
pages that were locked. -/
def State.tick (s : State) : State :=
  let s := (s.cores.map (·.1)).foldl (fun s n => (s.expireL1 n).retrimL1 n) s.settleViews
  let s := s.settleWeir
  let s := if s.coh.posted.isEmpty then s else s.drainPosted
  if s.coh.later.isEmpty then s
  else s.coh.later.foldl (fun s w => s.unitWrite w.1 w.2.1 w.2.2) { s with coh := { s.coh with later := [] } }

end Sys2Proof.Machine
end

