-- ==== Sys2Proof/Machine/Control.lean ====
section
/-! DEFINITION. The shared control instructions and the index-register block (spec/05 R118 to R126, 02 R42, R67). -/

namespace Sys2Proof.Machine

/-! ### Branches and loops (R42, R120, R121) -/

/-- A branch target: relative to the word, or absolute (R42); none outside the stream. -/
def Core.target? (c : Core) (e : Engine) (abs : Bool) (off : BitVec 32) : Option Nat :=
  let t : Int := if abs then off.toNat else (c.eng e).pc + off.toInt
  if 0 ≤ t ∧ t.toNat < c.streamLen e then some t.toNat else none

/-- The loop stack after a taken branch: every entry of the current call level that the target leaves is popped, with
all above it (R120). -/
def popLeft (level target : Nat) : List LoopEntry → List LoopEntry
  | [] => []
  | l :: ls =>
    let rest := popLeft level target ls
    if rest.length < ls.length then rest
    else if l.level = level ∧ ¬ (l.first ≤ target ∧ target ≤ l.last) then rest else l :: ls

def outside : TrapInfo := illegal 0x09

/-- A taken branch. -/
def State.branch (s : State) (e : Engine) (target : Option Nat) : Res :=
  match target with
  | none => .trap id outside
  | some t => .goto (s.modEng e (fun x => { x with loops := popLeft x.link.length t x.loops })) t

/-- A taken CALL pushes the word after it (R121); the target's check comes first (log 13). -/
def State.call (s : State) (e : Engine) (target : Option Nat) : Res :=
  match target with
  | none => .trap id outside
  | some t =>
    if 8 ≤ (s.eng e).link.length then .trap id (illegal 0x0B 1)
    else .goto (s.modEng e (fun x => { x with link := (x.pc + 1) :: x.link })) t

/-- RET pops the entries of its call level, then the link stack (R120, R121). -/
def State.ret (s : State) (e : Engine) : Res :=
  match (s.eng e).link with
  | [] => .trap id (illegal 0x0B 2)
  | t :: rest =>
    if t < s.core.streamLen e then
      .goto (s.modEng e (fun x => { x with loops := x.loops.filter (fun l => l.level != x.link.length), link := rest })) t
    else .trap id outside

/-- LOOP with its count sampled (R120). -/
def State.loop (s : State) (e : Engine) (len count : Nat) : Res :=
  let x := s.eng e
  let last := x.pc + len
  if s.core.streamLen e ≤ last then .trap id outside
  else if count = 0 then .goto s (last + 1)
  else if 4 ≤ x.loops.length then .trap id (illegal 0x0B 3)
  else if x.loops.any (fun l => l.level == x.link.length && decide (l.last < last)) then .trap id (illegal 0x0A 0)
  else
    .done (s.modEng e (fun x =>
      { x with loops := { first := x.pc + 1, last, remaining := count, level := x.link.length } :: x.loops }))

/-- The XB condition (R54). -/
def Core.xbTaken (c : Core) (e : Engine) : XbCond → Bool
  | .zero k => c.readK e k == 0
  | .nonzero k => c.readK e k != 0
  | .always => true

/-- The register uses of a control word on S. -/
def ctlRegs (e : Engine) (rs : List (Fin 32)) : List Reg := if e = .S then rs.map .s else []

def execNop (e : Engine) (h : Hdr) (s : State) : Out := .next (s.issue e h {} false .done)

/-- END stops the engine after its signal; in trap mode on S it abandons the task once its signal is performed (R118, R412). -/
def execEnd (e : Engine) (h : Hdr) (s : State) : Out :=
  .next (s.issue e h {} false (fun s => if e = .S ∧ s.core.trap.mode then .doneThen s .abandon else .stop s))

def execLoop (e : Engine) (h : Hdr) (len : BitVec 13) (count : LoopCount) (s : State) : Out :=
  match count with
  | .imm n => .next (s.issue e h { branch := true } false (fun s => s.loop e len.toNat n.toNat))
  | .reg r =>
    .next (s.issue e h { branch := true } (s.core.busyFor (ctlRegs e [r])) (fun s =>
      s.loop e len.toNat ((s.core.readR e r).toNat % 2 ^ 32)))

def execBrSb (h : Hdr) (abs : Bool) (off : BitVec 32) (s : State) : Out :=
  .next (s.issue .S h { branch := true } false (fun s => s.branch .S (s.core.target? .S abs off)))
def execBrXb (e : Engine) (h : Hdr) (cond : XbCond) (abs : Bool) (off : BitVec 32) (s : State) : Out :=
  .next (s.issue e h { branch := true } false (fun s =>
    if s.core.xbTaken e cond then s.branch e (s.core.target? e abs off) else .done s))
def execCallSb (h : Hdr) (abs : Bool) (off : BitVec 32) (s : State) : Out :=
  .next (s.issue .S h { branch := true } false (fun s => s.call .S (s.core.target? .S abs off)))
def execCallXb (e : Engine) (h : Hdr) (cond : XbCond) (abs : Bool) (off : BitVec 32) (s : State) : Out :=
  .next (s.issue e h { branch := true } false (fun s =>
    if s.core.xbTaken e cond then s.call e (s.core.target? e abs off) else .done s))
def execRet (e : Engine) (h : Hdr) (s : State) : Out :=
  .next (s.issue e h { branch := true } false (fun s => s.ret e))

/-! ### Tokens and handles (R122, R123) -/

/-- A push or pop with payload; waits as R122 says. -/
def Core.tokMove (c : Core) (e : Engine) (pop : Bool) (q : Fin 16) (r : Fin 32) : Option Core :=
  if pop then
    match c.queue q with
    | [] => none
    | x :: _ => if 1 ≤ c.availOf q then some ((c.popTokens q 1).writeR e r (x.zeroExtend 64)) else none
  else if 1 ≤ c.roomOf q then some (c.pushTokens q [(c.readR e r).truncate 32]) else none

def execTok (e : Engine) (h : Hdr) (pop : Bool) (q : Fin 16) (r : Fin 32) (s : State) : Out :=
  .next (s.issue e h { queues := [(q.val, !pop)] } (s.core.busyFor (ctlRegs e [r])) (fun s =>
    match s.core.tokMove e pop q r with
    | some c => .done (if pop then s.setCore c else (s.setCore c).teach e (.push 0 q))
    | none => .hold s))

/-- HSET's record and its checks (R123), of the handle's state as the cycle's waits see it (R38). -/
def Core.hset (c : Core) (hd : Fin 64) (base count : Nat) : Core × Option TrapInfo :=
  if c.stateOf hd ≠ .free then (c, some (illegal 0x07 hd.val))
  else if base % 64 ≠ 0 ∨ Part.dataBytes c.part < base + count then (c, some (leaseFault 0x05 base))
  else (c.setHandle hd { c.handle hd with base, expected := count, counted := 0, pending := 0, rcd := none }, none)

def execHset (e : Engine) (h : Hdr) (hd : Fin 64) (base count : Fin 32) (s : State) : Out :=
  .next (s.issue e h { handles := [hd.val] } (s.core.busyFor (ctlRegs e [base, count])) (fun s =>
    match s.core.hset hd (s.core.readR e base).toNat (s.core.readR e count).toNat with
    | (_, some t) => .trap id t
    | (c, none) => .done (s.setCore c)))

def execHwait (e : Engine) (h : Hdr) (hd : Fin 64) (free : Bool) (s : State) : Out :=
  .next (s.issue e h { handles := [hd.val] } false (fun s =>
    if s.core.stateOf hd = (if free then .free else .full) then .done s else .hold s))

/-! ### Safe points and traps (R124, R339, R369) -/

/-- SAFE outside trap mode: a budget trap that is due, else parking for a pre-emption whose group it names, its signal performed
first. -/
def State.safePoint (s : State) (group map : Nat) : Res :=
  let c := s.core
  if c.trap.mode then .done s
  else if c.budget.isSome then
    .doneThen (s.setCore { c with budget := none, budgetTaken := true }) (.trap { cause := 9, info := 0 })
  else if c.preempt.isSome ∧ c.preemptGroup.getD group = group then
    .doneThen (s.setCore { c with preemptGroup := some group }) (.park group map)
  else .done s

def execSafe (e : Engine) (h : Hdr) (group : BitVec 8) (map : BitVec 16) (s : State) : Out :=
  .next (s.issue e h {} false (fun s => s.safePoint group.toNat map.toNat))
def execTrap (e : Engine) (h : Hdr) (code : BitVec 16) (s : State) : Out :=
  .next (s.issue e h {} false (fun s => .doneThen s (.trap { cause := 0x0A, info := code.toNat })))
def execBrk (e : Engine) (h : Hdr) (code : BitVec 16) (s : State) : Out :=
  .next (s.issue e h {} false (fun s => .doneThen s (.trap { cause := 0x0C, info := code.toNat })))

/-- PAUSE holds issue for n of the core's cycles, then performs its signal (R45, R118). -/
def State.pause (s : State) (e : Engine) (n : Nat) : Res :=
  if n = 0 then .done s
  else
    let (id, s) := s.fresh
    .pend (s.modEng e (fun x => { x with pause := some (s.cycleOf s.cur + n, id) })) id

def execPause (e : Engine) (h : Hdr) (n : BitVec 16) (s : State) : Out :=
  .next (s.issue e h {} false (fun s => s.pause e n.toNat))

/-! ### System registers (R67, R21, R125) -/

/-- What SRD reads. With no task bound, the task registers read 0 and BUDGET_LEFT all ones (log 4). -/
def State.sysreg (s : State) (e : Engine) (n : Nat) : Word64 :=
  let c := s.core
  let t := s.task?
  let ofTask (f : Task → Nat) : Word64 := match t with | some t => BitVec.ofNat 64 (f t) | none => 0
  if n = 0x000 then BitVec.ofNat 64 (coreInCluster s.cur)
  else if n = 0x001 then BitVec.ofNat 64 (coreClu s.cur)
  else if n = 0x002 then BitVec.ofNat 64 (coreDie s.cur)
  else if n = 0x003 then BitVec.ofNat 64 (s.mgmt.pkgId % 2 ^ 12)
  else if n = 0x004 then ofTask (·.ctx)
  else if n = 0x005 then ofTask (·.seq)
  else if n = 0x006 then ofTask (·.gangSize)
  else if n = 0x007 then ofTask (fun _ => c.gangPos)
  else if 0x008 ≤ n ∧ n ≤ 0x00D then ofTask (fun t => ((Task.coords c.gangPos t.loops)[n - 0x008]?).getD 0)
  else if 0x010 ≤ n ∧ n ≤ 0x015 then ofTask (fun t => match t.loops[n - 0x010]? with | some l => l.1 | none => 0)
  else if n = 0x018 then (match t with | some t => t.seed | none => 0)
  else if n = 0x019 then ofTask (·.det)
  else if n = 0x01A then (match c.task with | some id => BitVec.ofNat 64 (s.effPrio id) | none => 0)
  else if n = 0x01B then (match t with | some t => BitVec.ofNat 64 (s.budgetLeft t) | none => BitVec.allOnes 64)
  else if n = 0x020 then BitVec.ofNat 64 (s.coreTime s.cur)
  else if n = 0x021 then BitVec.ofNat 64 (s.cycleOf s.cur)
  else if n = 0x022 then (c.eng e).flags.zeroExtend 64
  else if n = 0x023 then c.part
  else if n = 0x030 then BitVec.ofNat 64 (c.trap.cause % 2 ^ 8)
  else if n = 0x031 then BitVec.ofNat 64 (c.trap.eng % 4)
  else if n = 0x032 then BitVec.ofNat 64 (c.trap.pc % 2 ^ 13)
  else if n = 0x033 then c.trap.addr
  else if n = 0x034 then c.trap.info
  else if n = 0x100 then s.mgmt.chHash
  else if n = 0x101 then s.mgmt.pcHash
  else if n = 0x102 then ofTask (fun t => (s.queueOf t.queue).preemptWait)
  else BitVec.ofNat 64 (s.die (coreDie s.cur)).logLost

def execSrd (e : Engine) (h : Hdr) (d : Fin 32) (num : BitVec 12) (s : State) : Out :=
  .next (s.issue e h { sysreg := some num.toNat } (s.core.busyFor (ctlRegs e [d])) (fun s =>
    .done (s.setCore (s.core.writeR e d (s.sysreg e num.toNat)))))

/-- An SWR whose effect is `f` of the register's value. -/
def State.swr (s : State) (e : Engine) (h : Hdr) (r : Fin 32) (num : Nat) (f : Word64 → State → State) : State :=
  s.issue e h { sysreg := some num } (s.core.busyFor (ctlRegs e [r])) (fun s => .done (f (s.core.readR e r) s))

/-- SWR of a register that R67 marks ignored or read only. -/
def execSwr (e : Engine) (h : Hdr) (r : Fin 32) (num : BitVec 12) (s : State) : Out :=
  .next (s.swr e h r num.toNat (fun _ s => s))
/-- The flags that C's transfers have set in the cycle: a clear of the cycle applies before them (R113). -/
def Core.raisedNow (c : Core) (e : Engine) : Flags :=
  match c.sample with
  | some m => if e = .C then m.raised else 0
  | none => 0
/-- Bits written 1 are cleared (R112), but for a flag set in the same cycle (R113). -/
def execFlagsWrite (e : Engine) (h : Hdr) (r : Fin 32) (s : State) : Out :=
  .next (s.swr e h r 0x022 (fun v s =>
    s.modEng e (fun x => { x with flags := x.flags &&& ~~~ v.truncate 6 ||| (x.flags &&& s.core.raisedNow e) })))

/-- The trap registers as the handler writes them (R67, R406, R411); ignored outside trap mode. -/
def TrapState.write (t : TrapState) (which : Fin 5) (v : Word64) : TrapState :=
  if !t.mode then t
  else
    match which with
    | 0 => { t with cause := v.toNat % 2 ^ 8 }
    | 1 => { t with eng := v.toNat % 4 }
    | 2 => { t with pc := v.toNat % 2 ^ 13, pcWritten := true }
    | 3 => { t with addr := v }
    | 4 => { t with info := v }

def execTrapRegisterWrite (e : Engine) (h : Hdr) (r : Fin 32) (which : Fin 5) (s : State) : Out :=
  .next (s.swr e h r (0x030 + which.val) (fun v s => s.modCore (fun c => { c with trap := c.trap.write which v })))

/-- R318: the issuing task's context is the only valid one, and no other task of it is left. -/
def State.aloneOnPackage (s : State) : Bool :=
  match s.core.task, s.task? with
  | some id, some t =>
    s.ctxs.all (fun e => !e.2.valid || e.1 == t.ctx) && s.tasks.all (fun e => e.1 == id || e.2.ctx != t.ctx || e.2.st == .retired)
  | _, _ => false

/-- What an accepted hash write leaves in device memory: a line may read as any line's value that its stack holds, with any tag
(R318; log 14): the lines that held anything, and as many others of the outside's choice, take values of their own stack. -/
def State.scrambled (s : State) : State :=
  let lines := ((s.mem.filter (fun e => !isHost e.1)).map (fun e => lineOf e.1)).eraseDups
  let old (l : Nat) : List Byte × Bool := (s.mem.readN l 64, s.poisoned l)
  let pick (k n : Nat) : Nat := ofBytes ((List.range 6).map (fun i => Config.freeByte (s.nextId * 2 ^ 100 + 2 ^ 70 + 8 * k + i))) % n
  let put (t : State) (l k : Nat) : State :=
    let from_ := (List.replicate 64 0, false) :: ((lines.filter (fun x => (s.place x).1 == (s.place l).1)).map old)
    let v := (from_[pick (2 * k) from_.length]?).getD (List.replicate 64 0, false)
    State.recode { t with mem := t.mem.writeN l v.1 } l (BitVec.ofNat 4 (pick (2 * k + 1) 16)) v.2
  let others := lines.zipIdx.map (fun l => s.unplace (s.place l.1).1 (pick (2 ^ 40 + l.2) (2 ^ 30) * 64)) |>.filter (fun l => !s.absent l)
  let s := (lines ++ others).zipIdx.foldl (fun t l => put t l.1 l.2) s
  { s with nextId := s.nextId + 1 }

def State.writeHash (s : State) (ch : Bool) (v : Word64) : State :=
  if s.aloneOnPackage then
    let v : Word64 := v &&& 0x7FFFFF
    let s := if ch then { s with mgmt := { s.mgmt with chHash := v } } else { s with mgmt := { s.mgmt with pcHash := v } }
    s.scrambled
  else s

def execChHashWrite (e : Engine) (h : Hdr) (r : Fin 32) (s : State) : Out :=
  .next (s.swr e h r 0x100 (fun v s => s.writeHash true v))
def execPcHashWrite (e : Engine) (h : Hdr) (r : Fin 32) (s : State) : Out :=
  .next (s.swr e h r 0x101 (fun v s => s.writeHash false v))

/-- PREEMPT_WAIT of the task's own queue (R324). -/
def State.writePreemptWait (s : State) (v : Word64) : State :=
  match s.task? with
  | some t => s.setQueue t.queue { s.queueOf t.queue with preemptWait := v.toNat % 2 ^ 32 }
  | none => s

def execPreemptWaitWrite (e : Engine) (h : Hdr) (r : Fin 32) (s : State) : Out :=
  .next (s.swr e h r 0x102 (fun v s => s.writePreemptWait v))

/-! ### The index-register block (R126) -/

/-- A k-register instruction that writes `f` of the engine's registers. -/
def State.kop (s : State) (e : Engine) (h : Hdr) (d : Fin 16) (f : (Fin 16 → Word64) → Word64) : Out :=
  .next (s.issue e h {} false (fun s => .done (s.setCore (s.core.writeK e d (f (s.core.readK e))))))

def execKli (e : Engine) (h : Hdr) (d : Fin 16) (imm : BitVec 32) (s : State) : Out := s.kop e h d (fun _ => imm.signExtend 64)
def execKaddi (e : Engine) (h : Hdr) (d a : Fin 16) (imm : BitVec 32) (s : State) : Out :=
  s.kop e h d (fun k => k a + imm.signExtend 64)
def execKadd (e : Engine) (h : Hdr) (d a b : Fin 16) (s : State) : Out := s.kop e h d (fun k => k a + k b)
def execKsub (e : Engine) (h : Hdr) (d a b : Fin 16) (s : State) : Out := s.kop e h d (fun k => k a - k b)
def execKmul (e : Engine) (h : Hdr) (d a b : Fin 16) (s : State) : Out := s.kop e h d (fun k => k a * k b)
def execKshl (e : Engine) (h : Hdr) (d a b : Fin 16) (s : State) : Out := s.kop e h d (fun k => k a <<< ((k b).toNat % 64))
def execKshr (e : Engine) (h : Hdr) (d a b : Fin 16) (s : State) : Out := s.kop e h d (fun k => k a >>> ((k b).toNat % 64))
def execKand (e : Engine) (h : Hdr) (d a b : Fin 16) (s : State) : Out := s.kop e h d (fun k => k a &&& k b)

end Sys2Proof.Machine
end

