-- ==== Sys2Proof/Machine/Blocks.lean ====
section
/-! DEFINITION. The coding of 256-byte blocks by the fabric's ports (spec/13 R312). -/

namespace Sys2Proof.Machine

/-! ### Decoding -/

/-- Field `i` of a plane of `w`-bit fields, packed least significant bit first. -/
def planeField (plane w i : Nat) : Nat := plane / 2 ^ (w * i) % 2 ^ w

/-- The exponent coding of header 0x03: a type's exponent, trailing and value bits. -/
structure PlaneType where
  exp : Nat
  trail : Nat
def planeType : Nat → Option PlaneType
  | 0 => some ⟨8, 7⟩
  | 1 => some ⟨4, 3⟩
  | 2 => some ⟨5, 2⟩
  | _ => none
def PlaneType.bits (t : PlaneType) : Nat := 1 + t.exp + t.trail
def PlaneType.count (t : PlaneType) : Nat := 2048 / t.bits
/-- The bytes of the sign–mantissa plane and, for `d`-bit deltas, of the delta plane. -/
def PlaneType.signBytes (t : PlaneType) : Nat := t.count * (1 + t.trail) / 8
def PlaneType.deltaBytes (t : PlaneType) (d : Nat) : Nat := t.count * d / 8

/-- Value `i` of a block under header 0x03; none where its exponent lies outside the type's range. -/
def PlaneType.value (t : PlaneType) (base d signs deltas i : Nat) : Option Nat :=
  let e := base + planeField deltas d i
  let m := planeField signs (1 + t.trail) i
  if 2 ^ t.exp ≤ e then none
  else some (m / 2 ^ t.trail * 2 ^ (t.exp + t.trail) + e * 2 ^ t.trail + m % 2 ^ t.trail)

/-- A block under header 0x03, after its header. -/
def decodePlanes (bs : List Byte) : Option (List Byte) :=
  let c := recordField bs 0 1
  let d := c / 4 % 8 + 1
  match planeType (c % 4) with
  | none => none
  | some t =>
    if c / 32 ≠ 0 ∨ bs.length ≠ 2 + t.signBytes + t.deltaBytes d then none
    else
      let signs := recordField bs 2 t.signBytes
      let deltas := recordField bs (2 + t.signBytes) (t.deltaBytes d)
      ((List.range t.count).mapM (fun i => t.value (recordField bs 1 1) d signs deltas i)).map (fun vs =>
        vs.flatMap (fun v => toBytes (t.bits / 8) v))

/-- The nonzero words put back at the places a mask names. -/
def spreadWords (mask : Nat) (bs : List Byte) : Nat → Nat → List Byte
  | _, 0 => []
  | j, n + 1 =>
    if mask.testBit j then (bs.take 8) ++ spreadWords mask (bs.drop 8) (j + 1) n
    else toBytes 8 0 ++ spreadWords mask bs (j + 1) n
def maskCount (mask : Nat) : Nat := ((List.range 32).filter (fun j => mask.testBit j)).length

/-- The 256 bytes of a coded block; none for a reserved header, a wrong length or fields outside their ranges. -/
def decodeBlock : List Byte → Option (List Byte)
  | [] => none
  | h :: bs =>
    match h.toNat with
    | 0 => if bs.length = 256 then some bs else none
    | 1 =>
      let mask := recordField bs 0 4
      if bs.length = 4 + 8 * maskCount mask then some (spreadWords mask (bs.drop 4) 0 32) else none
    | 2 => if bs.length = 8 then some ((List.replicate 32 bs).flatten) else none
    | 3 => decodePlanes bs
    | _ => none

/-! ### Encoding -/

/-- Fields of `w` bits as one plane, packed least significant bit first. -/
def planeOf (w : Nat) (fs : List Nat) : Nat := fs.foldr (fun f n => f + 2 ^ w * n) 0

/-- The widths of delta that header 0x03 can name, narrowest first. -/
def deltaWidths : List Nat := [1, 2, 3, 4, 5, 6, 7, 8]

/-- A block under header 0x03, with the narrowest deltas over its least exponent field (log 76). -/
def encodePlanes (kind : Nat) (bs : List Byte) : Option (List Byte) :=
  match planeType kind with
  | none => none
  | some t =>
    let vs := (List.range t.count).map (fun i => recordField bs (i * (t.bits / 8)) (t.bits / 8))
    let es := vs.map (fun v => v / 2 ^ t.trail % 2 ^ t.exp)
    let base := es.foldl min (es.headD 0)
    let ms := vs.map (fun v => v / 2 ^ (t.exp + t.trail) * 2 ^ t.trail + v % 2 ^ t.trail)
    (deltaWidths.find? (fun d => es.all (fun e => decide (e - base < 2 ^ d)))).map (fun d =>
      [3, BitVec.ofNat 8 (kind + 4 * (d - 1)), BitVec.ofNat 8 base] ++ toBytes t.signBytes (planeOf (1 + t.trail) ms)
        ++ toBytes (t.deltaBytes d) (planeOf d (es.map (· - base))))

/-- The codings of a block in header order; 0x03 only for the SEND's HINT. -/
def blockCodings (hint : Nat) (bs : List Byte) : List (List Byte) :=
  let word (j : Nat) : List Byte := (bs.drop (8 * j)).take 8
  let set := (List.range 32).filter (fun j => recordField bs (8 * j) 8 != 0)
  [(0 : Byte) :: bs, (1 : Byte) :: toBytes 4 (set.foldl (fun m j => m + 2 ^ j) 0) ++ set.flatMap word]
    ++ (if (List.range 32).all (fun j => word j == word 0) then [(2 : Byte) :: word 0] else [])
    ++ (if hint = 0 then [] else (encodePlanes (hint - 1) bs).toList)

/-- The sender's choice: the smallest coding, of several the lowest header. -/
def encodeBlock (hint : Nat) (bs : List Byte) : List Byte :=
  (blockCodings hint bs).foldl (fun x y => if y.length < x.length then y else x) ((0 : Byte) :: bs)

/-- A message's blocks, the last one padded with zero bytes. -/
def encodeMessage (hint : Nat) (bs : List Byte) : List (List Byte) :=
  (List.range ((bs.length + 255) / 256)).map (fun i =>
    let b := (bs.drop (256 * i)).take 256
    encodeBlock hint (b ++ List.replicate (256 - b.length) 0))

end Sys2Proof.Machine
end

