-- ==== Sys2Proof/Machine/Object.lean ====
section
/-! DEFINITION. Code objects: their sections, tables and checks (spec/03 R77 to R87). -/

namespace Sys2Proof.Machine

/-- A lease-table entry: base, size, index, and whether it is streamed. -/
structure Lease where
  base : Nat
  size : Nat
  index : Nat
  streamed : Bool
  deriving DecidableEq, Repr

/-- A code object read from its file: streams as (offset, words), the sync table, loop levels as (extent, kind), leases,
layers as (layer, lease index), live maps, partition word, trap section and data image. -/
structure Sof where
  streams : List (Nat × Nat)
  tiles : List (Nat × Nat × Nat)
  queues : List Nat
  handles : List Nat
  loops : List (Nat × Nat)
  leases : List Lease
  layers : List (Nat × Nat)
  maps : List LiveMap
  part : Word64
  trapAt : Nat
  trapLen : Nat
  image : List Byte
  deriving DecidableEq, Repr

namespace Sof

def nodup (l : List Nat) : Bool := l.eraseDups.length == l.length

/-- Section i's offset, size and count. -/
def sect (f : List Byte) (i : Nat) : Nat × Nat × Nat :=
  (recordField f (64 + 16 * i + 4) 4, recordField f (64 + 16 * i + 8) 4, recordField f (64 + 16 * i + 12) 4)
def up64 (n : Nat) : Nat := (n + 63) / 64 * 64
def zeros (f : List Byte) (off n : Nat) : Bool := ((f.drop off).take n).all (· == 0)

/-- R85 and R86: the header and the table of sections, one after another. A header field other than the magic and the version that
breaks R85 refuses the file as those do: DESIGN CHOICE, R87 names only those two, the sections and the tables (log 103). -/
def headerOk (f : List Byte) : Bool :=
  recordField f 0 4 == 0x00464F53 && recordField f 4 2 == 1 && recordField f 6 2 == 12
    && recordField f 8 4 == (if (sect f 10).2.1 = 0 then 0 else 1) + (if (sect f 11).2.1 = 0 then 0 else 2)
    && recordField f 12 4 == 0 && recordField f 16 8 == f.length && recordField f 24 8 == 0
    && ((f.drop 32).take 32).all (fun b => decide (b.toNat < 128))
    && (((f.drop 32).take 32).dropWhile (· != 0)).all (· == 0)
def sectionsOk (f : List Byte) : List Nat → Nat → Bool
  | [], pos => pos == f.length
  | i :: is, pos =>
    let (off, size, _) := sect f i
    recordField f (64 + 16 * i) 2 == i + 1 && recordField f (64 + 16 * i + 2) 2 == 0
      && (if size = 0 then off == 0 && sectionsOk f is pos
          else off == pos && decide (off + size ≤ f.length) && zeros f (off + size) (up64 size - size)
            && sectionsOk f is (pos + up64 size))
/-- Sizes against counts, in the units of R86. -/
def countsOk (f : List Byte) : Bool :=
  let unit (i n : Nat) : Bool := (sect f i).2.1 == n * (sect f i).2.2
  unit 0 8 && unit 1 8 && unit 2 8 && unit 3 8 && unit 4 8 && unit 5 8 && (sect f 5).2.2 == 6 && unit 7 24 && unit 8 4
    && unit 9 8 && (sect f 9).2.2 == 1 && unit 10 8 && unit 11 1

/-- The entries of a section, `n` bytes each. -/
def entries (f : List Byte) (i n : Nat) : List (List Byte) :=
  (List.range (sect f i).2.2).map (fun j => (f.drop ((sect f i).1 + n * j)).take n)

/-- R80: each sync entry, and no item declared twice. -/
def syncOk (es : List (List Byte)) (part : Word64) : Bool :=
  es.all (fun e =>
    let n := recordField e 1 1
    let x := recordField e 2 1
    let y := recordField e 3 1
    recordField e 4 4 == 0 &&
      (match recordField e 0 1 with
       | 1 => decide (n < Part.tiles part ∧ x < 4 ∧ y < 4 ∧ x ≠ y)
       | 2 => decide (n < 12) && x == queueSource n && y == queueDest n
       | 3 => decide (n < 64) && x == 0xFF && y == 0xFF
       | _ => false))
    && nodup (es.map (fun e => recordField e 0 2))
def syncOf (es : List (List Byte)) (kind : Nat) : List (List Byte) := es.filter (fun e => recordField e 0 1 == kind)

/-- A loop table of six levels, outermost first (R77): none if it breaks the rules. The extent of an unused level must be 0: DESIGN CHOICE,
R86 gives it no value (log 103). -/
def loopTable (bs : List Byte) : Option (List (Nat × Nat)) :=
  let ls := (List.range 6).map (fun j => (recordField bs (8 * j) 4, recordField bs (8 * j + 4) 1, recordField bs (8 * j + 5) 3))
  let used := ls.takeWhile (fun l => l.2.1 != 0)
  let prod (p : Nat → Bool) : Nat := (used.filter (fun l => p l.2.1)).foldl (fun n l => n * l.1) 1
  if bs.length = 48 ∧ ls.all (fun l => l.2.2 == 0 && decide (l.2.1 ≤ 3) && (l.2.1 == 0) == (l.1 == 0))
      ∧ (ls.drop used.length).all (fun l => l.2.1 == 0) ∧ prod (· == 3) ≤ 4 ∧ prod (fun k => decide (2 ≤ k)) ≤ 1536
  then some (used.map (fun l => (l.1, l.2.1))) else none

def leaseOf (e : List Byte) : Option Lease :=
  let l : Lease :=
    { base := recordField e 0 8, size := recordField e 8 8, index := recordField e 16 1, streamed := recordField e 17 1 == 2 }
  if recordField e 18 6 = 0 ∧ (recordField e 17 1 = 1 ∨ recordField e 17 1 = 2) ∧ l.index < 16 ∧ l.base % 65536 = 0
      ∧ l.size % 65536 = 0 ∧ 65536 ≤ l.size ∧ l.base + l.size ≤ 2 ^ 57 then some l else none
/-- R79: no overlap, no index twice, every streamed range with one layer. -/
def leasesOk (ls : List Lease) (layers : List (Nat × Nat)) : Bool :=
  nodup (ls.map (·.index))
    && ls.all (fun a => ls.all (fun b => a.index == b.index || decide (a.base + a.size ≤ b.base ∨ b.base + b.size ≤ a.base)))
    && ls.all (fun a => !a.streamed || (layers.filter (fun y => y.2 == a.index)).length == 1)
    && layers.all (fun y => ls.any (fun a => a.streamed && a.index == y.2))
/-- The leases of entries all of which are legal. -/
def leasesOf (es : List (List Byte)) : Option (List Lease) :=
  if (es.map leaseOf).all Option.isSome then some (es.filterMap leaseOf) else none

/-- The zero fields of a live map's head and of its items (R86). -/
def mapZeros (b : List Byte) (n : Nat) : Bool :=
  recordField b 6 2 == 0
    && (List.range n).all (fun j => recordField b (9 + 16 * j) 3 == 0 && recordField b (20 + 16 * j) 4 == 0)
/-- The live maps of a section (R81, R86), up to the first that breaks R86; `fuel` bounds their number. -/
def mapsFrom : Nat → List Byte → List LiveMap
  | 0, _ => []
  | fuel + 1, b =>
    let n := recordField b 4 2
    if b.length < 8 ∨ !mapZeros b n then []
    else
      let item (j : Nat) : MapItem :=
        { kind := recordField b (8 + 16 * j) 1, first := recordField b (12 + 16 * j) 4, count := recordField b (16 + 16 * j) 4 }
      { number := recordField b 0 2, group := recordField b 2 1, eng := recordField b 3 1, items := (List.range n).map item }
        :: mapsFrom fuel (b.drop (8 + 16 * n))
def mapsSize (ms : List LiveMap) : Nat := ms.foldl (fun n m => n + 8 + 16 * m.items.length) 0
/-- A live map's item (R80, R81, R86). The count of a handle item is not looked at, and a data-area range may reach beyond the data area:
DESIGN CHOICE both, R86 gives a handle no count and R80 refuses only tile and accumulator ranges by their reach (log 103). -/
def itemOk (part : Word64) (queues handles : List Nat) (i : MapItem) : Bool :=
  match i.kind with
  | 1 => decide (i.first + i.count ≤ Part.tiles part)
  | 2 => decide (i.first + i.count ≤ Part.accs part)
  | 3 => i.first % 64 == 0 && i.count % 64 == 0
  | 4 => handles.contains i.first
  | 5 => queues.contains i.first && i.count == 1
  | _ => false

/-- A code object from its file; none if it fails R87. A table is held against the object's own partition word, whatever word a launch
record puts in its place (log 92). The maps stand in ascending number from 0: DESIGN CHOICE, R86 gives .safe no order (log 103). -/
def parse (f : List Byte) : Option Sof :=
  if f.length < 256 ∨ !headerOk f ∨ !sectionsOk f (List.range 12) 256 ∨ !countsOk f then none
  else
    let part : Word64 := Part.resolve (BitVec.ofNat 64 (recordField f (sect f 9).1 8))
    let es := entries f 4 8
    let tiles := (syncOf es 1).map (fun e => (recordField e 1 1, recordField e 2 1, recordField e 3 1))
    let queues := (syncOf es 2).map (fun e => recordField e 1 1)
    let handles := (syncOf es 3).map (fun e => recordField e 1 1)
    let layers := (entries f 8 4).map (fun e => (recordField e 0 2, recordField e 2 1))
    let (mo, ms, mc) := sect f 6
    let maps := mapsFrom mc ((f.drop mo).take ms)
    let streams := (List.range 4).map (fun i => ((sect f i).1, (sect f i).2.2))
    let (xo, _, xc) := sect f 10
    let (io, isz, _) := sect f 11
    match loopTable ((f.drop (sect f 5).1).take 48), leasesOf (entries f 7 24) with
    | some loops, some leases =>
      if Part.valid part && syncOk es part && leasesOk leases layers && layers.all (fun y => decide (y.1 < 1024))
          && (entries f 8 4).all (fun e => recordField e 3 1 == 0)
          && maps.length == mc && mapsSize maps == ms && maps.zipIdx.all (fun m => m.1.number == m.2 && decide (m.1.eng ≤ 4))
          && maps.all (fun m => m.items.all (itemOk part queues handles))
          && streams.all (fun x => decide (1 ≤ x.2 ∧ x.2 ≤ 8192)) && decide (xc ≤ 8192) && decide (isz ≤ 4096)
      then some { streams, tiles, queues, handles, loops, leases, layers, maps, part, trapAt := if xc = 0 then 0 else xo,
                  trapLen := xc, image := (f.drop io).take isz }
      else none
    | _, _ => none

end Sof

/-- The object as a core's copy of it (R83, R85), its rings partitioned by some ring fields. -/
def Sof.info (o : Sof) (ctx addr rings : Nat) : ObjectInfo :=
  { ctx, addr, rings, streams := o.streams, trapAt := o.trapAt, trapLen := o.trapLen, tiles := o.tiles, queues := o.queues,
    handles := o.handles, maps := o.maps, image := o.image }

/-- The words of a stream from word `base` on, as a ring of `n` slots holds them (R41). -/
def ringOf (f : List Byte) (stream : Nat × Nat) (base n : Nat) : Ring :=
  { base, len := stream.2,
    slots := (List.range (min n (stream.2 - base))).foldl (fun m i =>
      SMap.put m ((base + i) % n) (BitVec.ofNat 64 (recordField f (stream.1 + 8 * (base + i)) 8))) [] }

/-- A core's rings loaded from a code object's file under a partition word's ring fields; its streams start at window base 0 (R41,
R407). -/
def Core.loadRings (c : Core) (f : List Byte) (o : Sof) (ctx addr : Nat) (part : Word64) : Core :=
  let ring (e : Engine) : Ring := ringOf f ((o.streams[e.num]?).getD (0, 0)) 0 (Part.ringWords part e)
  { c with
    engS := { c.engS with ring := ring .S }, engV := { c.engV with ring := ring .V },
    engM := { c.engM with ring := ring .M }, engC := { c.engC with ring := ring .C },
    trapRing := ringOf f (o.trapAt, o.trapLen) 0 256, obj := o.info ctx addr (part.toNat % 2 ^ 16),
    soft := c.soft.filter (fun x => match x.1 with | .ring _ => false | _ => true) }

end Sys2Proof.Machine
end

