-- ==== Sys2Proof/Machine/Narrow.lean ====
section
/-! DEFINITION. Narrow data under a tensor scale: slot images, MXFP4 blocks, rows, and their counts (spec/04 R95, R96, 06
R167 to R169, 08 R192, R202). -/

namespace Sys2Proof.Machine

/-- The least of the codes 0 to 1,019 that meets a monotone test, 1,020 if none does. -/
def leastCode (p : Nat → Bool) : Nat :=
  (List.range 10).foldr (fun k r => if r + 2 ^ k ≤ 1020 ∧ !p (r + 2 ^ k - 1) then r + 2 ^ k else r) 0
/-- The largest of a list of values' magnitudes as a fraction; values that are not finite count as zero. -/
def amaxOf (vs : List Val) : Nat × Nat :=
  vs.foldl (fun m v => match v with | .fin _ n d => if m.1 * d < n * m.2 then (n, d) else m | _ => m) (0, 1)
def Val.isFinite : Val → Bool | .fin _ _ _ => true | _ => false
/-- Whether n/d ≤ k × v for a finite v. -/
def fracLeTimes (nd : Nat × Nat) (k : Nat) (v : Val) : Bool :=
  match v with | .fin _ a b => decide (nd.1 * b ≤ k * a * nd.2) | _ => false

/-- The block scale of the MX rule: its code (R96; log 74). -/
def mxScale (e8f2 : Bool) (vs : List Val) : Nat :=
  let m := amaxOf vs
  if e8f2 then
    let c := leastCode (fun c => fracLeTimes m 6 (decodeVal .e8f2 c))
    if c ≤ 1019 then c else Config.freeBlockScale m.1 m.2 % 2 ^ 10
  else
    let x : Int := if m.1 = 0 then -127 else floorLog2 m.1 m.2 - 2
    (min (max x (-127)) 127 + 127).toNat

/-- A block of the MX rule (R96): its scale code and its elements with their flags. -/
def mxBlock (e8f2 : Bool) (rm : Rounding) (vs : List Val) : Nat × List (Nat × Flags) :=
  if vs.all Val.isFinite then
    let c := mxScale e8f2 vs
    let σ := decodeVal (if e8f2 then .e8f2 else .e8m0) c
    (c, vs.map (quant .e2m1 σ rm true))
  else (if e8f2 then 0x3FC else 0xFF, vs.map (fun _ => (0, .nv)))

/-- Elements packed two to a byte, the even one low (R95). -/
def pack4 : List Nat → List Byte
  | a :: b :: r => BitVec.ofNat 8 (a % 16 + 16 * (b % 16)) :: pack4 r
  | [a] => [BitVec.ofNat 8 (a % 16)]
  | [] => []
def unpack4 (bs : List Byte) : List Nat := bs.flatMap (fun b => [b.toNat % 16, b.toNat / 16])

/-- Consecutive pieces of `n` entries; `fuel` bounds their number. -/
def chunks {α : Type} (n : Nat) : Nat → List α → List (List α)
  | 0, _ => []
  | fuel + 1, xs => if xs.isEmpty then [] else xs.take n :: chunks n fuel (xs.drop n)

/-- A slot image's fields (R192) and whether it is invalid (R195). -/
structure Scale where
  fmt : Nat
  blk : Bool
  σ : Val
  deriving DecidableEq, Repr
def imageInvalid (img : Nat) : Bool :=
  img / 2 ^ 10 % 4 == 3 || (img / 2 ^ 12 % 2 == 1 && img / 2 ^ 10 % 4 != 2) || img / 2 ^ 13 % 8 != 0
def imageScale (img : Nat) : Scale := ⟨img / 2 ^ 10 % 4, img / 2 ^ 12 % 2 == 1, decodeVal .e8f2 (img % 2 ^ 10)⟩
def imageSeq (img : Nat) : Nat := img / 2 ^ 16 % 2 ^ 16
def imageOf (fmt blk σ v : Nat) : Nat := σ % 2 ^ 10 + 2 ^ 10 * fmt + 2 ^ 12 * blk + 2 ^ 16 * (v % 2 ^ 16)

/-- The bytes of a row of `cols` elements (R167). -/
def Scale.rowBytes (sc : Scale) (cols : Nat) : Nat := if sc.fmt = 2 then cols / 2 + cols / 32 * (if sc.blk then 2 else 1) else cols
def Scale.elemType (sc : Scale) : ElemType := match sc.fmt with | 0 => .e4m3 | 1 => .e5m2 | _ => .e2m1

/-- A row encoded: its bytes and each element's code and flags (R167). -/
def Scale.encodeRow (sc : Scale) (rm : Rounding) (sat : Bool) (vs : List Val) : List Byte × List (Nat × Flags) :=
  if sc.fmt = 2 then
    let blocks := (chunks 32 vs.length vs).map (fun b => mxBlock sc.blk rm (b.map (·.scaleDown sc.σ)))
    let es := blocks.flatMap (·.2)
    (pack4 (es.map (·.1)) ++ blocks.flatMap (fun b => (List.range (if sc.blk then 2 else 1)).map (fun i =>
      BitVec.ofNat 8 (b.1 / 256 ^ i))), es)
  else
    let es := vs.map (quant sc.elemType sc.σ rm sat)
    (es.map (fun e => BitVec.ofNat 8 e.1), es)

/-- The product of exact values, NaN where one is. -/
def mulAll (vs : List Val) : Val := vs.foldl Val.mul (Val.ofInt 1)

/-- The exact values of a narrow row (R169). -/
def Scale.decodeRow (sc : Scale) (cols : Nat) (bs : List Byte) : List Val :=
  if sc.fmt = 2 then
    let es := unpack4 (bs.take (cols / 2))
    let w := if sc.blk then 2 else 1
    let scales := (chunks w cols (bs.drop (cols / 2))).map (fun b =>
      decodeVal (if sc.blk then .e8f2 else .e8m0) (b.foldr (fun x n => x.toNat + 256 * n) 0))
    (es.zipIdx).map (fun e => mulAll [decodeVal .e2m1 e.1, (scales[e.2 / 32]?).getD (.nan false), sc.σ])
  else (bs.take cols).map (fun b => mulAll [decodeVal sc.elemType b.toNat, sc.σ])

/-! ### Counts (R168, R202) -/

def Val.log2? : Val → Option Int | .fin _ n d => if n = 0 then none else some (floorLog2 n d) | _ => none

/-- The histogram bin of an exponent (R168). -/
def histBin (base e : Int) : Nat := (min (max (e - base + 16) 0) 31).toNat

/-- One element counted with its result's code and flags (R168). Of an MXFP4 block that another element makes NaN, whose codes are all
0x0 (R96), the finite nonzero elements count as underflow to zero: DESIGN CHOICE, the spec does not say whether their result is
zero (log 101). -/
def Counts.elem (c : Counts) (base : Int) (ty : ElemType) (v : Val) (r : Nat × Flags) : Counts :=
  let c := { c with elems := c.elems + 1 }
  let c := if r.2 &&& .of ≠ 0 then { c with ovf := c.ovf + 1 } else c
  let c := if r.2 &&& .sa ≠ 0 then { c with sat := c.sat + 1 } else c
  if !v.isFinite then { c with nanInf := c.nanInf + 1 }
  else
    match v.log2? with
    | none => c
    | some e =>
      let c := { c with hist := c.hist.modify (histBin base e) (· + 1) }
      if (decodeVal ty r.1).isZero then { c with ufz := c.ufz + 1 } else c

/-- Whole blocks of 32 along a row (R202). -/
def Counts.block (c : Counts) (vs : List Val) : Counts :=
  let es := vs.filterMap Val.log2?
  let wide := decide (2 ≤ es.length) &&
    (match es.max?, es.min? with | some a, some b => decide (4 ≤ a - b) | _, _ => false)
  { c with blocks := c.blocks + 1, wideblk := c.wideblk + (if wide then 1 else 0) }

def Counts.row (c : Counts) (base : Int) (ty : ElemType) (vs : List Val) (rs : List (Nat × Flags)) : Counts :=
  let c := (vs.zip rs).foldl (fun c x => c.elem base ty x.1 x.2) c
  ((chunks 32 vs.length vs).filter (fun b => b.length == 32)).foldl Counts.block c

def Counts.add (a b : Counts) : Counts :=
  { hist := (a.hist.zip b.hist).map (fun x => x.1 + x.2), ovf := a.ovf + b.ovf, sat := a.sat + b.sat, ufz := a.ufz + b.ufz,
    nanInf := a.nanInf + b.nanInf, elems := a.elems + b.elems, blocks := a.blocks + b.blocks, wideblk := a.wideblk + b.wideblk }

end Sys2Proof.Machine
end

