-- ==== Sys2Proof/Machine/Trans.lean ====
section
/-! DEFINITION. The correctly rounded functions of the vector engine (spec/06 R154): enclosures in fixed point, refined
until both ends round alike. -/

namespace Sys2Proof.Machine.Trans

/-- A quotient rounded down, or up. -/
def dv (up : Bool) (a b : Nat) : Nat := if up then (a + b - 1) / b else a / b

/-- The four sums over k ≡ 0, 1, 2, 3 (mod 4) of y^k ÷ k!, with y and the sums in units of 2^−n, every term rounded
one way; `term` is the term of index `k`. -/
def expSums (up : Bool) (n y : Nat) : Nat → Nat → Nat → Nat × Nat × Nat × Nat
  | 0, _, _ => if up then (2, 2, 2, 2) else (0, 0, 0, 0)
  | fuel + 1, k, term =>
    let (a, b, c, d) := expSums up n y fuel (k + 1) (dv up (term * y) (2 ^ n * (k + 1)))
    match k % 4 with
    | 0 => (a + term, b, c, d) | 1 => (a, b + term, c, d) | 2 => (a, b, c + term, d) | _ => (a, b, c, d + term)

/-- How many terms of the exponential series leave a rest below one unit for arguments up to 2. -/
def expTerms (n : Nat) : Nat := n / 4 + 40

/-- Bounds of e^y. -/
def expBound (up : Bool) (n y : Nat) : Nat :=
  let (a, b, c, d) := expSums up n y (expTerms n) 0 (2 ^ n)
  a + b + c + d

/-- Bounds of sin y for y between the two arguments, 0 ≤ y ≤ π/2. -/
def sinBounds (n ylo yhi : Nat) : Nat × Nat :=
  let (_, b, _, d) := expSums false n ylo (expTerms n) 0 (2 ^ n)
  let (_, b', _, d') := expSums true n yhi (expTerms n) 0 (2 ^ n)
  (b - d', b' - d)

/-- The sums over even and odd k of z^(2k+1) ÷ (2k+1), in units of 2^−n; `p` is z^(2k+1). -/
def oddSums (up : Bool) (n z : Nat) : Nat → Nat → Nat → Nat × Nat
  | 0, _, _ => if up then (2, 2) else (0, 0)
  | fuel + 1, k, p =>
    let (a, b) := oddSums up n z fuel (k + 1) (dv up (p * z * z) (2 ^ n * 2 ^ n))
    let t := dv up p (2 * k + 1)
    if k % 2 = 0 then (a + t, b) else (a, b + t)

def oddTerms (n : Nat) : Nat := n / 3 + 8

/-- Bounds of 2·atanh z. -/
def atanh2 (up : Bool) (n z : Nat) : Nat := let (a, b) := oddSums up n z (oddTerms n) 0 z; 2 * (a + b)
/-- Bounds of atan(1 ÷ m). -/
def atanInv (up : Bool) (n m : Nat) : Nat :=
  let (a, _) := oddSums up n (dv up (2 ^ n) m) (oddTerms n) 0 (dv up (2 ^ n) m)
  let (_, b) := oddSums (!up) n (dv (!up) (2 ^ n) m) (oddTerms n) 0 (dv (!up) (2 ^ n) m)
  a - b
/-- Bounds of ln 2. -/
def ln2 (up : Bool) (n : Nat) : Nat := atanh2 up n (dv up (2 ^ n) 3)
/-- Bounds of π (Machin's sum). -/
def pi (up : Bool) (n : Nat) : Nat := 16 * atanInv up n 5 - 4 * atanInv (!up) n 239

/-- The functions of R154 that need enclosures. -/
inductive Fn where
  | exp2 | exp | log2 | sinpi | cospi | tanh
  deriving DecidableEq, Repr

/-- A value `m × 2^(k − n)` with a sign. -/
def mk (neg : Bool) (n m : Nat) (k : Int) : Val := Val.scaled neg m (k - n)

/-- Bounds of e^x, x = ±a/b, as a pair of numbers of units 2^−n and a power of two. -/
def expParts (n : Nat) (neg : Bool) (a b : Nat) : Nat × Nat × Int :=
  if neg then
    let k := dv true (dv true (a * 2 ^ n) b) (ln2 false n)
    (expBound false n (k * ln2 false n - dv true (a * 2 ^ n) b), expBound true n (k * ln2 true n - dv false (a * 2 ^ n) b),
      -(k : Int))
  else
    let k := dv false (dv false (a * 2 ^ n) b) (ln2 true n)
    (expBound false n (dv false (a * 2 ^ n) b - k * ln2 true n), expBound true n (dv true (a * 2 ^ n) b - k * ln2 false n), k)

/-- Bounds of sin(πt), 0 < t = a/b < 1/2. -/
def sinPiParts (n a b : Nat) : Nat × Nat :=
  sinBounds n (dv false (pi false n * a) b) (dv true (pi true n * a) b)

/-- The lower and upper bound of a function at a finite nonzero ±a/b that has no exact result, with n fraction bits. -/
def enclose (f : Fn) (n : Nat) (neg : Bool) (a b : Nat) : Val × Val :=
  match f with
  | .exp2 =>
    -- 2^(k + f), 0 < f < 1
    let k : Int := if neg then -((a / b + 1 : Nat) : Int) else (a / b : Nat)
    let fr := if neg then b - a % b else a % b
    (mk false n (expBound false n (ln2 false n * fr / b)) k, mk false n (expBound true n (dv true (ln2 true n * fr) b)) k)
  | .exp =>
    let (lo, hi, k) := expParts n neg a b
    (mk false n lo k, mk false n hi k)
  | .log2 =>
    let e := floorLog2 a b
    let a' := if 0 ≤ e then a else a * 2 ^ (-e).toNat
    let b' := if 0 ≤ e then b * 2 ^ e.toNat else b
    let lo := dv false (atanh2 false n (dv false ((a' - b') * 2 ^ n) (a' + b')) * 2 ^ n) (ln2 true n)
    let hi := dv true (atanh2 true n (dv true ((a' - b') * 2 ^ n) (a' + b')) * 2 ^ n) (ln2 false n)
    let val (v : Nat) : Val := let s : Int := e * 2 ^ n + v; Val.scaled (s < 0) s.natAbs (-(n : Int))
    (val lo, val hi)
  | .sinpi =>
    let y := a % (2 * b)
    let s := neg != decide (b < y)
    let y := if b < y then y - b else y
    let t := if b < 2 * y then b - y else y
    let (lo, hi) := sinPiParts n t b
    (mk s n lo 0, mk s n hi 0)
  | .cospi =>
    let y := a % (2 * b)
    let y := if b < y then 2 * b - y else y
    let s := decide (b < 2 * y)
    let t := if s then 2 * y - b else b - 2 * y
    let (lo, hi) := sinPiParts n t (2 * b)
    (mk s n lo 0, mk s n hi 0)
  | .tanh =>
    let (lo, hi, k) := expParts n false (2 * a) b
    let one := 2 ^ n
    let lo := lo * 2 ^ k.toNat
    let hi := hi * 2 ^ k.toNat
    (mk neg n (dv false ((lo - one) * one) (lo + one)) 0, mk neg n (dv true ((hi - one) * one) (hi + one)) 0)

/-- Rounds an enclosed value once both ends agree in code and flags; past the last precision a free value chooses
between the two ends (log 8). -/
def settle (ty : ElemType) (sat : Bool) (f : Fn) (neg : Bool) (a b : Nat) : List Nat → Nat × Flags
  | [] =>
    let (lo, hi) := enclose f 1024 neg a b
    quant1 ty .rne sat (if Config.freeRounding a b % 2 = 0 then lo else hi)
  | n :: ns =>
    let (lo, hi) := enclose f n neg a b
    let r := quant1 ty .rne sat lo
    if r = quant1 ty .rne sat hi then r else settle ty sat f neg a b ns

/-- The precisions tried, in fraction bits. -/
def precisions : List Nat := [96, 192, 448, 1024]

/-- The bound past which e^x and 2^x leave every format of R154. -/
def far (a b : Nat) : Bool := decide (512 * b < a)
/-- The bound past which tanh x is 1 but for less than 2^-180. -/
def farTanh (a b : Nat) : Bool := decide (64 * b < a)

/-- One of the functions of R154 on an exact operand, rounded into `ty` with rne. -/
def apply (ty : ElemType) (sat : Bool) (f : Fn) (x : Val) : Nat × Flags :=
  let q := quant1 ty .rne sat
  match f, x with
  | _, .nan s => q (.nan s)
  | .exp2, .inf s | .exp, .inf s => q (if s then .zero else .inf false)
  | .log2, .inf s => q (if s then .nan true else .inf false)
  | .sinpi, .inf _ | .cospi, .inf _ => q (.nan true)
  | .tanh, .inf s => q (.fin s 1 1)
  | .exp2, .fin s a b =>
    if a = 0 then q (.fin false 1 1)
    else if far a b then q (if s then .fin false 1 (2 ^ 400) else .fin false (2 ^ 400 + 1) 1)
    else if a % b = 0 then q (Val.scaled false 1 (if s then -((a / b : Nat) : Int) else (a / b : Nat)))
    else settle ty sat f s a b precisions
  | .exp, .fin s a b =>
    if a = 0 then q (.fin false 1 1)
    else if far a b then q (if s then .fin false 1 (2 ^ 400) else .fin false (2 ^ 400 + 1) 1)
    else settle ty sat f s a b precisions
  | .log2, .fin s a b =>
    if a = 0 then let r := q (.inf true); (r.1, r.2 ||| .dz)
    else if s then q (.nan true)
    else
      let e := floorLog2 a b
      if (if 0 ≤ e then a = b * 2 ^ e.toNat else a * 2 ^ (-e).toNat = b) then q (.ofInt e)
      else settle ty sat f s a b precisions
  | .sinpi, .fin s a b =>
    if a % b = 0 then q (.zero s)
    else if 2 * a % b = 0 then q (.fin (s != (a / b % 2 == 1)) 1 1)
    else settle ty sat f s a b precisions
  | .cospi, .fin s a b =>
    if a % b = 0 then q (.fin (a / b % 2 == 1) 1 1)
    else if 2 * a % b = 0 then q .zero
    else settle ty sat f s a b precisions
  | .tanh, .fin s a b =>
    if a = 0 then q (.fin s 0 1)
    else if farTanh a b then q (.fin s (2 ^ 200 - 1) (2 ^ 200))
    else settle ty sat f s a b precisions

end Sys2Proof.Machine.Trans
end

