-- ==== Sys2Proof/Machine/Vector.lean ====
section
/-! DEFINITION. The vector engine on tiles and masks: shape, moves, arithmetic, comparison, conversion, reductions,
permutation, random values (spec/06 R141 to R165). -/

namespace Sys2Proof.Machine

/-! ### Elements of a tile (R141) -/

/-- Element `i` of width `w` of a tile, and the tile with it replaced; two 4-bit elements share a byte. -/
def Core.elem (c : Core) (t : Fin 256) (w i : Nat) : Nat :=
  if w < 8 then (SMap.get 0 c.tiles (t.val * 1024 + i * w / 8)).toNat / 2 ^ (i * w % 8) % 2 ^ w
  else ofBytes (SMap.getRange 0 c.tiles (t.val * 1024 + i * (w / 8)) (w / 8))
def Core.setElem (c : Core) (t : Fin 256) (w i v : Nat) : Core :=
  if w < 8 then
    let k := t.val * 1024 + i * w / 8
    let old := (SMap.get 0 c.tiles k).toNat
    let sh := 2 ^ (i * w % 8)
    { c with tiles := SMap.set 0 c.tiles k (BitVec.ofNat 8 (old - old / sh % 2 ^ w * sh + v % 2 ^ w * sh)) }
  else { c with tiles := SMap.setRange 0 c.tiles (t.val * 1024 + i * (w / 8)) (toBytes (w / 8) v) }

def VShape.count (sh : VShape) : Nat := sh.rows * sh.cols
def VShape.w (sh : VShape) : Nat := elemBits sh.ty

/-- Results written over a destination: merged, or with the masked-off elements zeroed (R145); none is masked off. -/
def Core.writeElems (c : Core) (d : Fin 256) (w : Nat) (z : Bool) (vs : List (Option Nat)) : Core :=
  vs.zipIdx.foldl (fun c v =>
    match v.1 with
    | some x => c.setElem d w v.2 x
    | none => if z then c.setElem d w v.2 0 else c) c

/-- What `f` gives for each selected index below `n` (R144, R146). -/
def Core.selected {α : Type} (c : Core) (m : Fin 8) (n : Nat) (f : Nat → α) : List (Option α) :=
  let mask := c.readM m
  (List.range n).map (fun i => if mask.getLsbD i then some (f i) else none)

def orFlags (fs : List Flags) : Flags := fs.foldl (· ||| ·) 0

/-- An elementwise result with its flags. -/
def Core.mapElems (c : Core) (d : Fin 256) (w : Nat) (m : Fin 8) (z : Bool) (n : Nat) (f : Nat → Nat × Flags) : Core :=
  let rs := c.selected m n f
  (c.writeElems d w z (rs.map (·.map (·.1)))).addFlags .V (orFlags (rs.filterMap (·.map (·.2))))

/-! ### Shape classes (R143) -/

def wideFloat : ElemType → Bool
  | .f32 | .bf16 | .f16 => true
  | _ => false
def intType : ElemType → Bool
  | .i8 | .n8 | .i16 | .n16 | .i32 | .n32 | .i64 | .n64 => true
  | _ => false
def byteType (ty : ElemType) : Bool := decide (8 ≤ elemBits ty)

/-- Subcode 0x0C with the current shape's type code. -/
def Core.badShape (c : Core) : TrapInfo := illegal 0x0C c.vshape.ty.code
def Core.shapeOk (c : Core) (p : VShape → Bool) : Option TrapInfo := if p c.vshape then none else some c.badShape

/-! ### Issue of a V word (R143, R147) -/

/-- The bytes of a tile that a shape covers. -/
def Core.tileRun (c : Core) (t : Fin 256) : Nat × Nat := (t.val * 1024, c.vshape.count * c.vshape.w / 8)

/-- What a V word's reads of tiles cover; of its index tile four bytes for each element (R152). -/
def Core.readRuns (c : Core) (index : Option (Fin 256)) (reads : List (Fin 256)) : List (Nat × Nat) :=
  reads.map (fun t => if index = some t then (t.val * 1024, 4 * c.vshape.count) else c.tileRun t)
/-- What the tiles that a V word writes hold no more: soft errors (R419). -/
def Core.mendTiles (c : Core) (ts : List (Fin 256)) : Core := c.mendPool .tile (ts.map c.tileRun)
/-- The tiles that a V word has written: those that are shared become FULL (R147). -/
def State.written (s : State) (ts : List (Fin 256)) : State := (s.modCore (fun c => c.mendTiles ts)).filled (ts.map (·.val))

/-- A V word: the tiles it reads and writes, the checks before its wait, the shared tiles it waits for, the pool's code (R419), its
effect, and the shared tiles it fills. `regs` lists what it names, from the lowest field up; `index` is its index tile. -/
def State.vissue (s : State) (h : Hdr) (n : Names) (reads writes : List (Fin 256)) (eff : State → Res)
    (index : Option (Fin 256) := none) : Out :=
  let rs := reads.map (·.val)
  let ws := writes.map (·.val)
  .next (s.issue .V h n (s.core.busyFor ((reads ++ writes).map .t)) (fun s =>
    if !s.core.sharedReady rs ws then .stall id
    else s.onPool .V .tile (s.core.readRuns index reads) (fun s =>
      match eff s with
      | .done s => .done (s.written writes)
      | .pend s id => .pend (s.modCore (fun c => c.mendTiles writes)) id
      | r => r)))

def tileRegs (ts : List (Fin 256)) : List (Bool × Nat) := ts.map (fun t => (false, t.val))

/-- A V word whose effect is a function of the core, on tiles alone; the names stand from the lowest field up. -/
def State.vcore (s : State) (h : Hdr) (ok : VShape → Bool) (reads writes : List (Fin 256)) (f : Core → Core) : Out :=
  s.vissue h { regs := tileRegs (reads.reverse ++ writes), shape := s.core.shapeOk ok } reads writes
    (fun s => .done (s.setCore (f s.core)))

/-- Elementwise words of one, two and three sources: `f` maps the shape's type and the sources' codes. -/
def State.v1 (s : State) (h : Hdr) (m : Fin 8) (z : Bool) (ok : ElemType → Bool) (d a : Fin 256)
    (f : ElemType → Nat → Nat × Flags) : Out :=
  s.vcore h (fun sh => ok sh.ty) [a] [d] (fun c =>
    let sh := c.vshape
    c.mapElems d sh.w m z sh.count (fun i => f sh.ty (c.elem a sh.w i)))
def State.v2 (s : State) (h : Hdr) (m : Fin 8) (z : Bool) (ok : ElemType → Bool) (d a b : Fin 256)
    (f : ElemType → Nat → Nat → Nat × Flags) : Out :=
  s.vcore h (fun sh => ok sh.ty) [a, b] [d] (fun c =>
    let sh := c.vshape
    c.mapElems d sh.w m z sh.count (fun i => f sh.ty (c.elem a sh.w i) (c.elem b sh.w i)))
def State.v3 (s : State) (h : Hdr) (m : Fin 8) (z : Bool) (ok : ElemType → Bool) (d a b e : Fin 256)
    (f : ElemType → Nat → Nat → Nat → Nat × Flags) : Out :=
  s.vcore h (fun sh => ok sh.ty) [a, b, e] [d] (fun c =>
    let sh := c.vshape
    c.mapElems d sh.w m z sh.count (fun i => f sh.ty (c.elem a sh.w i) (c.elem b sh.w i) (c.elem e sh.w i)))

/-! ### VSHAPE, moves (R142, R151) -/

def execVshape (h : Hdr) (rows : Fin 32) (cols : Fin 256) (ty : ElemType) (stride : StrideSrc) (s : State) : Out :=
  let r := rows.val + 1
  let n := cols.val + 1
  s.vissue h { limit := if 8192 < r * n * elemBits ty then some 21 else none } [] [] (fun s =>
    let st := match stride with | .imm x => x.toNat * 16 | .reg k => bits (s.core.readK .V k).toNat 4 20 * 16
    .done (s.modCore (fun c => { c with vshape := { rows := r, cols := n, ty, stride := st } })))

def anyType (_ : ElemType) : Bool := true

def execVmov (h : Hdr) (m : Fin 8) (z : Bool) (d a : Fin 256) (s : State) : Out :=
  s.v1 h m z anyType d a (fun _ x => (x, 0))
def execVbcast (h : Hdr) (m : Fin 8) (z : Bool) (d : Fin 256) (k : Fin 16) (s : State) : Out :=
  s.vcore h (fun _ => true) [] [d] (fun c =>
    c.mapElems d c.vshape.w m z c.vshape.count (fun _ => ((c.readK .V k).toNat % 2 ^ c.vshape.w, 0)))

/-! ### Floating arithmetic (R153, R154) -/

/-- The exact result of a floating operation rounded once, with what the operation itself raises. -/
def vround (ty : ElemType) (rm : Rounding) (sat : Bool) (r : Val × Flags) : Nat × Flags :=
  let q := quant1 ty rm sat r.1
  (q.1, q.2 ||| r.2)

def execVadd (h : Hdr) (m : Fin 8) (z : Bool) (rm : Rounding) (sat : Bool) (d a b : Fin 256) (s : State) : Out :=
  s.v2 h m z wideFloat d a b (fun ty x y => vround ty rm sat (Val.add rm (decodeVal ty x) (decodeVal ty y), 0))
def execVsub (h : Hdr) (m : Fin 8) (z : Bool) (rm : Rounding) (sat : Bool) (d a b : Fin 256) (s : State) : Out :=
  s.v2 h m z wideFloat d a b (fun ty x y => vround ty rm sat (Val.sub rm (decodeVal ty x) (decodeVal ty y), 0))
def execVmul (h : Hdr) (m : Fin 8) (z : Bool) (rm : Rounding) (sat : Bool) (d a b : Fin 256) (s : State) : Out :=
  s.v2 h m z wideFloat d a b (fun ty x y => vround ty rm sat (Val.mul (decodeVal ty x) (decodeVal ty y), 0))
def execVfma (h : Hdr) (m : Fin 8) (z : Bool) (rm : Rounding) (sat : Bool) (d a b c : Fin 256) (s : State) : Out :=
  s.v3 h m z wideFloat d a b c (fun ty x y w =>
    vround ty rm sat (Val.fma rm (decodeVal ty x) (decodeVal ty y) (decodeVal ty w), 0))
def execVfms (h : Hdr) (m : Fin 8) (z : Bool) (rm : Rounding) (sat : Bool) (d a b c : Fin 256) (s : State) : Out :=
  s.v3 h m z wideFloat d a b c (fun ty x y w =>
    vround ty rm sat (Val.fma rm (decodeVal ty x) (decodeVal ty y) (decodeVal ty w).neg, 0))
def execVfnma (h : Hdr) (m : Fin 8) (z : Bool) (rm : Rounding) (sat : Bool) (d a b c : Fin 256) (s : State) : Out :=
  s.v3 h m z wideFloat d a b c (fun ty x y w =>
    vround ty rm sat (Val.fma rm (decodeVal ty x).neg (decodeVal ty y) (decodeVal ty w), 0))
def execVmin (h : Hdr) (m : Fin 8) (z : Bool) (d a b : Fin 256) (s : State) : Out :=
  s.v2 h m z wideFloat d a b (fun ty x y => minMax ty false x y)
def execVmax (h : Hdr) (m : Fin 8) (z : Bool) (d a b : Fin 256) (s : State) : Out :=
  s.v2 h m z wideFloat d a b (fun ty x y => minMax ty true x y)
def execVabs (h : Hdr) (m : Fin 8) (z : Bool) (d a : Fin 256) (s : State) : Out :=
  s.v1 h m z wideFloat d a (fun ty x => (x % 2 ^ (elemBits ty - 1), 0))
def execVneg (h : Hdr) (m : Fin 8) (z : Bool) (d a : Fin 256) (s : State) : Out :=
  s.v1 h m z wideFloat d a (fun ty x => (x ^^^ 2 ^ (elemBits ty - 1), 0))
def execVdiv (h : Hdr) (m : Fin 8) (z : Bool) (sat : Bool) (d a b : Fin 256) (s : State) : Out :=
  s.v2 h m z wideFloat d a b (fun ty x y => vround ty .rne sat (Val.div (decodeVal ty x) (decodeVal ty y)))
def execVsqrt (h : Hdr) (m : Fin 8) (z : Bool) (sat : Bool) (d a : Fin 256) (s : State) : Out :=
  s.v1 h m z wideFloat d a (fun ty x => vround ty .rne sat ((decodeVal ty x).sqrt, 0))
def execVrcp (h : Hdr) (m : Fin 8) (z : Bool) (sat : Bool) (d a : Fin 256) (s : State) : Out :=
  s.v1 h m z wideFloat d a (fun ty x => vround ty .rne sat (Val.div (Val.ofInt 1) (decodeVal ty x)))
def execVrsq (h : Hdr) (m : Fin 8) (z : Bool) (sat : Bool) (d a : Fin 256) (s : State) : Out :=
  s.v1 h m z wideFloat d a (fun ty x => vround ty .rne sat (decodeVal ty x).rsqrt)

/-- The functions of Trans.lean on each element. -/
def State.vtrans (s : State) (h : Hdr) (m : Fin 8) (z sat : Bool) (f : Trans.Fn) (d a : Fin 256) : Out :=
  s.v1 h m z wideFloat d a (fun ty x => Trans.apply ty sat f (decodeVal ty x))
def execVexp2 (h : Hdr) (m : Fin 8) (z : Bool) (sat : Bool) (d a : Fin 256) (s : State) : Out := s.vtrans h m z sat .exp2 d a
def execVexp (h : Hdr) (m : Fin 8) (z : Bool) (sat : Bool) (d a : Fin 256) (s : State) : Out := s.vtrans h m z sat .exp d a
def execVlog2 (h : Hdr) (m : Fin 8) (z : Bool) (sat : Bool) (d a : Fin 256) (s : State) : Out := s.vtrans h m z sat .log2 d a
def execVsinpi (h : Hdr) (m : Fin 8) (z : Bool) (sat : Bool) (d a : Fin 256) (s : State) : Out := s.vtrans h m z sat .sinpi d a
def execVcospi (h : Hdr) (m : Fin 8) (z : Bool) (sat : Bool) (d a : Fin 256) (s : State) : Out := s.vtrans h m z sat .cospi d a
def execVtanh (h : Hdr) (m : Fin 8) (z : Bool) (sat : Bool) (d a : Fin 256) (s : State) : Out := s.vtrans h m z sat .tanh d a

/-! ### Comparison, selection, masks (R155, R156) -/

/-- A comparison's truth and its flag. -/
def vcompare (ty : ElemType) (c : VecCond) (x y : Nat) : Bool × Flags :=
  let a := decodeVal ty x
  let b := decodeVal ty y
  let o := Val.cmp a b
  let sig : Flags := if a.isSig || b.isSig then .nv else 0
  let any : Flags := if a.isNan || b.isNan then .nv else 0
  match c with
  | .eq => (o == some .eq, sig)
  | .ne => (o != some .eq, sig)
  | .lt => (o == some .lt, any)
  | .ge => (o == some .gt || o == some .eq, any)
  | .le => (o == some .lt || o == some .eq, any)
  | .gt => (o == some .gt, any)
  | .un => (o.isNone, sig)
  | .ord => (o.isSome, sig)

/-- A mask with its bits below the list's length replaced. -/
def withBits (old : BitVec 2048) (bs : List Bool) : BitVec 2048 :=
  bs.zipIdx.foldl (fun m b =>
    let one : BitVec 2048 := 1#2048 <<< b.2
    if b.1 then m ||| one else m &&& ~~~ one) old

def Core.vcmp (c : Core) (m : Fin 8) (z : Bool) (cond : VecCond) (d : Fin 8) (a b : Fin 256) : Core :=
  let sh := c.vshape
  let old := c.readM d
  let rs := c.selected m sh.count (fun i => vcompare sh.ty cond (c.elem a sh.w i) (c.elem b sh.w i))
  let bs := rs.zipIdx.map (fun r => match r.1 with | some x => x.1 | none => !z && old.getLsbD r.2)
  (c.writeM d (withBits old bs)).addFlags .V (orFlags (rs.filterMap (·.map (·.2))))
def execVcmp (h : Hdr) (m : Fin 8) (z : Bool) (c : VecCond) (d : Fin 8) (a b : Fin 256) (s : State) : Out :=
  s.vcore h (fun sh => wideFloat sh.ty || (intType sh.ty && c != .un && c != .ord)) [a, b] [] (fun k => k.vcmp m z c d a b)

def execVsel (h : Hdr) (m : Fin 8) (d a b : Fin 256) (s : State) : Out :=
  s.vcore h (fun _ => true) [a, b] [d] (fun c =>
    let w := c.vshape.w
    let mask := c.readM m
    c.mapElems d w 0 false c.vshape.count (fun i => (if mask.getLsbD i then c.elem a w i else c.elem b w i, 0)))

/-- The bitwise function of a truth table (R117): bit 2b + a of `f`. -/
def truthTable (f : BitVec 4) (a b : BitVec 2048) : BitVec 2048 :=
  (if f.getLsbD 0 then ~~~ a &&& ~~~ b else 0) ||| (if f.getLsbD 1 then a &&& ~~~ b else 0)
    ||| (if f.getLsbD 2 then ~~~ a &&& b else 0) ||| (if f.getLsbD 3 then a &&& b else 0)
def execMop (h : Hdr) (d a b : Fin 8) (f : BitVec 4) (s : State) : Out :=
  s.vcore h (fun _ => true) [] [] (fun c => c.writeM d (truthTable f (c.readM a) (c.readM b)))
def execMcnt (h : Hdr) (first : Bool) (d : Fin 16) (a : Fin 8) (s : State) : Out :=
  s.vcore h (fun _ => true) [] [] (fun c =>
    let n := c.vshape.count
    let ones := (List.range n).filter (fun i => (c.readM a).getLsbD i)
    c.writeK .V d (BitVec.ofNat 64 (if first then ones.headD n else ones.length)))

/-! ### Integer arithmetic (R157) -/

def intSigned : ElemType → Bool | .i8 | .i16 | .i32 | .i64 | .i4 => true | _ => false

/-- An exact integer wrapped, or limited with SA. -/
def wrapOrLimit (w : Nat) (signed sat : Bool) (v : Int) : Nat × Flags :=
  if sat ∧ v < intMin w signed then (codeOfInt w (intMin w signed), .sa)
  else if sat ∧ intMax w signed < v then (codeOfInt w (intMax w signed), .sa) else (codeOfInt w v, 0)

/-- An integer instruction whose exact result is `f` of the operands' values. -/
def State.viarith (s : State) (h : Hdr) (m : Fin 8) (z sat : Bool) (d a b : Fin 256) (f : Int → Int → Int) : Out :=
  s.v2 h m z intType d a b (fun ty x y =>
    let w := elemBits ty
    let sg := intSigned ty
    wrapOrLimit w sg sat (f (intOf w sg x) (intOf w sg y)))
def execViadd (h : Hdr) (m : Fin 8) (z : Bool) (sat : Bool) (d a b : Fin 256) (s : State) : Out :=
  s.viarith h m z sat d a b (· + ·)
def execVisub (h : Hdr) (m : Fin 8) (z : Bool) (sat : Bool) (d a b : Fin 256) (s : State) : Out :=
  s.viarith h m z sat d a b (· - ·)
def execVimul (h : Hdr) (m : Fin 8) (z : Bool) (sat : Bool) (d a b : Fin 256) (s : State) : Out :=
  s.viarith h m z sat d a b (· * ·)
def execVand (h : Hdr) (m : Fin 8) (z : Bool) (d a b : Fin 256) (s : State) : Out :=
  s.v2 h m z intType d a b (fun _ x y => (x &&& y, 0))
def execVor (h : Hdr) (m : Fin 8) (z : Bool) (d a b : Fin 256) (s : State) : Out :=
  s.v2 h m z intType d a b (fun _ x y => (x ||| y, 0))
def execVxor (h : Hdr) (m : Fin 8) (z : Bool) (d a b : Fin 256) (s : State) : Out :=
  s.v2 h m z intType d a b (fun _ x y => (x ^^^ y, 0))
def execVshl (h : Hdr) (m : Fin 8) (z : Bool) (d a b : Fin 256) (s : State) : Out :=
  s.v2 h m z intType d a b (fun ty x y => (x * 2 ^ (y % elemBits ty) % 2 ^ elemBits ty, 0))
def execVshr (h : Hdr) (m : Fin 8) (z : Bool) (d a b : Fin 256) (s : State) : Out :=
  s.v2 h m z intType d a b (fun ty x y => (x / 2 ^ (y % elemBits ty), 0))
def execVsar (h : Hdr) (m : Fin 8) (z : Bool) (d a b : Fin 256) (s : State) : Out :=
  s.v2 h m z intType d a b (fun ty x y =>
    (codeOfInt (elemBits ty) (signedOf (elemBits ty) x / 2 ^ (y % elemBits ty)), 0))

/-- The lesser or greater by the type's sign. -/
def intPick (ty : ElemType) (max : Bool) (x y : Nat) : Nat :=
  let v := intOf (elemBits ty) (intSigned ty)
  if max then (if v x < v y then y else x) else (if v y < v x then y else x)
def execVimin (h : Hdr) (m : Fin 8) (z : Bool) (d a b : Fin 256) (s : State) : Out :=
  s.v2 h m z intType d a b (fun ty x y => (intPick ty false x y, 0))
def execVimax (h : Hdr) (m : Fin 8) (z : Bool) (d a b : Fin 256) (s : State) : Out :=
  s.v2 h m z intType d a b (fun ty x y => (intPick ty true x y, 0))

/-! ### Conversion and scale (R158 to R160) -/

def execVcvt (h : Hdr) (m : Fin 8) (z : Bool) (rm : Rounding) (sat : Bool) (ty : ElemType) (d a : Fin 256) (s : State) : Out :=
  s.vcore h (fun sh => decide (sh.count * elemBits ty ≤ 8192)) [a] [d] (fun c =>
    let sh := c.vshape
    c.mapElems d (elemBits ty) m z sh.count (fun i => convert sh.ty ty rm sat (c.elem a sh.w i)))

/-- The largest magnitude of values as an FP32 code (R159). -/
def amaxCode (vs : List Val) : Nat × Flags :=
  if vs.any Val.isNan then (0x7FC00000, if vs.any Val.isSig then .nv else 0)
  else
    let m := vs.foldl (fun m v => if Val.cmp m v.abs = some .lt then v.abs else m) Val.zero
    ((quant1 .f32 .rne false m).1, 0)
def execVamax (h : Hdr) (m : Fin 8) (d : Fin 16) (a : Fin 256) (s : State) : Out :=
  s.vcore h (fun sh => wideFloat sh.ty) [a] [] (fun c =>
    let sh := c.vshape
    let r := amaxCode ((c.selected m sh.count (fun i => decodeVal sh.ty (c.elem a sh.w i))).filterMap (fun x => x))
    (c.writeK .V d (BitVec.ofNat 64 r.1)).addFlags .V r.2)

/-- VSCALE's one rounding: by the product with σ, or divided by it. -/
def scaleElem (ty : ElemType) (rm : Rounding) (sat divs : Bool) (σ x : Val) : Nat × Flags :=
  if divs then quant ty σ rm sat x
  else quant1 ty rm sat (if σ.isNan then .nan true else Val.mul x σ)
def execVscale (h : Hdr) (m : Fin 8) (z : Bool) (rm : Rounding) (sat : Bool) (divs : Bool) (d a : Fin 256) (k : Fin 16) (s : State) :
    Out :=
  s.vcore h (fun sh => wideFloat sh.ty) [a] [d] (fun c =>
    let sh := c.vshape
    let σ := decodeVal .e8f2 ((c.readK .V k).toNat % 2 ^ 16)
    c.mapElems d sh.w m z sh.count (fun i => scaleElem sh.ty rm sat divs σ (decodeVal sh.ty (c.elem a sh.w i))))

/-! ### Reduction trees (R161 to R163) -/

/-- A node: a code, and whether it has met a combine. -/
structure Leaf where
  code : Nat
  met : Bool := false

/-- The magnitude of an integer code, limited in a signed type. -/
def intMagnitude (ty : ElemType) (x : Nat) : Nat × Flags :=
  if intSigned ty then
    let v := signedOf (elemBits ty) x
    wrapOrLimit (elemBits ty) true true v.natAbs
  else (x, 0)
/-- The magnitude under amax. -/
def amaxLeaf (ty : ElemType) (x : Nat) : Nat × Flags :=
  if isIntType ty then intMagnitude ty x else (x % 2 ^ (elemBits ty - 1), 0)

/-- combine(u, v, op). -/
def RedOp.combine (op : RedOp) (ty : ElemType) (u v : Nat) : Nat × Flags :=
  match op with
  | .sum rm sat =>
    if isIntType ty then
      let i := intOf (elemBits ty) (intSigned ty)
      wrapOrLimit (elemBits ty) (intSigned ty) sat (i u + i v)
    else quant1 ty rm sat (Val.add rm (decodeVal ty u) (decodeVal ty v))
  | .max => if isIntType ty then (intPick ty true u v, 0) else minMax ty true u v
  | .min => if isIntType ty then (intPick ty false u v, 0) else minMax ty false u v
  | .amax =>
    let a := amaxLeaf ty u
    let b := amaxLeaf ty v
    let r := if isIntType ty then (if a.1 < b.1 then b.1 else a.1, (0 : Flags)) else minMax ty true a.1 b.1
    (r.1, r.2 ||| a.2 ||| b.2)

/-- One level of the tree. -/
def treeLevel (f : Nat → Nat → Nat × Flags) : List (Option Leaf) → List (Option Leaf) × Flags
  | u :: v :: rest =>
    let (l, fl) := treeLevel f rest
    match u, v with
    | none, x | x, none => (x :: l, fl)
    | some a, some b => let r := f a.code b.code; (some ⟨r.1, true⟩ :: l, fl ||| r.2)
  | l => (l, 0)
/-- The whole tree; `fuel` bounds its levels. -/
def tree (f : Nat → Nat → Nat × Flags) : Nat → List (Option Leaf) → Flags → Option Leaf × Flags
  | 0, l, fl => (l.headD none, fl)
  | fuel + 1, l, fl =>
    if l.length ≤ 1 then (l.headD none, fl)
    else let r := treeLevel f l; tree f fuel r.1 (fl ||| r.2)

/-- What is written for a root: its code, canonical if a NaN, with the flag of a signalling leaf that met no combine;
under amax a leaf alone gives its magnitude. -/
def RedOp.root (op : RedOp) (ty : ElemType) (x : Leaf) : Nat × Flags :=
  if x.met then (x.code, 0)
  else
    let r := match op with | .amax => amaxLeaf ty x.code | _ => (x.code, 0)
    if isIntType ty then r
    else
      match decodeVal ty r.1 with
      | .nan sig => ((quant1 ty .rne false (.nan false)).1, if sig then .nv else 0)
      | _ => r
def RedOp.reduce (op : RedOp) (ty : ElemType) (leaves : List (Option Nat)) : Option (Nat × Flags) :=
  match tree (RedOp.combine op ty) leaves.length (leaves.map (·.map (fun x => ⟨x, false⟩))) 0 with
  | (none, _) => none
  | (some x, fl) => let r := RedOp.root op ty x; some (r.1, r.2 ||| fl)

/-- The logical indices of a shape's lines along an axis: its columns' (`col`) or its rows'. -/
def VShape.axis (sh : VShape) (col : Bool) : List (List Nat) :=
  if col then (List.range sh.cols).map (fun c => (List.range sh.rows).map (fun r => r * sh.cols + c))
  else (List.range sh.rows).map (fun r => (List.range sh.cols).map (fun c => r * sh.cols + c))

/-- Results at some indices, every other element below the count following .z. -/
def Core.writeSome (c : Core) (d : Fin 256) (z : Bool) (rs : List (Nat × Option (Nat × Flags))) : Core :=
  let sh := c.vshape
  let vs := (List.range sh.count).map (fun i => (rs.find? (fun r => r.1 == i)).bind (fun r => r.2.map (·.1)))
  (c.writeElems d sh.w z vs).addFlags .V (orFlags (rs.filterMap (fun r => r.2.map (·.2))))

def Core.leaves (c : Core) (m : Fin 8) (a : Fin 256) (is : List Nat) : List (Option Nat) :=
  is.map (fun i => if (c.readM m).getLsbD i then some (c.elem a c.vshape.w i) else none)
def Core.vred (c : Core) (m : Fin 8) (z : Bool) (op : RedOp) (col : Bool) (d a : Fin 256) : Core :=
  c.writeSome d z ((c.vshape.axis col).map (fun is => (is.headD 0, RedOp.reduce op c.vshape.ty (c.leaves m a is))))
def Core.vscan (c : Core) (m : Fin 8) (z : Bool) (op : RedOp) (col : Bool) (d a : Fin 256) : Core :=
  c.writeSome d z ((c.vshape.axis col).flatMap (fun is => is.zipIdx.map (fun i =>
    (i.1, if (c.readM m).getLsbD i.1 then RedOp.reduce op c.vshape.ty (c.leaves m a (is.take (i.2 + 1))) else none))))

def redTypes (ty : ElemType) : Bool := wideFloat ty || intType ty
def execVred (h : Hdr) (m : Fin 8) (z : Bool) (op : RedOp) (col : Bool) (d a : Fin 256) (s : State) : Out :=
  s.vcore h (fun sh => redTypes sh.ty) [a] [d] (fun c => c.vred m z op col d a)
def execVscan (h : Hdr) (m : Fin 8) (z : Bool) (op : RedOp) (col : Bool) (d a : Fin 256) (s : State) : Out :=
  s.vcore h (fun sh => redTypes sh.ty) [a] [d] (fun c => c.vscan m z op col d a)

/-! ### Permutation, index generation, random values (R164, R165) -/

def execVxpose (h : Hdr) (m : Fin 8) (z : Bool) (d a : Fin 256) (s : State) : Out :=
  s.vcore h (fun sh => byteType sh.ty && decide (sh.cols ≤ 32)) [a] [d] (fun c =>
    let sh := c.vshape
    -- destination index i = col × rows + row
    c.mapElems d sh.w m z sh.count (fun i => (c.elem a sh.w (i % sh.rows * sh.cols + i / sh.rows), 0)))
def execVperm (h : Hdr) (m : Fin 8) (z : Bool) (d a b : Fin 256) (s : State) : Out :=
  s.vcore h (fun sh => byteType sh.ty) [a, b] [d] (fun c =>
    let sh := c.vshape
    c.mapElems d sh.w m z sh.count (fun i =>
      let j := c.elem b sh.w i
      (if j < sh.count then c.elem a sh.w j else 0, 0)))

/-- A mode that R111 reserves for the shape's type. -/
def Core.modeFault (c : Core) (rm : Rounding) : Option TrapInfo := if Rows.modeOk c.vshape.ty rm then none else some (illegal 0x03)
def execViota (h : Hdr) (m : Fin 8) (z : Bool) (rm : Rounding) (sat : Bool) (d : Fin 256) (k : Fin 16) (s : State) : Out :=
  s.vissue h { mode := s.core.modeFault rm, regs := tileRegs [d],
               shape := s.core.shapeOk (fun sh => sh.ty != .e8m0 && sh.ty != .e8f2) } [] [d] (fun s =>
    .done (s.modCore (fun c =>
      let sh := c.vshape
      c.mapElems d sh.w m z sh.count (fun i => quant1 sh.ty rm sat (Val.ofInt ((c.readK .V k).toInt + i))))))

/-- rand64 (R165). -/
def rand64 (seed : Word64) (stream : BitVec 32) (idx : Word64) : Word64 :=
  let st : Word64 := stream.zeroExtend 64
  let key := seed ^^^ (st <<< 32) ^^^ st
  let mix (x : Word64) (k : Word64) (n : Nat) : Word64 := let y := x * k; y ^^^ (y >>> n)
  let x := (idx + 0x6A1F93C5D4B70E29) ^^^ key
  let x := mix x 0xC3A5E61D7B492F65 31
  let x := mix x 0x8F1B54D9A6C30E2B 29 ^^^ key
  let x := mix x 0xB7E24A931D6F58C1 32
  mix x 0xE59D3C0786B1A4F3 30
/-- The precision of unif (R165). -/
def unifBits : ElemType → Nat | .f32 => 24 | .bf16 => 8 | _ => 11
def randElem (ty : ElemType) (unif : Bool) (x : Word64) : Nat :=
  if unif then
    let p := unifBits ty
    (quant1 ty .rne false (.fin false (x.toNat / 2 ^ (64 - p)) (2 ^ p))).1
  else x.toNat % 2 ^ elemBits ty
def State.seed (s : State) : Word64 := match s.task? with | some t => t.seed | none => 0
def execVrand (h : Hdr) (m : Fin 8) (z : Bool) (unif : Bool) (d : Fin 256) (a b : Fin 16) (s : State) : Out :=
  let seed := s.seed
  s.vcore h (fun sh => !unif || wideFloat sh.ty) [] [d] (fun c =>
    let sh := c.vshape
    c.mapElems d sh.w m z sh.count (fun i =>
      (randElem sh.ty unif (rand64 seed ((c.readK .V a).truncate 32) (c.readK .V b + BitVec.ofNat 64 i)), 0)))

end Sys2Proof.Machine
end

