-- ==== Sys2Proof/Machine/Accumulate.lean ====
section
/-! DEFINITION. The matrix engine's geometry and groups, and the outcomes where V touches an accumulator that M updates unordered with
it (spec/06 R170, 07 R172 to R180, R187). -/

namespace Sys2Proof.Machine

/-! ### Geometry (R172, R176, R177) -/

def MShape.mx (sh : MShape) : Bool := sh.a == .e2m1
def MShape.int (sh : MShape) : Bool := isIntType sh.a
/-- The panel unit, and the bytes of a block-scale container. -/
def MShape.unit (sh : MShape) : Nat := if sh.mx then 32 else 16
def MShape.container (sh : MShape) : Nat := match sh.blk with | .none => 0 | .e8m0 => 1 | .e8f2 => 2
def MShape.scaleType (sh : MShape) : ElemType := if sh.blk = .e8m0 then .e8m0 else .e8f2
def MShape.panels (sh : MShape) : Nat := 16 * sh.kgroups / sh.unit
def MShape.aData (sh : MShape) : Nat := sh.rows * sh.unit * elemBits sh.a / 8
def MShape.aPanel (sh : MShape) : Nat := sh.aData + sh.rows * sh.container
def MShape.aBytes (sh : MShape) : Nat := sh.panels * sh.aPanel
def MShape.bKept (sh : MShape) : Nat := sh.cols * (if sh.sparse then sh.unit / 2 else sh.unit) * elemBits sh.b / 8
def MShape.bData (sh : MShape) : Nat := sh.bKept + (if sh.sparse then sh.cols * (sh.unit / 8) else 0)
def MShape.bPanel (sh : MShape) : Nat := sh.bData + sh.cols * sh.container
def MShape.bBytes (sh : MShape) : Nat := sh.panels * sh.bPanel

/-- Element `i` of width `w` from byte `base` of a byte function. -/
def packed (get : Nat → Byte) (base w i : Nat) : Nat :=
  if w < 8 then (get (base + i * w / 8)).toNat / 2 ^ (i * w % 8) % 2 ^ w
  else ofBytes ((List.range (w / 8)).map (fun j => get (base + i * (w / 8) + j)))

def MShape.aCode (sh : MShape) (get : Nat → Byte) (r k : Nat) : Nat :=
  packed get (k / sh.unit * sh.aPanel) (elemBits sh.a) (r * sh.unit + k % sh.unit)
/-- A 2:4 or dense element of B (R178). -/
def MShape.bCode (sh : MShape) (get : Nat → Byte) (k n : Nat) : Nat :=
  let base := k / sh.unit * sh.bPanel
  let w := elemBits sh.b
  let x := k % sh.unit
  if sh.sparse then
    let j := x / 4
    let meta_ := (get (base + sh.bKept + n * (sh.unit / 8) + j / 2)).toNat / 16 ^ (j % 2) % 16
    let kept (i : Nat) : Nat := packed get base w (n * (sh.unit / 2) + 2 * j + i)
    if x % 4 = meta_ / 4 then kept 1 else if x % 4 = meta_ % 4 then kept 0 else 0
  else packed get base w (n * sh.unit + x)
def MShape.aBeta (sh : MShape) (get : Nat → Byte) (r u : Nat) : Val :=
  if sh.mx then decodeVal sh.scaleType (packed get (u * sh.aPanel + sh.aData) (8 * sh.container) r) else Val.ofInt 1
def MShape.bBeta (sh : MShape) (get : Nat → Byte) (u n : Nat) : Val :=
  if sh.mx then decodeVal sh.scaleType (packed get (u * sh.bPanel + sh.bData) (8 * sh.container) n) else Val.ofInt 1

/-! ### Accumulation (R179, R180) -/

/-- One float group: the accumulator and sixteen exact products, rounded once. -/
def floatGroup (acc : Nat) (ps : List Val) : Nat × Flags :=
  let ts := decodeVal .f32 acc :: ps
  quant1 .f32 .rne false ((Val.anyNan ts).getD (Val.sumTerms .rne ts))
/-- One integer group, limited. -/
def intGroup (acc : Nat) (ps : List Int) : Nat × Flags :=
  let v := ps.foldl (· + ·) (signedOf 32 acc)
  if v < intMin 32 true then (codeOfInt 32 (intMin 32 true), .nv ||| .sa)
  else if intMax 32 true < v then (codeOfInt 32 (intMax 32 true), .nv ||| .sa) else (codeOfInt 32 v, 0)

/-- Group `g` of one output, on the accumulator as the groups before it leave it. -/
def MShape.group (sh : MShape) (ga gb : Nat → Byte) (r n acc g : Nat) : Nat × Flags :=
  let ks := (List.range 16).map (fun i => 16 * g + i)
  if sh.int then
    intGroup acc (ks.map (fun k =>
      intOf (elemBits sh.a) (intSigned sh.a) (sh.aCode ga r k) * intOf (elemBits sh.b) (intSigned sh.b) (sh.bCode gb k n)))
  else
    floatGroup acc (ks.map (fun k =>
      mulAll [decodeVal sh.a (sh.aCode ga r k), sh.aBeta ga r (k / 32), decodeVal sh.b (sh.bCode gb k n), sh.bBeta gb (k / 32) n]))
/-- The groups of one output in ascending k. -/
def MShape.output (sh : MShape) (ga gb : Nat → Byte) (r n acc : Nat) : Nat × Flags :=
  (List.range sh.kgroups).foldl (fun (x : Nat × Flags) g =>
    let y := sh.group ga gb r n x.1 g
    (y.1, x.2 ||| y.2)) (acc, 0)

/-! ### The accumulators (R174) -/

def wbufBytes : Nat := 262144
def Core.accRecOf (c : Core) (z : Nat) : AccRec := SMap.get {} c.accRec z
def Core.accAt (c : Core) (z i : Nat) : Nat := (SMap.get 0 c.acc (z * 2048 + i)).toNat
def Core.putAcc (c : Core) (z i v : Nat) : Core := { c with acc := SMap.set 0 c.acc (z * 2048 + i) (BitVec.ofNat 32 v) }

/-! ### Races on an accumulator tile (R170, R187) -/

/-- The groups that an M instruction applies to an element, in order; none of V's, and none to an element of no concern. -/
def AccMark.groups (m : AccMark) (i : Nat) : List (Nat → Nat) :=
  match m.work with
  | .product sh src a wbuf start =>
    if i / 64 < sh.rows ∧ i % 64 < sh.cols ∧ !m.elems.contains i then
      (List.range sh.kgroups).map (fun g x =>
        (sh.group (fun j => SMap.get 0 src (a + j)) (fun j => SMap.get 0 wbuf ((start + j) % wbufBytes)) (i / 64) (i % 64) x g).1)
    else []
  | .zero => if m.elems.contains i then [] else [fun _ => 0]
  | .load => []
def AccMark.old (m : AccMark) (i : Nat) : Nat := (SMap.get 0 m.before (m.z * 2048 + i)).toNat
/-- Groups applied one after the other; the values before each of them; and the values that what is written before some of them, or after
all, comes to. -/
def applyAll (fs : List (Nat → Nat)) (x : Nat) : Nat := fs.foldl (fun v f => f v) x
def valuesBefore : List (Nat → Nat) → Nat → List Nat
  | [], _ => []
  | f :: fs, x => x :: valuesBefore fs (f x)
def overtaken : List (Nat → Nat) → Nat → List Nat
  | [], x => [x]
  | f :: fs, x => applyAll (f :: fs) x :: overtaken fs x

/-- What an engine's instructions that nothing orders with the others' have done to a tile. -/
def Core.accMarks (c : Core) (e : Engine) (z : Nat) : List AccMark :=
  c.checker.filterMap (fun f => if f.eng = e.num then f.acc.filter (fun m => m.z == z) else none)
/-- The tile's marks of an engine changed. -/
def Core.modMarks (c : Core) (e : Engine) (z : Nat) (f : AccMark → AccMark) : Core :=
  { c with checker := c.checker.map (fun p => if p.eng = e.num then { p with acc := p.acc.map (fun m => if m.z = z then f m else m) } else p) }
def Core.mark (c : Core) (e : Engine) (pc : Nat) (m : AccMark) : Core :=
  { c with checker := c.checker ++ [{ eng := e.num, pc, reads := [], writes := [], acc := some m }] }

/-- One of several permitted values, as the outside chooses. -/
def pickValue (key now : Nat) (others : List Nat) : Nat :=
  match others with
  | [] => now
  | _ => (((now :: others)[(Config.freeByte key).toNat % (others.length + 1)]?).getD now)

/-- An element as VDRAIN reads it: as it stands, or as it stood before a group of M that nothing orders with the read. -/
def Core.accSeen (c : Core) (key z i : Nat) : Nat :=
  pickValue (key + i) (c.accAt z i) ((c.accMarks .M z).flatMap (fun m => valuesBefore (m.groups i) (m.old i)))

/-- What an element that VZLD writes holds then: the value loaded, with M's unordered groups before or after it, or M's result. -/
def Core.accLoaded (c : Core) (key z i x : Nat) : Nat :=
  match (c.accMarks .M z).flatMap (fun m => m.groups i) with
  | [] => x
  | fs => pickValue (key + i) x (c.accAt z i :: overtaken fs x)

/-- VZLD's elements written, beside M. -/
def Core.loadAcc (c : Core) (key pc z : Nat) (vs : List (Nat × Nat)) : Core :=
  let out := vs.foldl (fun c' v => c'.putAcc z v.1 (c.accLoaded key z v.1 v.2)) c
  let c' := out.modMarks .M z (fun m => { m with elems := vs.map (·.1) ++ m.elems })
  c'.mark .V pc { z, work := .load, elems := vs.map (·.1), before := c.acc, after := vs }

/-- After M's work on a tile: each element that an unordered VZLD wrote holds M's result on what VZLD wrote, or without it, or what VZLD
wrote with only the later groups applied. `c` is the core before it, `c'` after it. -/
def Core.raced (c' c : Core) (key pc : Nat) (m : AccMark) : Core :=
  let vs := c.accMarks .V m.z
  let c' := vs.foldl (fun k v =>
    v.after.foldl (fun k x =>
      let fs := m.groups x.1
      if fs.isEmpty then k
      else k.putAcc m.z x.1 (pickValue (key + x.1) (k.accAt m.z x.1) (applyAll fs (v.old x.1) :: overtaken fs x.2))) k) c'
  let c' := c'.modMarks .V m.z (fun v => { v with before := v.after.foldl (fun b x =>
    SMap.set 0 b (m.z * 2048 + x.1) (BitVec.ofNat 32 (applyAll (m.groups x.1) (v.old x.1)))) v.before })
  c'.mark .M pc m

end Sys2Proof.Machine
end

