-- ==== Sys2Proof/Machine/Memory.lean ====
section
/-! DEFINITION. S memory instructions, atomics and FENCE (spec/12 R258 to R285). -/

namespace Sys2Proof.Machine

/-! ### Local copies (R241, R242, R245) -/

/-- With no L1 every access is a .wt access (R245). -/
def Core.effPolicy (c : Core) (pol : Policy) : Policy := if Part.l1Bytes c.part = 0 then .wt else pol

/-- A word's local value where a load under the policy hits it; a word that an acquire kept only hits .inv loads (R235). -/
def State.wordHit (s : State) (pol : Policy) (inv : Bool) (k : Nat) (mask : BitVec 4) : Option Word32 :=
  match s.core.l1At k with
  | none => none
  | some ⟨st, v⟩ =>
    let hit : Bool :=
      match st with
      | .owned => true
      | .dirty b whole => (pol == .si || inv) && (whole || mask &&& ~~~ b == 0)
      | .registered => pol == .si || pol == .wi || inv
      | .clean _ => pol == .si || inv
      | .kept => inv
    if hit then some v else none

/-- The local value of an access, if every word hits. -/
def State.localValue (s : State) (pol : Policy) (inv : Bool) (a n : Nat) : Option Nat :=
  let ws := (wordKeys a n).map (fun k =>
    (s.wordHit pol inv k (pieceMask a n k)).map (fun v => if inv then s.invWord s.cur k v else v))
  if ws.all Option.isSome then some (fromWords a n (ws.filterMap (fun x => x))) else none

/-- A .si store into the L1, or a store to an owned word (R242). Of a word that is not owned only the bytes stored are valid
from then on: a load of others takes them from the home, to which the stored ones go first (R224, R226). -/
def Core.storeLocal (c : Core) (k : Nat) (v : Word32) (m : BitVec 4) : Core :=
  match c.l1At k with
  | some ⟨.owned, x⟩ => c.putL1 k .owned (mergeWord x m v)
  | some ⟨.dirty b _, x⟩ => c.putL1 k (.dirty (b ||| m) (b ||| m == 15)) (mergeWord x m v)
  | some ⟨_, x⟩ => c.putL1 k (.dirty m (m == 15)) (mergeWord x m v)
  | none => c.putL1 k (.dirty m (m == 15)) v

/-! ### When an access may be performed (R226, R265, R269, R274, R280, R283) -/

/-- Whether a contribution of the engine from before a point is held in the core's fault buffer (R280). -/
def State.holdsBack (s : State) (e : Engine) (till : Nat) : Bool :=
  s.core.faults.any (fun f => f.eng == e && !f.wb && (match f.req.bind s.req? with | some r => decide (r.since < till) | none => f.req.isSome))

/-- Whether a waiting memory instruction acquires. -/
def MemOp.acquires : MemOp → Bool
  | .atomic w => w.acq
  | .atoms _ _ acq _ _ _ => acq
  | .lds _ _ _ _ | .sts _ _ _ | .pref _ _ _ | .flush _ => false
/-- Whether an instruction in flight keeps its engine's later accesses back: a FENCE, or an acquire (R274, R283). -/
def Flight.orders (f : Flight) : Bool :=
  f.acq.isSome || (match f.kind with | .fence _ _ => true | .waiting op => op.acquires | _ => false)
/-- Whether one from before a point keeps back what the engine issued at that point. -/
def State.ordered (s : State) (e : Engine) (till : Nat) : Bool :=
  s.core.flights.any (fun f => f.eng == e && decide (f.id < till) && f.orders)

/-- Whether a request answers an instruction in flight. -/
def State.inFlight (s : State) (id : Nat) : Bool := s.core.flights.any (fun f => f.parts.any (fun p => p.req == id))
def State.faulted (s : State) (id : Nat) : Bool := s.core.faults.any (fun f => f.req == some id)
/-- Whether an instruction in flight counts as a memory request of its engine: one with an answer still to come, whose requests do not
all stand in the fault buffer. -/
def State.counts (s : State) (f : Flight) : Bool :=
  match f.kind with
  | .load _ _ _ | .store | .atom _ => f.parts.any (fun p => p.got.isNone && !s.faulted p.req)
  | .waiting (.atomic _) | .waiting (.pref _ _ _) | .waiting (.flush _) => true
  | _ => false
/-- S's outstanding requests, those in the fault buffer apart (R269, R395): an eight-byte access is one. -/
def State.outstandingS (s : State) : Nat :=
  (s.core.flights.filter (fun f => f.eng == .S && s.counts f)).length
    + (s.coh.reqs.filter (fun r => r.core == s.cur && r.eng == .S && r.kind != .writeback && !s.faulted r.id && !s.inFlight r.id)).length
    + (s.coh.weir.filter (fun w => w.core == s.cur && w.eng == .S && !s.inFlight w.req)).length
/-- The lines of C's writes whose acknowledgements are still to come. -/
def State.outstandingC (s : State) : Nat :=
  ((s.coh.invals.filter (fun i => s.core.journal.any (fun j => i.req == some j.id))).map (·.line)).eraseDups.length
/-- The core's outstanding requests: S's, V's, C's, the code feed's and the fault buffer's (R269, R395). -/
def State.outstanding (s : State) : Nat :=
  (s.coh.reqs.filter (fun r => r.core == s.cur && !r.half)).length + (s.coh.weir.filter (fun w => w.core == s.cur)).length
    + (s.core.faults.filter (fun f => f.req.isNone)).length + s.core.feeds.length + s.outstandingC

/-- Whether `n` more requests of the engine find no room among S's 64 and the core's 4,096. -/
def State.noRoom (s : State) (e : Engine) (n : Nat) : Bool :=
  (e == .S && decide (64 < s.outstandingS + n)) || decide (4096 < s.outstanding + n)

/-- Whether the engine issues no memory instruction now: for a held contribution, or for want of room. -/
def State.memStall (s : State) (e : Engine) : Bool := s.holdsBack e s.nextId || s.noRoom e 1

/-- Whether the core holds or sends home dirty bytes of an access's line under another address, to which its name led before
software moved the page: they go home first, by time at the latest (R226, R389). -/
def State.renamed (s : State) (va a : Nat) : Bool :=
  let name := (s.spaceOf va, lineOf (vaImage va))
  s.core.l1Names.any (fun e => e.2 == name && e.1 != lineOf a && !(s.core.dirtyWords (inLine e.1)).isEmpty)
    || s.coh.reqs.any (fun r => r.core == s.cur && r.kind == .writeback && r.name == some name && lineOf r.addr != lineOf a)

/-- The words of an access by name. -/
def State.nameWords (s : State) (va n : Nat) : List (Nat × Nat) := (wordKeys (vaImage va) n).map (fun k => (s.spaceOf va, k))
/-- Whether an access of the core from before a point to one of these words is still to be performed (R226, R265). -/
def State.sameWord (s : State) (till va n a : Nat) : Bool :=
  let names := s.nameWords va n
  let ks := wordKeys a n
  let sent (r : Req) : Bool := r.stage == .sent && (wordKeys r.addr r.size).any ks.contains
  s.core.flights.any (fun f => decide (f.id < till)
    && ((match f.kind with | .waiting (.atomic w) => (s.nameWords w.va w.bytes).any names.contains | _ => false)
      || f.parts.any (fun p => match p.todo with
          | some t => (s.nameWords t.va t.n).any names.contains
          | none => p.got.isNone && (s.req? p.req).any sent)))
  || s.coh.reqs.any (fun r => r.core == s.cur && decide (r.since < till) && r.kind != .writeback && r.size != 64
      && !s.inFlight r.id && sent r)
/-- Whether an access of S to a word of the data area from before a point is still to be performed. -/
def State.samePool (s : State) (till o n : Nat) : Bool :=
  let meets (x m : Nat) : Bool := (wordKeys x m).any (wordKeys o n).contains
  s.core.flights.any (fun f => decide (f.id < till)
    && (match f.kind with
        | .waiting (.lds m _ _ x) | .waiting (.sts m x _) => meets x m
        | .waiting (.atoms op _ _ _ _ x) => meets x (Atomic.bytes op)
        | _ => false))

/-- A request of the current core for what it issued at a point, with its own dirty copies of the words (R246); a prefetch leaves them
where they are (R267). -/
def State.sendReq (s : State) (e : Engine) (pc since : Nat) (kind : ReqKind) (pol : Policy) (inv : Bool) (a n va data : Nat)
    (seq : Option (Nat × Nat)) (half : Bool := false) : Nat × State :=
  let (id, s) := s.fresh
  let ks := wordKeys a n
  let wb := if n = 64 then [] else s.core.dirtyWords (fun k => ks.contains k)
  let s := s.modCore (fun c => wb.foldl (fun c w => c.dropL1 w.1) c)
  let ctx := s.spaceOf va
  (id, s.addReq { id, core := s.cur, eng := e, kind, pol, inv, addr := a, size := n, va, ctx, ia := vaImage va, data, wb,
                  seq := seq.map (·.1), ncon := match seq with | some x => x.2 | none => 0, stage := .sent, pc,
                  delegable := s.delegable ctx (vaImage va), since, half, inTrap := s.core.trap.mode })

/-- An access's checks at its issue and what its issue waits for, then `f` at its physical address (R258, R259). -/
def State.withAccess (s : State) (e : Engine) (va n : Nat) (write : Bool) (f : Nat → State → Res) : Res :=
  if s.memStall e then .stall id
  else
    match s.access e va n write with
    | .trap g t => .trap g t
    | .wait g => .stall g
    | .peer _ _ _ _ => .stall id
    | .go a s => f a s

/-- Whether nothing that precedes an access in program order keeps it back. -/
def State.free (s : State) (e : Engine) (till va n a : Nat) : Bool :=
  !(s.ordered e till || s.holdsBack e till || s.sameWord till va n a || s.renamed va a)

/-- The trap of an access to a poisoned line (R260, R417). -/
def State.poisonTrap (s : State) (e : Engine) (a va : Nat) : Res :=
  .trap (fun t => (t.readDecode (lineOf a)).logConsumed s.cur e (lineOf a)) (uncorrectable 0x01 va)

/-! ### Loads and stores word by word (R224, R226, R265) -/

/-- A store under its effective policy at a physical address. -/
def State.storeAt (s : State) (pol : Policy) (a n va data : Nat) : Option State :=
  let ws := pieces a n data
  if pol = .si ∨ (pol = .own ∧ s.ownsAll s.cur (ws.map (·.1))) then
    -- an owner's earlier value is one that the word has held (R235)
    let s := ws.foldl (fun s w => match s.core.l1At w.1 with | some ⟨.owned, x⟩ => s.notePast w.1 x | _ => s) s
    let s := s.modCore (fun c =>
      { ws.foldl (fun c w => c.storeLocal w.1 w.2.1 w.2.2) c with
        l1Names := if pol = .si then SMap.put c.l1Names (lineOf a) (s.spaceOf va, lineOf (vaImage va)) else c.l1Names })
    some ((s.noteL1 s.cur (lineOf a)).trimL1 s.cur (lineOf a))
  else none

/-- What the attempt of one access of an instruction comes to. -/
inductive Sent where
  | wait (f : State → State)
  | trap (f : State → State) (t : TrapInfo)
  | ok (s : State) (p : Part)

/-- One access of an instruction that issued at the point `till`, at its physical address: performed in the core, or sent to its home. -/
def State.sendAt (s : State) (e : Engine) (pc till a : Nat) (p : Part) (t : Todo) : Sent :=
  let p := { p with todo := none }
  let t := { t with pol := s.core.effPolicy t.pol }
  let here := if t.store then (s.storeAt t.pol a t.n t.va t.data).map (fun s => (s, 0)) else (s.localValue t.pol t.inv a t.n).map (fun v => (s, v))
  if !s.free e till t.va t.n a then .wait id
  else
    match here with
    | some (s, v) =>
      (match if t.store then none else s.l1Fault (wordKeys a t.n) with
       | some x => .trap (fun _ => s.logSram e x) x
       | none => .ok s { p with got := some (.value v) })
    | none =>
      if decide (4096 < s.outstanding + 1) then .wait id
      else
        let q := s.sendReq e pc till (if t.store then .store else .load) t.pol (t.inv && Part.l1Bytes s.core.part != 0) a t.n t.va t.data none
          (e == .S && p.idx == 1)
        .ok q.2 { p with req := q.1 }
/-- The same, its lease and translation met first. -/
def State.sendPart (s : State) (e : Engine) (pc till : Nat) (p : Part) (t : Todo) : Sent :=
  match s.access e t.va t.n t.store with
  | .trap f x => .trap f x
  | .wait f => .wait f
  | .peer _ _ _ _ => .wait id
  | .go a s => s.sendAt e pc till a p t

/-- The accesses of an instruction in flight that are still to be sent, each as far as it may be performed now; or the trap of one. At its
issue a load or store of S has met its translation: its words lie from `at_` on. -/
def State.sendParts (s : State) (f : Flight) (at_ : Option Nat := none) : Except (State × TrapInfo) (State × List Part) :=
  f.parts.foldl (fun r p =>
    match r, p.todo with
    | .error x, _ => .error x
    | .ok (s, ps), none => .ok (s, ps ++ [p])
    | .ok (s, ps), some t =>
      match (match at_ with | some a => s.sendAt f.eng f.pc f.id (a + 4 * p.idx) p t | none => s.sendPart f.eng f.pc f.id p t) with
      | .wait g => .ok (g s, ps ++ [p])
      | .trap g t => .error (g s, t)
      | .ok s p => .ok (s, ps ++ [p])) (.ok (s, []))

/-- An instruction's accesses at its issue: what may be performed is, the rest follows in its engine's later turns (R269). -/
def State.issueParts (s : State) (e : Engine) (kind : FlightKind) (parts : List Part) (at_ : Option Nat := none) : Res :=
  let (id, s) := s.fresh
  let f : Flight := { id, eng := e, pc := (s.eng e).pc, kind, parts, inTrap := s.core.trap.mode }
  match s.sendParts f at_ with
  | .error (s, t) => .trap (fun _ => s) t
  | .ok (s, ps) =>
    let f := { f with parts := ps }
    if f.complete then .done (s.modCore (fun c => c.arrive f)) else .pend (s.modCore (fun c => { c with flights := c.flights ++ [f] })) id

/-- The word accesses of a load or store of S: two of an eight-byte one, each on its own (R224). -/
def wordParts (t : Todo) : List Part :=
  if t.n = 8 then
    [{ req := 0, idx := 0, got := none, todo := some { t with n := 4, data := t.data % 2 ^ 32 } },
     { req := 0, idx := 1, got := none, todo := some { t with va := t.va + 4, n := 4, data := t.data / 2 ^ 32 } }]
  else [{ req := 0, idx := 0, got := none, todo := some t }]

/-! ### LD and ST (R262 to R265) -/

def State.loadGlobal (s : State) (pol : Policy) (size : Size) (bit18 : Bool) (d : Fin 32) (va : Nat) : Res :=
  let n := sizeBytes size
  let inv := n = 8 && bit18
  let sext := n ≠ 8 && bit18
  let pol := s.core.effPolicy pol
  s.withAccess .S va n false (fun a s =>
    let send : Res := s.issueParts .S (.load d n sext) (wordParts { store := false, pol, inv, va, n, data := 0 }) (some a)
    if s.free .S s.nextId va n a then
      match s.localValue pol inv a n with
      | some v =>
        (match s.l1Fault (wordKeys a n) with
         | some x => .trap (fun s => s.logSram .S x) x
         | none => .done (s.setCore (s.core.writeS d (extendLoad n sext v))))
      | none => if s.poisoned (lineOf a) then s.poisonTrap .S a va else send
    else send)

def execLd (h : Hdr) (pol : Policy) (_scope : Scope) (size : Size) (bit18 : Bool) (d b : Fin 32) (off : BitVec 18) (s : State) :
    Out :=
  .next (s.issue .S h {} (s.core.busyFor (sRegs [d, b])) (fun s =>
    s.loadGlobal pol size bit18 d (baseOffset (s.core.readS b) off)))

def State.storeGlobal (s : State) (e : Engine) (pol : Policy) (n va data : Nat) : Res :=
  let pol := s.core.effPolicy pol
  s.withAccess e va n true (fun a s =>
    let send : Res := s.issueParts e .store (wordParts { store := true, pol, inv := false, va, n, data }) (some a)
    match if s.free e s.nextId va n a then s.storeAt pol a n va data else none with
    | some s => .done s
    | none => send)

def execSt (h : Hdr) (pol : Policy) (_scope : Scope) (size : Size) (d b : Fin 32) (off : BitVec 18) (s : State) : Out :=
  .next (s.issue .S h {} (s.core.busyFor (sRegs [d, b])) (fun s =>
    let n := sizeBytes size
    s.storeGlobal .S pol n (baseOffset (s.core.readS b) off) ((s.core.readS d).toNat % 2 ^ (8 * n))))

/-! ### Releases and acquires (R227, R228, R243, R283) -/

/-- The identity below which an engine's requests precede a point of engine `e` in program order or by what it has acquired
(R228). -/
def State.bound (s : State) (e : Engine) (till : Nat) (f : Engine) : Nat := if f = e then till else min till ((s.core.clock e).get f)
/-- Whether every access of an instruction before a point of the engine has finished, every RED of them being performed. -/
def State.settled (s : State) (e : Engine) (till : Nat) : Bool :=
  let early (f : Engine) (id : Nat) : Bool := decide (id < s.bound e till f)
  !s.coh.reqs.any (fun r => r.core == s.cur && r.kind != .writeback && r.size != 64 && early r.eng r.since)
    && !s.core.flights.any (fun f => early f.eng f.id) && !s.coh.weir.any (fun w => w.core == s.cur && early w.eng w.since)
/-- Whether every access before a point of the engine has finished, C's transfers too. -/
def State.quiet (s : State) (e : Engine) (till : Nat) : Bool :=
  s.settled e till && (e != .C || !s.core.journal.any (fun j => decide (j.id < till)))
/-- Whether what the core sent home before a point has been applied and acknowledged (R243). -/
def State.flushed (s : State) (till : Nat) : Bool :=
  !s.coh.reqs.any (fun r => r.core == s.cur && r.kind == .writeback && decide (r.id < till))
    && !s.coh.invals.any (fun i => i.writer == some s.cur && decide (i.req.getD 0 < till))
/-- Whether the core owes nothing to its homes: no dirty word, no write-back under way, no acknowledgement owed. -/
def State.released (s : State) : Bool := (s.core.dirtyWords (fun _ => true)).isEmpty && s.flushed s.nextId
/-- Whether the release of an engine at a scope, issued at a point, is complete: its write-backs were sent at its issue. -/
def State.releaseReady (s : State) (e : Engine) (scope : Scope) (till : Nat) : Bool :=
  s.quiet e till && (scope == .core || s.flushed till)
/-- Whether a release may complete now. -/
def State.mayRelease (s : State) (e : Engine) (scope : Scope) : Bool :=
  s.quiet e s.nextId && (scope == .core || s.released)
/-- What a release sends (R243). -/
def State.pushRelease (s : State) (scope : Scope) : State := if scope = .core then s else s.writebackAll s.cur
def State.acquire (s : State) (scope : Scope) : State := if scope = .core then s else s.acquireNow s.cur

/-- An instruction in flight that awaits no answer of a home: its own conditions end it. -/
def State.await (s : State) (e : Engine) (kind : FlightKind) : Nat × State :=
  let (id, s) := s.fresh
  let f : Flight :=
    { id, eng := e, pc := (s.eng e).pc, kind, parts := [{ req := 0, idx := 0, got := none }], inTrap := s.core.trap.mode }
  (id, s.modCore (fun c => { c with flights := c.flights ++ [f] }))
/-- Such an instruction finished. -/
def State.endFlight (s : State) (f : Flight) : State :=
  (s.modCore (fun c => { c with flights := c.flights.filter (fun g => g.id != f.id) })).finishSig f.eng f.id

/-- The engine's data-area accesses known to have finished: a completed release ends their footprints (R238, R283). -/
def State.endFootprints (s : State) (e : Engine) : State := if e = .C then s else s.modCore (fun c => { c with checker := c.othersInFlight e })

/-- Whether the release of an instruction in flight is complete: all that precedes it is performed, and what it then sent home is
applied and acknowledged. -/
def State.flightReleased (s : State) (f : Flight) (scope : Scope) : Bool :=
  s.quiet f.eng f.id && (scope == .core || (match f.pushed with | some p => s.flushed p | none => false))
/-- The write-backs of such a release, sent once all that precedes it is performed (R243). -/
def State.pushFlight (s : State) (f : Flight) (scope : Scope) : State :=
  if f.pushed.isSome || !s.quiet f.eng f.id then s
  else
    let s := s.pushRelease scope
    s.modCore (fun c => { c with flights := c.flights.map (fun g => if g.id = f.id then { g with pushed := some s.nextId } else g) })

/-! ### The memory instructions of S that wait in flight (R436) -/

/-- The pool's atomic: old value to s[d], new value to the data area. -/
def Core.atomsV (c : Core) (op : Aop) (d : Fin 32) (v : Word64) (o : Nat) : Core :=
  let n := Atomic.bytes op
  let old := ofBytes (c.readData o n)
  let new := Atomic.apply op old (v.toNat % 2 ^ (8 * n))
  (c.writeData o (toBytes n new)).writeS d (BitVec.ofNat 64 old)
def Core.atoms (c : Core) (op : Aop) (d v : Fin 32) (o : Nat) : Core := c.atomsV op d (c.readS v) o

def AtomOrder.isRel : AtomOrder → Bool | .rel | .ar => true | _ => false
def AtomOrder.isAcq : AtomOrder → Bool | .acq | .ar => true | _ => false

/-- The contributor index of a sequenced atomic and its object's NCON, none where it is not sequenced (R278). -/
def State.sequence (s : State) (kind : ReqKind) (va : Nat) (v : Word64) : Option (Nat × Nat) :=
  match kind with
  | .atomic op =>
    if Atomic.isFloat op ∧ (s.detlevel = 1 ∨ s.detlevel = 2) then
      (s.robject (s.spaceOf va) (vaImage va)).map (fun o =>
        (if s.detlevel = 1 then s.core.gangPos else v.toNat / 2 ^ 32, o.ncon))
    else none
  | _ => none
/-- Whether the table that says so can be read now. -/
def State.mayIndex (s : State) (kind : ReqKind) (va : Nat) : Bool :=
  match kind with
  | .atomic op => !(Atomic.isFloat op && (s.detlevel == 1 || s.detlevel == 2)) || s.rotabReady (s.spaceOf va)
  | _ => true
/-- The trap of a contributor index that the object does not have (R278). -/
def badIndex (seq : Option (Nat × Nat)) : Bool := match seq with | some (c, ncon) => decide (ncon ≤ c) | none => false

/-- An atomic performed in place on words that its core owns, the old value in s[d] (R275). -/
def State.atomicOwned (s : State) (kind : ReqKind) (n : Nat) (pol : Policy) (d : Option (Fin 32)) (data a va : Nat) : State :=
  let r : Req := { id := 0, core := s.cur, eng := .S, kind, pol, inv := false, addr := a, size := n, va, ctx := 0, ia := 0,
                   data, wb := [], seq := none, ncon := 0, stage := .done }
  let s := (wordKeys a n).foldl (fun s k => match s.core.l1At k with | some w => s.notePast k w.val | none => s) s
  let (s, old) := s.atomicInPlace r
  match d with | some d => s.setCore (s.core.writeS d (BitVec.ofNat 64 old)) | none => s

/-- One line asked for, or skipped silently: outside the leases, in a layer that is not RESIDENT, or poisoned (R267). -/
def State.prefLine (s : State) (e : Engine) (pc since : Nat) (pol : Policy) (va : Nat) : State :=
  match s.core.lease va 64 false with
  | .error _ => s
  | .ok (i, r) =>
    match s.accessIn e false i r va false with
    | .go a s =>
      if s.poisoned (lineOf a) then s else (s.sendReq e pc since .load (s.core.effPolicy pol) false a 64 va 0 none).2
    | _ => s

/-- Whether the write-backs of a core's line sent before a point are applied and acknowledged, and it owns none of its words any more
(R268). -/
def State.lineFlushed (s : State) (line till : Nat) : Bool :=
  !s.coh.reqs.any (fun r => r.core == s.cur && r.kind == .writeback && lineOf r.addr == line && decide (r.id < till))
    && !s.coh.invals.any (fun i => i.line == line && i.writer == some s.cur && decide (i.req.getD 0 < till))
    && (s.core.ownedWords (inLine line)).isEmpty

/-- What performing a waiting memory instruction comes to; one that is sent names the request that answers it, if one does. -/
inductive Performed where
  | wait (f : State → State)
  | trap (f : State → State) (t : TrapInfo)
  | done (s : State)
  | sent (s : State) (req : Option Nat) (kind : FlightKind) (acq : Option Scope)

/-- A word's effect on the data area as such. -/
def Res.performed : Res → Performed
  | .done s => .done s
  | .trap f t => .trap f t
  | _ => .wait id

/-- An atomic to global memory that issued at the point `till`, `ready` telling whether its release is complete (R270 to R278). -/
def State.performAtomic (s : State) (pc till : Nat) (ready : Bool) (w : AtomicOp) : Performed :=
  match s.access .S w.va w.bytes true with
  | .trap g t => .trap g t
  | .wait g => .wait g
  | .peer _ _ _ _ => .wait id
  | .go a s =>
    let data := w.v.toNat % 2 ^ (8 * w.bytes)
    let seq := s.sequence w.kind w.va w.v
    if !s.free .S till w.va w.bytes a || (w.rel && !ready) || !s.mayIndex w.kind w.va then .wait id
    else if badIndex seq then .trap id (illegal 0x0F)
    else if seq.isNone ∧ s.ownsAll s.cur (wordKeys a w.bytes) then
      match s.l1Fault (wordKeys a w.bytes) with
      | some x => .trap (fun _ => s.logSram .S x) x
      | none =>
        let s := s.atomicOwned w.kind w.bytes w.pol w.d data a w.va
        .done (if w.acq then s.acquire w.scope else s)
    else
      let (id, s) := s.sendReq .S pc till w.kind (s.core.effPolicy w.pol) false a w.bytes w.va data seq
      match w.d with
      | some d => .sent s (some id) (.atom d) (if w.acq then some w.scope else none)
      | none => .done s

/-- FLUSH of the line that holds an address (R268). -/
def State.performFlush (s : State) (till va : Nat) : Performed :=
  match s.access .S va 1 false with
  | .trap g t => .trap g t
  | .wait g => .wait g
  | .peer _ _ _ _ => .wait id
  | .go a s =>
    let line := lineOf a
    if s.ordered .S till || s.sameWord till (lineOf va) 64 line then .wait id
    else if s.renamed va a then .wait (fun s => s.writebackAll s.cur)
    else if !s.core.l1.any (fun e => inLine line e.1) then .done s
    else
      let s := s.evictLine s.cur line true
      if s.lineFlushed line s.nextId then .done s else .sent s none (.flush line) none

/-- The data area's accesses of S: what they wait for, the order checker and the pool's code (R238, R419), then the effect. -/
def State.performData (s : State) (pc till : Nat) (d : Option (Fin 32)) (o n : Nat) (reads writes : Bool) (f : State → State) : Performed :=
  if s.ordered .S till || s.holdsBack .S till || s.samePool till o n then .wait id
  else
    (s.onDataAt .S pc d (if reads then [(o, n)] else []) (if writes then [(o, n)] else []) (fun s => .done (f s))).performed

/-- A memory instruction of S performed as far as it may be. ATOMS orders at core scope: its single step leaves an acquire nothing to do
(R274). -/
def State.perform (s : State) (pc till : Nat) (ready : Bool) : MemOp → Performed
  | .atomic w => s.performAtomic pc till ready w
  | .lds n sext d o =>
    s.performData pc till (some d) o n true false (fun s => s.setCore (s.core.writeS d (extendLoad n sext (ofBytes (s.core.readData o n)))))
  | .sts n o data => s.performData pc till none o n false true (fun s => s.setCore (s.core.writeData o (toBytes n data)))
  | .atoms op rel _ d v o =>
    if rel && !ready then .wait id
    else s.performData pc till (some d) o (Atomic.bytes op) true true (fun s => s.setCore (s.core.atomsV op d v o))
  | .pref pol lines va =>
    if s.ordered .S till then .wait id
    else .done ((List.range lines).foldl (fun s i => s.prefLine .S pc till pol (va + 64 * i)) s)
  | .flush va => s.performFlush till va

/-- Whether an instruction finishes at its issue though it is performed later: RED, which the core's memory interface accepts, and PREF
(R269). -/
def MemOp.accepted : MemOp → Bool
  | .atomic w => w.d.isNone
  | .pref _ _ _ => true
  | _ => false
/-- The scope of an instruction's release. -/
def MemOp.releases : MemOp → Option Scope
  | .atomic w => if w.rel then some w.scope else none
  | .atoms _ rel _ _ _ _ => if rel then some .core else none
  | _ => none

/-- THE ISSUE OF A MEMORY INSTRUCTION OF S that is no LD or ST: performed at once, or in flight until it is (R436). -/
def State.issueOp (s : State) (op : MemOp) : Res :=
  let s := match op.releases with | some scope => s.pushRelease scope | none => s
  let ready := match op.releases with | some scope => s.releaseReady .S scope s.nextId | none => true
  match s.perform (s.eng .S).pc s.nextId ready op with
  | .trap f t => .trap f t
  | .done s => .done s
  | .sent s req kind acq =>
    let (id, s) := match req with | some r => (r, s) | none => s.fresh
    let f : Flight :=
      { id, eng := .S, pc := (s.eng .S).pc, kind, parts := [{ req := req.getD 0, idx := 0, got := none }], acq,
        inTrap := s.core.trap.mode }
    .pend (s.modCore (fun c => { c with flights := c.flights ++ [f] })) id
  | .wait f =>
    let (id, s) := (f s).await .S (.waiting op)
    if op.accepted then .done s else .pend s id

/-! ### The data area: LDS, STS, ATOMS (R261, R266, R271, R274, R276) -/

/-- A data-area access by S: held back by a held contribution alone, its check, then its issue. -/
def State.dataOp (s : State) (o n : Nat) (op : MemOp) : Res :=
  if s.holdsBack .S s.nextId then .stall id
  else
    match s.core.dataCheck o n with
    | some t => .trap id t
    | none => s.issueOp op

def execLds (h : Hdr) (size : Size) (sx : Bool) (d b : Fin 32) (off : BitVec 18) (s : State) : Out :=
  .next (s.issue .S h {} (s.core.busyFor (sRegs [d, b])) (fun s =>
    let n := sizeBytes size
    let o := baseOffset (s.core.readS b) off
    s.dataOp o n (.lds n sx d o)))
def execSts (h : Hdr) (size : Size) (d b : Fin 32) (off : BitVec 18) (s : State) : Out :=
  .next (s.issue .S h {} (s.core.busyFor (sRegs [d, b])) (fun s =>
    let n := sizeBytes size
    let o := baseOffset (s.core.readS b) off
    s.dataOp o n (.sts n o (s.core.readS d).toNat)))
def execAtoms (h : Hdr) (op : Aop) (ord : AtomOrder) (d b v : Fin 32) (off : BitVec 9) (s : State) : Out :=
  .next (s.issue .S h {} (s.core.busyFor (sRegs [d, b, v])) (fun s =>
    let o := baseOffset (s.core.readS b) off
    s.dataOp o (Atomic.bytes op) (.atoms op (AtomOrder.isRel ord) (AtomOrder.isAcq ord) d (s.core.readS v) o)))

/-! ### PREF and FLUSH (R267, R268) -/

def execSPref (h : Hdr) (pol : Policy) (lines : Size) (b : Fin 32) (off : BitVec 18) (s : State) : Out :=
  .next (s.issue .S h {} (s.core.busyFor (sRegs [b])) (fun s =>
    if s.memStall .S || s.noRoom .S (sizeBytes lines) then .stall id
    else s.issueOp (.pref (s.core.effPolicy pol) (sizeBytes lines) (lineOf (baseOffset (s.core.readS b) off)))))

def execFlush (h : Hdr) (b : Fin 32) (off : BitVec 18) (s : State) : Out :=
  .next (s.issue .S h {} (s.core.busyFor (sRegs [b])) (fun s =>
    let va := baseOffset (s.core.readS b) off
    s.withAccess .S va 1 false (fun _ _ => s.issueOp (.flush va))))

/-! ### FENCE (R283) -/

def FenceKind.isRel : FenceKind → Bool | .rel | .ar => true | .acq => false
def FenceKind.isAcq : FenceKind → Bool | .acq | .ar => true | .rel => false

/-- Whether an instruction in flight has still to bring a value back. -/
def Flight.loads (f : Flight) : Bool :=
  match f.kind with
  | .load _ _ _ | .atom _ | .gather _ _ _ => true
  | .waiting (.atomic w) => w.d.isSome
  | .waiting (.lds _ _ _ _) | .waiting (.atoms _ _ _ _ _ _) => true
  | _ => false
/-- Whether a command's transfer reads. -/
def CKind.loads : CKind → Bool
  | .fill | .recv | .wend | .pref | .cflush => false
  | _ => true
/-- Whether every load and atomic of the engine before a point has returned its value. -/
def State.loadsBack (s : State) (e : Engine) (till : Nat) : Bool :=
  !s.core.flights.any (fun f => f.eng == e && decide (f.id < till) && f.loads)
    && (e != .C || !s.core.journal.any (fun j => decide (j.id < till) && j.cmd.kind.loads))

/-- Whether a FENCE of M orders nothing beyond M's own words, which are ordered already (R283). One that takes part in the fence order
carries what M has acquired from the core's other engines (R228, R229; log 106). -/
def idleFence (e : Engine) (kind : FenceKind) (scope : Scope) : Bool := e == .M && !(kind == .ar && (scope == .pkg || scope == .sys))

/-- A FENCE's conditions at a point of its issue. -/
def State.fenceReady (s : State) (e : Engine) (kind : FenceKind) (scope : Scope) (till : Nat) : Bool :=
  idleFence e kind scope
    || ((!FenceKind.isRel kind || s.releaseReady e scope till) && (!FenceKind.isAcq kind || s.loadsBack e till))
/-- Those of one in flight. -/
def State.fenceDone (s : State) (f : Flight) (kind : FenceKind) (scope : Scope) : Bool :=
  (!FenceKind.isRel kind || s.flightReleased f scope) && (!FenceKind.isAcq kind || s.loadsBack f.eng f.id)
/-- What a FENCE's end does: its acquire, and the end of its engine's footprints. -/
def State.fenced (s : State) (e : Engine) (kind : FenceKind) (scope : Scope) : State :=
  let s := if FenceKind.isAcq kind then s.acquire scope else s
  if FenceKind.isRel kind then s.endFootprints e else s

/-- FENCE: a release sends its write-backs, and the FENCE finishes when its conditions are met, its engine's later accesses
waiting for it. -/
def State.fence (s : State) (e : Engine) (kind : FenceKind) (scope : Scope) : Res :=
  let s := if FenceKind.isRel kind ∧ !idleFence e kind scope then s.pushRelease scope else s
  if s.fenceReady e kind scope s.nextId then .done (s.fenced e kind scope)
  else
    let (id, s) := s.await e (.fence kind scope)
    .pend s id
def execFence (e : Engine) (h : Hdr) (kind : FenceKind) (scope : Scope) (s : State) : Out :=
  .next (s.issue e h {} false (fun s => if s.holdsBack e s.nextId then .stall id else s.fence e kind scope))

/-! ### What instructions in flight do in their engine's later turns -/

/-- A waiting memory instruction tried again. -/
def State.retryOp (s : State) (f : Flight) (op : MemOp) : State :=
  let ready := match op.releases with | some scope => s.flightReleased f scope | none => true
  match s.perform f.pc f.id ready op with
  | .wait g => g s
  | .done s => s.endFlight f
  | .trap g t => ((g s).dropFlight f).lateTrap .S f.inTrap f.pc t
  | .sent s req kind acq =>
    s.modCore (fun c => { c with flights := c.flights.map (fun g =>
      if g.id = f.id then { g with kind, parts := [{ req := req.getD 0, idx := 0, got := none }], acq } else g) })
/-- The accesses of a load, store, gather or scatter that are still to be sent tried again. -/
def State.retryParts (s : State) (f : Flight) : State :=
  match s.sendParts f with
  | .error (s, t) => (s.dropFlight f).lateTrap f.eng f.inTrap f.pc t
  | .ok (s, ps) =>
    let f := { f with parts := ps }
    let s := s.modCore (fun c => { c with flights := c.flights.map (fun g => if g.id = f.id then f else g) })
    if f.complete then s.finishFlight f else s

/-- What an engine's instructions in flight that wait for conditions of their own do once these are met, in program order. -/
def State.progress (s : State) (e : Engine) : State :=
  (s.core.flights.filter (fun f => f.eng == e)).foldl (fun s f =>
    match s.core.flights.find? (fun g => g.id == f.id) with
    | none => s
    | some f =>
      match f.kind with
      | .fence kind scope =>
        let s := if FenceKind.isRel kind then s.pushFlight f scope else s
        (match s.core.flights.find? (fun g => g.id == f.id) with
         | some f => if s.fenceDone f kind scope then (s.fenced e kind scope).endFlight f else s
         | none => s)
      | .flush line =>
        if s.lineFlushed line f.id then s.endFlight f
        else if (s.core.ownedWords (inLine line)).isEmpty then s else s.evictLine s.cur line true
      | .waiting op =>
        let s := match op.releases with | some scope => s.pushFlight f scope | none => s
        (match s.core.flights.find? (fun g => g.id == f.id) with | some f => s.retryOp f op | none => s)
      | .load _ _ _ | .store | .gather _ _ _ | .scatter => if f.parts.any (fun p => p.todo.isSome) then s.retryParts f else s
      | .atom _ => s) s

/-! ### ATOM, RED, CAS (R270 to R278) -/

/-- An atomic to global memory; `d` is none for RED. -/
def State.atomicGlobal (s : State) (kind : ReqKind) (n : Nat) (pol : Policy) (scope : Scope) (ord : AtomOrder) (d : Option (Fin 32))
    (v : Fin 32) (va : Nat) : Res :=
  let pol := s.core.effPolicy pol
  let w : AtomicOp :=
    { kind, bytes := n, pol, scope, rel := AtomOrder.isRel ord, acq := AtomOrder.isAcq ord, d, v := s.core.readS v, va }
  s.withAccess .S va n true (fun a t =>
    if t.mayIndex kind va && badIndex (t.sequence kind va w.v) then .trap id (illegal 0x0F)
    else if t.free .S t.nextId va n a && !t.ownsAll t.cur (wordKeys a n) && t.poisoned (lineOf a) then t.poisonTrap .S a va
    else s.issueOp (.atomic w))

def execAtom (h : Hdr) (op : Aop) (pol : Policy) (scope : Scope) (ord : AtomOrder) (d b v : Fin 32) (off : BitVec 9) (s : State) :
    Out :=
  .next (s.issue .S h {} (s.core.busyFor (sRegs [d, b, v])) (fun s =>
    s.atomicGlobal (.atomic op) (Atomic.bytes op) pol scope ord (some d) v (baseOffset (s.core.readS b) off)))
def execRed (h : Hdr) (op : Aop) (pol : Policy) (scope : Scope) (rel : Bool) (b v : Fin 32) (off : BitVec 9) (s : State) : Out :=
  .next (s.issue .S h {} (s.core.busyFor (sRegs [b, v])) (fun s =>
    s.atomicGlobal (.atomic op) (Atomic.bytes op) pol scope (if rel then .rel else .none) none v
      (baseOffset (s.core.readS b) off)))
def execCas (h : Hdr) (w64 : Bool) (pol : Policy) (scope : Scope) (ord : AtomOrder) (d b v : Fin 32) (off : BitVec 9) (s : State) :
    Out :=
  .next (s.issue .S h {} (s.core.busyFor (sRegs [d, b, v])) (fun s =>
    let n := if w64 then 8 else 4
    s.atomicGlobal (.cas ((s.core.readS d).toNat % 2 ^ (8 * n))) n pol scope ord (some d) v (baseOffset (s.core.readS b) off)))

end Sys2Proof.Machine
end

