-- ==== Sys2Proof/Machine/Tmr.lean ====
section
/-! DEFINITION. Tensor metadata records: versions, coverage, statistics and publications (spec/08 R190 to R217). -/

namespace Sys2Proof.Machine

/-! ### The record (R190, R191): its 256 bytes as one little-endian number -/

def tget (t off lo w : Nat) : Nat := bits t (8 * off + lo) w
def tput (t off lo w v : Nat) : Nat := t - tget t off lo w * 2 ^ (8 * off + lo) + v % 2 ^ w * 2 ^ (8 * off + lo)

namespace Tmr

def policy (t : Nat) : Nat := tget t 0 4 4
def trig (t : Nat) : Nat := tget t 0 8 8
def trigEn (t : Nat) : Bool := tget t 0 16 1 == 1
def swhold (t : Nat) : Bool := tget t 0 17 1 == 1
def held (t : Nat) : Nat := tget t 0 18 2
def pend (t : Nat) : Bool := tget t 0 21 1 == 1
def seq (t : Nat) : Nat := tget t 0 32 16
def horizon (t : Nat) : Nat := tget t 0 48 16
def pubt (t : Nat) : Nat := tget t 8 0 64
def lines (t : Nat) : Nat := tget t 0x10 0 32
def cover (t : Nat) : Nat := tget t 0x14 0 32
def base (t : Nat) : Int := signedOf 8 (tget t 0x18 0 8)
def swcnt (t : Nat) : Nat := tget t 0x19 0 4
def swtgt (t : Nat) : Nat := tget t 0x19 4 2
def heldslot (t : Nat) : Nat := tget t 0x1C 0 32
/-- The image in version v's slot. -/
def slot (t v : Nat) : Nat := tget t (0x20 + 4 * (v % 16)) 0 32
def hist (t j : Nat) : Nat := tget t (0x60 + 4 * j) 0 32
def ovf (t : Nat) : Nat := tget t 0xE0 0 32
def ufz (t : Nat) : Nat := tget t 0xE8 0 32
def elems (t : Nat) : Nat := tget t 0xF0 0 64
def blocks (t : Nat) : Nat := tget t 0xF8 0 32
def wideblk (t : Nat) : Nat := tget t 0xFC 0 32

def setHeld (t v : Nat) : Nat := tput t 0 18 2 v
def setPend (t : Nat) (b : Bool) : Nat := tput t 0 21 1 b.toNat
def setSwhold (t : Nat) (b : Bool) : Nat := tput t 0 17 1 b.toNat
def setBadpol (t : Nat) (b : Bool) : Nat := tput t 0 20 1 b.toNat
def setCover (t v : Nat) : Nat := tput t 0x14 0 32 v
def setHorizon (t v : Nat) : Nat := tput t 0 48 16 v

/-- Whether version v is live (R199). -/
def live (t v : Nat) : Bool := decide ((seq t + 2 ^ 16 - v) % 2 ^ 16 ≤ (seq t + 2 ^ 16 - horizon t) % 2 ^ 16)
/-- Whether v's slot holds it with a valid image (R195, R198). -/
def holds (t v : Nat) : Bool := imageSeq (slot t v) == v && !imageInvalid (slot t v)
/-- The version a line's tag resolves to (R198). -/
def resolve (t : Nat) (tag : BitVec 4) : Option Nat :=
  let v := (seq t + 2 ^ 16 - (seq t % 16 + 16 - tag.toNat) % 16) % 2 ^ 16
  if live t v ∧ holds t v then some v else none

/-- Bytes 0x00 to 0x07, whose reserved bits read as zero (R10, R216). -/
def header (t : Nat) : Nat := tput (tput (tget t 0 0 64) 0 3 1 0) 0 22 10 0

/-- Counts added with saturation (R201). -/
def merge (t : Nat) (c : Counts) : Nat :=
  let add (t off w v : Nat) : Nat := tput t off 0 w (min (tget t off 0 w + v) (2 ^ w - 1))
  let t := c.hist.zipIdx.foldl (fun t h => add t (0x60 + 4 * h.2) 32 h.1) t
  let t := add (add (add (add t 0xE0 32 c.ovf) 0xE4 32 c.sat) 0xE8 32 c.ufz) 0xEC 32 c.nanInf
  add (add (add t 0xF0 64 c.elems) 0xF8 32 c.blocks) 0xFC 32 c.wideblk

/-- Decay of every count but COVER (R206). -/
def decay (t d : Nat) : Nat :=
  let f (c : Nat) : Nat := match d with | 0 => c | 1 => 3 * c / 4 | 2 => c / 2 | _ => 0
  let at32 (t off : Nat) : Nat := tput t off 0 32 (f (tget t off 0 32))
  let t := (List.range 32).foldl (fun t j => at32 t (0x60 + 4 * j)) t
  let t := [0xE0, 0xE4, 0xE8, 0xEC, 0xF8, 0xFC].foldl at32 t
  tput t 0xF0 0 64 (f (tget t 0xF0 0 64))

end Tmr

/-- TENSOR_MIXED_VERSION with its fields (R198). -/
def mixedVersion (tmr first second : Nat) : TrapInfo := { cause := 5, info := tmr + 2 ^ 20 * first + 2 ^ 36 * second }
def noVersion : Nat := 0xFFFF

/-- The lease fault of R190, none for an index that names a TMR. -/
def State.tmrFault (s : State) (ctx idx : Nat) : Option TrapInfo :=
  if idx = 0 ∨ (s.ctxOf ctx).tmrcount ≤ idx then some (leaseFault 0x06 idx) else none
def State.tmrIa (s : State) (ctx idx : Nat) : Nat := (s.ctxOf ctx).tmrtab + 256 * idx

/-- A TMR as its home holds it, or the fault of reaching it (R389, R417). -/
def State.tmrLoad (s : State) (ctx idx : Nat) : Except TrapInfo Nat :=
  match s.tmrFault ctx idx with
  | some t => .error t
  | none =>
    let ia := s.tmrIa ctx idx
    match s.unitAddr ctx ia with
    | none => .error (leaseFault 0x07 ia)
    | some a =>
      if (List.range 4).any (fun i => s.poisoned (lineOf a + 64 * i)) then .error (uncorrectable 0x01 ia)
      else .ok (ofBytes ((List.range 4).flatMap (fun i => s.withPosted (a + 64 * i) (s.readNow (a + 64 * i) 64))))
def State.tmr (s : State) (ctx idx : Nat) : Nat := match s.tmrLoad ctx idx with | .ok t => t | .error _ => 0
/-- Whether a TMR's record can be read now, as a .wi load reads it: a copy that the core's TMR cache holds, or its lines at their home
(R218, R219, R392). -/
def State.tmrReadable (s : State) (ctx idx : Nat) : Bool :=
  (s.tmrFault ctx idx).isSome || (match s.unitAddr ctx (s.tmrIa ctx idx) with | some a => s.core.tmrCache.contains a | none => false)
    || s.unitReady ctx (s.tmrIa ctx idx) 256
/-- What such a read does beside answering: its walk, the lines' decoding, and the record of the poison that an engine meets (R388,
R416, R417). -/
def State.tmrTouch (s : State) (e : Engine) (ctx idx : Nat) : State :=
  if (s.tmrFault ctx idx).isSome then s
  else
    let s := (s.walked ctx (s.tmrIa ctx idx) (agentCore s.cur e)).unitTouch ctx (s.tmrIa ctx idx) 256
    match s.unitAddr ctx (s.tmrIa ctx idx) with
    | some a =>
      (match ((List.range 4).map (fun i => lineOf a + 64 * i)).find? s.poisoned with
       | some l => s.logConsumed s.cur e l
       | none => s)
    | none => s
/-- Whether a TMR takes an update now: its page is not locked, and its lines take a unit's write (R210, R248, R255). -/
def State.tmrReady (s : State) (ctx idx : Nat) : Bool :=
  (s.tmrFault ctx idx).isSome || (match s.translate ctx ctx (s.tmrIa ctx idx) false with
    | .addr a => (List.range 4).all (fun i => s.writable (lineOf a + 64 * i))
    | .locked => false
    | _ => true)
/-- The host snooped for the lines of a TMR that waits. -/
def State.tmrSnoop (s : State) (ctx idx : Nat) : State :=
  match s.translate ctx ctx (s.tmrIa ctx idx) false with
  | .addr a => (List.range 4).foldl (fun s i => s.snoopFor (lineOf a + 64 * i) true) s
  | _ => s
def State.tmrQueued (s : State) (ctx idx : Nat) : Bool := s.coh.tmrs.any (fun p => p.ctx == ctx && p.idx == idx)
/-- An indivisible update of a TMR at its home (R210), which its lines take now. -/
def State.setTmr (s : State) (ctx idx t : Nat) : State := s.unitWrite ctx (s.tmrIa ctx idx) (toBytes 256 t)
def State.modTmr (s : State) (ctx idx : Nat) (f : Nat → Nat) : State :=
  match s.tmrLoad ctx idx with | .ok t => s.setTmr ctx idx (f t) | .error _ => s
/-- The die whose governor serves a TMR (R190). -/
def State.tmrDie (s : State) (ctx idx : Nat) : Nat := match s.unitAddr ctx (s.tmrIa ctx idx) with | some a => s.homeDie a | none => 0

/-- A core's TMR cache of 8 entries (R219): a copy registers as a sharer of the record's lines (R254). A ninth takes the place of
the one that entered first (log 87). -/
def State.cacheTmr (s : State) (ctx idx : Nat) : State :=
  let s' := s.tmrTouch .V ctx idx
  match s.unitAddr ctx (s.tmrIa ctx idx) with
  | none => s'
  | some a =>
    if s.core.tmrCache.contains a then s
    else
      let s := s'.modCore (fun c => { c with tmrCache := a :: c.tmrCache.take 7 })
      (List.range 4).foldl (fun s i =>
        s.modDir (a + 64 * i) (fun d => d.register (s.homeDie a) s.cur)) s

/-! ### Policies (R203, R204) -/

structure Policy204 where
  margin : Nat
  decay : Nat
  e4 : Bool
  e5 : Bool
  mx : Bool
  hystW : Nat
  hystN : Nat
  ovfLim : Nat
  faultLim : Nat
  ufLim : Nat
  sigLim : Nat
  bsLim : Nat
  mxblk : Nat
  valid : Bool
  deriving DecidableEq, Repr

/-- Policy record j of a context; one that cannot be read is invalid. -/
def State.policy (s : State) (ctx j : Nat) : Policy204 :=
  let p := match s.unitBytes ctx ((s.ctxOf ctx).tmrtab + 16 * j) 16 with | some bs => ofBytes bs | none => 2 ^ 127
  { margin := bits p 0 3, decay := bits p 3 2, e4 := bits p 5 1 == 1, e5 := bits p 6 1 == 1, mx := bits p 7 1 == 1,
    hystW := bits p 8 4, hystN := bits p 12 4, ovfLim := bits p 16 16, faultLim := bits p 32 16, ufLim := bits p 48 16,
    sigLim := bits p 64 16, bsLim := bits p 80 16, mxblk := bits p 96 1,
    valid := (bits p 5 2 != 0) && bits p 97 31 == 0 }

/-- Where policy record j lies; whether it can be read now, and what the read does beside answering (R248, R388, R416). -/
def State.policyIa (s : State) (ctx j : Nat) : Nat := (s.ctxOf ctx).tmrtab + 16 * j
def State.policyReady (s : State) (ctx j : Nat) : Bool := s.unitReady ctx (s.policyIa ctx j) 16
def State.policyTouch (s : State) (ctx j : Nat) : State := s.unitTouch ctx (s.policyIa ctx j) 16

/-! ### Publication and retirement (R199, R207, R208) -/

/-- Whether a task of the context bound before PUBT is still bound, running or pre-empted. -/
def State.olderBound (s : State) (ctx pubt : Nat) : Bool :=
  s.tasks.any (fun e => e.2.ctx == ctx && (e.2.st == .launching || e.2.st == .running || e.2.st == .preempted)
    && decide (e.2.bindTime < pubt))

/-- The outcomes of GOVEVAL's status (R215). -/
inductive GovOutcome where
  | unchanged | published | heldSlot | heldOlder | heldSw | badPolicy
  deriving DecidableEq, Repr
def GovOutcome.code : GovOutcome → Nat
  | .unchanged => 0 | .published => 1 | .heldSlot => 2 | .heldOlder => 3 | .heldSw => 4 | .badPolicy => 5

/-- propose(x, f, blk, σ, v) on the record's image (R207). -/
def State.proposeImage (s : State) (ctx t img : Nat) : Nat × GovOutcome :=
  let v := imageSeq img
  let hold (n : Nat) : Nat := tput (Tmr.setHeld t n) 0x1C 0 32 img
  if Tmr.swhold t then (hold 3, .heldSw)
  else if 16 ≤ (v + 2 ^ 16 - Tmr.horizon t) % 2 ^ 16 then (hold 1, .heldSlot)
  else if s.olderBound ctx (Tmr.pubt t) then (hold 2, .heldOlder)
  else
    let t := tput t (0x20 + 4 * (v % 16)) 0 32 img
    let t := tput (tput t 0 32 16 v) 8 0 64 s.time
    let t := tput (Tmr.setCover t 0) 0 0 2 (bits img 10 2)
    (Tmr.setHeld (tput t 0 2 1 (bits img 12 1)) 0, .published)

/-- The held result proposed again. -/
def State.repropose (s : State) (ctx t : Nat) : Nat := (s.proposeImage ctx t (Tmr.heldslot t)).1

/-- Retirement where its condition holds, then the publication it held back (R199). `left` tells that a task has left its
cores, which by itself proposes a held result again (R208). -/
def State.settleTmr (s : State) (ctx idx : Nat) (left : Bool) : State :=
  match s.tmrLoad ctx idx with
  | .error _ => s
  | .ok t =>
    let retire := Tmr.cover t = Tmr.lines t ∧ !s.olderBound ctx (Tmr.pubt t) ∧ Tmr.horizon t ≠ Tmr.seq t
    let t1 := if retire then Tmr.setHorizon t (Tmr.seq t) else t
    let s := if retire then { s with rcv := { s.rcv with retired := s.rcv.retired + 1 } } else s
    let h := Tmr.held t1
    let t2 := if (retire ∧ (h = 1 ∨ h = 2)) ∨ (left ∧ h ≠ 0) then s.repropose ctx t1 else t1
    if t2 = t then s else s.setTmr ctx idx t2

/-! ### Updates at the home (R193, R197, R199, R201, R208, R210) -/

/-- COVER after a line of a TMR has taken a version's tag in place of an old one. A record that cannot be read keeps its COVER (log
88). -/
def State.coverUpdate (s : State) (old : BitVec 4) (ctx idx v : Nat) : State :=
  let new := BitVec.ofNat 4 v
  match s.tmrLoad ctx idx with
  | .error _ => s
  | .ok t =>
    let c := BitVec.ofNat 4 (Tmr.seq t)
    if old ≠ c ∧ new = c then (s.setTmr ctx idx (Tmr.setCover t (Tmr.cover t + 1))).settleTmr ctx idx false
    else if old = c ∧ new ≠ c then (s.setTmr ctx idx (Tmr.setCover t (Tmr.cover t + 2 ^ 32 - 1))).settleTmr ctx idx false
    else s

/-- Pending counts merged into their TMR. DESIGN CHOICE: counts whose record cannot be read, its page unmapped or a line of it poisoned,
are dropped; R201 says nothing of that (log 103). -/
def State.mergeCounts (s : State) (ctx idx : Nat) (c : Counts) : State := s.modTmr ctx idx (fun t => Tmr.merge t c)

/-- An update of a record that takes it now. -/
def State.applyTmr (s : State) (p : TmrTask) : State :=
  match p.act with
  | .merge _ c => s.mergeCounts p.ctx p.idx c
  | .cover old v => s.coverUpdate old p.ctx p.idx v
  | .hold _ => s.modTmr p.ctx p.idx (fun t => Tmr.setSwhold t true)
  | .release _ =>
    s.modTmr p.ctx p.idx (fun t => let t := Tmr.setSwhold t false; if Tmr.held t = 3 then s.repropose p.ctx t else t)
  | .ask => s.modTmr p.ctx p.idx (fun t => Tmr.setPend t true)
  | .pend scope => s.modTmr p.ctx p.idx (fun t => if Tmr.trigEn t ∧ Tmr.trig t = scope then Tmr.setPend t true else t)
  | .settle left => s.settleTmr p.ctx p.idx left

/-- An update of a TMR at its home: performed at once, in one step, or in its turn once the record's lines take it (R210). -/
def State.updateTmr (s : State) (ctx idx : Nat) (act : TmrUpdate) : State :=
  let p : TmrTask := { ctx, idx, act }
  if s.tmrReady ctx idx && !s.tmrQueued ctx idx then s.applyTmr p
  else State.tmrSnoop { s with coh := { s.coh with tmrs := s.coh.tmrs ++ [p] } } ctx idx
/-- The updates that waited tried again in order. -/
def State.drainTmrs (s : State) : State :=
  if s.coh.tmrs.isEmpty then s
  else s.coh.tmrs.foldl (fun s p => s.updateTmr p.ctx p.idx p.act) { s with coh := { s.coh with tmrs := [] } }

/-- After a task of a context has left its cores (R199, R208). -/
def State.settleContext (s : State) (ctx : Nat) : State :=
  (List.range (s.ctxOf ctx).tmrcount).foldl (fun s i => if i = 0 then s else s.updateTmr ctx i (.settle true)) s

/-! ### The write version (R196, R215) -/

def State.boundAt (s : State) : Nat := match s.task? with | some t => t.bindTime | none => 0

/-- The task's write version of a TMR on the current core, kept from its first use. -/
def State.writeVersion (s : State) (idx t : Nat) : Nat :=
  match s.core.stats.find? (fun x => x.tmr == idx && x.rebound.isSome) with
  | some x => x.rebound.getD 0
  | none =>
    match s.core.versions.find? (fun x => x.1 == idx) with
    | some x => x.2
    | none => if Tmr.pubt t ≤ s.boundAt then Tmr.seq t else (Tmr.seq t + 2 ^ 16 - 1) % 2 ^ 16
def State.keepVersion (s : State) (idx v : Nat) : State :=
  if s.core.versions.any (fun x => x.1 == idx) then s else s.modCore (fun c => { c with versions := (idx, v) :: c.versions })

/-- The write version's scale, or the mixed-version fault of an invalid slot (R195). -/
def State.writeScale (s : State) (idx t : Nat) : Except TrapInfo (Nat × Scale) :=
  let v := s.writeVersion idx t
  if imageInvalid (Tmr.slot t v) then .error (mixedVersion idx noVersion v) else .ok (v, imageScale (Tmr.slot t v))

/-! ### The statistics unit (R201, R215) -/

/-- A slot's counts merged, the slot kept where it is rebound. -/
def State.mergeSlot (s : State) (core idx : Nat) : State :=
  let c := s.coreAt core
  match c.stats.find? (fun x => x.tmr == idx), c.task.bind (SMap.find? s.tasks) with
  | some x, some t =>
    let s := s.updateTmr t.ctx idx (.merge core x.counts)
    s.modCoreAt core (fun c => { c with stats := c.stats.filterMap (fun y =>
      if y.tmr = idx then (if y.rebound.isSome then some { y with counts := {} } else none) else some y) })
  | _, _ => s
def State.mergeAll (s : State) (core : Nat) : State :=
  ((s.coreAt core).stats.map (·.tmr)).foldl (fun s i => s.mergeSlot core i) s

/-- Counts fed to the current core's unit: into the TMR's slot, a free one, the least recently fed one after its merge, or
directly into the record where all are pinned. -/
def State.feed (s : State) (idx : Nat) (c : Counts) : State :=
  let ctx := s.taskCtx
  match s.core.stats.find? (fun x => x.tmr == idx) with
  | some x =>
    s.modCore (fun k => { k with stats := k.stats.filter (fun y => y.tmr != idx) ++ [{ x with counts := x.counts.add c }] })
  | none =>
    let add (s : State) : State := s.modCore (fun k => { k with stats := k.stats ++ [{ tmr := idx, counts := c }] })
    if s.core.stats.length < 8 then add s
    else
      match s.core.stats.find? (fun x => x.rebound.isNone) with
      | some x => add (s.mergeSlot s.cur x.tmr)
      | none => s.updateTmr ctx idx (.merge s.cur c)
/-- Whether feeding counts would merge them directly into a record that does not take an update now: the instruction waits (R215). -/
def State.feedWaits (s : State) (idx : Nat) : Bool :=
  !s.core.stats.any (fun x => x.tmr == idx || x.rebound.isNone) && decide (8 ≤ s.core.stats.length)
    && !(s.tmrReady s.taskCtx idx && !s.tmrQueued s.taskCtx idx)

/-- Whether every engine of a core has ended and nothing of it is in flight. -/
def Core.allDone (c : Core) : Bool :=
  Engine.all.all (fun e => (c.eng e).ended) && c.journal.isEmpty && c.flights.isEmpty && c.unit.isNone && c.phase.isNone
    && !c.trap.mode

/-- STATS_MERGE: at task end or before a save, one slot of a core merged (R201); a rebound slot stays with no counts. An eviction's
and a GOVEVAL's merges are their own instructions'. -/
def State.statsMerge (s : State) (core slot : Nat) : State :=
  let c := s.coreAt core
  match c.stats[slot]? with
  | some x => if c.allDone || (c.preempt.isSome && !c.started) then s.mergeSlot core x.tmr else s
  | none => s
def execStatsMerge (core slot : Nat) (s : State) : Out := .next (s.statsMerge core slot)

/-! ### Evaluation (R205, R206) -/

/-- scalefor(2^e, f, margin): a scale code. -/
def scaleFor (m : Nat × Nat) (fmt margin : Nat) : Nat :=
  let maxfin := match fmt with | 0 => 448 | 1 => 57344 | _ => 6
  -- M ÷ σ ≤ maxfin × 2^−margin, that is M × 2^margin ≤ maxfin × σ
  min (leastCode (fun c => fracLeTimes (m.1 * 2 ^ margin, m.2) maxfin (decodeVal .e8f2 c))) 1019
def pow2Frac (e : Int) : Nat × Nat := if 0 ≤ e then (2 ^ e.toNat, 1) else (1, 2 ^ (-e).toNat)

/-- The format the ladder of R206 chooses; `fc` is none for an invalid slot. -/
def ladder (p : Policy204) (blockok wide narrow : Bool) (fc : Option Nat) : Nat :=
  if p.mx && blockok then 2
  else if wide && p.e5 then 1
  else if narrow && p.e4 then 0
  else
    match fc with
    | some 0 => if p.e4 then 0 else 1
    | some 1 => if p.e5 then 1 else 0
    | _ => if p.e4 then 0 else 1

/-- evaluate(x) on a record's image: the record after it and its outcome (R195, R206). The hysteresis holds for a forbidden MXFP4
too, which R194 has the governor leave at its next publication (log 89). -/
def State.evaluateImage (s : State) (ctx t0 : Nat) : Nat × GovOutcome :=
  let pol := s.policy ctx (Tmr.policy t0)
  if !pol.valid then (Tmr.setBadpol t0 true, .badPolicy)
  else
    let t := Tmr.setBadpol t0 false
    let n := Tmr.elems t
    if n = 0 then (Tmr.decay t pol.decay, .unchanged)
    else
      let cur := Tmr.slot t (Tmr.seq t)
      let bad := imageInvalid cur
      let fc : Option Nat := if bad then none else some (bits cur 10 2)
      let bc := if bad then 0 else bits cur 12 1
      let σc := if bad then 0x1FC else bits cur 0 10
      let sig := (List.range 32).filter (fun j => Tmr.hist t j != 0 && decide (pol.sigLim * n ≤ Tmr.hist t j * 65536))
      let h := sig.max?
      let span := match sig.max?, sig.min? with | some a, some b => a - b | _, _ => 0
      let uf := decide (pol.ufLim * n < Tmr.ufz t * 65536)
      let ovf := decide (pol.ovfLim * n < Tmr.ovf t * 65536)
      let blockok := Tmr.blocks t != 0 && decide (Tmr.wideblk t * 65536 ≤ pol.bsLim * Tmr.blocks t)
      let want := ladder pol blockok (uf || decide (17 ≤ span)) (!uf && decide (span ≤ 13)) fc
      -- hysteresis (R206); not applied where the current slot is invalid (R195)
      let (t, f) : Nat × Nat :=
        match fc with
        | none => (tput t 0x19 0 4 0, want)
        | some c =>
          if want = c then (tput t 0x19 0 4 0, want)
          else
            let t := if want ≠ Tmr.swtgt t then tput (tput t 0x19 4 2 want) 0x19 0 4 0 else t
            let cnt := min (Tmr.swcnt t + 1) 15
            let need := max (if want = 1 then pol.hystW else pol.hystN) 1
            if need ≤ cnt then (tput t 0x19 0 4 0, want) else (tput t 0x19 0 4 cnt, c)
      let blk := if f = 2 then pol.mxblk else 0
      let σ := match h with | none => σc | some j => scaleFor (pow2Frac ((j : Int) - 15 + Tmr.base t)) f pol.margin
      let σ :=
        if ovf then
          let twice := match decodeVal .e8f2 σc with
            | .fin _ a b => min (leastCode (fun c => fracLeTimes (2 * a, b) 1 (decodeVal .e8f2 c))) 1019
            | _ => 1019
          max σ twice
        else σ
      let t := Tmr.decay t pol.decay
      let t := match h with
        | some j =>
          if 28 ≤ j ∨ j ≤ 3 then
            let b := min (max (Tmr.base t + j - 16) (-128)) 127
            (List.range 32).foldl (fun t j => tput t (0x60 + 4 * j) 0 32 0) (tput t 0x18 0 8 (codeOfInt 8 b))
          else t
        | none => t
      if fc = some f ∧ blk = bc ∧ σ = σc then (if Tmr.held t ≠ 3 then Tmr.setHeld t 0 else t, .unchanged)
      else s.proposeImage ctx t (imageOf f blk σ (Tmr.seq t + 1))

/-- An evaluation at the TMR's home. DESIGN CHOICE: of a record that cannot be read it answers 'unchanged', with SEQ and HORIZON zero;
R215 says nothing of that (log 103). -/
def State.evaluate (s : State) (ctx idx : Nat) : State × GovOutcome :=
  match s.tmrLoad ctx idx with
  | .error _ => (s.unitTouch ctx (s.tmrIa ctx idx) 256, .unchanged)
  | .ok t =>
    let r := s.evaluateImage ctx t
    let s := s.policyTouch ctx (Tmr.policy t)
    (if r.1 = t then s else s.setTmr ctx idx r.1, r.2)

/-- A finish scope's completion makes the TMRs that it triggers pending (R205). -/
def State.triggerScope (s : State) (ctx scope : Nat) : State :=
  (List.range (s.ctxOf ctx).tmrcount).foldl (fun s i =>
    if i = 0 then s
    else
      match s.tmrLoad ctx i with
      | .ok t => if Tmr.trigEn t ∧ Tmr.trig t = scope then s.updateTmr ctx i (.pend scope) else s
      | .error _ => if s.tmrReady ctx i then s else s.updateTmr ctx i (.pend scope)) s

/-- Whether an evaluation of a TMR can be made now: its updates that came before are done, and its record and policy answer (R210). -/
def State.mayEvaluate (s : State) (ctx idx : Nat) : Bool :=
  s.tmrReady ctx idx && !s.tmrQueued ctx idx
    && (match s.tmrLoad ctx idx with | .ok t => s.policyReady ctx (Tmr.policy t) | .error _ => true)

/-- A die's pending TMRs in the governor's order: ascending context, then index (R205). -/
def State.pendingTmr (s : State) (die : Nat) : Option (Nat × Nat) :=
  s.ctxs.findSome? (fun e =>
    ((List.range e.2.tmrcount).find? (fun i =>
      i != 0 && (match s.tmrLoad e.1 i with | .ok t => Tmr.pend t | .error _ => false) && s.tmrDie e.1 i == die)).map (fun i => (e.1, i)))

/-- GOVEVAL's status (R215). -/
def govStatus (t : Nat) (o : GovOutcome) : Nat := Tmr.seq t + 2 ^ 16 * Tmr.horizon t + 2 ^ 32 * o.code

/-- The first of a die's GOVEVAL requests: by context, then index, then arrival (R205). -/
def firstAsk (asks : List (Nat × Nat × Nat)) : Option (Nat × Nat × Nat) :=
  (sortBy asks (fun a b => decide (a.1 < b.1 ∨ (a.1 = b.1 ∧ a.2.1 ≤ b.2.1)))).head?

/-- GOVERNOR_EVALUATION: a GOVEVAL's request first, else the first pending TMR, whose PEND clears as it starts unless another
GOVEVAL has named it (R205, R215). -/
def State.governorEvaluation (s : State) (die : Nat) : State :=
  match firstAsk (s.die die).asks with
  | some (ctx, idx, core) =>
    if !s.mayEvaluate ctx idx then s.tmrSnoop ctx idx else
    let rest := (s.die die).asks.erase (ctx, idx, core)
    let s := s.setDie die { s.die die with asks := rest }
    let s := s.modTmr ctx idx (fun t => Tmr.setPend t (rest.any (fun a => a.1 == ctx && a.2.1 == idx)))
    let (s, o) := s.evaluate ctx idx
    let t := s.tmr ctx idx
    let k := s.coreAt core
    -- a rebinding needs a slot: the least recently fed unpinned one makes room
    let s := if (k.unit.any (fun u => u.arg2 == 1)) ∧ 8 ≤ k.stats.length ∧ !k.stats.any (fun x => x.tmr == idx) then
        (match k.stats.find? (fun x => x.rebound.isNone) with | some x => s.mergeSlot core x.tmr | none => s)
      else s
    s.modCoreAt core (fun c =>
      match c.unit with
      | some u =>
        let c := { c with unit := some { u with answer := some (govStatus t o) } }
        if u.arg2 = 1 then
          { c with stats :=
            if c.stats.any (fun x => x.tmr == idx) then
              c.stats.map (fun x => if x.tmr = idx then { x with rebound := some (Tmr.seq t) } else x)
            else c.stats ++ [{ tmr := idx, rebound := some (Tmr.seq t) }] }
        else c
      | none => c)
  | none =>
    match s.pendingTmr die with
    | none => s
    | some (ctx, idx) =>
      if !s.mayEvaluate ctx idx then s.tmrSnoop ctx idx else ((s.modTmr ctx idx (fun t => Tmr.setPend t false)).evaluate ctx idx).1
def execGovernorEvaluation (die : Nat) (s : State) : Out := .next (s.governorEvaluation die)

/-! ### The GOV instructions (R214 to R217) -/

/-- An instruction's look at a TMR (R218, R219): it waits while the record cannot be read, and takes the fault of one that it may not reach
or that is poisoned. -/
def State.withTmr (s : State) (e : Engine) (idx : Nat) (f : Nat → Res) : Res :=
  if !s.tmrReadable s.taskCtx idx then .stall (fun s => s.tmrTouch e s.taskCtx idx)
  else
    match s.tmrLoad s.taskCtx idx with
    | .error t => .trap (fun s => s.tmrTouch e s.taskCtx idx) t
    | .ok t => f t

/-- A GOV instruction on the TMR that s[a] names. -/
def State.gov (s : State) (h : Hdr) (a : Fin 32) (rs : List (Fin 32)) (eff : Nat → Nat → State → Res) : Out :=
  .next (s.issue .S h {} (s.core.busyFor (sRegs (a :: rs))) (fun s =>
    let idx := (s.core.readS a).toNat % 2 ^ 20
    s.withTmr .S idx (fun t => eff idx t s)))

def execGoveval (h : Hdr) (rebind : Bool) (d a : Fin 32) (s : State) : Out :=
  s.gov h a [d] (fun idx _ s =>
    let pinned := s.core.stats.filter (fun x => x.rebound.isSome)
    if rebind ∧ 8 ≤ pinned.length ∧ !pinned.any (fun x => x.tmr == idx) then .trap id (illegal 0x0A)
    else
      let s := (s.mergeSlot s.cur idx).updateTmr s.taskCtx idx .ask
      let (id, s) := s.fresh
      let die := s.tmrDie s.taskCtx idx
      let s := s.setDie die { s.die die with asks := (s.die die).asks ++ [(s.taskCtx, idx, s.cur)] }
      .pend (s.modCore (fun c => { c with unit := some { id, cmd := .goveval h rebind d a, d, arg := idx, arg2 := rebind.toNat,
                                                         answer := none, fault := none } })) id)

def execGovrd (h : Hdr) (item : GovItem) (d a : Fin 32) (s : State) : Out :=
  s.gov h a (match item with | .slot b => [d, b] | _ => [d]) (fun idx t s =>
    let s := s.cacheTmr s.taskCtx idx
    let put (s : State) (v : Nat) : Res := .done (s.setCore (s.core.writeS d (BitVec.ofNat 64 v)))
    match item with
    | .hdr => put s (Tmr.header t)
    | .wslot => let v := s.writeVersion idx t; put (s.keepVersion idx v) (Tmr.slot t v)
    | .slot b =>
      let v := (s.core.readS b).toNat % 2 ^ 16
      put s (if Tmr.live t v ∧ imageSeq (Tmr.slot t v) = v then Tmr.slot t v else 2 ^ 64 - 1))

/-- GOVHOLD and GOVREL: the update is asked for once, and the instruction finishes when the home has performed it (R218). -/
def State.govUpdate (s : State) (idx : Nat) (act : TmrUpdate) : Res :=
  let p : TmrTask := { ctx := s.taskCtx, idx, act }
  let s := if (s.eng .S).taken then s else s.updateTmr s.taskCtx idx act
  if s.coh.tmrs.contains p then .hold s else .done s
def execGovhold (h : Hdr) (a : Fin 32) (s : State) : Out :=
  s.gov h a [] (fun idx _ s => s.govUpdate idx (.hold s.cur))
def execGovrel (h : Hdr) (a : Fin 32) (s : State) : Out :=
  s.gov h a [] (fun idx _ s => s.govUpdate idx (.release s.cur))

end Sys2Proof.Machine
end

