-- ==== Sys2Proof/Machine/VectorMemory.lean ====
section
/-! DEFINITION. The vector engine's loads and stores, gathers, quantised data and accumulators (spec/06 R149 to R152, R166
to R170). -/

namespace Sys2Proof.Machine

/-! ### Rows in the data area (R149, R150) -/

/-- The address of the first row: base register, offset in 16-byte units, the handle's base, 16-byte aligned. -/
def Core.rowStart (c : Core) (e : Engine) (k : Fin 16) (hd : Fin 64) (off : BitVec 22) : Nat :=
  let a : Word64 := c.readK e k + off.zeroExtend 64 * 16
  let a := if hd = 63 then a else a + BitVec.ofNat 64 (c.handle hd).base
  a.toNat / 16 * 16
def VShape.runs (sh : VShape) (a rbytes : Nat) : List (Nat × Nat) :=
  (List.range sh.rows).map (fun r => (a + r * sh.stride, rbytes))
def VShape.rowBytes (sh : VShape) : Nat := sh.cols * sh.w / 8

/-- The checks of rows in the data area, then `f` (R149, R239, R419); a FENCE or an acquire of the engine holds them back (R283). -/
def State.withRows (s : State) (e : Engine) (hd : Fin 64) (runs : List (Nat × Nat)) (write : Bool) (f : State → Res) : Res :=
  if s.ordered e s.nextId then .stall id
  else
    match s.core.runsFault hd runs with
    | some t => .trap id t
    | none => s.onData e (if write then [] else runs) (if write then runs else []) f

/-- The shape rule of 4-bit rows. -/
def evenCols (sh : VShape) : Bool := decide (sh.w ≠ 4 ∨ sh.cols % 2 = 0)

def Core.vld (c : Core) (t : Fin 256) (runs : List (Nat × Nat)) : Core :=
  let bs := runs.flatMap (fun r => c.readData r.1 r.2)
  { c with tiles := SMap.setRange 0 c.tiles (t.val * 1024) bs }
def Core.vst (c : Core) (t : Fin 256) (runs : List (Nat × Nat)) : Core :=
  runs.zipIdx.foldl (fun c r =>
    c.writeData r.1.1 (SMap.getRange 0 c.tiles (t.val * 1024 + r.2 * r.1.2) r.1.2)) c

def vmHandle (hd : Fin 64) : List Nat := if hd = 63 then [] else [hd.val]

def execVld (h : Hdr) (t : Fin 256) (k : Fin 16) (hd : Fin 64) (off : BitVec 22) (s : State) : Out :=
  s.vissue h { regs := tileRegs [t], handles := vmHandle hd, shape := s.core.shapeOk evenCols } [] [t] (fun s =>
    let runs := s.core.vshape.runs (s.core.rowStart .V k hd off) s.core.vshape.rowBytes
    s.withRows .V hd runs false (fun s => .done (s.modCore (fun c => c.vld t runs))))
def execVst (h : Hdr) (t : Fin 256) (k : Fin 16) (hd : Fin 64) (off : BitVec 22) (s : State) : Out :=
  s.vissue h { regs := tileRegs [t], handles := vmHandle hd, shape := s.core.shapeOk evenCols } [t] [] (fun s =>
    let runs := s.core.vshape.runs (s.core.rowStart .V k hd off) s.core.vshape.rowBytes
    s.withRows .V hd runs true (fun s => .done (s.modCore (fun c => c.vst t runs))))

/-! ### Quantised stores and loads (R166 to R169) -/

/-- The quantisation descriptor of a base register: the register after it. -/
def Core.quantDesc (c : Core) (k : Fin 16) : Nat := (c.readK .V (Fin.ofNat 16 (k.val + 1))).toNat
def storeMode (desc : Nat) : Rounding := match bits desc 20 3 with | 0 => .rne | 1 => .rz | _ => .rna
def loadMode (desc : Nat) : Rounding := Rounding.ofCode (bits desc 20 3)

/-- A tile's rows of exact values. -/
def Core.tileRows (c : Core) (t : Fin 256) : List (List Val) :=
  let sh := c.vshape
  (List.range sh.rows).map (fun r => (List.range sh.cols).map (fun j => decodeVal sh.ty (c.elem t sh.w (r * sh.cols + j))))

/-- VSTQ's rows encoded, its flags and its counts. -/
def encodeRows (sc : Scale) (base : Int) (rm : Rounding) (sat : Bool) (rows : List (List Val)) :
    List (List Byte) × Flags × Counts :=
  let rs := rows.map (fun vs => (vs, sc.encodeRow rm sat vs))
  (rs.map (·.2.1), orFlags (rs.flatMap (fun r => r.2.2.map (·.2))),
   rs.foldl (fun c r => c.row base sc.elemType r.1 r.2.2) {})

/-- TENSOR_OVERFLOW (R198). -/
def overflowFault (tmr ovf : Nat) : TrapInfo := { cause := 4, info := tmr + 2 ^ 32 * ovf }

/-- VSTQ with its TMR loaded and its write version's scale at hand. -/
def State.vstq (s : State) (t : Fin 256) (k : Fin 16) (hd : Fin 64) (off : BitVec 22) (idx tmr v : Nat) (sc : Scale) : Res :=
  let c := s.core
  let sh := c.vshape
  let desc := c.quantDesc k
  let clash := if hd = 63 then none else match (c.handle hd).rcd with | some r => if r = (idx, v) then none else some r.2 | none => none
  match clash with
  | some x => .trap id (mixedVersion idx x v)
  | none =>
    if sc.fmt = 2 ∧ sh.cols % 32 ≠ 0 then .trap id c.badShape
    else
      let runs := sh.runs (c.rowStart .V k hd off) (sc.rowBytes sh.cols)
      s.withRows .V hd runs true (fun s =>
        let (rows, fl, counts) := encodeRows sc (Tmr.base tmr) (storeMode desc) (bits desc 23 1 == 1) (c.tileRows t)
        let note (s : State) : State :=
          ((((s.policyTouch s.taskCtx (Tmr.policy tmr)).cacheTmr s.taskCtx idx)).keepVersion idx v).feed idx counts
        if (s.policy s.taskCtx (Tmr.policy tmr)).faultLim * sh.count < counts.ovf * 65536 then
          .trap note (overflowFault idx counts.ovf)
        else
          .done ((note s).modCore (fun c =>
            let c := (runs.zip rows).foldl (fun c r => c.writeData r.1.1 r.2) c
            let c := c.addFlags .V fl
            if hd = 63 then c else c.setHandle hd { c.handle hd with rcd := some (idx, v) })))

def execVstq (h : Hdr) (t : Fin 256) (k : Fin 16) (hd : Fin 64) (off : BitVec 22) (s : State) : Out :=
  s.vissue h { regs := tileRegs [t], handles := vmHandle hd, shape := s.core.shapeOk (fun sh => wideFloat sh.ty) } [t] []
    (fun s =>
      let idx := bits (s.core.quantDesc k) 0 20
      s.withTmr .V idx (fun tmr =>
        match s.writeScale idx tmr with
        | .error t => .trap id t
        | .ok (v, sc) =>
          if s.feedWaits idx then .stall (fun s => s.tmrSnoop s.taskCtx idx)
          else if !s.policyReady s.taskCtx (Tmr.policy tmr) then .stall (fun s => s.policyTouch s.taskCtx (Tmr.policy tmr))
          else s.vstq t k hd off idx tmr v sc))

/-- The decoded rows written to a tile. -/
def Core.vldq (c : Core) (t : Fin 256) (sc : Scale) (runs : List (Nat × Nat)) (rm : Rounding) (sat : Bool) : Core :=
  let sh := c.vshape
  let vs := (runs.flatMap (fun r => sc.decodeRow sh.cols (c.readData r.1 r.2))).map (quant1 sh.ty rm sat)
  (c.writeElems t sh.w false (vs.map (fun v => some v.1))).addFlags .V (orFlags (vs.map (·.2)))

def execVldq (h : Hdr) (t : Fin 256) (k : Fin 16) (hd : Fin 64) (off : BitVec 22) (s : State) : Out :=
  s.vissue h { regs := tileRegs [t], handles := [hd.val], shape := s.core.shapeOk (fun sh => wideFloat sh.ty) } [] [t]
    (fun s =>
      match (s.core.handle hd).rcd with
      | none => .trap id (mixedVersion 0 noVersion noVersion)
      | some (idx, v) =>
        s.withTmr .V idx (fun tmr =>
          if !Tmr.holds tmr v then .trap id (mixedVersion idx noVersion v)
          else
            let sc := imageScale (Tmr.slot tmr v)
            let sh := s.core.vshape
            if sc.fmt = 2 ∧ sh.cols % 32 ≠ 0 then .trap id s.core.badShape
            else
              let desc := s.core.quantDesc k
              let runs := sh.runs (s.core.rowStart .V k hd off) (sc.rowBytes sh.cols)
              s.withRows .V hd runs false (fun s =>
                .done ((s.cacheTmr s.taskCtx idx).modCore (fun c => c.vldq t sc runs (loadMode desc) (bits desc 23 1 == 1))))))

/-! ### Gathers and scatters (R152) -/

/-- The selected elements with their addresses, in ascending index. -/
def Core.gatherAddrs (c : Core) (idx : Fin 256) (k : Fin 16) (m : Fin 8) : List (Nat × Nat) :=
  let sh := c.vshape
  let n := sh.w / 8
  (c.selected m sh.count (fun i =>
    (i, (c.readK .V k + (BitVec.ofNat 32 (c.elem idx 32 i)).signExtend 64).toNat / n * n))).filterMap (fun x => x)

/-- The tile keys of the elements that .z zeroes. -/
def Core.zeroKeys (c : Core) (t : Fin 256) (m : Fin 8) (z : Bool) : List Nat :=
  let sh := c.vshape
  if z then
    ((List.range sh.count).filter (fun i => !(c.readM m).getLsbD i)).map (fun i => t.val * 1024 + i * (sh.w / 8))
  else []

/-- A gather or scatter in the data area: every element is checked before any is accessed. -/
def State.dataElements (s : State) (as : List (Nat × Nat)) (write : Bool) (f : Core → Core) : Res :=
  let n := s.core.vshape.w / 8
  if s.ordered .V s.nextId then .stall id
  else
    match as.find? (fun a => decide (Part.dataBytes s.core.part < a.2 + n)) with
    | some a => .trap id (leaseFault 0x05 a.2)
    | none =>
      let runs := as.map (fun a => (a.2, n))
      s.onData .V (if write then [] else runs) (if write then runs else []) (fun s => .done (s.modCore f))

/-- Every element's physical address, or what stops the whole instruction: leases first, then each access. -/
def State.reachElements (s : State) (as : List (Nat × Nat)) (write : Bool) : Except Res (List (Nat × Nat × Nat) × State) :=
  let n := s.core.vshape.w / 8
  match as.findSome? (fun a => match s.core.lease a.2 n write with | .error t => some t | .ok _ => none) with
  | some t => .error (.trap id t)
  | none =>
    as.foldl (fun r a =>
      match r with
      | .error x => .error x
      | .ok (l, s) =>
        match s.access .V a.2 n write with
        | .trap f t => .error (.trap f t)
        | .wait f => .error (.stall f)
        | .peer _ _ _ _ => .error (.stall id)
        | .go x s => .ok (l ++ [(a.1, a.2, x)], s)) (.ok ([], s))

/-- The accesses of the elements, each of four bytes or fewer: of an eight-byte element two (R152, R224). -/
def elementParts (t : Todo) (as : List (Nat × Nat × Nat)) : List Part :=
  if t.n = 8 then
    as.flatMap (fun a =>
      [{ req := 0, idx := a.1, got := none, todo := some { t with va := a.2.1, n := 4, data := a.2.2 % 2 ^ 32 } },
       { req := 0, idx := a.1 + 4, got := none, todo := some { t with va := a.2.1 + 4, n := 4, data := a.2.2 / 2 ^ 32 } }])
  else as.map (fun a => { req := 0, idx := a.1, got := none, todo := some { t with va := a.2.1, data := a.2.2 } })

/-- A gather from global memory: V sends elements while the core's requests have room, the rest as they find it (R269). -/
def State.gatherGlobal (s : State) (t : Fin 256) (as : List (Nat × Nat)) (zs : List Nat) (pol : Policy) (inv : Bool) : Res :=
  let n := s.core.vshape.w / 8
  let pol := s.core.effPolicy pol
  match s.reachElements as false with
  | .error r => r
  | .ok (xs, s) =>
    if s.holdsBack .V s.nextId then .stall id
    else
      match xs.find? (fun a =>
          s.free .V s.nextId a.2.1 n a.2.2 && (s.localValue pol inv a.2.2 n).isNone && s.poisoned (lineOf a.2.2)) with
      | some a => s.poisonTrap .V a.2.2 a.2.1
      | none =>
        s.issueParts .V (.gather t (min n 4) (if n = 8 then zs.flatMap (fun k => [k, k + 4]) else zs))
          (elementParts { store := false, pol, inv, va := 0, n, data := 0 } (xs.map (fun a => (t.val * 1024 + a.1 * n, a.2.1, 0))))

def State.scatterGlobal (s : State) (t : Fin 256) (as : List (Nat × Nat)) (pol : Policy) : Res :=
  let n := s.core.vshape.w / 8
  let pol := s.core.effPolicy pol
  match s.reachElements as true with
  | .error r => r
  | .ok (xs, s) =>
    if s.holdsBack .V s.nextId then .stall id
    else
      s.issueParts .V .scatter (elementParts { store := true, pol, inv := false, va := 0, n, data := 0 }
        (xs.map (fun a => (0, a.2.1, s.core.elem t s.core.vshape.w a.1))))

def gatherShape (sh : VShape) : Bool := byteType sh.ty && decide (sh.count ≤ 256)

def execVgath (h : Hdr) (t idx : Fin 256) (k : Fin 16) (sp : VecSpace) (m : Fin 8) (z : Bool) (s : State) : Out :=
  s.vissue h { regs := tileRegs [idx, t], shape := s.core.shapeOk gatherShape } [idx] [t] (fun s =>
    let as := s.core.gatherAddrs idx k m
    let zs := s.core.zeroKeys t m z
    match sp with
    | .data =>
      s.dataElements as false (fun c =>
        let n := c.vshape.w / 8
        let parts : List Part := as.map (fun a =>
          { req := 0, idx := t.val * 1024 + a.1 * n, got := some (.value (ofBytes (c.readData a.2 n))) })
        let f : Flight := { id := 0, eng := .V, pc := 0, kind := .gather t n zs, parts }
        c.arrive f)
    | .global pol _ inv => s.gatherGlobal t as zs pol inv) (some idx)

def execVscat (h : Hdr) (t idx : Fin 256) (k : Fin 16) (sp : VecSpace) (m : Fin 8) (_z : Bool) (s : State) : Out :=
  s.vissue h { regs := tileRegs [idx, t], shape := s.core.shapeOk gatherShape } [idx, t] [] (fun s =>
    let as := s.core.gatherAddrs idx k m
    match sp with
    | .data =>
      s.dataElements as true (fun c =>
        as.foldl (fun c a => c.writeData a.2 (toBytes (c.vshape.w / 8) (c.elem t c.vshape.w a.1))) c)
    | .global pol _ _ => s.scatterGlobal t as pol) (some idx)

/-! ### Accumulators (R170, R174) -/

/-- The exact value of an accumulator's product record. -/
def AccRec.scale (r : AccRec) : Val := match r.prod with | some (m, e) => Val.scaled false m e | none => Val.ofInt 1
def accValue (cls : Option AccClass) (x : Nat) : Val :=
  match cls with | some .int => decodeVal .i32 x | _ => decodeVal .f32 x
/-- The key of the choices that a turn leaves to the outside about accumulators. -/
def State.accKey (s : State) : Nat := s.turns * 2 ^ 100 + 2 ^ 90

/-- The accumulator position of a shape's index in a window, none outside 32 × 64 (R170). -/
def windowAt (sh : VShape) (k : Word64) (i : Nat) : Option (Nat × Nat) :=
  let r := bits k.toNat 0 5 + i / sh.cols
  let n := bits k.toNat 8 6 + i % sh.cols
  if r < 32 ∧ n < 64 then some (r, n) else none

/-- The bytes of an accumulator tile's elements that a window covers. -/
def Core.windowRuns (c : Core) (z : Fin 256) (k : Fin 16) : List (Nat × Nat) :=
  ((List.range c.vshape.count).filterMap (windowAt c.vshape (c.readK .V k))).map (fun x => (z.val * 8192 + 4 * (x.1 * 64 + x.2), 4))

/-- VDRAIN; `key` names the outside's choices beside M (R170). -/
def Core.vdrain (c : Core) (key : Nat) (m : Fin 8) (z : Bool) (rm : Rounding) (sat : Bool) (d za : Fin 256) (k : Fin 16) : Core :=
  let sh := c.vshape
  let rc := c.accRecOf za.val
  c.mapElems d sh.w m z sh.count (fun i =>
    let x := match windowAt sh (c.readK .V k) i with
      | some (r, n) => accValue rc.cls (c.accSeen key za.val (r * 64 + n))
      | none => Val.zero
    quant1 sh.ty rm sat (Val.mul x rc.scale))

def execVdrain (h : Hdr) (m : Fin 8) (z : Bool) (rm : Rounding) (sat : Bool) (d za : Fin 256) (k : Fin 16) (s : State) : Out :=
  s.vissue h { mode := s.core.modeFault rm, regs := [(true, za.val), (false, d.val)],
               shape := s.core.shapeOk (fun sh => sh.ty != .e8m0 && sh.ty != .e8f2) } [] [d]
    (fun s => s.onPool .V .acc (s.core.windowRuns za k) (fun s => .done (s.modCore (fun c => c.vdrain s.accKey m z rm sat d za k))))

/-- TENSOR_SCALE_MISMATCH (R181). -/
def scaleMismatch (sub z : Nat) : TrapInfo := { cause := 6, info := sub + 256 * z }

/-- The accumulator element of a tile's element, with its flag. A selected element whose position lies outside 32 × 64 is not converted
and raises nothing: R170 says only that it is not written (log 95). -/
def zldElem (ty : ElemType) (x : Nat) : Nat × Flags :=
  match ty with | .bf16 | .f16 => convert ty .f32 .rne false x | _ => (x, 0)

/-- VZLD; `key` names the outside's choices beside M (R170), `pc` the word's offset. -/
def Core.vzld (c : Core) (key pc : Nat) (m : Fin 8) (z : Bool) (zd a : Fin 256) (k : Fin 16) : Core :=
  let sh := c.vshape
  let rs := c.selected m sh.count (fun i =>
    if (windowAt sh (c.readK .V k) i).isSome then zldElem sh.ty (c.elem a sh.w i) else (0, 0))
  let vs : List (Nat × Nat) := rs.zipIdx.filterMap (fun r =>
    (windowAt sh (c.readK .V k) r.2).bind (fun x =>
      match r.1 with
      | some v => some (x.1 * 64 + x.2, v.1)
      | none => if z then some (x.1 * 64 + x.2, 0) else none))
  let c' := c.loadAcc key pc zd.val vs
  let cls := if sh.ty = .i32 then AccClass.int else .flt
  let whole (g : Nat) : Bool := g / 1024 == zd.val && vs.any (fun v => v.1 == 2 * g % 2048) && vs.any (fun v => v.1 == 2 * g % 2048 + 1)
  let c' : Core := { c' with accRec := SMap.set {} c'.accRec zd.val { c.accRecOf zd.val with cls := some cls },
                             soft := c'.soft.filter (fun x : PoolPart × Nat => !(x.1 == .acc && whole x.2)) }
  c'.addFlags .V (orFlags (rs.filterMap (·.map (·.2))))

def execVzld (h : Hdr) (m : Fin 8) (z : Bool) (zd a : Fin 256) (k : Fin 16) (s : State) : Out :=
  s.vissue h { regs := [(false, a.val), (true, zd.val)],
               shape := s.core.shapeOk (fun sh => wideFloat sh.ty || sh.ty == .i32) } [a] []
    (fun s =>
      let cls := if s.core.vshape.ty = .i32 then AccClass.int else .flt
      match (s.core.accRecOf zd.val).cls with
      | some x => if x = cls then .done (s.modCore (fun c => c.vzld s.accKey (s.eng .V).pc m z zd a k)) else .trap id (scaleMismatch 2 zd.val)
      | none => .done (s.modCore (fun c => c.vzld s.accKey (s.eng .V).pc m z zd a k)))

end Sys2Proof.Machine
end

