-- ==== Sys2Proof/Machine/Stream.lean ====
section
/-! DEFINITION. The stream engine at issue: descriptors, their checks, the journal, windows (spec/13 R287 to R313). -/

namespace Sys2Proof.Machine

/-! ### Descriptors and the plans they come to -/

/-- A run of bytes of a command: space 0 own data area, 1 global, 2 a peer's data area. -/
structure Span where
  space : Nat
  addr : Nat
  len : Nat
  write : Bool := false
  deriving DecidableEq, Repr

/-- What the checks of R288 need of a command: its runs, the bytes it counts, its TMR, whether it moves nothing. -/
structure Plan where
  spans : List Span := []
  count : Nat := 0
  tag : Option Nat := none
  empty : Bool := false

def badField (off : Nat) : TrapInfo := illegal 0x10 off

/-- The first field that does not hold a legal value; the list stands in ascending offset. -/
def fieldFault (cs : List (Nat × Bool)) : Option TrapInfo := (cs.find? (fun c => !c.2)).map (fun c => badField c.1)

def du (d : List Byte) (off n : Nat) : Nat := recordField d off n
def ds (d : List Byte) (off n : Nat) : Int := signedOf (8 * n) (recordField d off n)
def wrap64 (x : Int) : Nat := (x % 2 ^ 64).toNat

/-! ### Boxes (R295, R296) -/

namespace Box

def ext (d : List Byte) (i : Nat) : Nat := du d (0x10 + 4 * i) 4
def src (d : List Byte) : Nat := du d 0 8
def dst (d : List Byte) : Nat := du d 8 8
def srcSpace (d : List Byte) : Nat := du d 0x38 1 % 4
def dstSpace (d : List Byte) : Nat := du d 0x38 1 / 4 % 4
def peer (d : List Byte) : Nat := du d 0x39 1
def conv (d : List Byte) : Nat := du d 0x3A 2
def tag (d : List Byte) : Nat := du d 0x3C 4
def tagIdx (d : List Byte) : Nat := tag d % 2 ^ 20
def tagValid (d : List Byte) : Bool := (tag d).testBit 20
def mode (d : List Byte) : Nat := bits (tag d) 21 2
def empty (d : List Byte) : Bool := (List.range 4).any (fun i => ext d i == 0)
/-- The source and destination addresses of each row of the box, as 64-bit numbers. -/
def rows (d : List Byte) : List (Nat × Nat) :=
  if empty d then []
  else
    (List.range (ext d 3)).flatMap (fun i3 => (List.range (ext d 2)).flatMap (fun i2 => (List.range (ext d 1)).map (fun i1 =>
      let off (b : Nat) : Int := i1 * ds d b 4 + i2 * ds d (b + 4) 4 + i3 * ds d (b + 8) 4
      (wrap64 (src d + off 0x20), wrap64 (dst d + off 0x2C)))))
/-- Source rows and destination rows of given lengths. -/
def spans (d : List Byte) (sn dn : Nat) : List Span :=
  (rows d).flatMap (fun r =>
    [{ space := srcSpace d, addr := r.1, len := sn }, { space := dstSpace d, addr := r.2, len := dn, write := true }])

/-- The legality of the fields common to the box commands, in ascending offset; `e0` is the command's rule for E0, `sp`
its rule for the spaces. DESIGN CHOICE: the limit of 2^36 on the product of the extents holds for COPYC over its element counts; R295
says bytes, of which it does not say whether they are the source's or the destination's (log 103). -/
def fields (d : List Byte) (self : Nat) (e0 sp conv tagOk : Bool) : Option TrapInfo :=
  let two := srcSpace d == 2 || dstSpace d == 2
  fieldFault
    [(0x10, decide (ext d 0 * ext d 1 * ext d 2 * ext d 3 ≤ 2 ^ 36) && e0),
     (0x38, srcSpace d != 3 && dstSpace d != 3 && du d 0x38 1 / 16 == 0 && sp),
     (0x39, if two then decide (peer d < 12) && peer d != self else peer d == 0), (0x3A, conv), (0x3C, tagOk)]

end Box

/-- The legality of a TAG with no scale mode (R295). -/
def tagPlain (t : Nat) : Bool := bits t 21 11 == 0

/-! ### COPYC (R303) -/

namespace Cvt

def src (d : List Byte) : Nat := bits (Box.conv d) 0 6
def dst (d : List Byte) : Nat := bits (Box.conv d) 6 6
def rmCode (d : List Byte) : Nat := bits (Box.conv d) 12 3
def rm (d : List Byte) : Rounding := Rounding.ofCode (rmCode d)
def sat (d : List Byte) : Bool := bits (Box.conv d) 15 1 == 1
def srcType (d : List Byte) : ElemType := ElemType.ofCode (src d)
def dstType (d : List Byte) : ElemType := ElemType.ofCode (dst d)
def isWide (c : Nat) : Bool := ElemType.codeOk c && wideFloat (ElemType.ofCode c)
def narrowMode (m : Nat) : Bool := m == 0 || m == 1 || m == 4
/-- The CONV field under each scale mode. -/
def convOk (d : List Byte) : Bool :=
  decide (rmCode d ≤ 4) &&
  (match Box.mode d with
   | 0 => ElemType.codeOk (src d) && ElemType.codeOk (dst d) && Rows.modeOk (dstType d) (rm d)
   | 1 => src d == 0 && isWide (dst d)
   | 2 => dst d == 0 && isWide (src d) && narrowMode (rmCode d)
   | _ => true)
def spacesOk (d : List Byte) (drain handle : Bool) : Bool :=
  match Box.mode d with
  | 0 => true
  | 1 => Box.srcSpace d == 1 || (Box.srcSpace d == 0 && drain && handle)
  | 2 => Box.srcSpace d == 0
  | _ => true
def tagOk (d : List Byte) : Bool :=
  bits (Box.tag d) 23 9 == 0 && (match Box.mode d with | 0 => !Box.tagValid d | 1 | 2 => Box.tagValid d | _ => false)
/-- E0's rule: even for a 4-bit type, a multiple of 32 where the format is MXFP4 and known. -/
def e0Ok (d : List Byte) (fmt : Option Nat) : Bool :=
  let nib (c : Nat) : Bool := ElemType.codeOk c && elemBits (ElemType.ofCode c) == 4
  let n := Box.ext d 0
  (match Box.mode d with
   | 0 => !(nib (src d) || nib (dst d)) || n % 2 == 0
   | _ => true) && (fmt != some 2 || n % 32 == 0)

end Cvt

/-- The TMR that a command reads at issue (R196, R298, R303, R311). -/
def State.issueTmr (s : State) (c : CCmd) (d : List Byte) : Option Nat :=
  match c.kind with
  | .copy => if Box.tagValid d ∧ Box.dstSpace d = 1 then some (Box.tagIdx d) else none
  | .copyc =>
    if Box.mode d = 2 then some (Box.tagIdx d)
    else if Box.mode d = 1 ∧ Box.srcSpace d = 0 then (s.core.handle c.hd).rcd.map (·.1) else none
  | .coll _ => if (du d 0x1C 4).testBit 20 then some (du d 0x1C 4 % 2 ^ 20) else none
  | _ => none
/-- Whether it can be read now, and what the read does beside answering (R218, R388, R416). -/
def State.issueTmrReady (s : State) (c : CCmd) (d : List Byte) : Bool :=
  match s.issueTmr c d with | some i => s.tmrReadable s.taskCtx i | none => true
def State.issueTmrTouch (s : State) (c : CCmd) (d : List Byte) : State :=
  match s.issueTmr c d with | some i => s.tmrTouch .C s.taskCtx i | none => s

/-- The pair that a command fixes at issue, and its scale: an encode or a tagged write takes the write version, a decode
through a drain handle its record (R195, R196, R298, R303). -/
def State.issuePair (s : State) (c : CCmd) (d : List Byte) : Except TrapInfo (Option (Nat × Nat × Scale)) :=
  let wr (idx : Nat) : Except TrapInfo (Option (Nat × Nat × Scale)) :=
    match s.tmrLoad s.taskCtx idx with
    | .error t => .error t
    | .ok t => (s.writeScale idx t).map (fun r => some (idx, r.1, r.2))
  match c.kind with
  | .copy => if Box.tagValid d ∧ Box.dstSpace d = 1 then wr (Box.tagIdx d) else .ok none
  | .copyc =>
    if Box.mode d = 2 then wr (Box.tagIdx d)
    else if Box.mode d = 1 ∧ Box.srcSpace d = 0 then
      match (s.core.handle c.hd).rcd with
      | none => .error (mixedVersion 0 noVersion noVersion)
      | some (idx, v) =>
        match s.tmrLoad s.taskCtx idx with
        | .error t => .error t
        | .ok t => if Tmr.holds t v then .ok (some (idx, v, imageScale (Tmr.slot t v))) else .error (mixedVersion idx noVersion v)
    else .ok none
  | _ => .ok none

/-- Bytes of a COPYC's source and destination rows; of a decode whose format is not yet known, the least that any format
takes. -/
def Cvt.rowBytes (d : List Byte) (sc : Option Scale) : Nat × Nat :=
  let n := Box.ext d 0
  let w (ty : ElemType) : Nat := n * elemBits ty / 8
  match Box.mode d with
  | 0 => (w (srcType d), w (dstType d))
  | 1 => (match sc with | some sc => sc.rowBytes n | none => n / 2, w (dstType d))
  | _ => (w (srcType d), match sc with | some sc => sc.rowBytes n | none => 0)

/-! ### XFORM's steps (R308) -/

namespace Xform

structure Shape where
  dims : List Nat
  ty : ElemType

def prod (l : List Nat) : Nat := l.foldl (· * ·) 1
/-- A step's shape; none where it breaks its condition. -/
def step (x : Shape) (w : Nat) : Option Shape :=
  let a := bits w 24 4
  let b := bits w 20 4
  let f := bits w 0 20
  let n := (x.dims[a]?).getD 0
  let small (l : List Nat) : Option Shape := if l.length ≤ 8 then some { x with dims := l } else none
  match bits w 28 4 with
  | 1 => if a < x.dims.length ∧ 0 < f ∧ n % f = 0 then small (x.dims.take a ++ [n / f, f] ++ x.dims.drop (a + 1)) else none
  | 2 => if a + 1 < x.dims.length then some { x with dims := x.dims.take a ++ [n * (x.dims[a + 1]?).getD 1] ++ x.dims.drop (a + 2) } else none
  | 3 => if a < x.dims.length ∧ b < x.dims.length then some { x with dims := (x.dims.set a ((x.dims[b]?).getD 0)).set b n } else none
  | 4 => if a < x.dims.length then some { x with dims := x.dims.set a (n + bits w 10 10 + bits w 0 10) } else none
  | 5 =>
    let c := bits w 14 6
    if ElemType.codeOk c ∧ byteType (ElemType.ofCode c) ∧ bits w 11 3 ≤ 4 ∧ Rows.modeOk (ElemType.ofCode c) (Rounding.ofCode (bits w 11 3))
    then some { x with ty := ElemType.ofCode c } else none
  | 6 => if a < x.dims.length ∧ 0 < f ∧ n % f = 0 then small (x.dims.take a ++ [n / f] ++ x.dims.drop (a + 1) ++ [f]) else none
  | _ => none

/-- The multi-indices of a shape in row-major order, and an index's place. -/
def indices : List Nat → List (List Nat)
  | [] => [[]]
  | n :: ns => (List.range n).flatMap (fun i => (indices ns).map (i :: ·))
def place (dims ix : List Nat) : Nat := (dims.zip ix).foldl (fun n d => n * d.1 + d.2) 0

/-- What PAD fills position `i` with: the type's zero; of .e8m0 and .e8f2, to which R105 gives none, a free value (log 103). -/
def padCode (ty : ElemType) (key i : Nat) : Nat :=
  match ty with
  | .e8m0 => (Config.freeByte (key + i)).toNat
  | .e8f2 => ofBytes [Config.freeByte (key + 2 * i), Config.freeByte (key + 2 * i + 1)]
  | _ => 0

/-- A step's elements, row-major, with the flags it raises; `key` names the free values. -/
def apply (key : Nat) (x : Shape) (w : Nat) (es : List Nat) : List Nat × Flags :=
  let a := bits w 24 4
  let b := bits w 20 4
  let f := bits w 0 20
  let at_ (ix : List Nat) : Nat := (es[place x.dims ix]?).getD 0
  match step x w with
  | none => (es, 0)
  | some y =>
    match bits w 28 4 with
    | 3 => ((indices y.dims).map (fun ix => at_ ((ix.set a ((ix[b]?).getD 0)).set b ((ix[a]?).getD 0))), 0)
    | 4 =>
      let lo := bits w 10 10
      ((indices y.dims).map (fun ix =>
        let i := (ix[a]?).getD 0
        if lo ≤ i ∧ i < lo + (x.dims[a]?).getD 0 then at_ (ix.set a (i - lo)) else padCode x.ty key (place y.dims ix)), 0)
    | 5 =>
      let rs := es.map (convert x.ty y.ty (Rounding.ofCode (bits w 11 3)) ((w / 2 ^ 10) % 2 == 1))
      (rs.map (·.1), orFlags (rs.map (·.2)))
    | 6 =>
      ((indices y.dims).map (fun ix =>
        let inner := ix.getLastD 0
        at_ (ix.dropLast.set a ((ix[a]?).getD 0 * f + inner))), 0)
    | _ => (es, 0)

def words (d : List Byte) : List Nat := (List.range (du d 0x13 1)).map (fun j => du d (0x40 + 4 * j) 4)
def start (d : List Byte) : Shape :=
  { dims := (List.range (du d 0x12 1)).map (fun i => du d (0x18 + 4 * i) 4), ty := ElemType.ofCode (du d 0x11 1) }
/-- The shape after a list of steps, or the index of the first step that is illegal. -/
def shapes : Shape → List Nat → Nat → Except Nat Shape
  | x, [], _ => .ok x
  | x, w :: ws, j => match step x w with | some y => shapes y ws (j + 1) | none => .error j
def run (key : Nat) : Shape → List Nat → List Nat → Flags → List Nat × Flags
  | _, [], es, fl => (es, fl)
  | x, w :: ws, es, fl => let r := apply (key + 2 ^ 60 * ws.length) x w es; run key ((step x w).getD x) ws r.1 (fl ||| r.2)
def bytes (x : Shape) : Nat := prod x.dims * (elemBits x.ty / 8)

end Xform

/-! ### Plans -/

/-- A two-space byte of XFORM, XPQ and COLL: spaces 0 and 1 only. -/
def plainSpaces (b : Nat) : Bool := decide (b % 4 < 2 ∧ b / 4 % 4 < 2 ∧ b / 16 = 0)

/-- The legal types of COLL (R311). -/
def collType (c : Nat) : Bool := c == 0 || c == 1 || c == 10 || c == 11
def collNarrow (d : List Byte) : Bool := (du d 0x1C 4).testBit 20
def CollOp.isAgree : CollOp → Bool | .agree => true | _ => false

/-- The scale that a TMR stands under now (R213). -/
def State.currentScale (s : State) (idx : Nat) : Scale :=
  let t := s.tmr s.taskCtx idx
  { fmt := tget t 0 0 2, blk := tget t 0 2 1 == 1, σ := decodeVal .e8f2 (Tmr.slot t (Tmr.seq t)) }

/-- The fields of a command and what they come to (R288's second check). -/
def State.plan (s : State) (c : CCmd) (d : List Byte) (sc : Option Scale) : Except TrapInfo Plan :=
  let self := coreInCluster s.cur
  let fails (f : Option TrapInfo) (p : Plan) : Except TrapInfo Plan := match f with | some t => .error t | none => .ok p
  let nrows := (Box.rows d).length
  match c.kind with
  | .copy =>
    let ss := Box.srcSpace d
    let dsp := Box.dstSpace d
    let tagged := Box.tagValid d
    fails (Box.fields d self true true (Box.conv d == 0) (tagPlain (Box.tag d) && (!tagged || (ss == 1) != (dsp == 1))))
      { spans := Box.spans d (Box.ext d 0) (Box.ext d 0), count := nrows * Box.ext d 0, empty := Box.empty d,
        tag := if tagged then some (Box.tagIdx d) else none }
  | .copyc =>
    let (sn, dn) := Cvt.rowBytes d sc
    fails (Box.fields d self (Cvt.e0Ok d (sc.map (·.fmt))) (Cvt.spacesOk d c.drain (c.hd != 63)) (Cvt.convOk d) (Cvt.tagOk d))
      { spans := Box.spans d sn dn, count := nrows * dn, empty := Box.empty d,
        tag := if Box.tagValid d then some (Box.tagIdx d) else none }
  | .fill =>
    fails (Box.fields d self true (Box.srcSpace d == 0) (Box.conv d == 0) (Box.tag d == 0))
      { spans := (Box.spans d 0 (Box.ext d 0)).filter (·.write), count := nrows * Box.ext d 0, empty := Box.empty d }
  | .pref =>
    fails ((fieldFault [(0x08, Box.dst d == 0)]).or ((fieldFault [(0x10,
        decide (Box.ext d 0 * Box.ext d 1 * Box.ext d 2 * Box.ext d 3 ≤ 2 ^ 36)), (0x2C, du d 0x2C 12 == 0)]).or
        (Box.fields d self true (Box.srcSpace d == 1) (Box.conv d == 0) (Box.tag d == 0))))
      { empty := Box.empty d }
  | .cflush =>
    fails (Box.fields d self true (Box.srcSpace d == 1) (Box.conv d == 0) (Box.tag d == 0))
      { spans := (Box.spans d (Box.ext d 0) 0).filter (!·.write), count := nrows * Box.ext d 0, empty := Box.empty d }
  | .gather | .scatter =>
    let rowb := du d 0x18 4
    let n := du d 0x1C 4
    let wr := decide (c.kind = .scatter)
    fails (fieldFault [(0x18, decide (1 ≤ rowb ∧ rowb ≤ 65536)), (0x1C, decide (n ≤ 65536)), (0x2C, du d 0x2C 4 == 0)])
      { spans := [{ space := 0, addr := du d 0x10 8, len := 4 * n },
                  { space := 0, addr := du d 8 8, len := n * rowb, write := !wr }]
          ++ (List.range (du d 0x28 4)).map (fun x =>
            { space := 1, addr := wrap64 (du d 0 8 + x * ds d 0x20 8), len := rowb, write := wr }),
        count := n * rowb }
  | .win =>
    let rowb := du d 0x10 4
    let slots := du d 0x18 4
    let h := s.core.handle c.hd
    fails (fieldFault [(0x10, decide (16 ≤ rowb ∧ rowb ≤ 65536) && rowb % 16 == 0), (0x14, du d 0x14 4 != 0),
        (0x18, decide (1 ≤ slots ∧ slots ≤ 4096) && h.st == .filling && h.expected == slots * rowb && h.win.isNone)])
      { spans := ((List.range (du d 0x14 4)).drop (du d 0x1C 4)).map (fun x =>
          { space := 1, addr := wrap64 (du d 0 8 + x * ds d 8 8), len := rowb }) ++
          [{ space := 0, addr := 0, len := slots * rowb, write := true }],
        count := slots * rowb }
  | .xform =>
    let nd := du d 0x12 1
    let exts := (List.range 6).map (fun i => (0x18 + 4 * i,
      if i < nd then decide (1 ≤ du d (0x18 + 4 * i) 4 ∧ du d (0x18 + 4 * i) 4 ≤ 2 ^ 24) else du d (0x18 + 4 * i) 4 == 0))
    let ty := du d 0x11 1
    match fieldFault ([(0x10, plainSpaces (du d 0x10 1)), (0x11, ElemType.codeOk ty && byteType (ElemType.ofCode ty)),
        (0x12, decide (1 ≤ nd ∧ nd ≤ 6)), (0x13, decide (du d 0x13 1 ≤ 16)), (0x14, du d 0x14 4 == 0)] ++ exts ++
        [(0x30, du d 0x30 16 == 0)]) with
    | some t => .error t
    | none =>
      match Xform.shapes (Xform.start d) (Xform.words d) 0 with
      | .error j => .error (badField (0x40 + 4 * j))
      | .ok y =>
        .ok { spans := [{ space := du d 0x10 1 % 4, addr := du d 0 8, len := Xform.bytes (Xform.start d) },
                        { space := du d 0x10 1 / 4 % 4, addr := du d 8 8, len := Xform.bytes y, write := true }],
              count := Xform.bytes y }
  | .xpq =>
    let dim (off : Nat) : Bool := decide (32 ≤ du d off 4 ∧ du d off 4 ≤ 65536) && du d off 4 % 32 == 0
    let rows := du d 0x14 4
    let cols := du d 0x18 4
    let sn := cols / 2 + cols / 32 * (1 + du d 0x11 1 % 2)
    let dn := rows / 2 + rows / 32 * (1 + du d 0x11 1 / 2 % 2)
    fails (fieldFault [(0x10, plainSpaces (du d 0x10 1)), (0x11, du d 0x11 1 / 4 == 0), (0x12, du d 0x12 2 == 0), (0x14, dim 0x14),
        (0x18, dim 0x18), (0x1C, du d 0x1C 4 == 0)])
      { spans := (List.range rows).map (fun r =>
            { space := du d 0x10 1 % 4, addr := wrap64 (du d 0 8 + r * ds d 0x20 8), len := sn })
          ++ (List.range cols).map (fun r =>
            { space := du d 0x10 1 / 4 % 4, addr := wrap64 (du d 8 8 + r * ds d 0x28 8), len := dn, write := true }),
        count := cols * dn }
  | .send | .recv =>
    let n := du d 8 4
    fails (fieldFault [(0x0C, decide (du d 0x0C 2 < 4096)), (0x0E, decide (du d 0x0E 1 < 2)), (0x0F, decide (du d 0x0F 1 < 4)),
        (0x14, du d 0x14 12 == 0)])
      { spans := [{ space := du d 0x0E 1, addr := du d 0 8, len := n, write := decide (c.kind = .recv) }], count := n }
  | .coll op =>
    let n := du d 0x10 4
    let agree := CollOp.isAgree op
    let narrow := collNarrow d
    let idx := du d 0x1C 4 % 2 ^ 20
    let w := elemBits (ElemType.ofCode (du d 0x15 1)) / 8
    let dn := if narrow then (s.currentScale idx).rowBytes n else n * w
    match fieldFault [(0x14, plainSpaces (du d 0x14 1)), (0x15, collType (du d 0x15 1)),
        (0x1C, tagPlain (du d 0x1C 4) && (!agree || narrow))] with
    | some t => .error t
    | none =>
      .ok { spans :=
              if agree then []
              else [{ space := du d 0x14 1 % 4, addr := du d 0 8, len := n * (if narrow then 4 else w) },
                    { space := du d 0x14 1 / 4 % 4, addr := du d 8 8, len := dn, write := true }],
            count := if agree then 0 else dn, tag := if narrow then some idx else none }
  | .code =>
    fails (fieldFault [(0x08, decide (du d 8 1 < 12) && du d 8 1 != self), (0x09, du d 9 7 == 0)])
      { spans := [{ space := 1, addr := du d 0 8, len := 256 }] }
  | .adv n =>
    match (s.core.handle c.hd).win with
    | some w =>
      .ok { spans := (List.range n).map (fun i =>
              { space := 0, addr := (w.next + i) % w.slots * w.rowb, len := w.rowb, write := true }),
            count := n * w.rowb }
    | none => .ok {}
  | .wend => .ok {}

/-! ### Bounds (R288, R291, R295) -/

/-- A run's pieces within aligned 64 KiB, the granule of range registers and pages; `fuel` bounds them. -/
def granules : Nat → Nat → Nat → List (Nat × Nat)
  | 0, _, _ => []
  | fuel + 1, a, n =>
    if n = 0 then [] else let m := min n (65536 - a % 65536); (a, m) :: granules fuel (a + m) (n - m)

/-- The core of the cluster that a box names as its peer. -/
def State.peerCore (s : State) (d : List Byte) : Nat := coreCluster s.cur * 16 + Box.peer d
def State.sameGang (s : State) (n : Nat) : Bool := s.core.task.isSome && (s.coreAt n).task == s.core.task

/-- The lowest offence of a run against its bounds; a data-area address counts from the handle's base. -/
def State.spanFault (s : State) (c : CCmd) (d : List Byte) (x : Span) : Option TrapInfo :=
  if x.len = 0 then none
  else if x.space = 0 then
    let base := if c.hd = 63 then 0 else (s.core.handle c.hd).base
    s.core.runsFault c.hd [((base + x.addr) % 2 ^ 64, x.len)]
  else if x.space = 2 then
    let n := s.peerCore d
    if !s.sameGang n then some (leaseFault 0x05 x.addr)
    else
      let size := Part.dataBytes (s.coreAt n).part
      (lowestOutside size 0 size (x.addr, x.len)).map (leaseFault 0x05)
  else
    (granules (x.len / 65536 + 2) x.addr x.len).findSome? (fun g =>
      match s.core.lease g.1 g.2 x.write with | .error t => some t | .ok _ => none)

/-- The offence of the lowest address among all the runs. -/
def State.boundsFault (s : State) (c : CCmd) (d : List Byte) (xs : List Span) : Option TrapInfo :=
  (xs.filterMap (s.spanFault c d)).foldl (fun (m : Option TrapInfo) t =>
    match m with | none => some t | some u => if t.addr < u.addr then some t else some u) none

/-- The own data-area runs that a command reads or writes. -/
def ownRuns (base : Nat) (write : Bool) (xs : List Span) : List (Nat × Nat) :=
  (xs.filter (fun x => x.space == 0 && x.write == write && x.len != 0)).map (fun x => ((base + x.addr) % 2 ^ 64, x.len))

/-! ### The journal (R288 to R292) -/

/-- A handle as it stood before the signals of the cycle, after which C's own transitions come first (R38). -/
def Core.rewind (k : Core) (h : Fin 64) : Core :=
  let b := k.beforeSigs h
  k.setHandle h { k.handle h with st := b.st, widest := b.widest }
/-- The cycle's signals on a handle performed again after C's transition: one that its state now forbids traps its engine (R37, R38). -/
def State.replay (s : State) (h : Fin 64) : State :=
  ((s.core.sample.map (·.sigs)).getD []).foldl (fun s x =>
    if x.1 ≠ h.val then s
    else
      match s.core.perform x.2.2.1.sig with
      | some (k, none) => s.setCore k
      | some (_, some t) =>
        (s.modEng x.2.1 (fun y => { y with parked := if x.2.2.1.after = .nothing then y.parked else none })).lateTrap x.2.1 x.2.2.1.inTrap
          x.2.2.1.pc t
      | none => s) s

/-- A handle's state required by the command's role. -/
def Core.roleOk (k : Core) (c : CCmd) : Bool :=
  c.hd == 63 || (match c.kind with
    | .adv _ => (k.handle c.hd).st == .full && (k.handle c.hd).win.isSome
    | .wend => ((k.handle c.hd).st == .filling || (k.handle c.hd).st == .full) && (k.handle c.hd).win.isSome
    | _ => (k.handle c.hd).st == (if c.drain then .full else .filling))

/-- The handle after a command's issue. -/
def Handle.issued (h : Handle) (c : CCmd) (count : Nat) : Handle :=
  if c.drain then { h with st := .draining }
  else
    match c.kind with
    | .wend => h
    | .adv _ => { h with st := .filling, counted := h.counted - count, pending := h.pending + count, widest := max h.widest c.scope.code }
    | _ => { h with pending := h.pending + count, widest := max h.widest c.scope.code }

/-- A command entered into the journal, its footprint with the checker (R238). -/
def State.enter (s : State) (c : CCmd) (d : List Byte) (off : Nat) (p : Plan) (pair : Option (Nat × Nat)) (row : Nat) :
    Nat × State :=
  let (id, s) := s.fresh
  let base := if c.hd = 63 then 0 else (s.core.handle c.hd).base
  let j : JEntry :=
    { id, pc := (s.eng .C).pc, cmd := c, desc := d, base, count := p.count, tmr := pair, row, cancelled := false, fault := none }
  let f : Footprint :=
    { id, pc := j.pc, handle := if c.hd = 63 ∨ c.drain then none else some c.hd.val,
      reads := (if d.isEmpty then [] else [(off, d.length)]) ++ ownRuns base false p.spans, writes := ownRuns base true p.spans }
  let s := s.modCore (fun k =>
    let k := { k with journal := k.journal ++ [j], checker := k.checker ++ [f] }
    if c.hd = 63 then k else k.setHandle c.hd ((k.handle c.hd).issued c p.count))
  (id, s)

/-- The overrun of a fill-role command (R292). -/
def Core.overrun (k : Core) (c : CCmd) (count : Nat) : Option TrapInfo :=
  if c.hd = 63 ∨ c.drain then none
  else
    match c.kind with
    | .adv _ | .wend => none
    | _ =>
      let h := k.handle c.hd
      if h.expected < h.counted + h.pending + count then some (leaseFault 0x05 (h.base + h.expected)) else none

/-- A fill-role record that differs from a tagged copy's pair (R298). -/
def Core.recordClash (k : Core) (c : CCmd) (pair : Option (Nat × Nat)) : Option TrapInfo :=
  match c.kind, pair with
  | .copy, some (idx, v) =>
    if c.hd = 63 ∨ c.drain then none
    else match (k.handle c.hd).rcd with | some r => if r = (idx, v) then none else some (mixedVersion idx r.2 v) | none => none
  | _, _ => none

/-- The group of a COLL, and whether the package belongs to it (R311). -/
def State.groupOk (s : State) (c : CCmd) (d : List Byte) : Bool :=
  match c.kind with
  | .coll _ => (SMap.get [] s.fab.groups (du d 0x16 2)).contains s.mgmt.pkgId
  | _ => true

/-- Whether the tables let the task's context send to, receive from, or take a step with the packages of a command (R310, R398,
R399). -/
def State.portsOk (s : State) (c : CCmd) (d : List Byte) : Bool :=
  let code (pkg : Nat) : Nat := s.portCode pkg s.taskCtx
  match c.kind with
  | .send => mayWrite (code (du d 0x0C 2))
  | .recv => mayRead (code (du d 0x0C 2))
  | .coll _ => ((SMap.get [] s.fab.groups (du d 0x16 2)).filter (· != s.mgmt.pkgId)).all (fun p => mayRead (code p) && mayWrite (code p))
  | _ => true

/-- The window that a command opens or moves: the row it starts at and the handle's window after it (R305, R306). -/
def Core.windowOf (k : Core) (c : CCmd) (d : List Byte) : Nat × Option Window :=
  match c.kind with
  | .win =>
    (0, some { base := du d 0 8, rstride := ds d 8 8, rowb := du d 0x10 4, trows := du d 0x14 4, slots := du d 0x18 4,
               first := du d 0x1C 4, next := du d 0x18 4 })
  | .adv n => (match (k.handle c.hd).win with | some w => (w.next, some { w with next := w.next + n }) | none => (0, none))
  | _ => (0, (k.handle c.hd).win)

/-- The counts of windows (R305, R306), with the lowest bit of ADV's count field. -/
def Core.windowFault (k : Core) (c : CCmd) : Option TrapInfo :=
  match c.kind with
  | .win => if 4 ≤ (k.handles.toList.filter (fun h => h.win.isSome)).length then some (illegal 0x0A) else none
  | .adv n => (match (k.handle c.hd).win with | some w => if w.slots < n then some (illegal 0x0A) else none | none => none)
  | _ => none

/-- The checks of R288 in their order, with the window rules and the order checker's (R239). Of a group that the context does not
belong to, and of a port that refuses it, the fault's address is the outside's (log 93). -/
def State.commandFault (s : State) (c : CCmd) (d : List Byte) (off : Nat) (p : Plan) : Option TrapInfo :=
  let base := if c.hd = 63 then 0 else (s.core.handle c.hd).base
  if !(s.core.rewind c.hd).roleOk c then some (illegal 0x07 c.hd.val)
  else
    match s.core.windowFault c with
    | some t => some t
    | none =>
      if !s.groupOk c d then some (leaseFault 0x08 s.freeWord.1)
      else if !s.portsOk c d then some (leaseFault 0x04 s.freeWord.1)
      else
        match (if p.empty then none else s.boundsFault c d p.spans).or ((s.core.overrun c p.count).or
            (match p.tag with | some idx => s.tmrFault s.taskCtx idx | none => none)) with
        | some t => some t
        | none =>
          s.orderFault .C ((if d.isEmpty then [] else [(off, d.length)]) ++ ownRuns base false p.spans) (ownRuns base true p.spans)

/-! ### Completion of an entry (R292 to R294) -/

def Core.dropEntry (k : Core) (id : Nat) : Core :=
  { k with journal := k.journal.filter (fun j => j.id != id) }
def Core.dropFootprint (k : Core) (p : Footprint → Bool) : Core := { k with checker := k.checker.filter (fun f => !p f) }

/-- The handle after a fill-role completion, and whether it is now FULL. -/
def Handle.completed (h : Handle) (count : Nat) (fl : Flags) (offer : Option (Nat × Nat)) : Handle × Bool :=
  let h := { h with counted := h.counted + count, pending := h.pending - count, flags := h.flags ||| fl, rcd := h.rcd.or offer }
  if h.st = .filling ∧ h.counted = h.expected then ({ h with st := .full, flags := 0 }, true) else (h, false)

/-- A journal entry complete (R292, R307, R113): a handle that goes to FULL or to FREE hands on what C has acquired (R39, R228).
The flags of a command with no handle, or in drain role, reach C's FLAGS when its transfer completes (log 91). -/
def Core.complete (k : Core) (j : JEntry) (fl : Flags) (offer : Option (Nat × Nat)) : Core :=
  let k := k.dropEntry j.id
  let c := j.cmd
  if c.hd = 63 then (k.raiseC fl).dropFootprint (fun f => f.id == j.id)
  else if c.drain ∨ c.kind = .wend then
    let h := (k.handle c.hd).toFree
    (((k.setHandle c.hd (if c.kind = .wend then { h with win := none } else h)).raiseC fl).learnAll (k.clock .C)).dropFootprint
      (fun f => f.id == j.id)
  else
    let (h, full) := (k.handle c.hd).completed j.count fl offer
    let flags := (k.handle c.hd).flags ||| fl
    let k := k.setHandle c.hd h
    if full then ((k.raiseC flags).learnAll (k.clock .C)).dropFootprint (fun f => f.handle == some c.hd.val) else k

/-- Whether the completion would make the handle FULL, a release at its widest scope that the core does not yet meet
(R292, R227, R243). -/
def State.owesRelease (s : State) (j : JEntry) (offer : Option (Nat × Nat)) : Bool :=
  !(j.cmd.hd == 63 || j.cmd.drain || j.cmd.kind == .wend) && ((s.core.handle j.cmd.hd).completed j.count 0 offer).2
    && (s.core.handle j.cmd.hd).widest != 0 && !s.released
/-- Whether a command still awaits acknowledgements: under .wi those of its writes, and under every policy those of the values that it
recalled (R250). -/
def State.owesAcks (s : State) (j : JEntry) : Bool :=
  s.coh.invals.any (fun i => i.req == some j.id && (j.cmd.pol == .wi || i.writer.isNone))
/-- A command whose moves are made, still in flight. -/
def State.holdEntry (s : State) (j : JEntry) (fl : Flags) (offer : Option (Nat × Nat)) : State :=
  s.modCore (fun k => { k with journal := k.journal.map (fun x => if x.id = j.id then { x with moved := some (fl, offer) } else x) })
/-- A command whose moves are made: complete, or held until its acknowledgements are in and its release is done. A RECV's message
acquires at system scope what its SEND released: no copy that is older outlives its completion (R231). -/
def State.finishEntry (s : State) (j : JEntry) (fl : Flags) (offer : Option (Nat × Nat)) : State :=
  if s.owesAcks j || s.owesRelease j offer then
    (if s.owesRelease j offer then s.pushRelease .sys else s).holdEntry j fl offer
  else (if j.cmd.kind = .recv then s.acquireNow s.cur else s).modCore (fun k => k.complete j fl offer)

/-! ### The issue of a C command (R287 to R289, R227) -/

/-- Whether the release of a command's issue is done: C's own transfers stand in no program order with it (R227, R231). -/
def State.issueReleased (s : State) (scope : Scope) : Bool := s.settled .C s.nextId && (scope == .core || s.released)

/-- A command past its checks: the release of its issue, then the journal, or its completion at once where it moves
nothing (R296). -/
def State.commandEffect (s : State) (c : CCmd) (d : List Byte) (off : Nat) (p : Plan) (pair : Option (Nat × Nat × Scale)) : Res :=
  if !s.issueReleased c.scope then .stall (fun s => s.pushRelease c.scope)
  else
    let (row, win) := s.core.windowOf c d
    let s := if c.hd = 63 then s else s.modCore (·.rewind c.hd)
    let s := match c.kind, pair with
      | .copy, some (i, v, _) => s.keepVersion i v
      | .copyc, some (i, v, _) => (if Box.mode d = 2 then s.keepVersion i v else s).cacheTmr s.taskCtx i
      | _, _ => s
    let (id, s) := s.enter c d off p (pair.map (fun x => (x.1, x.2.1))) row
    let s := if c.hd = 63 then s else s.modCore (fun k => k.setHandle c.hd { k.handle c.hd with win })
    let s := match p.empty, s.core.journal.find? (fun j => j.id == id) with
      | true, some j => s.finishEntry j 0 none
      | _, _ => s
    .done (if c.hd = 63 then s else s.replay c.hd)

/-- The descriptor's address in the data area. -/
def Core.descAt (k : Core) (r : Fin 16) (off : BitVec 16) : Nat := (k.readK .C r + off.zeroExtend 64 * 16).toNat

/-- The descriptor's bytes as the command reads them beside unordered writes in flight (R240). -/
def State.descriptor (s : State) (off n : Nat) : List Byte :=
  let is := (s.core.unordered .C 0 [(off, n)] []).flatMap (fun x => x.1.old)
  if is.isEmpty then s.core.readData off n
  else SMap.getRange 0 (mixReads (s.nextId * 2 ^ 100 + 2 ^ 97) is [(off, n)] s.core.data) off n

/-- THE ISSUE OF A C COMMAND with a descriptor of `n` bytes. -/
def State.cissue (s : State) (h : Hdr) (c : CCmd) (r : Fin 16) (o : BitVec 16) (n : Nat) : Out :=
  .next (s.issue .C h { handles := vmHandle c.hd } false (fun s =>
    if 64 ≤ s.core.journal.length ∨ s.ordered .C s.nextId then .stall id
    else
      let off := s.core.descAt r o
      if Part.dataBytes s.core.part < off + n then .trap id (leaseFault 0x05 off)
      else if let some t := s.core.sramFault [(off, n)] then .trap (fun s => s.logSram .C t) t
      else
        let d := s.descriptor off n
        if !s.issueTmrReady c d then .stall (fun s => s.issueTmrTouch c d)
        else
          let pair := s.issuePair c d
          let sc := match pair with | .ok (some (_, _, sc)) => some sc | _ => none
          match s.plan c d sc with
          | .error t => .trap id t
          | .ok p =>
            match s.commandFault c d off p with
            | some t => .trap (fun s => s.freeWord.2) t
            | none =>
              match pair with
              | .error t => if p.empty then s.commandEffect c d off p none else .trap (fun s => s.issueTmrTouch c d) t
              | .ok x =>
                match s.core.recordClash c (x.map (fun y => (y.1, y.2.1))) with
                | some t => if p.empty then s.commandEffect c d off p none else .trap id t
                | none => (s.issueTmrTouch c d).commandEffect c d off p x))

def execCopy (h : Hdr) (hd : Fin 64) (k : Fin 16) (off : BitVec 16) (pol : Policy) (scope : Scope) (drain : Bool) (s : State) : Out :=
  s.cissue h ⟨.copy, hd, pol, scope, drain⟩ k off 64
def execCopyc (h : Hdr) (hd : Fin 64) (k : Fin 16) (off : BitVec 16) (pol : Policy) (scope : Scope) (drain : Bool) (s : State) : Out :=
  s.cissue h ⟨.copyc, hd, pol, scope, drain⟩ k off 64
def execGather (h : Hdr) (hd : Fin 64) (k : Fin 16) (off : BitVec 16) (pol : Policy) (scope : Scope) (drain : Bool) (s : State) : Out :=
  s.cissue h ⟨.gather, hd, pol, scope, drain⟩ k off 48
def execScatter (h : Hdr) (hd : Fin 64) (k : Fin 16) (off : BitVec 16) (pol : Policy) (scope : Scope) (drain : Bool) (s : State) : Out :=
  s.cissue h ⟨.scatter, hd, pol, scope, drain⟩ k off 48
def execFill (h : Hdr) (hd : Fin 64) (k : Fin 16) (off : BitVec 16) (pol : Policy) (scope : Scope) (drain : Bool) (s : State) : Out :=
  s.cissue h ⟨.fill, hd, pol, scope, drain⟩ k off 64
def execWin (h : Hdr) (hd : Fin 64) (k : Fin 16) (off : BitVec 16) (pol : Policy) (scope : Scope) (s : State) : Out :=
  s.cissue h ⟨.win, hd, pol, scope, false⟩ k off 32
def execXform (h : Hdr) (hd : Fin 64) (k : Fin 16) (off : BitVec 16) (pol : Policy) (scope : Scope) (drain : Bool) (s : State) : Out :=
  s.cissue h ⟨.xform, hd, pol, scope, drain⟩ k off 128
def execXpq (h : Hdr) (hd : Fin 64) (k : Fin 16) (off : BitVec 16) (pol : Policy) (scope : Scope) (drain : Bool) (s : State) : Out :=
  s.cissue h ⟨.xpq, hd, pol, scope, drain⟩ k off 48
def execSend (h : Hdr) (hd : Fin 64) (k : Fin 16) (off : BitVec 16) (pol : Policy) (drain : Bool) (s : State) : Out :=
  s.cissue h ⟨.send, hd, pol, .sys, drain⟩ k off 32
def execRecv (h : Hdr) (hd : Fin 64) (k : Fin 16) (off : BitVec 16) (pol : Policy) (drain : Bool) (s : State) : Out :=
  s.cissue h ⟨.recv, hd, pol, .sys, drain⟩ k off 32
def execColl (h : Hdr) (hd : Fin 64) (k : Fin 16) (off : BitVec 16) (pol : Policy) (op : CollOp) (drain : Bool) (s : State) : Out :=
  s.cissue h ⟨.coll op, hd, pol, .sys, drain⟩ k off 32
def execCPref (h : Hdr) (k : Fin 16) (off : BitVec 16) (pol : Policy) (scope : Scope) (s : State) : Out :=
  s.cissue h ⟨.pref, 63, pol, scope, false⟩ k off 64
def execCode (h : Hdr) (k : Fin 16) (off : BitVec 16) (pol : Policy) (scope : Scope) (s : State) : Out :=
  s.cissue h ⟨.code, 63, pol, scope, false⟩ k off 16
def execCflush (h : Hdr) (hd : Fin 64) (k : Fin 16) (off : BitVec 16) (pol : Policy) (scope : Scope) (drain : Bool) (s : State) : Out :=
  s.cissue h ⟨.cflush, hd, pol, scope, drain⟩ k off 64

/-- A command without a descriptor: ADV and WEND. -/
def State.cwindow (s : State) (h : Hdr) (c : CCmd) : Out :=
  .next (s.issue .C h { handles := vmHandle c.hd } false (fun s =>
    if 64 ≤ s.core.journal.length ∨ s.ordered .C s.nextId then .stall id
    else
      match s.plan c [] none with
      | .error t => .trap id t
      | .ok p =>
        match s.commandFault c [] 0 p with
        | some t => .trap id t
        | none => s.commandEffect c [] 0 p none))
def execAdv (h : Hdr) (hd : Fin 64) (pol : Policy) (scope : Scope) (n : BitVec 9) (s : State) : Out :=
  s.cwindow h ⟨.adv (n.toNat + 1), hd, pol, scope, false⟩
def execWend (h : Hdr) (hd : Fin 64) (pol : Policy) (scope : Scope) (s : State) : Out :=
  s.cwindow h ⟨.wend, hd, pol, scope, false⟩

end Sys2Proof.Machine
end

