-- ==== Sys2Proof/Machine/Transfer.lean ====
section
/-! DEFINITION. C's transfers: their reads and writes, their completion and their faults (spec/13 R290 to R313, 08
R213). -/

namespace Sys2Proof.Machine

/-- A part of a transfer: what it reads, what it makes of the bytes, and the runs that take the result in order. -/
structure Move where
  reads : List Span
  writes : List Span
  make : List Byte → List Byte × Flags

/-- What stops a transfer: something it waits for, or a fault, each with what it leaves behind. Of the moves `made` any number, in
order, may have been made before the fault (R290). -/
inductive Stop where
  | wait (f : State → State)
  | fault (f : State → State) (t : TrapInfo) (made : List Move := [])

/-- The moves that may have been made before a fault. -/
def Stop.under (ms : List Move) : Stop → Stop
  | .wait f => .wait f
  | .fault f t _ => .fault f t ms
/-- A stop met after a state that stands. -/
def Stop.past (s : State) : Stop → Stop
  | .wait f => .wait (fun _ => f s)
  | .fault f t ms => .fault (fun _ => f s) t ms

/-! ### Bytes of a space (R297, R302) -/

/-- A run's pieces within lines; `fuel` bounds them. -/
def linePieces : Nat → Nat → Nat → List (Nat × Nat)
  | 0, _, _ => []
  | fuel + 1, a, n => if n = 0 then [] else let m := min n (64 - a % 64); (a, m) :: linePieces fuel (a + m) (n - m)
def Span.pieces (x : Span) : List (Nat × Nat) := linePieces (x.len / 64 + 2) x.addr x.len

def State.unreachable (s : State) (pkg : Nat) : Bool := s.fab.down.contains pkg

/-- C's access within one line: its lease, layer and translation, once its request finds room among the core's 4,096 (R269, R395). -/
def State.reachC (s : State) (va n : Nat) (write : Bool) : Acc :=
  if s.noRoom .C 1 then .wait id else s.accessAt .C va n write

/-- C as a requester of an entry's access at the home (R242). -/
def State.cReq (s : State) (j : JEntry) (a n va : Nat) : Req :=
  let ctx := s.spaceOf va
  { id := j.id, core := s.cur, eng := .C, kind := .store, pol := j.cmd.pol, inv := false, addr := a, size := n, va, ctx,
    ia := vaImage va, data := 0, wb := [], seq := none, ncon := 0, stage := .done, delegable := s.delegable ctx (vaImage va) }

/-- Whether a line takes an entry's access: no other request holds it BUSY under any name, no posted write of it waits, and what the core
itself has sent home of it has been applied (R246, R248). -/
def State.lineFree (s : State) (j : JEntry) (line : Nat) : Bool :=
  (s.aliasLines line).all (fun l => (s.dirOf l).busy.isNone || (s.dirOf l).busy == some j.id)
    && !s.coh.posted.any (fun p => lineOf (paOf p.1) == paOf line)
    && !s.coh.reqs.any (fun r => r.core == s.cur && r.stage == .sent && !r.wb.isEmpty && lineOf r.addr == lineOf line)

/-- Words of a line that other cores own, taken back: their values are the home's latest writes (R249, R250). -/
def State.takeBack (s : State) (r : Req) (ks : List Nat) : State :=
  let line := lineOf r.addr
  let theirs := ks.filter (fun k => match (s.dirOf line).ownerOf k with | some x => x != r.core | none => false)
  if theirs.isEmpty then s else (theirs.foldl State.recallWord s).sendInvals line none false r.delegable r.id

/-- A line made ready at its home for C's access to some words: what the host must give, a line that may not be delegated returned,
the core's own dirty copies first (R246, R251, R257). -/
def State.readyC (s : State) (r : Req) (ks : List Nat) (write : Bool) : State :=
  let line := lineOf r.addr
  let s := s.obtainHost line write
  let s := if r.delegable ∨ (s.dirOf line).lst = 0 then s else s.modDir line Dir.returned
  let wb := s.core.dirtyWords (fun k => ks.contains k)
  let s := if write then s.takeBack r ks else s.takeBack r (wb.map (·.1))
  let s := s.modCore (fun c => wb.foldl (fun c w => c.dropL1 w.1) c)
  s.applyWords r wb false

/-- Bytes of one line with its tag, read as a .wt load reads (R242, R297). What a peer's page holds is the outside's. -/
def State.readPiece (s : State) (j : JEntry) (va n : Nat) : Except Stop (List Byte × BitVec 4 × State) :=
  match s.reachC va n false with
  | .trap f t => .error (.fault f t)
  | .wait f => .error (.wait f)
  | .peer pkg _ _ s' =>
    if s.unreachable pkg then .error (.fault id (uncorrectable 0x02 va))
    else
      .ok ((List.range n).map (fun i => Config.freeByte (s'.nextId * 2 ^ 100 + 2 ^ 40 + i)), 0, { s' with nextId := s'.nextId + 1 })
  | .go a s' =>
    let line := lineOf a
    if !s'.lineFree j line then .error (.wait id)
    else if s'.hostOf line = 2 then .error (.wait (fun s => s.snoopFor line false))
    else
      let ks := wordKeys a n
      let r := s'.cReq j a n va
      let s' := (s'.readyC r ks false).readDecode line
      if s'.poisoned line then
        .error (.fault (fun s => (s.readDecode line).logConsumed s.cur .C line) (uncorrectable 0x01 va))
      else
        let s' := (s'.noteRead r).refreshWords s'.cur ks
        .ok (s'.readNow a n, s'.tagOf line, s')

/-- Bytes of one line written, under a TMR's tag or none, as a .wi store under .wi and as a .wt store else (R242, R250, R297). A
write to a peer's page leaves by the port that reaches it (log 90). -/
def State.writePiece (s : State) (j : JEntry) (va : Nat) (bs : List Byte) (tag : Option (Nat × Nat)) : Except Stop State :=
  match s.reachC va bs.length true with
  | .trap f t => .error (.fault f t)
  | .wait f => .error (.wait f)
  | .peer pkg pctx ia s' =>
    if s.unreachable pkg then .error (.fault id (uncorrectable 0x02 va))
    else
      let m : Msg := { port := s.portTo pkg, pkg, mtag := pctx * 2 ^ 52 + ia, len := bs.length, data := bs }
      .ok { s' with fab := { s'.fab with sent := s'.fab.sent ++ [m] } }
  | .go a s' =>
    let line := lineOf a
    if !s'.lineFree j line then .error (.wait id)
    else if s'.hostOf line ≠ 0 then .error (.wait (fun s => s.snoopFor line true))
    else if !isHost a && tag.any (fun x => !(s'.tmrReady s'.taskCtx x.1 && !s'.tmrQueued s'.taskCtx x.1)) then
      -- COVER is updated in the same step as the write (R197)
      .error (.wait (fun s => match tag with | some x => s.tmrSnoop s.taskCtx x.1 | none => s))
    else
      let r := s'.cReq j a bs.length va
      let ws := pieces a bs.length (ofBytes bs)
      let s' := s'.readyC r (ws.map (·.1)) true
      let wi := j.cmd.pol == .wi
      match tag with
      | some (idx, v) =>
        let old := s'.tagOf line
        let s' := s'.applyWords r ws wi (BitVec.ofNat 4 v)
        .ok (if isHost a then s' else s'.updateTmr s'.taskCtx idx (.cover old v))
      | none => .ok (s'.applyWords r ws wi)

/-- A read of a core's data area by C, which a soft error there stops (R419). -/
def Core.readPool (k : Core) (o n : Nat) : Except Stop (List Byte) :=
  match k.sramFault [(o, n)] with
  | some t => .error (.fault (fun s => s.logSram .C t) t)
  | none => .ok (k.readData o n)

/-- A run read: its bytes, and the tags of its lines in order. -/
def State.readSpan (s : State) (j : JEntry) (x : Span) : Except Stop (List Byte × List (BitVec 4) × State) :=
  if x.space = 0 then (s.core.readPool ((j.base + x.addr) % 2 ^ 64) x.len).map (fun bs => (bs, [], s))
  else if x.space = 2 then ((s.coreAt (s.peerCore j.desc)).readPool x.addr x.len).map (fun bs => (bs, [], s))
  else
    x.pieces.foldl (fun r p =>
      match r with
      | .error e => .error e
      | .ok (bs, ts, s) => (s.readPiece j p.1 p.2).map (fun q => (bs ++ q.1, ts ++ [q.2.1], q.2.2))) (.ok ([], [], s))
def State.writeSpan (s : State) (j : JEntry) (x : Span) (bs : List Byte) (tag : Option (Nat × Nat)) : Except Stop State :=
  if x.space = 0 then .ok (s.modCore (fun k => k.writeData ((j.base + x.addr) % 2 ^ 64) bs))
  else if x.space = 2 then .ok (s.modCoreAt (s.peerCore j.desc) (fun k => k.writeData x.addr bs))
  else
    (x.pieces.foldl (fun (r : Except Stop (State × List Byte)) p =>
      match r with
      | .error e => .error e
      | .ok (s, bs) => (s.writePiece j p.1 (bs.take p.2) tag).map (fun s => (s, bs.drop p.2))) (.ok (s, bs))).map (·.1)

/-! ### Moves -/

def Move.size (m : Move) : Nat := m.writes.foldl (fun n x => n + x.len) 0
def State.move (s : State) (j : JEntry) (m : Move) (tag : Option (Nat × Nat)) : Except Stop (State × Flags) :=
  match m.reads.foldl (fun (r : Except Stop (List Byte × State)) x =>
      match r with
      | .error e => .error e
      | .ok (bs, s) => (s.readSpan j x).map (fun q => (bs ++ q.1, q.2.2))) (.ok ([], s)) with
  | .error e => .error e
  | .ok (bs, s) =>
    let out := m.make bs
    (m.writes.foldl (fun (r : Except Stop (State × List Byte)) x =>
      match r with
      | .error e => .error e
      | .ok (s, bs) => (s.writeSpan j x (bs.take x.len) tag).map (fun s => (s, bs.drop x.len))) (.ok (s, out.1))).map
      (fun q => (q.1, out.2))
def State.moves (s : State) (j : JEntry) (ms : List Move) (tag : Option (Nat × Nat)) : Except Stop (State × Flags) :=
  ms.foldl (fun (r : Except Stop (State × Flags)) m =>
    match r with
    | .error e => .error e
    | .ok (s, fl) => (s.move j m tag).map (fun q => (q.1, fl ||| q.2))) (.ok (s, 0))
/-- The moves that a faulting transfer has made: those before its fault within a count of bytes. -/
def State.movesUpTo (s : State) (j : JEntry) (tag : Option (Nat × Nat)) : List Move → Nat → State
  | [], _ => s
  | m :: ms, n =>
    if n < m.size then s
    else match s.move j m tag with | .ok (s, _) => s.movesUpTo j tag ms (n - m.size) | .error _ => s

/-! ### What each command moves -/

/-- Element codes of a byte row, and back. -/
def codesOf (w : Nat) (bs : List Byte) : List Nat :=
  if w < 8 then unpack4 bs else (chunks (w / 8) bs.length bs).map ofBytes
def bytesOfCodes (w : Nat) (cs : List Nat) : List Byte := if w < 8 then pack4 cs else cs.flatMap (toBytes (w / 8))

/-- COPYC's conversion of `n` elements of a row (R303). -/
def Cvt.row (d : List Byte) (sc : Scale) (n : Nat) (bs : List Byte) : List Byte × Flags :=
  match Box.mode d with
  | 0 =>
    let rs := (codesOf (elemBits (srcType d)) bs).map (convert (srcType d) (dstType d) (rm d) (sat d))
    (bytesOfCodes (elemBits (dstType d)) (rs.map (·.1)), orFlags (rs.map (·.2)))
  | 1 =>
    let rs := (sc.decodeRow n bs).map (quant1 (dstType d) (rm d) (sat d))
    (bytesOfCodes (elemBits (dstType d)) (rs.map (·.1)), orFlags (rs.map (·.2)))
  | _ =>
    let r := sc.encodeRow (rm d) (sat d) ((codesOf (elemBits (srcType d)) bs).map (decodeVal (srcType d)))
    (r.1, orFlags (r.2.map (·.2)))

/-- XPQ's matrix (R189, R309). -/
def requantise (rows cols : Nat) (old8 new8 : Bool) (bs : List Byte) : List Byte × Flags :=
  let sOld : ElemType := if old8 then .e8f2 else .e8m0
  let w := if old8 then 2 else 1
  let sn := cols / 2 + cols / 32 * w
  let src := chunks sn rows bs
  let vals : List (List Val) := src.map (fun r =>
    let es := unpack4 (r.take (cols / 2))
    let ss := (chunks w cols (r.drop (cols / 2))).map (fun b => decodeVal sOld (ofBytes b))
    es.zipIdx.map (fun e => Val.mul (decodeVal .e2m1 e.1) ((ss[e.2 / 32]?).getD (.nan false))))
  let out := (List.range cols).map (fun i =>
    let v := vals.map (fun r => (r[i]?).getD Val.zero)
    let blocks := (chunks 32 rows v).map (mxBlock new8 .rna)
    (pack4 (blocks.flatMap (fun b => b.2.map (·.1))) ++ blocks.flatMap (fun b => toBytes (if new8 then 2 else 1) b.1),
     orFlags (blocks.flatMap (fun b => b.2.map (·.2)))))
  (out.flatMap (·.1), orFlags (out.map (·.2)))

/-- The index list of a GATHER or SCATTER (R304): where it lies, and its indices. -/
def JEntry.listRun (j : JEntry) : Nat × Nat := ((j.base + du j.desc 0x10 8) % 2 ^ 64, 4 * du j.desc 0x1C 4)
def State.indexList (s : State) (j : JEntry) : List Int :=
  let bs := s.core.readData j.listRun.1 j.listRun.2
  (chunks 4 bs.length bs).map (fun b => signedOf 32 (ofBytes b))

/-- The moves of an entry; `sc` is the scale of a COPYC. -/
def State.entryMoves (s : State) (j : JEntry) (sc : Scale) : List Move :=
  let d := j.desc
  let same (bs : List Byte) : List Byte × Flags := (bs, 0)
  match j.cmd.kind with
  | .copy =>
    let n := Box.ext d 0
    (Box.rows d).map (fun r =>
      { reads := [{ space := Box.srcSpace d, addr := r.1, len := n }],
        writes := [{ space := Box.dstSpace d, addr := r.2, len := n, write := true }], make := same })
  | .copyc =>
    let (sn, dn) := Cvt.rowBytes d (some sc)
    (Box.rows d).map (fun r =>
      { reads := [{ space := Box.srcSpace d, addr := r.1, len := sn }],
        writes := [{ space := Box.dstSpace d, addr := r.2, len := dn, write := true }], make := Cvt.row d sc (Box.ext d 0) })
  | .fill =>
    let n := Box.ext d 0
    let row := (List.range n).map (fun i => BitVec.ofNat 8 (Box.src d / 256 ^ (i % 8)))
    (Box.rows d).map (fun r =>
      { reads := [], writes := [{ space := Box.dstSpace d, addr := r.2, len := n, write := true }], make := fun _ => (row, 0) })
  | .gather | .scatter =>
    let n := du d 0x18 4
    let gather := decide (j.cmd.kind = .gather)
    let xs := s.indexList j
    xs.zipIdx.flatMap (fun x =>
      -- of a row that several positions of a SCATTER name, the highest position stands
      let valid := decide (0 ≤ x.1 ∧ x.1 < (du d 0x28 4 : Int)) && (gather || !(xs.drop (x.2 + 1)).contains x.1)
      let table : Span := { space := 1, addr := wrap64 ((du d 0 8 : Int) + x.1 * ds d 0x20 8), len := n, write := !gather }
      let pack : Span := { space := 0, addr := du d 8 8 + x.2 * n, len := n, write := gather }
      if gather then
        [{ reads := if valid then [table] else [], writes := [pack],
           make := fun bs => (if valid then bs else List.replicate n 0, 0) }]
      else if valid then [{ reads := [pack], writes := [table], make := same }] else [])
  | .win | .adv _ =>
    match (s.core.handle j.cmd.hd).win with
    | none => []
    | some w =>
      (List.range (j.count / w.rowb)).map (fun i =>
        let k := j.row + i
        let x := w.first + k
        { reads := if x < w.trows then [{ space := 1, addr := wrap64 (w.base + x * w.rstride), len := w.rowb }] else [],
          writes := [{ space := 0, addr := k % w.slots * w.rowb, len := w.rowb, write := true }],
          make := fun bs => (if x < w.trows then bs else List.replicate w.rowb 0, 0) })
  | .xform =>
    let x := Xform.start d
    let ws := Xform.words d
    let y := match Xform.shapes x ws 0 with | .ok y => y | .error _ => x
    [{ reads := [{ space := du d 0x10 1 % 4, addr := du d 0 8, len := Xform.bytes x }],
       writes := [{ space := du d 0x10 1 / 4 % 4, addr := du d 8 8, len := Xform.bytes y, write := true }],
       make := fun bs => let r := Xform.run (j.id * 2 ^ 100 + 2 ^ 89) x ws (codesOf (elemBits x.ty) bs) 0; (bytesOfCodes (elemBits y.ty) r.1, r.2) }]
  | .xpq =>
    let rows := du d 0x14 4
    let cols := du d 0x18 4
    let spans := match s.plan j.cmd d none with | .ok p => p.spans | .error _ => []
    [{ reads := spans.filter (!·.write), writes := spans.filter (·.write),
       make := requantise rows cols (du d 0x11 1 % 2 == 1) (du d 0x11 1 / 2 % 2 == 1) }]
  | _ => []

/-! ### Pieces (R224, R297): each word that a copy moves is an access of its own -/

/-- The runs of `n` bytes from an address, as offset and length, cut where words begin. -/
def wordRuns (a n : Nat) : List (Nat × Nat) :=
  (List.range ((a % 4 + n + 3) / 4)).map (fun i =>
    let lo := max a (4 * (a / 4 + i))
    (lo - a, min (a + n) (4 * (a / 4 + i) + 4) - lo))
def JEntry.spanAt (j : JEntry) (x : Span) : Nat := if x.space = 0 then j.base + x.addr else x.addr
/-- A byte-wise move cut into the words of its destination. -/
def Move.cut (j : JEntry) (m : Move) : List Move :=
  match m.reads, m.writes with
  | [], [w] =>
    (wordRuns (j.spanAt w) w.len).map (fun r =>
      { reads := [], writes := [{ w with addr := w.addr + r.1, len := r.2 }], make := fun _ => (((m.make []).1.drop r.1).take r.2, 0) })
  | [x], [w] =>
    (wordRuns (j.spanAt w) w.len).map (fun r =>
      { m with reads := [{ x with addr := x.addr + r.1, len := r.2 }], writes := [{ w with addr := w.addr + r.1, len := r.2 }] })
  | _, _ => [m]
/-- A row of a COPYC whose elements stand alone, cut where a word of its destination begins with an element. -/
def Cvt.cut (j : JEntry) (sc : Scale) (m : Move) : List Move :=
  let d := j.desc
  let n := Box.ext d 0
  let sw := if Box.mode d = 1 then 8 else elemBits (srcType d)
  let dw := if Box.mode d = 2 then 8 else elemBits (dstType d)
  match m.reads, m.writes with
  | [x], [w] =>
    let starts := (List.range n).filter (fun i =>
      i == 0 || (i * sw % 8 == 0 && i * dw % 8 == 0 && (j.spanAt w + i * dw / 8) % 4 == 0))
    (starts.zip (starts.drop 1 ++ [n])).map (fun r =>
      { reads := [{ x with addr := x.addr + r.1 * sw / 8, len := (r.2 - r.1) * sw / 8 }],
        writes := [{ w with addr := w.addr + r.1 * dw / 8, len := (r.2 - r.1) * dw / 8 }], make := Cvt.row d sc (r.2 - r.1) })
  | _, _ => [m]

/-- The global line whose tag a move reads or writes for a TMR: all of a line's bytes go with its tag (R197, R198). -/
def JEntry.tagLine (j : JEntry) (m : Move) : Option Nat :=
  let d := j.desc
  let tagged := match j.cmd.kind with | .copy => Box.tagValid d | .copyc => Box.mode d != 0 | _ => false
  if !tagged then none
  else if Box.srcSpace d = 1 then (m.reads.head?).map (fun x => x.addr / 64)
  else if Box.dstSpace d = 1 then (m.writes.head?).map (fun x => x.addr / 64) else none
/-- Moves of one tagged line joined, others each by itself. -/
def JEntry.grouped (j : JEntry) (ms : List Move) : List (List Move) :=
  if ms.any (fun m => (j.tagLine m).isSome) then
    ((ms.map j.tagLine).eraseDups).map (fun l => ms.filter (fun m => j.tagLine m == l))
  else ms.map (fun m => [m])
/-- The pieces of a transfer: words of byte-wise moves, words or rows of a conversion, lines of a TMR; other commands, and conversions in MX
rows under a TMR, are one piece (log 107). -/
def State.pieces (s : State) (j : JEntry) (sc : Scale) : List (List Move) :=
  let ms := s.entryMoves j sc
  match j.cmd.kind with
  | .copy | .fill | .gather | .scatter | .win | .adv _ => j.grouped (ms.flatMap (·.cut j))
  | .copyc => if Box.mode j.desc ≠ 0 ∧ sc.fmt = 2 then [ms] else j.grouped (ms.flatMap (Cvt.cut j sc))
  | _ => [ms]
/-- What a transfer has still to move. -/
def State.movesLeft (s : State) (j : JEntry) (sc : Scale) : List Move :=
  if j.made.isEmpty then s.entryMoves j sc
  else (((s.pieces j sc).zipIdx).filter (fun p => !j.made.contains p.2)).flatMap (·.1)

/-! ### Versions resolved from line tags (R198, R298) -/

/-- A TMR as a transfer reads it, which waits while it cannot be read, or the fault of reaching it (R389, R417). -/
def State.tmrFor (s : State) (idx : Nat) : Except Stop Nat :=
  if !s.tmrReadable s.taskCtx idx then .error (.wait (fun s => s.tmrTouch .C s.taskCtx idx))
  else (s.tmrLoad s.taskCtx idx).mapError (fun t => .fault (fun s => s.tmrTouch .C s.taskCtx idx) t)

/-- The one version of the lines of some runs, and of those that the transfer has met before. -/
def State.resolveRuns (s : State) (j : JEntry) (idx : Nat) (xs : List Span) : Except Stop (Nat × State) :=
  (s.tmrFor idx).bind (fun t =>
  let r := (xs.flatMap Span.pieces).foldl (fun (r : Except Stop (Option Nat × State)) p =>
    match r with
    | .error e => .error e
    | .ok (v, s) =>
      match s.readPiece j p.1 p.2 with
      | .error e => .error e
      | .ok (_, tag, s) =>
        match Tmr.resolve t tag, v with
        | none, v => .error (.fault id (mixedVersion idx (v.getD noVersion) noVersion))
        | some x, none => .ok (some x, s)
        | some x, some y => if x = y then .ok (v, s) else .error (.fault id (mixedVersion idx y x))) (.ok (j.found, s))
  r.map (fun q => (q.1.getD noVersion, q.2)))

/-- The moves, from the first, whose source lines stand under one version: those that a clash of versions lets be made. -/
def State.resolved (s : State) (j : JEntry) (idx v : Nat) (ms : List Move) : List Move :=
  ms.takeWhile (fun m => match s.resolveRuns j idx m.reads with | .ok q => q.1 == v | .error _ => false)

/-- The scale of a COPYC decode from its source lines: of the first that it examines (R303). -/
def State.decodeScale (s : State) (j : JEntry) : Except Stop (Nat × Scale) :=
  let d := j.desc
  let idx := Box.tagIdx d
  let first : List Span := ((Box.rows d).take 1).map (fun r => { space := 1, addr := r.1, len := 1 })
  match s.tmrFor idx, s.resolveRuns j idx (if j.found.isSome then [] else first) with
  | .error e, _ | _, .error e => .error e
  | .ok t, .ok (v, _) =>
    let sc := imageScale (Tmr.slot t v)
    if sc.fmt = 2 ∧ Box.ext d 0 % 32 ≠ 0 then .error (.fault id (badField 0x10)) else .ok (v, sc)
/-- The version and scale of some moves of a COPYC decode, every line examined. -/
def State.resolveDecode (s : State) (j : JEntry) : Except Stop (Nat × Scale × State) :=
  let idx := Box.tagIdx j.desc
  (s.decodeScale j).bind (fun q =>
    let ms := s.movesLeft j q.2
    ((s.resolveRuns j idx (ms.flatMap (·.reads))).map (fun r => (r.1, q.2, r.2.cacheTmr s.taskCtx idx))).mapError
      (fun e => e.under (s.resolved j idx q.1 ms)))

/-! ### Encodes (R303, R212) -/

/-- The first pass of an encode: its counts. -/
def State.encodeCounts (s : State) (j : JEntry) (sc : Scale) (base : Int) : Counts × Nat :=
  let d := j.desc
  let n := Box.ext d 0
  let (sn, _) := Cvt.rowBytes d (some sc)
  (Box.rows d).foldl (fun (c : Counts × Nat) r =>
    let bs := s.core.readData ((j.base + r.1) % 2 ^ 64) sn
    let vs := (codesOf (elemBits (Cvt.srcType d)) bs).map (decodeVal (Cvt.srcType d))
    (c.1.row base sc.elemType vs (sc.encodeRow (Cvt.rm d) (Cvt.sat d) vs).2, c.2 + n)) ({}, 0)

/-! ### Collectives (R213, R311) -/

/-- A participant's agreement word, and words joined by the maximum of each field. -/
def State.agreementWord (s : State) (t amax : Nat) : Nat :=
  let fmt := tget t 0 0 2
  let σ := match decodeVal .f32 amax with
    | .fin _ n d => if n = 0 then 0 else scaleFor (n, d) fmt (s.policy s.taskCtx (Tmr.policy t)).margin
    | _ => 0x3FB
  (Tmr.seq t + 1) % 2 ^ 16 + 2 ^ 16 * σ + 2 ^ 26 * fmt + 2 ^ 28 * (3 - fmt)
def joinWords (a b : Nat) : Nat :=
  max (bits a 0 16) (bits b 0 16) + 2 ^ 16 * max (bits a 16 10) (bits b 16 10) + 2 ^ 26 * max (bits a 26 2) (bits b 26 2)
    + 2 ^ 28 * max (bits a 28 2) (bits b 28 2)

/-- The agreement: the version agreed on once it is published; until then the COLL waits with its proposal held. -/
def State.agree (s : State) (j : JEntry) (ext : List CollPart) : Except Stop (Nat × State) :=
  let idx := du j.desc 0x1C 4 % 2 ^ 20
  let ctx := s.taskCtx
  (s.tmrFor idx).bind (fun t =>
  if !s.policyReady ctx (Tmr.policy t) then .error (.wait (fun s => s.policyTouch ctx (Tmr.policy t))) else
  let s := s.policyTouch ctx (Tmr.policy t)
  match j.tmr with
  | some (_, v) => if Tmr.holds t v then .ok (v, s) else .error (.wait id)
  | none =>
    let w := ext.foldl (fun w p => joinWords w p.agreement.toNat) (s.agreementWord t (du j.desc 0x18 4))
    if bits w 26 2 + bits w 28 2 ≠ 3 then .error (.fault id (mixedVersion idx noVersion noVersion))
    else
      if !(s.tmrReady ctx idx && !s.tmrQueued ctx idx) then .error (.wait (fun s => s.tmrSnoop ctx idx)) else
      let (t', o) := s.proposeImage ctx t (imageOf (tget t 0 0 2) (tget t 0 2 1) (bits w 16 10) (bits w 0 16))
      let s' := (s.setTmr ctx idx t').modCore (fun k =>
        { k with journal := k.journal.map (fun x => if x.id = j.id then { x with tmr := some (idx, bits w 0 16) } else x) })
      if o = .published then .ok (bits w 0 16, s') else .error (.wait (fun _ => s')))

def CollOp.red : CollOp → RedOp | .max => .max | _ => .sum .rne false
/-- The reduced code of one element, its leaves in rank order in R161's tree, with the flags it raises. -/
def reduceElem (op : CollOp) (ty : ElemType) (leaves : List Nat) : Nat × Flags :=
  (RedOp.reduce (CollOp.red op) ty (leaves.map some)).getD (0, 0)

/-- The element `i` of a list, and the others. -/
def pickOne (l : List Nat) (i : Nat) : Nat × List Nat := ((l[i]?).getD 0, l.eraseIdx i)
/-- The reduced code of one element in some tree: pairs that the outside chooses are combined until one is left (R311, level
0). -/
def reduceSome (op : CollOp) (ty : ElemType) (seed : Nat) : Nat → List Nat → Nat × Flags
  | 0, l => reduceElem op ty l
  | fuel + 1, l =>
    if l.length < 2 then reduceElem op ty l
    else
      let free (k : Nat) : Nat := ofBytes [Config.freeByte (seed + 4 * fuel + k), Config.freeByte (seed + 4 * fuel + k + 1)]
      let a := pickOne l (free 0 % l.length)
      let b := pickOne a.2 (free 2 % a.2.length)
      let x := reduceElem op ty [a.1, b.1]
      let y := reduceSome op ty seed fuel (x.1 :: b.2)
      (y.1, x.2 ||| y.2)

/-- A collective's step, its members' parts given: the flags are those of the member's own quantisation, of the combining and of the
result's quantisation (R311, R113). -/
def State.collective (s : State) (j : JEntry) (op : CollOp) (ext : List CollPart) :
    Except Stop (State × Flags × Option (Nat × Nat)) :=
  let d := j.desc
  let n := du d 0x10 4
  let group := SMap.get [] s.fab.groups (du d 0x16 2)
  let others := group.filter (· != s.mgmt.pkgId)
  if group.any (fun p => s.unreachable p) then .error (.fault id (uncorrectable 0x02 s.freeWord.1))
  else if !(ext.map (·.pkg)).isPerm others || ext.any (fun p => p.agrees && p.elems.length != (if CollOp.isAgree op then 0 else n)) then .error (.wait id)
  else if ext.any (fun p => !p.agrees) then .error (.fault id (badField 0x10))
  else
    let narrow := collNarrow d
    let idx := du d 0x1C 4 % 2 ^ 20
    let agreed : Except Stop (Option Nat × State) := if narrow then (s.agree j ext).map (fun r => (some r.1, r.2)) else .ok (none, s)
    match agreed with
    | .error e => .error e
    | .ok (v, s) =>
      let s := if narrow then s.cacheTmr s.taskCtx idx else s
      if CollOp.isAgree op then .ok (s, 0, v.map (fun v => (idx, v)))
      else
        let past (s0 : State) (r : Except Stop (State × Flags × Option (Nat × Nat))) : Except Stop (State × Flags × Option (Nat × Nat)) :=
          if narrow then r.mapError (Stop.past s0) else r
        past s <|
        let ty : ElemType := if narrow then .f32 else ElemType.ofCode (du d 0x15 1)
        let w := elemBits ty / 8
        let sc := match v with | some v => imageScale (Tmr.slot (s.tmr s.taskCtx idx) v) | none => ⟨0, false, Val.ofInt 1⟩
        match s.readSpan j { space := du d 0x14 1 % 4, addr := du d 0 8, len := n * w } with
        | .error e => .error e
        | .ok (bs, _, s) =>
          let codes := codesOf (elemBits ty) bs
          let own := sc.encodeRow .rna true (codes.map (decodeVal .f32))
          let leaves := (sc.decodeRow n own.1).map (quant1 .f32 .rne false)
          let mine := if narrow then leaves.map (·.1) else codes
          let ranked : List (List Nat) := group.map (fun g =>
            match ext.find? (fun p => p.pkg == g) with | some p => p.elems.map (·.toNat) | none => mine)
          let res := (List.range n).map (fun i =>
            let leaves := ranked.map (fun l => (l[i]?).getD 0)
            if s.detlevel ≠ 0 then reduceElem op ty leaves
            else reduceSome op ty (s.nextId * 2 ^ 100 + 2 ^ 60 + 2 ^ 30 * i) leaves.length leaves)
          let s : State := { s with nextId := s.nextId + 1 }
          let enc := sc.encodeRow .rna true (res.map (fun r => decodeVal .f32 r.1))
          let out := if narrow then enc.1 else bytesOfCodes (elemBits ty) (res.map (·.1))
          let fl := orFlags (res.map (·.2)) ||| (if narrow then orFlags ((own.2 ++ leaves ++ enc.2).map (·.2)) else 0)
          (s.writeSpan j { space := du d 0x14 1 / 4 % 4, addr := du d 8 8, len := out.length, write := true } out
            (v.map (fun v => (idx, v)))).map (fun s => (s, fl, v.map (fun v => (idx, v))))

/-! ### Messages (R310) -/

/-- A message sent by the port that reaches its receiver (log 90), its issue having met the port's table (R398). -/
def State.sendMessage (s : State) (j : JEntry) : Except Stop State :=
  let d := j.desc
  if s.unreachable (du d 0x0C 2) then .error (.fault (fun s => s.freeWord.2) (uncorrectable 0x02 s.freeWord.1))
  else
    (s.readSpan j { space := du d 0x0E 1, addr := du d 0 8, len := du d 8 4 }).map (fun r =>
      let m : Msg :=
        { port := s.portTo (du d 0x0C 2), pkg := du d 0x0C 2, mtag := du d 0x10 4, len := du d 8 4, data := r.1,
          blocks := encodeMessage (du d 0x0F 1) r.1 }
      { r.2.2 with fab := { r.2.2.fab with sent := r.2.2.fab.sent ++ [m] } })

/-- The RECVs posted for a peer and tag, in the order of their issue: each entry with its core. -/
def State.postedRecvs (s : State) (pkg mtag : Nat) : List (Nat × Nat) :=
  sortBy (s.cores.flatMap (fun e => (e.2.journal.filter (fun k =>
    k.cmd.kind == .recv && k.fault.isNone && k.moved.isNone && du k.desc 0x0C 2 == pkg && du k.desc 0x10 4 == mtag)).map (fun k => (k.id, e.1))))
    (fun a b => decide (a.1 ≤ b.1))
/-- Whether an earlier RECV of the package takes the next message of this one's peer and tag. -/
def State.recvBehind (s : State) (j : JEntry) : Bool :=
  s.cores.any (fun e => e.2.journal.any (fun k =>
    k.cmd.kind == .recv && k.fault.isNone && k.moved.isNone && decide (k.id < j.id) && du k.desc 0x0C 2 == du j.desc 0x0C 2
      && du k.desc 0x10 4 == du j.desc 0x10 4))

/-- The complete message that a RECV takes next, by its place among those received. -/
def State.arrived (s : State) (j : JEntry) : Option Nat :=
  if s.recvBehind j then none
  else s.fab.received.findIdx? (fun m => m.pkg == du j.desc 0x0C 2 && m.mtag == du j.desc 0x10 4 && m.data.length == m.len)
def State.recvMessage (s : State) (j : JEntry) : Except Stop State :=
  let d := j.desc
  match s.arrived j with
  | some i =>
    let drop (s : State) : State := { s with fab := { s.fab with received := s.fab.received.eraseIdx i } }
    let data := match s.fab.received[i]? with | some m => m.data | none => []
    if data.length ≠ du d 8 4 then .error (.fault drop (badField 8))
    else (s.writeSpan j { space := du d 0x0E 1, addr := du d 0 8, len := du d 8 4, write := true } data none).map drop
  | none =>
    if s.unreachable (du d 0x0C 2) then .error (.fault (fun s => s.freeWord.2) (uncorrectable 0x02 s.freeWord.1))
    else .error (.wait id)

/-! ### CODE and CFLUSH (R301, R313) -/

/-- A code object preloaded into another core of the cluster, its rings partitioned by the object's ring fields; the load is abandoned
silently where the target is taken or the object fails R87. -/
def State.preloadCode (s : State) (j : JEntry) : Except Stop State :=
  let va := du j.desc 0 8
  let n := coreCluster s.cur * 16 + du j.desc 8 1
  if (s.coreAt n).task.isSome || (s.die (coreDie n)).reserved.contains n then .ok s
  else
    match s.readSpan j { space := 1, addr := va, len := 256 } with
    | .error e => .error e
    | .ok (hd, _, s) =>
      let size := recordField hd 16 8
      -- the lowest byte of the file outside the leases (R288, R384)
      match (granules (size / 65536 + 2) va size).findSome? (fun g =>
          match s.core.lease g.1 g.2 false with | .error t => some t | .ok _ => none) with
      | some t => .error (.fault id t)
      | none =>
        (s.readSpan j { space := 1, addr := va, len := size }).map (fun q =>
          match Sof.parse q.1 with
          | none => q.2.2
          | some o => q.2.2.modCoreAt n (fun k => k.loadRings q.1 o (s.spaceOf va) (vaImage va) o.part))

/-- The lines of C PREF's box asked for: those out of bounds, poisoned or that cannot be reached now are skipped, and the L1 stays as it
is (R300). -/
def State.prefetch (s : State) (j : JEntry) : State :=
  ((Box.spans j.desc (Box.ext j.desc 0) 0).filter (fun x => !x.write)).flatMap Span.pieces |>.foldl (fun s p =>
    match s.reachC p.1 p.2 false with
    | .go a s' =>
      let line := lineOf a
      if !s'.lineFree j line ∨ s'.hostOf line = 2 then s
      else
        let s' := s'.readDecode line
        if s'.poisoned line then s else s'.noteRead (s'.cReq j a p.2 p.1)
    | _ => s) s

/-- Lines written back to memory and dropped from the slices (R301). -/
def State.flushLines (s : State) (j : JEntry) (xs : List Span) : Except Stop State :=
  (xs.flatMap Span.pieces).foldl (fun (r : Except Stop State) p =>
    match r with
    | .error e => .error e
    | .ok s =>
      match s.reachC p.1 p.2 false with
      | .trap f t => .error (.fault f t)
      | .wait f => .error (.wait f)
      | .peer _ _ _ s => .ok s
      | .go a s => if !s.lineFree j (lineOf a) then .error (.wait id) else .ok (s.modDir (lineOf a) Dir.flushed)) (.ok s)

/-! ### A transfer as a whole -/

def plainScale : Scale := ⟨0, false, Val.ofInt 1⟩

/-- The scale of a COPYC's recorded pair. -/
def State.pairScale (s : State) (p : Option (Nat × Nat)) : Scale :=
  match p with | some (idx, v) => imageScale (Tmr.slot (s.tmr s.taskCtx idx) v) | none => plainScale

/-- Whether writes carry the entry's pair as their tag. -/
def JEntry.tagged (j : JEntry) : Option (Nat × Nat) :=
  match j.cmd.kind with
  | .copy => if Box.dstSpace j.desc = 1 then j.tmr else none
  | .copyc => if Box.mode j.desc = 2 ∧ Box.dstSpace j.desc = 1 then j.tmr else none
  | _ => none

/-- What an entry reads of the data area before it moves anything: a list of indices, or the source of an encode's first
pass. -/
def JEntry.firstReads (j : JEntry) (sc : Scale) : List (Nat × Nat) :=
  match j.cmd.kind with
  | .gather | .scatter => [j.listRun]
  | .copyc =>
    if Box.mode j.desc = 2 then
      (Box.rows j.desc).map (fun r => ((j.base + r.1) % 2 ^ 64, (Cvt.rowBytes j.desc (some sc)).1))
    else []
  | _ => []

/-- An encode's first pass, once for its transfer: the statistics and the fault test (R212, R303). -/
def State.firstPass (s : State) (j : JEntry) : Except Stop State :=
  let idx := Box.tagIdx j.desc
  if !j.made.isEmpty then .ok s
  else
    (s.tmrFor idx).bind (fun t =>
      if !s.policyReady s.taskCtx (Tmr.policy t) then .error (.wait (fun s => s.policyTouch s.taskCtx (Tmr.policy t)))
      else if s.feedWaits idx then .error (.wait (fun s => s.tmrSnoop s.taskCtx idx))
      else
        let s := (s.policyTouch s.taskCtx (Tmr.policy t)).cacheTmr s.taskCtx idx
        let (counts, n) := s.encodeCounts j (s.pairScale j.tmr) (Tmr.base t)
        if (s.policy s.taskCtx (Tmr.policy t)).faultLim * n < counts.ovf * 65536 then
          .error (.fault (fun s => s.feed idx counts) (overflowFault idx counts.ovf))
        else .ok (s.feed idx counts))

/-- An entry past those reads performed, as far as its pieces have not been made: the state after it, its flags and the pair it offers. -/
def State.performBody (s : State) (j : JEntry) (ext : List CollPart) : Except Stop (State × Flags × Option (Nat × Nat)) :=
  let d := j.desc
  -- the moves under a scale, those made before a fault standing
  let plain (s : State) (sc : Scale) (tag o : Option (Nat × Nat)) : Except Stop (State × Flags × Option (Nat × Nat)) :=
    let ms := s.movesLeft j sc
    ((s.moves j ms tag).map (fun q => (q.1, q.2, o))).mapError (Stop.under ms)
  let flat (r : Except Stop State) : Except Stop (State × Flags × Option (Nat × Nat)) := r.map (fun s => (s, 0, none))
  match j.cmd.kind with
  | .copy =>
    if Box.tagValid d ∧ Box.srcSpace d = 1 then
      let idx := Box.tagIdx d
      let ms := s.movesLeft j plainScale
      let xs := ms.flatMap (·.reads)
      match s.resolveRuns j idx xs with
      | .error e =>
        let v := match s.resolveRuns j idx (if j.found.isSome then [] else xs.take 1) with | .ok q => q.1 | .error _ => noVersion
        .error (e.under (s.resolved j idx v ms))
      | .ok (v, s) => plain s plainScale none (some (idx, v))
    else plain s plainScale j.tagged j.tmr
  | .copyc =>
    if Box.mode d = 1 ∧ Box.srcSpace d = 1 then
      match s.resolveDecode j with
      | .error e => .error e
      | .ok (_, sc, s) => plain s sc none none
    else if Box.mode d = 2 then
      match s.firstPass j with
      | .error e => .error e
      | .ok s => plain s (s.pairScale j.tmr) j.tagged j.tmr
    else plain s (s.pairScale j.tmr) none none
  | .fill | .gather | .scatter | .win | .adv _ | .xform | .xpq => plain s plainScale none none
  | .wend => if s.core.journal.any (fun k => k.cmd.kind != .wend && k.cmd.hd == j.cmd.hd) then .error (.wait id) else .ok (s, 0, none)
  | .send => flat (s.sendMessage j)
  | .recv => flat (s.recvMessage j)
  | .coll op => s.collective j op ext
  | .pref => .ok (s.prefetch j, 0, none)
  | .code => flat (s.preloadCode j)
  | .cflush =>
    flat (s.flushLines j ((Box.rows d).map (fun r => { space := 1, addr := r.1, len := Box.ext d 0 })))

/-- An entry performed. -/
def State.performEntry (s : State) (j : JEntry) (ext : List CollPart) : Except Stop (State × Flags × Option (Nat × Nat)) :=
  match s.core.sramFault (j.firstReads (s.pairScale j.tmr)) with
  | some t => .error (.fault (fun s => s.logSram .C t) t)
  | none => s.performBody j ext

/-- ONE PIECE of a transfer made by itself (R224, R297): the state after it, its flags, and the version its lines resolve to. -/
def State.performPiece (s : State) (j : JEntry) (k : Nat) : Except Stop (State × Flags × Option Nat) :=
  let d := j.desc
  let go (s : State) (sc : Scale) (tag : Option (Nat × Nat)) (v : Option Nat) : Except Stop (State × Flags × Option Nat) :=
    match (s.pieces j sc)[k]? with
    | some ms => (s.moves j ms tag).map (fun q => (q.1, q.2, v))
    | none => .error (.wait id)
  -- a piece whose lines must resolve to the version that the transfer has met
  let under (s : State) (sc : Scale) : Except Stop (State × Flags × Option Nat) :=
    (s.resolveRuns j (Box.tagIdx d) (((s.pieces j sc)[k]?.getD []).flatMap (·.reads))).bind (fun q => go q.2 sc none (some q.1))
  match j.cmd.kind with
  | .copy => if Box.tagValid d ∧ Box.srcSpace d = 1 then under s plainScale else go s plainScale j.tagged none
  | .copyc =>
    if Box.mode d = 1 ∧ Box.srcSpace d = 1 then (s.decodeScale j).bind (fun q => under s q.2)
    else if Box.mode d = 2 then (s.firstPass j).bind (fun s => go s (s.pairScale j.tmr) j.tagged none)
    else go s (s.pairScale j.tmr) none none
  | .fill | .gather | .scatter | .win | .adv _ => go s plainScale none none
  | .wend | .send | .recv | .coll _ | .pref | .code | .cflush | .xform | .xpq => .error (.wait id)

/-- The fault of an offer that a handle's record contradicts (R294). -/
def Core.offerClash (k : Core) (j : JEntry) (offer : Option (Nat × Nat)) : Option TrapInfo :=
  if j.cmd.hd = 63 ∨ j.cmd.drain then none
  else
    match offer, (k.handle j.cmd.hd).rcd with
    | some (idx, v), some r => if r = (idx, v) then none else some (mixedVersion idx r.2 v)
    | _, _ => none

/-! ### A fault after issue (R290, R405) -/

/-- An entry that is to start again from its first byte (R290, R314). -/
def JEntry.restart (j : JEntry) : JEntry := { j with made := [], raised := 0, found := none }

/-- R290: later entries are cancelled and kept, the faulting one leaves the journal, and C traps; in trap mode the fault is
held in its entry. -/
def State.transferTrap (s : State) (j : JEntry) (t : TrapInfo) : State :=
  if s.core.trap.mode then
    s.modCore (fun k => { k with journal := k.journal.map (fun x => if x.id = j.id then { x with fault := some t } else x) })
  else
    let s := s.modCore (fun k =>
      { k with journal := (k.journal.filter (fun x => x.id != j.id)).map (fun x =>
                 if j.id < x.id then { x.restart with cancelled := true } else x),
               checker := k.checker.map (fun f => if j.id ≤ f.id then { f with held := true } else f) })
    (s.takeTrap .C j.pc t).modCore (fun k => { k with trap := { k.trap with cEntry := some { j.restart with cancelled := false, fault := none } } })

/-- An entry of the journal whose transfer may act: C's transfers act before the engines' words of a cycle (R38). -/
def Core.transferring (k : Core) (entry : Nat) : Option JEntry :=
  if k.started && k.transfersLeft then k.journal.find? (fun j => j.id == entry && !j.cancelled && j.fault.isNone) else none

/-- An entry's footprint, and what it faces in the data area: the commands in flight that it is not ordered with (R240). -/
def State.facedBy (s : State) (j : JEntry) : Footprint × List Image :=
  match s.core.checker.find? (fun f => f.eng == 3 && f.id == j.id) with
  | some f => (f, imagesOf (s.core.unordered .C j.id f.reads f.writes) f)
  | none => ({ id := j.id, pc := j.pc, reads := [], writes := [] }, [])
/-- An entry performed beside those: what is done before, and what the accesses leave. -/
def State.before (s : State) (j : JEntry) : State := s.facing (s.facedBy j).2 (s.facedBy j).1.reads
def State.beside (t s : State) (j : JEntry) : State := t.faced s (s.facedBy j).2 (s.facedBy j).1
/-- Whether an entry that has written the data area stays in flight to its next TRANSFER_COMPLETE: at level 0 unordered commands meet
its writes in between (R240). -/
def State.lingers (s : State) (j : JEntry) : Bool :=
  s.detlevel == 0 && (s.facedBy j).1.writes.any (fun r => r.2 != 0)

/-- A piece of a transfer made before its TRANSFER_COMPLETE; one that must wait, or that meets a fault, is not made. -/
def State.makePiece (s : State) (core entry k : Nat) : State :=
  s.onCore core (fun s =>
    let s := s.sampleCycle
    match s.core.transferring entry with
    | none => s
    | some j =>
      if j.moved.isSome || j.made.contains k || (s.core.sramFault (j.firstReads (s.pairScale j.tmr))).isSome then s
      else
        match (s.before j).performPiece j k with
        | .error (.wait f) => f s
        | .error (.fault _ _ _) => s
        | .ok (s', fl, v) =>
          (s'.beside s j).modCore (fun c => { c with journal := c.journal.map (fun x =>
            if x.id = j.id then { x with made := k :: x.made, raised := x.raised ||| fl, found := v } else x) }))

/-- TRANSFER_COMPLETE. A fault waits for TRANSFER_FAULT, but for a collective, whose members' parts bring it. -/
def State.transferComplete (s : State) (core entry : Nat) (ext : List CollPart) : State :=
  s.onCore core (fun s =>
    let s := s.sampleCycle
    match s.core.transferring entry with
    | none => s
    | some j =>
      match j.moved with
      | some (fl, offer) => if (s.core.offerClash j offer).isSome then s else s.finishEntry j fl offer
      | none =>
        match (s.before j).performEntry j ext with
        | .error (.wait f) => f s
        | .error (.fault f t _) => (match j.cmd.kind with | .coll _ => (f s).transferTrap j t | _ => s)
        | .ok (s', fl, offer) =>
          let s' := s'.beside s j
          let fl := fl ||| j.raised
          match s.core.offerClash j offer with
          | some t => (match j.cmd.kind with | .coll _ => s'.transferTrap j t | _ => s)
          | none => if s.lingers j then s'.holdEntry j fl offer else s'.finishEntry j fl offer)
def execTransferComplete (core entry : Nat) (ext : List CollPart) (s : State) : Out := .next (s.transferComplete core entry ext)

/-- The first address of an entry's moves that leads to a peer's page. -/
def State.peerAt (s : State) (ms : List Move) : Option Nat :=
  (((ms.flatMap (fun m => m.reads ++ m.writes)).filter (fun x => x.space == 1)).flatMap Span.pieces).findSome? (fun p =>
    match s.reachC p.1 p.2 false with | .peer _ _ _ _ => some p.1 | _ => none)

/-- What the fabric reports of a command that has met no fault here: a SEND whose receiver posted `doneBytes` bytes instead
of its own length, else a peer that cannot be reached or refuses: of a RECV before its message is here (R310, R399, R427). -/
def State.fabricFault (s : State) (j : JEntry) (doneBytes : Nat) : Option TrapInfo :=
  match j.cmd.kind with
  | .send => some (if doneBytes = du j.desc 8 4 then uncorrectable 0x02 s.freeWord.1 else badField 8)
  | .recv => if (s.arrived j).isSome then none else some (uncorrectable 0x02 s.freeWord.1)
  | .coll _ => some (uncorrectable 0x02 s.freeWord.1)
  | _ => (s.peerAt (s.entryMoves j (s.pairScale j.tmr))).map (uncorrectable 0x02)

/-- TRANSFER_FAULT: the fault of a transfer after the writes it had made. -/
def State.transferFault (s : State) (core entry doneBytes : Nat) : State :=
  s.onCore core (fun s =>
    let s := s.sampleCycle
    match s.core.transferring entry with
    | none => s
    | some j =>
      let fabric (f : State → State) : State :=
        match s.fabricFault j doneBytes with
        | some t =>
          let made := match j.cmd.kind with | .send | .coll _ => [] | _ => s.movesLeft j (s.pairScale j.tmr)
          (((s.before j).movesUpTo j j.tagged made doneBytes).beside s j).freeWord.2.transferTrap j t
        | none => f s
      match j.moved with
      | some (_, offer) => (match s.core.offerClash j offer with | some t => s.transferTrap j t | none => s)
      | none =>
        match (s.before j).performEntry j [] with
        | .error (.fault f t made) => (f (((s.before j).movesUpTo j j.tagged made doneBytes).beside s j)).transferTrap j t
        | .ok (s', _, offer) => (match s.core.offerClash j offer with | some t => (s'.beside s j).transferTrap j t | none => fabric id)
        | .error (.wait f) => fabric f)
def execTransferFault (core entry doneBytes : Nat) (s : State) : Out := .next (s.transferFault core entry doneBytes)

/-! ### The code feed (R41, R42, R407) -/

/-- Words `first` to `first + n − 1` of a stream read into a ring's slots. -/
def State.feedRing (s : State) (o : ObjectInfo) (off slots : Nat) (r : Ring) (first n base : Nat) : Option Ring :=
  (s.unitBytes o.ctx (o.addr + off + 8 * first) (8 * n)).map (fun bs =>
    { r with base, slots := (List.range n).foldl (fun m i =>
        SMap.put m ((first + i) % slots) (BitVec.ofNat 64 (recordField bs (8 * i) 8))) r.slots })

/-- Ring slots that are written hold no soft error any more (R419; log 77). -/
def Core.mendRing (c : Core) (e : Engine) (slots first n : Nat) : Core :=
  { c with soft := c.soft.filter (fun x => !(x.1 == .ring e && decide ((x.2 + slots - first % slots) % slots < n))) }

/-- A page's walk by a core's code feed (R388). -/
def State.feedWalk (s : State) (e : Engine) (o : ObjectInfo) (off first n : Nat) : State :=
  (((List.range (8 * n / 65536 + 2)).map (fun i => min (o.addr + off + 8 * first + 65536 * i) (o.addr + off + 8 * (first + n) - 1)))).foldl
    (fun s a => s.walked o.ctx (a % 2 ^ 52) (agentCore s.cur e)) s

/-- CODE_FEED_REFILL: past the window's middle its older half is overwritten; a PC outside it reloads the window at its
multiple of 64. The read is a request of the core's, first sent where it finds room, then answered once its lines can be read (R41, R248,
R269). DESIGN CHOICE: a refill counts as one request at once, R41 giving no number of its 64-byte requests (log 103). -/
def State.codeFeed (s : State) (core : Nat) (e : Engine) : State :=
  s.onCore core (fun s =>
    let c := s.core
    let inTrap := e = .S ∧ c.trap.mode
    let r := if inTrap then c.trapRing else (c.eng e).ring
    let slots := if inTrap then 256 else Part.ringWords c.part e
    let len := if inTrap then c.obj.trapLen else r.len
    let off := if inTrap then c.obj.trapAt else ((c.obj.streams[e.num]?).getD (0, 0)).1
    let pc := (c.eng e).pc
    -- the words asked for, or their arrival
    let read (r : Ring) (first n base : Nat) : State :=
      if !c.feeds.contains e then (if s.noRoom e 1 then s else s.setCore { c with feeds := c.feeds ++ [e] })
      else if !s.unitReady c.obj.ctx (c.obj.addr + off + 8 * first) (8 * n) then
        s.unitTouch c.obj.ctx (c.obj.addr + off + 8 * first) (8 * n)
      else
        let s := ((s.feedWalk e c.obj off first n).unitTouch c.obj.ctx (c.obj.addr + off + 8 * first) (8 * n)).modCore (fun c =>
          { c with feeds := c.feeds.erase e })
        match s.feedRing c.obj off slots r first n base with
        | none => s
        | some r =>
          if inTrap then s.modCore (fun c => { c with trapRing := r })
          else (s.modEng e (fun x => { x with ring := r })).modCore (fun c => c.mendRing e slots first n)
    if len ≤ slots ∨ len ≤ pc then s
    else if pc < r.base ∨ r.base + slots ≤ pc then
      let w := pc / 64 * 64
      read { r with slots := [] } w (min slots (len - w)) w
    else if r.base + slots / 2 ≤ pc ∧ r.base + slots < len then
      let first := r.base + slots
      read r first (min (slots / 2) (len - first)) (r.base + slots / 2)
    else s.setCore { c with feeds := c.feeds.erase e })
def execCodeFeedRefill (core : Nat) (e : Engine) (s : State) : Out := .next (s.codeFeed core e)

end Sys2Proof.Machine
end

