-- ==== Sys2Proof/Machine/Fabric.lean ====
section
/-! DEFINITION. The fabric's ports: messages that arrive, links that come and go, groups (spec/13 R310 to R312,
20 R423, R427, 21 R429). -/

namespace Sys2Proof.Machine

/-! ### Ports -/

/-- A record of an Eloazel port on its own channel (R422, R423). -/
def State.logPort (s : State) (port type : Nat) : State :=
  s.logError (port % 4) { time := s.time, channel := 548 + port, type }

/-- The contexts whose RECVs for a peer and tag are posted, in the order of their issue. -/
def State.postedBy (s : State) (pkg mtag : Nat) : List Nat :=
  (s.postedRecvs pkg mtag).filterMap (fun r => ((s.coreAt r.2).task.bind (SMap.find? s.tasks)).map (fun (t : Task) => t.ctx))
/-- The whole messages of a peer and tag that wait for their RECVs. -/
def Fabric.waiting (f : Fabric) (pkg mtag : Nat) : Nat :=
  (f.received.filter (fun m => m.pkg == pkg && m.mtag == mtag && m.data.length == m.len)).length

/-- Whether a port takes a message's bytes: the RECV that the message matches, past those of the whole messages before it, is posted, and
the tables let the receiving context and the sender's domain receive through the port (R310, R398). -/
def State.portTakes (s : State) (port pkg mtag : Nat) : Bool :=
  mayRead (s.accessCode (0x211 + port) (82 + SMap.get 0 s.fab.domains pkg % 16))
    && ((s.postedBy pkg mtag)[s.fab.waiting pkg mtag]?).any (fun c => mayRead (s.accessCode (0x211 + port) c))

/-- A block's bytes joined to the partial message of its port, peer and tag, or a new message. -/
def Fabric.join (f : Fabric) (port pkg mtag len : Nat) (bs : List Byte) : Fabric :=
  let mine (m : Msg) : Bool :=
    m.port == port && m.pkg == pkg && m.mtag == mtag && m.len == len && decide (m.data.length < m.len)
  match f.received.findIdx? mine with
  | some i =>
    { f with received := f.received.modify i (fun m => { m with data := (m.data ++ bs).take len }) }
  | none => { f with received := f.received ++ [{ port, pkg, mtag, len, data := bs.take len }] }

/-- FABRIC_BLOCK_RECEIVE: a good block joins its message, a bad one is a link error and comes again. An empty message has no
block. -/
def State.blockReceive (s : State) (port mtag len : Nat) (block : List Byte) : State :=
  match SMap.find? s.fab.ports port with
  | none => s
  | some pkg =>
    if !s.ready || !s.portTakes port pkg mtag then s
    else if len = 0 ∧ block = [] then { s with fab := s.fab.join port pkg mtag 0 [] }
    else
      match decodeBlock block with
      | none => s.logPort port 10
      | some bs => { s with fab := s.fab.join port pkg mtag len bs }
def execFabricBlockReceive (port mtag len : Nat) (block : List Byte) (s : State) : Out :=
  .next (s.blockReceive port mtag len block)

/-- LINK_DOWN: the port's partner is gone by it, a partial message through it is dropped, and a package that no port reaches
any more is down (R427). -/
def State.linkDown (s : State) (port : Nat) : State :=
  match SMap.find? s.fab.ports port with
  | none => s
  | some pkg =>
    let ports := SMap.erase s.fab.ports port
    let down := if ports.any (fun e => e.2 == pkg) then s.fab.down else s.fab.down ++ [pkg]
    let received := s.fab.received.filter (fun m => m.port != port || m.data.length == m.len)
    State.logPort { s with fab := { s.fab with ports, down, received } } port 11
def execLinkDown (port : Nat) (s : State) : Out := .next (s.linkDown port)

/-- PORT_TRAINING: a link comes up; the first after a reset ends bring-up (R429 step 7). -/
def State.portTraining (s : State) (port partner : Nat) : State :=
  if 18 ≤ port ∨ s.power.recov ∨ s.power.stage < 6 then s
  else
    { s with
      fab := { s.fab with ports := SMap.put s.fab.ports port (partner % 4096),
                          down := s.fab.down.filter (· != partner % 4096) },
      power := { s.power with stage := 7 } }
def execPortTraining (port partner : Nat) (s : State) : Out := .next (s.portTraining port partner)

/-- FABRIC_GROUP_WRITE: the fabric manager's list of a group's packages in rank order (R311). -/
def execFabricGroupWrite (group : Nat) (members : List Nat) (s : State) : Out :=
  .next { s with fab := { s.fab with groups := SMap.put s.fab.groups (group % 65536) (members.map (· % 4096)) } }

/-- The channels of the links of a die (R422). -/
def linkChannel (die channel : Nat) : Bool :=
  decide ((544 ≤ channel ∧ channel ≤ 546) ∨ (channel = 547 ∧ die = 0) ∨ (548 ≤ channel ∧ channel ≤ 565 ∧ (channel - 548) % 4 = die))

/-- LINK_ERROR_RETRANSMITTED: a record of type 10 on the link's channel. -/
def execLinkErrorRetransmitted (die channel : Nat) (s : State) : Out :=
  .next (if linkChannel (die % 4) channel then s.logError (die % 4) { time := s.time, channel, type := 10 } else s)

end Sys2Proof.Machine
end

