-- ==== Sys2Proof/Machine/Tasks.lean ====
section
/-! DEFINITION. Finish scopes, launch records and their enqueue, LAUNCH, FSOPEN, FSCLOSE, FSWAIT, FSTEST and QCTL (spec/15
R323 to R329, R344 to R353). -/

namespace Sys2Proof.Machine

/-! ### Finish scopes (R346, R347) -/

/-- A context's scope; scope 0 is OPEN for the context's life. -/
def Ctx.scope (c : Ctx) (n : Nat) : FScope :=
  let x := SMap.get {} c.scopes n
  if n = 0 then { x with st := .opened } else x
def Ctx.setScope (c : Ctx) (n : Nat) (x : FScope) : Ctx := { c with scopes := SMap.put c.scopes n x }

/-- Whether a scope accepts a member or a child; `from_` is the scope of the task that asks, none for the host. -/
def Ctx.accepts (c : Ctx) (n : Nat) (from_ : Option Nat) : Bool :=
  match (c.scope n).st with
  | .opened => true
  | .closing => (match from_ with | some x => scopeWithin c n 256 x | none => false)
  | _ => false

/-- A scope that may open: FREE or COMPLETE, and not the root. -/
def Ctx.openable (c : Ctx) (n : Nat) : Bool := n != 0 && ((c.scope n).st == .free || (c.scope n).st == .complete)

/-- A scope opened under a parent. -/
def Ctx.openScope (c : Ctx) (n parent : Nat) : Ctx :=
  let c := c.setScope n { st := .opened, gen := (c.scope n).gen + 1, parent, members := 0, children := 0 }
  c.setScope parent { c.scope parent with children := (c.scope parent).children + 1 }

/-- FSWAIT's status for a generation that has completed (R348, R352). -/
def scopeStatus (gen : BitVec 16) : Nat := 2 ^ 16 * gen.toNat

/-- The completion of a scope's generation: its dependences are satisfied, its waiting FSWAITs answered, its TMRs pending
(R205, R332, R352). -/
def State.scopeDone (s : State) (ctx n : Nat) : State :=
  let g := ((s.ctxOf ctx).scope n).gen
  let met (u : UnitHold) : Bool := (match u.cmd with | .fswait _ _ _ => true | _ => false) && u.arg == n && u.arg2 == g.toNat
  let s : State :=
    { s with
      tasks := s.tasks.map (fun e =>
        (e.1, if e.2.ctx = ctx then { e.2 with deps := e.2.deps.filter (fun d => d != (n, g.toNat)) } else e.2)),
      cores := s.cores.map (fun e =>
        match e.2.unit, e.2.task.bind (SMap.find? s.tasks) with
        | some u, some t =>
          if t.ctx = ctx ∧ met u then (e.1, { e.2 with unit := some { u with answer := some (scopeStatus g) } }) else e
        | _, _ => e),
      saves := s.saves.map (fun x =>
        match x.core.unit with
        | some u =>
          if x.ctx = ctx ∧ met u then { x with core := { x.core with unit := some { u with answer := some (scopeStatus g) } } } else x
        | none => x) }
  s.triggerScope ctx n

/-- Scopes completed from one on up its ancestors; `fuel` bounds their number. -/
def State.completeScopes (s : State) (ctx n : Nat) : Nat → State
  | 0 => s
  | fuel + 1 =>
    let c := s.ctxOf ctx
    let x := c.scope n
    if x.st = .closing ∧ x.members = 0 ∧ x.children = 0 then
      let c := c.setScope n { x with st := .complete }
      let c := c.setScope x.parent { c.scope x.parent with children := (c.scope x.parent).children - 1 }
      State.completeScopes ((s.setCtx ctx c).scopeDone ctx n) ctx x.parent fuel
    else s

/-- OPEN to CLOSING, and completed at once where nothing is left in it. -/
def State.closeScope (s : State) (ctx n : Nat) : State :=
  let c := s.ctxOf ctx
  (s.setCtx ctx (c.setScope n { c.scope n with st := .closing })).completeScopes ctx n 256

/-- A member leaves its scope. -/
def State.leaveScope (s : State) (t : Task) : State :=
  let c := s.ctxOf t.ctx
  let x := c.scope t.scope
  (s.setCtx t.ctx (c.setScope t.scope { x with members := x.members - 1 })).completeScopes t.ctx t.scope 256

/-! ### Launch records (R326 to R328) -/

namespace Rec

def u (r : List Byte) (off n : Nat) : Nat := recordField r off n
def kind (r : List Byte) : Nat := u r 0x36 1 / 32
def scope (r : List Byte) : Nat := u r 0x34 1
def prio (r : List Byte) : Nat := u r 0x35 1
def ndep (r : List Byte) : Nat := u r 0x37 1
def deps (r : List Byte) : List Nat := (List.range (ndep r)).map (fun i => u r (0x38 + i) 1)

/-- Whether every byte outside the named ones is zero. -/
def zeroBut (r : List Byte) (used : List Nat) : Bool :=
  (List.range 128).all (fun i => used.contains i || (r[i]?).getD 0 == 0)

/-- Reason 4 of R328: a launch record's or a packet's form. -/
def formOk (r : List Byte) : Bool :=
  match kind r with
  | 0 =>
    let f := u r 0x36 1
    let dl := f / 2 % 2 == 1
    f / 8 % 4 == 0 && decide (prio r < 8 ∧ ndep r ≤ 8)
      && (List.range 8).all (fun i => decide (i < ndep r) || u r (0x38 + i) 1 == 0)
      && (if dl then u r 0x30 4 != 0 else u r 0x28 8 == 0 && u r 0x30 4 == 0)
      && (u r 8 8 == 0 || Part.valid (BitVec.ofNat 64 (u r 8 8)))
  | 1 => zeroBut r [0x34, 0x35, 0x36] && u r 0x36 1 == 0x20
  | 2 => zeroBut r [0x34, 0x36] && u r 0x36 1 == 0x40
  | 3 => zeroBut r [0x35, 0x36] && u r 0x36 1 == 0x60 && decide (prio r < 3)
  | 4 => zeroBut r (0x36 :: (List.range 8).map (0x40 + ·)) && u r 0x36 1 == 0x80
  | _ => false

end Rec

/-- The first reason of R328 that refuses a record in a queue. -/
def State.refusal? (s : State) (q : Nat) (r : List Byte) (from_ : Option Nat) : Option Nat :=
  let b := s.queueOf q
  let c := s.ctxOf b.ctx
  let k := Rec.kind r
  if k = 1 ∧ !c.openable (Rec.scope r) then some 1
  else if k = 2 ∧ (Rec.scope r = 0 ∨ (c.scope (Rec.scope r)).st ≠ .opened) then some 1
  else if !Rec.formOk r then some 4
  else if k = 0 ∧ Rec.u r 0x36 1 / 2 % 2 = 1 ∧ !b.dlok then some 6
  else if k = 0 ∧ !c.accepts (Rec.scope r) from_ then some 7
  else if k = 1 ∧ !c.accepts (Rec.prio r) from_ then some 7
  else none

/-- A launch record becomes a task (R323, R329, R332). -/
def State.enqueueTask (s : State) (q : Nat) (r : List Byte) (issuer : Option Nat) : State × Nat :=
  let b := s.queueOf q
  let c := s.ctxOf b.ctx
  let (id, s) := s.fresh
  let seq := c.taskSeq % 2 ^ 48
  let sc := Rec.scope r
  let dep (n : Nat) : Option (Nat × Nat) :=
    match (c.scope n).st with | .opened | .closing => some (n, (c.scope n).gen.toNat) | _ => none
  let t : Task :=
    { ctx := b.ctx, queue := q, seq, record := r, st := .enqueued, order := id, seed := c.seed, det := c.detlevel, bindTime := 0,
      cores := [], resumeAt := 0, budget := 0, budgetUsed := 0, issuer, loops := [], scopeGen := (c.scope sc).gen.toNat,
      deps := (Rec.deps r).filterMap dep, gangSize := 0 }
  let c := c.setScope sc { c.scope sc with members := (c.scope sc).members + 1 }
  ((s.setCtx b.ctx { c with taskSeq := (c.taskSeq + 1) % 2 ^ 48 }).setTask id t, seq)

/-- A record that is not refused takes effect; a launch answers its TASK_SEQ, a packet 0 (R327, R349). -/
def State.enqueue (s : State) (q : Nat) (r : List Byte) (issuer : Option Nat) : State × Nat :=
  let ctx := (s.queueOf q).ctx
  let c := s.ctxOf ctx
  match Rec.kind r with
  | 0 => s.enqueueTask q r issuer
  | 1 => (s.setCtx ctx (c.openScope (Rec.scope r) (Rec.prio r)), 0)
  | 2 => (s.closeScope ctx (Rec.scope r), 0)
  | 3 => (s.setCtx ctx { c with detlevel := Rec.prio r }, 0)
  | _ => (s.setCtx ctx { c with seed := BitVec.ofNat 64 (Rec.u r 0x40 8) }, 0)

/-! ### Who writes (R396, R398 to R401) -/

/-- Control-master numbers (R400), 8 for a function, which is none, and the masters of the access tables (R398). -/
def Master.code : Master → Nat
  | .host0 => 1 | .host1 => 2 | .mgmt => 3 | .fabric => 4 | .function _ => 8
def Master.number : Master → Nat
  | .host0 | .host1 => 64 | .mgmt => 80 | .fabric => 81 | .function n => 64 + n.val

/-- Whether a master may write a management block, ownership apart: the host's accesses come through function 0's window, and no
other function reaches the blocks. -/
def State.mayManage (s : State) (m : Master) (block : Nat) : Bool :=
  let window : Bool := match m with
    | .host0 | .host1 => mayWrite (s.accessCode 0x200 64)
    | .function _ => false
    | _ => true
  s.ready && window && mayWrite (s.accessCode (0x230 + block) (Master.number m))
/-- A write that is not applied: the management controller's is recorded, the others' get Unsupported Request (R399). -/
def State.refusedWrite (s : State) (m : Master) : State :=
  match m with
  | .mgmt => if s.ready then s.refuseRecord 0 0 0 else s
  | _ => s
/-- A write that only the control owner may make. -/
def State.managed (s : State) (m : Master) (block : Nat) (f : State → State) : State :=
  if s.mayManage m block && s.mgmt.owner == (Master.code m) then f s else s.refusedWrite m
/-- A write that every control master may make. -/
def State.offered (s : State) (m : Master) (block : Nat) (f : State → State) : State :=
  if s.mayManage m block then f s else s.refusedWrite m

/-- Whether a function reaches the words of a queue: SR-IOV enables it, the queue is assigned to it, and its window's table lets it read or
write. -/
def State.assigned (s : State) (n : Fin 16) (q : Nat) (write : Bool) : Bool :=
  let code := s.accessCode (0x200 + n.val) (64 + n.val)
  s.ready && n != 0 && s.rcv.image.functions.getLsbD n.val && SMap.get 0 s.rcv.image.queueFn q == n.val
    && (if write then mayWrite code else mayRead code)
/-- A write of PROD, EVCONS or PREEMPT_WAIT of a queue: by the control owner, or by the function that the queue is assigned to. -/
def State.queueWrite (s : State) (m : Master) (q : Nat) (f : State → State) : State :=
  match m with
  | .function n => if s.assigned n q true then f s else s
  | m => s.managed m 0 f

/-! ### Host-fed queues (R325, R328) -/

def Queue.records (b : Queue) : Nat := 2 ^ (b.rlog + 6)
/-- PROD_WRITE: ignored by a device-fed queue, and where the ring would overflow. -/
def State.prodWrite (s : State) (q v : Nat) : State :=
  let b := s.queueOf q
  if b.devq ∨ b.records < (v + 2 ^ 32 - b.cons) % 2 ^ 32 then s else s.setQueue q { b with prod := v }
def execProdWrite (q : Nat) (v : Word32) (s : State) : Out :=
  .next (s.queueWrite (.ofNum (q / 1024)) (q % 1024) (fun s => s.prodWrite (q % 1024) v.toNat))

/-- The channel that a poisoned ring slot's record names: the spec numbers none for the sluice. -/
def sluiceChannel : Nat := 566

/-- The address of a record in a queue's ring, and its two lines. -/
def Queue.slotAt (b : Queue) (n : Nat) : Nat := b.ring + n % b.records * 128
def slotLines (pa : Nat) : List Nat := [lineOf pa, lineOf pa + 64]
/-- Whether a ring address has no memory (R316). -/
def State.slotAbsent (s : State) (pa : Nat) : Bool := decide (2 ^ 39 ≤ pa) || s.absent pa || s.absent (pa + 127)
/-- A ring slot's record; none where it is poisoned or absent, which is logged. -/
def State.ringSlot (s : State) (q : Nat) : Option (List Byte) × State :=
  let b := s.queueOf q
  let pa := b.slotAt b.cons
  let bad (s : State) (l : Nat) : Option (List Byte) × State :=
    (none, s.logError (q / 256) { time := s.time, channel := sluiceChannel, type := 3, pa := l })
  if s.slotAbsent pa then bad s (lineOf pa)
  else
    let s := (slotLines pa).foldl State.readDecode s
    match (slotLines pa).find? (fun l => s.poisoned l) with
    | some l => bad s l
    | none => (some (s.readNow pa 128), s)

/-- The next slot of a host-fed queue consumed, if its record is of a wanted kind (none: a slot that cannot be read); the sluice waits for
a line that is BUSY or that the host holds exclusively (R248, R255). -/
def State.feedQueue (s : State) (q : Nat) (want : Option Nat → Bool) : State :=
  let b := s.queueOf q
  let pa := b.slotAt b.cons
  if !b.en ∨ b.devq ∨ b.prod = b.cons then s
  else if !s.slotAbsent pa ∧ !(slotLines pa).all s.readable then (slotLines pa).foldl (fun s l => s.snoopFor l false) s
  else
    let (r, s') := s.ringSlot q
    if !want (r.map Rec.kind) then s
    else
      let slot := b.cons % b.records
      let s := s'.setQueue q { b with cons := (b.cons + 1) % 2 ^ 32 }
      match r with
      | none => s.postEvent q 2 4 0 slot 0
      | some r =>
        match s.refusal? q r none with
        | some reason => s.postEvent q 2 reason (Rec.scope r) slot 0
        | none => (s.enqueue q r none).1

def execLaunchRecordEnqueue (q : Nat) (s : State) : Out :=
  .next (s.feedQueue (q % 1024) (fun k => match k with | some k => k == 0 || decide (5 ≤ k) | none => true))
def execScopeOpenPacket (q : Nat) (s : State) : Out := .next (s.feedQueue (q % 1024) (· == some 1))
def execScopeClosePacket (q : Nat) (s : State) : Out := .next (s.feedQueue (q % 1024) (· == some 2))
def execDetsetPacket (q : Nat) (s : State) : Out := .next (s.feedQueue (q % 1024) (· == some 3))
def execSeedPacket (q : Nat) (s : State) : Out := .next (s.feedQueue (q % 1024) (· == some 4))

/-- EVCONS_WRITE: room in the event ring, and waiting launch paths of the queue walk again (R391). -/
def State.evconsWrite (s : State) (q v : Nat) : State :=
  let s := s.setQueue q { s.queueOf q with evcons := v }
  { s with tasks := s.tasks.map (fun e => (e.1, if e.2.queue = q then { e.2 with waits := false } else e.2)) }
def execEvconsWrite (q : Nat) (v : Word32) (s : State) : Out :=
  .next (s.queueWrite (.ofNum (q / 1024)) (q % 1024) (fun s => s.evconsWrite (q % 1024) v.toNat))

/-! ### The instructions (R348 to R353) -/

/-- A status word. -/
def status (code reason value : Nat) : Word64 := BitVec.ofNat 64 (code + 2 ^ 8 * reason + 2 ^ 16 * value)

/-- The scope of the task that executes. -/
def State.ownScope (s : State) : Nat := match s.task? with | some t => t.scope | none => 0

/-- An instruction of the sluice or the residency manager on S; `d` is its destination. -/
def State.sluiceOp (s : State) (h : Hdr) (rs : List (Fin 32)) (eff : State → Res) : Out :=
  .next (s.issue .S h {} (s.core.busyFor (sRegs rs)) eff)
def State.answer (s : State) (d : Fin 32) (w : Word64) : Res := .done (s.setCore (s.core.writeS d w))

/-- Records of a queue that no binding has taken. -/
def State.unbound (s : State) (q : Nat) : Nat := (s.tasks.filter (fun e => e.2.queue == q && e.2.st == .enqueued)).length

/-- A record enqueued by the device into a queue of its context. -/
def State.deviceEnqueue (s : State) (q : Nat) (r : List Byte) : State × Word64 :=
  let b := s.queueOf q
  match s.refusal? q r (some s.ownScope) with
  | some reason => (s, status 2 reason 0)
  | none =>
    let s := if b.devq then s.setQueue q { b with prod := (b.prod + 1) % 2 ^ 32, cons := (b.cons + 1) % 2 ^ 32 } else s
    let (s, v) := s.enqueue q r (some s.cur)
    (s, status 0 0 v)

/-- A launch record past the first 64 unbound ones of its queue, which the sluice keeps in the ring: the slot of its number (R324; log 99). -/
def State.spill (s : State) (q n : Nat) (r : List Byte) : State :=
  let pa := (s.queueOf q).slotAt n
  if s.slotAbsent pa then s else s.writeNow pa r 0 3

/-- LAUNCH past its record's read (R349). -/
def State.launchInto (s : State) (q : Nat) (r : List Byte) : State × Word64 :=
  let b := s.queueOf q
  if !b.en ∨ !b.devq ∨ b.ctx ≠ s.taskCtx then (s, status 2 3 0)
  else if b.records ≤ s.unbound q then (s, status 1 0 0)
  else
    let x := s.deviceEnqueue q r
    (if 64 < x.1.unbound q then x.1.spill q b.prod r else x.1, x.2)

/-- LAUNCH's record read as LD reads, line by line: it waits for a line that is BUSY or that the host holds exclusively (R248, R255). -/
def State.launchRead (s : State) (va : Nat) (k : List Byte → State → Res) : Res :=
  s.withAccess .S va 64 false (fun a s =>
    s.withAccess .S (va + 64) 64 false (fun b s =>
      let ls := [lineOf a, lineOf b]
      if !ls.all s.readable then .hold (ls.foldl (fun s l => s.snoopFor l false) s)
      else if s.poisoned (lineOf a) then s.poisonTrap .S a va
      else if s.poisoned (lineOf b) then s.poisonTrap .S b (va + 64)
      else
        let s := (s.readDecode (lineOf a)).readDecode (lineOf b)
        k (s.readNow a 64 ++ s.readNow b 64) s))

def State.launch (s : State) (d a b : Fin 32) : Res :=
  let va := (s.core.readS a).toNat
  let q := (s.core.readS b).toNat % 1024
  if va % 128 ≠ 0 then .trap id (misaligned va)
  else
    match s.core.lease va 128 false with
    | .error t => .trap id t
    | .ok _ =>
      if !s.mayRelease .S .pkg then .hold (s.pushRelease .pkg)
      else s.launchRead va (fun r s => let x := s.launchInto q r; x.1.answer d x.2)
def execLaunch (h : Hdr) (d a b : Fin 32) (s : State) : Out := s.sluiceOp h [d, a, b] (fun s => s.launch d a b)

def State.fsopen (s : State) (d : Fin 32) (n : Nat) : Res :=
  let c := s.ctxOf s.taskCtx
  if !c.openable n then s.answer d (status 2 1 0)
  else if !c.accepts s.ownScope (some s.ownScope) then s.answer d (status 2 7 0)
  else
    let c := c.openScope n s.ownScope
    (s.setCtx s.taskCtx c).answer d (status 0 0 (c.scope n).gen.toNat)
def execFsopen (h : Hdr) (d a : Fin 32) (s : State) : Out :=
  s.sluiceOp h [d, a] (fun s => s.fsopen d ((s.core.readS a).toNat % 256))

def State.fsclose (s : State) (d : Fin 32) (n : Nat) : Res :=
  let x := (s.ctxOf s.taskCtx).scope n
  if n = 0 ∨ x.st ≠ .opened then s.answer d (status 2 1 0)
  else (s.closeScope s.taskCtx n).answer d (status 0 0 x.gen.toNat)
def execFsclose (h : Hdr) (d a : Fin 32) (s : State) : Out :=
  s.sluiceOp h [d, a] (fun s => s.fsclose d ((s.core.readS a).toNat % 256))

/-- A scope that is the issuer's own or an ancestor of it. -/
def State.ownOrAbove (s : State) (n : Nat) : Bool := n == 0 || scopeWithin (s.ctxOf s.taskCtx) n 256 s.ownScope

/-- FSWAIT (R352): it waits in the sluice, which answers at the generation's completion. -/
def State.fswait (s : State) (h : Hdr) (d a : Fin 32) (n : Nat) : Res :=
  let x := (s.ctxOf s.taskCtx).scope n
  match x.st with
  | .free => s.answer d (status 0 0 x.gen.toNat)
  | .complete => (s.acquire .pkg).answer d (status 0 0 x.gen.toNat)
  | _ =>
    if s.ownOrAbove n then s.answer d (status 2 2 0)
    else
      let (id, s) := s.fresh
      .pend (s.modCore (fun c => { c with unit := some { id, cmd := .fswait h d a, d, arg := n, arg2 := x.gen.toNat, answer := none,
                                                         fault := none } })) id
def execFswait (h : Hdr) (d a : Fin 32) (s : State) : Out :=
  s.sluiceOp h [d, a] (fun s => s.fswait h d a ((s.core.readS a).toNat % 256))

def State.fstest (s : State) (d : Fin 32) (n : Nat) : Res :=
  let x := (s.ctxOf s.taskCtx).scope n
  match x.st with
  | .free => s.answer d (status 0 0 x.gen.toNat)
  | .complete => (s.acquire .pkg).answer d (status 0 0 x.gen.toNat)
  | _ => s.answer d (status 1 0 x.gen.toNat)
def execFstest (h : Hdr) (d a : Fin 32) (s : State) : Out :=
  s.sluiceOp h [d, a] (fun s => s.fstest d ((s.core.readS a).toNat % 256))

/-- UNIT_REPLY: the answer of the unit that holds S reaches s[d]; an FSWAIT acquires the generation's completion (R352,
R436). -/
def State.unitReply (s : State) (core : Nat) : State :=
  s.onCore core (fun s =>
    match s.core.unit with
    | none => s
    | some u =>
      match u.answer with
      | none => s
      | some v =>
        let s := (match u.cmd with | .fswait _ _ _ => s.acquire .pkg | _ => s)
        (s.modCore (fun c => { c.writeS u.d (BitVec.ofNat 64 v) with unit := none })).finishSig .S u.id)
def execUnitReply (core : Nat) (s : State) : Out := .next (s.unitReply core)

/-- QCTL, a privileged instruction, on a queue of the issuer's context (R348, R353). -/
def State.qctl (s : State) (h : Hdr) (d a b : Fin 32) (eff : Nat → Word64 → State → State × Word64) : Out :=
  .next (s.issue .S h { qctl := true } (s.core.busyFor (sRegs [d, a, b])) (fun s =>
    let q := (s.core.readS a).toNat % 1024
    if (s.queueOf q).ctx ≠ s.taskCtx then s.answer d (status 2 3 0)
    else let x := eff q (s.core.readS b) s; x.1.answer d x.2))

/-- A packet with its bytes as R327 lays them out. -/
def packet (kind prio : Nat) (arg : Word64) : List Byte :=
  toBytes 0x35 0 ++ toBytes 1 prio ++ toBytes 1 (32 * kind) ++ toBytes 9 0 ++ toBytes 8 arg.toNat ++ toBytes 56 0

/-- A packet enqueued with LAUNCH's status (R349, R353). -/
def State.qctlEnqueue (s : State) (q : Nat) (r : List Byte) : State × Word64 :=
  let b := s.queueOf q
  if !b.en then (s, status 2 3 0) else if b.records ≤ s.unbound q then (s, status 1 0 0) else s.deviceEnqueue q r

def execQctlSetprio (h : Hdr) (d a b : Fin 32) (s : State) : Out :=
  s.qctl h d a b (fun q v s => (s.setQueue q { s.queueOf q with qprio := v.toNat % 8 }, status 0 0 0))
def execQctlDetset (h : Hdr) (d a b : Fin 32) (s : State) : Out :=
  s.qctl h d a b (fun q v s => s.qctlEnqueue q (packet 3 (v.toNat % 4) 0))
def execQctlSeed (h : Hdr) (d a b : Fin 32) (s : State) : Out :=
  s.qctl h d a b (fun q v s => s.qctlEnqueue q (packet 4 0 v))

/-- Bytes 0x08 to 0x0F of a control block (R324). -/
def Queue.word8 (b : Queue) : Nat :=
  b.rlog % 16 + 2 ^ 4 * (b.ctx % 64) + 2 ^ 10 * b.en.toNat + 2 ^ 11 * b.priv.toNat + 2 ^ 12 * b.dlok.toNat + 2 ^ 13 * b.devq.toNat
    + 2 ^ 14 * (b.qprio % 8)
def execQctlQread (h : Hdr) (d a b : Fin 32) (s : State) : Out :=
  s.qctl h d a b (fun q _ s => (s, BitVec.ofNat 64 (s.queueOf q).word8))

end Sys2Proof.Machine
end

