-- ==== Sys2Proof/Machine/Placement.lean ====
section
/-! DEFINITION. What the launch path reads before a task runs: its objects, its pages and their migration locks (spec/15 R340,
R342, 19 R383, R391, R392). -/

namespace Sys2Proof.Machine

/-! ### Migration locks (R392) -/

/-- Whether the cached translation of a page comes from an entry. -/
def State.cachesAt (s : State) (at_ k : Nat) : Bool := match SMap.find? s.tlb k with | some (a, _, _) => a == at_ | none => false

/-- The entry that holds a page's lock, the entry's low byte, and whether the page is a device fault: 1 to populate, 2 to
migrate, 0 for neither (R391). -/
structure PageLock where
  at_ : Nat
  low : Nat
  reason : Nat

def State.pageLock (s : State) (ctx ia : Nat) : Option PageLock :=
  match s.walk ctx ia with
  | .page a e _ => some { at_ := a, low := bits e 0 8, reason := if bits e 3 2 = 1 ∧ bits e 6 1 = 1 then 2 else 0 }
  | .missing (some a) _ => some { at_ := a, low := ofBytes (s.readNow a 1), reason := 1 }
  | _ => none
def PageLock.held (p : PageLock) : Bool := p.low / 128 % 2 == 1

/-- LOCK written into an entry by its translation home, as every other write with tag 0 (R197). -/
def State.putLock (s : State) (p : PageLock) (on : Bool) : State :=
  s.putWords (lineOf p.at_) [(p.at_ / 4, BitVec.ofNat 32 (p.low % 128 + 128 * on.toNat), 1)]
/-- A page's lock taken: its translations leave every cache (R392). -/
def State.takeLock (s : State) (p : PageLock) : State := (s.putLock p true).dropTlb (fun k => s.cachesAt p.at_ k)

/-- Whether a launch path's lock stands in an entry. -/
def State.pathHolds (s : State) (at_ : Nat) (k : Nat) : Bool :=
  match s.pageLock (k / 2 ^ 52) (k % 2 ^ 52) with | some p => p.at_ == at_ | none => false

/-- Whether some task's launch path holds the lock of an entry. -/
def State.pathLocked (s : State) (at_ : Nat) : Bool := s.tasks.any (fun e => e.2.locks.any (s.pathHolds at_))

/-- The page that holds an intermediate address, as its number. -/
def pageOf (ia : Nat) : Nat := ia / 65536 * 65536

/-! ### Reads of the launch path -/

/-- Why a launch does not go on: refused, with the address whose walk met no valid entry; waiting for the pages that are device faults
(R391); or for bytes whose line is BUSY or held exclusively by the host (R248, R255). -/
inductive LaunchStop where
  | refuse (at_ : Option (Nat × Nat))
  | pages (ps : List (Nat × Nat))
  | busy (ctx ia n : Nat)
  deriving DecidableEq, Repr

/-- Whether an address lies in a range that the task's launch path has found REMOTE: for the life of the lease the path asks for no
migration there, and reaches its pages in host memory as such (R392). -/
def Task.isRemote (t : Task) (ctx ia : Nat) : Bool := t.remote.any (fun r => r.2.1 == ctx && decide (r.2.2.1 ≤ ia ∧ ia < r.2.2.1 + r.2.2.2))

/-- Bytes within one line, as the task's context reads them. -/
def State.launchLine (s : State) (t : Task) (ia n : Nat) : Except LaunchStop (List Byte) :=
  match s.walk t.ctx ia with
  | .missing _ _ => .error (.pages [(t.ctx, ia)])
  | .invalid _ => .error (.refuse (some (t.ctx, ia)))
  | .page a e big =>
    if bits e 7 1 = 1 ∨ (bits e 3 2 = 1 ∧ bits e 6 1 = 1 ∧ !t.isRemote t.ctx ia) then .error (.pages [(t.ctx, ia)])
    else
      match s.translateBy (.page a e big) t.ctx ia false with
      | .addr a =>
        let k := s.keyed t.ctx ia a
        if !s.readable (lineOf k) then .error (.busy t.ctx ia n)
        else (match s.readChecked k n with | some bs => .ok bs | none => .error (.refuse none))
      | _ => .error (.refuse none)
/-- Bytes read line by line; `fuel` bounds the lines. -/
def State.launchBytes (s : State) (t : Task) (ia n : Nat) : Nat → Except LaunchStop (List Byte)
  | 0 => .ok []
  | fuel + 1 =>
    if n = 0 then .ok []
    else
      let m := min n (lineOf ia + 64 - ia)
      match s.launchLine t ia m with
      | .error e => .error e
      | .ok x => (State.launchBytes s t (ia + m) (n - m) fuel).map (x ++ ·)
def State.launchGet (s : State) (t : Task) (ia n : Nat) : Except LaunchStop (List Byte) :=
  s.launchBytes t (ia % 2 ^ 52) n (n / 64 + 2)

/-- A task's object, tables and partition word as its placement finds them. -/
structure Placement where
  file : List Byte
  sof : Sof
  loops : List (Nat × Nat)
  leases : List Lease
  part : Word64

/-- The die count and the share of a gang (R330). -/
def dieCountOf (loops : List (Nat × Nat)) : Nat := (loops.filter (fun l => l.2 == 3)).foldl (fun n l => n * l.1) 1
def gangOf (loops : List (Nat × Nat)) : Nat :=
  (loops.filter (fun l => l.2 == 2 || l.2 == 3)).foldl (fun n l => n * l.1) 1
def shareOf (loops : List (Nat × Nat)) : Nat := gangOf loops / dieCountOf loops

/-- A layer whose table entry the placement has still to read. -/
def State.layerBusy (s : State) (ctx : Nat) (layers : List (Nat × Nat)) (ls : List Lease) : Option Nat :=
  ls.findSome? (fun l => if l.streamed then (layers.find? (fun y => y.2 == l.index && !s.layerReady ctx y.1)).map (·.1) else none)
/-- A streamed range lies within its layer's image (R362). -/
def State.layerHolds (s : State) (ctx : Nat) (layers : List (Nat × Nat)) (l : Lease) : Bool :=
  !l.streamed || (match layers.find? (fun y => y.2 == l.index) with
    | none => false
    | some y =>
      match s.layerEntry ctx y.1 with
      | none => false
      | some e => decide (e.ibase ≤ l.base % 2 ^ 52 ∧ l.base % 2 ^ 52 + l.size ≤ e.ibase + 65536 * e.size))

/-- The loop table of a launch: the record's or the object's. -/
def State.loopsFor (s : State) (t : Task) (o : Sof) : Except LaunchStop (List (Nat × Nat)) :=
  let p := Rec.u t.record 0x10 8
  if p = 0 then .ok o.loops
  else
    match s.launchGet t p 48 with
    | .error e => .error e
    | .ok bs => (match Sof.loopTable bs with | some l => .ok l | none => .error (.refuse none))

/-- The lease table of a launch: the record's or the object's. -/
def State.leasesFor (s : State) (t : Task) (o : Sof) : Except LaunchStop (List Lease) :=
  let p := Rec.u t.record 0x18 8
  if p = 0 then .ok o.leases
  else
    match s.launchGet t p 384 with
    | .error e => .error e
    | .ok bs =>
      let es := ((List.range 16).map (fun i => (bs.drop (24 * i)).take 24)).filter (fun e => recordField e 8 8 != 0)
      (match Sof.leasesOf es with
       | some ls => if Sof.leasesOk ls o.layers then .ok ls else .error (.refuse none)
       | none => .error (.refuse none))

/-- The checks of R342. The file is read to its whole stated size first, so that a bad header whose size spans a page with V = 0 waits for
that page: DESIGN CHOICE, the spec does not rank R87's refusal against the wait of R342 (log 103). -/
def State.placement (s : State) (t : Task) : Except LaunchStop Placement :=
  let code := Rec.u t.record 0 8
  match s.launchGet t code 256 with
  | .error e => .error e
  | .ok hd =>
    match s.launchGet t code (recordField hd 16 8) with
    | .error e => .error e
    | .ok file =>
      match Sof.parse file with
      | none => .error (.refuse none)
      | some o =>
        match s.loopsFor t o, s.leasesFor t o with
        | .error e, _ => .error e
        | _, .error e => .error e
        | .ok loops, .ok leases =>
          let p := Rec.u t.record 8 8
          let part : Word64 := if p = 0 then o.part else BitVec.ofNat 64 p
          if let some l := s.layerBusy t.ctx o.layers leases then .error (.busy t.ctx ((s.ctxOf t.ctx).ltab + 32 * l) 24)
          else if leases.all (s.layerHolds t.ctx o.layers) && decide (shareOf loops ≤ 384)
              && decide (o.image.length ≤ Part.dataBytes part)
          then .ok { file, sof := o, loops, leases, part } else .error (.refuse none)

/-! ### A page that a launch waits for (R391, R392) -/

/-- The lease of a task's walked ranges that holds a page, with its range. -/
def Placement.leaseOf (p : Placement) (t : Task) (ctx ia : Nat) : Option (Nat × Nat × Nat × Nat) :=
  (p.leases.find? (fun l =>
    !l.streamed && (if vaWindow l.base = 1 then 0 else t.ctx) == ctx
      && decide (vaImage l.base ≤ ia ∧ ia < vaImage l.base + l.size))).map (fun l => (l.index, ctx, vaImage l.base, l.size))

/-- Device faults met by a task's launch path: the path asks for each page's lock and waits. A request is decided in a later
cycle: one of the host in the same cycle wins (R392). -/
def State.awaitPages (s : State) (id : Nat) (ps : List (Nat × Nat)) : State :=
  match SMap.find? s.tasks id with
  | none => s
  | some t =>
    let asks (x : Nat × Nat) : Bool :=
      !t.asked.any (fun a => a.1 == x.1 && a.2.1 == pageOf x.2)
        && (match s.pageLock x.1 x.2 with | some p => p.reason != 0 && !t.locks.any (s.pathHolds p.at_) | none => false)
    s.setTask id { t with waits := true, asked := t.asked ++ (ps.filter asks).map (fun x => (x.1, pageOf x.2, s.fabric)) }

/-- One request of a launch path for a lock decided: won, with a kind-5 event for the host; or lost to the host, which makes the range
that holds the page REMOTE; where another launch path holds the lock, the path waits for it. -/
def State.serveAsk (s : State) (id : Nat) (x : Nat × Nat × Nat) : State :=
  match SMap.find? s.tasks id with
  | none => s
  | some t =>
    match x with
    | (ctx, ia, at_) =>
      if s.fabric ≤ at_ then s
      else
        let t' := { t with asked := t.asked.erase x }
        match s.pageLock ctx ia with
        | none => s.setTask id t'
        | some p =>
          if p.held then
            if s.pathLocked p.at_ then s.setTask id t'
            else
              let range := match s.placement t' with | .ok q => q.leaseOf t ctx ia | .error _ => none
              s.setTask id { t' with remote := t.remote ++ (range.toList.filter (fun r => !t.remote.contains r)) }
          else if p.reason = 0 then s.setTask id { t' with waits := false }
          else
            ((s.takeLock p).setTask id { t' with locks := t.locks ++ [ctx * 2 ^ 52 + ia] }).postEvent t.queue 5 p.reason t.scope t.seq
              (ia + 2 ^ 52 * ctx)
/-- The requests of earlier cycles decided, before each turn. -/
def State.serveAsks (s : State) : State :=
  if s.tasks.any (fun e => !e.2.asked.isEmpty) then
    (s.tasks.flatMap (fun e => e.2.asked.map (fun x => (e.1, x)))).foldl (fun s a => s.serveAsk a.1 a.2) s
  else s

/-- What the walk of one page of a pinned range finds: the range's register after it, or why the launch stops. A lock that no
launch path holds is the host's. -/
def State.pinPage (s : State) (t : Task) (ctx ia : Nat) (r : RangeReg) : Except LaunchStop RangeReg :=
  match s.walk ctx ia with
  | .invalid _ => .error (.refuse (some (ctx, ia)))
  | .missing _ _ => .error (.pages [(ctx, ia)])
  | .page _ e big =>
    if bits e 7 1 = 1 ∨ (bits e 3 2 = 1 ∧ bits e 6 1 = 1 ∧ !r.remote) then .error (.pages [(ctx, ia)])
    else
      let code := match leafAddr e ia big with
        | .addr a => s.accessCode (s.target a) t.ctx
        | .peer pkg _ _ => s.portCode pkg t.ctx
        | _ => 3
      .ok { r with rdonly := r.rdonly || bits e 2 1 == 0 || code == 1, deny := r.deny || !mayRead code }

/-- The context and the pages of a range, first to last. -/
def rangePages (t : Task) (base size : Nat) : List (Nat × Nat) :=
  (List.range (size / 65536)).map (fun j => (if vaWindow base = 1 then 0 else t.ctx, vaImage base + 65536 * j))
/-- Two parts of a walk's outcome together: every page is walked, a refusal stands before a wait, and the waits add up. -/
def LaunchStop.join : LaunchStop → LaunchStop → LaunchStop
  | .pages a, .pages b => .pages (a ++ b)
  | .pages _, e => e
  | e, _ => e
def walkOn {α : Type} (x : Except LaunchStop α) (d : α) (f : α → Except LaunchStop α) : Except LaunchStop α :=
  match x with
  | .ok v => f v
  | .error e => (match f d with | .ok _ => .error e | .error e' => .error (e.join e'))
def State.pinRange (s : State) (t : Task) (r : RangeReg) : Except LaunchStop RangeReg :=
  (rangePages t r.vbase (65536 * r.units)).foldl (fun x p => walkOn x r (fun r => s.pinPage t p.1 p.2 r)) (.ok r)

/-- The range register of a lease before its walk (R383). -/
def rangeOf (t : Task) (layers : List (Nat × Nat)) (l : Lease) : RangeReg :=
  { vbase := l.base, units := l.size / 65536, valid := true, kind := if l.streamed then 2 else 1,
    layer := match layers.find? (fun y => y.2 == l.index) with | some y => y.1 | none => 0,
    rdonly := l.streamed, remote := t.remote.any (fun x => x.1 == l.index) }

/-- The sixteen range registers of a task, or why its launch stops. -/
def State.rangesFor (s : State) (t : Task) (p : Placement) : Except LaunchStop (Vector RangeReg 16) :=
  p.leases.foldl (fun x l => walkOn x (Vector.replicate 16 {}) (fun v =>
    let r := rangeOf t p.sof.layers l
    (if l.streamed then .ok r else s.pinRange t r).map (fun r => v.set (Fin.ofNat 16 l.index) r))) (.ok (Vector.replicate 16 {}))

/-- What a launch path has walked: the lines of its object and its tables, and its pinned pages (R388, R391). -/
def Placement.walks (p : Placement) (t : Task) : List (Nat × Nat) :=
  let at_ (ia n : Nat) : List (Nat × Nat) :=
    if ia = 0 then [] else (List.range (n / 65536 + 2)).filterMap (fun j =>
      if pageOf (ia % 2 ^ 52) + 65536 * j < ia % 2 ^ 52 + n then some (t.ctx, pageOf (ia % 2 ^ 52) + 65536 * j) else none)
  at_ (Rec.u t.record 0 8) p.file.length ++ at_ (Rec.u t.record 0x10 8) 48 ++ at_ (Rec.u t.record 0x18 8) 384
    ++ p.leases.flatMap (fun l => if l.streamed then [] else rangePages t l.base l.size)
def State.walkAll (s : State) (ws : List (Nat × Nat)) : State := ws.foldl (fun s w => s.walked w.1 w.2 0) s

/-- The pages of device memory that a task's pinned ranges map to. -/
def State.pinsOf (s : State) (t : Task) (p : Placement) : List Nat :=
  (p.leases.flatMap (fun l => if l.streamed then [] else rangePages t l.base l.size)).filterMap (fun w =>
    match s.walk w.1 w.2 with
    | .page _ e big => (match leafAddr e w.2 big with | .addr a => if isHost a then none else some (a / 65536 * 65536) | _ => none)
    | _ => none)

/-! ### Hotness lists (R345) -/

/-- A task's hotness ranges: (base, size, hint) each, none from an invalid list. -/
def State.hotness (s : State) (t : Task) : List (Nat × Nat × Nat) :=
  let p := Rec.u t.record 0x20 8
  if p = 0 then []
  else
    match s.unitBytes t.ctx p 8 with
    | none => []
    | some hd =>
      let n := ofBytes hd
      if 16 < n then []
      else
        match s.unitBytes t.ctx (p + 8) (16 * n) with
        | none => []
        | some bs =>
          let es := (List.range n).map (fun i =>
            (recordField bs (16 * i) 8, recordField bs (16 * i + 8) 4, recordField bs (16 * i + 12) 4))
          if es.all (fun e => e.2.1 % 64 == 0 && decide (e.2.2 < 3)) then es else []

/-- Whether the list can be read now, and what reading it does beside. -/
def State.hotReady (s : State) (t : Task) : Bool :=
  Rec.u t.record 0x20 8 == 0 || s.unitReady t.ctx (Rec.u t.record 0x20 8) 264
def State.hotTouch (s : State) (t : Task) : State :=
  if Rec.u t.record 0x20 8 = 0 then s else s.unitTouch t.ctx (Rec.u t.record 0x20 8) (8 + 16 * (s.hotness t).length)

/-- At retirement, an event for each range whose hit ratio its hint does not meet; the ratio is the outside's. -/
def State.postHotness (s : State) (t : Task) : State :=
  let (id, s) := if t.hot.isEmpty then (0, s) else s.fresh
  t.hot.zipIdx.foldl (fun s e =>
    let r := (Config.freeByte (id * 2 ^ 100 + e.2)).toNat
    let told : Bool := match e.1.2.2 with
      | 0 => decide (128 ≤ r)
      | 1 => decide (r < 32 ∨ 128 < r)
      | _ => decide (r < 32)
    if told then s.postEvent t.queue 4 0 t.scope t.seq (e.2 + 256 * r) else s) s

end Sys2Proof.Machine
end

