-- ==== Sys2Proof/Machine/Sluice.lean ====
section
/-! DEFINITION. The sluice: candidates, ranks, reservations, binding, the launch path, retirement, pre-emption rounds and
budgets (spec/15 R330 to R345, 16 R368, 01 R26, R29). -/

namespace Sys2Proof.Machine

/-! ### Cores of a die -/

def dieCores (d : Nat) : List Nat :=
  (List.range 32).flatMap (fun cl => (List.range 12).map (fun i => 512 * d + 16 * cl + i))
def State.freeCores (s : State) (d : Nat) : List Nat := (dieCores d).filter (fun n => (s.coreAt n).task.isNone)

/-- The dies of a gang of `d` dies whose queue stands on die `q` (R331). -/
def gangDies (q d : Nat) : List Nat := (List.range d).map (fun i => (q + i) % 4)
def Task.homeDie (t : Task) : Nat := t.queue / 256

/-- The cores of a die that a candidate may take: reserved cores only for the holder or what outranks it (R335). -/
def State.available (s : State) (ranks : SMap Nat) (id d : Nat) : List Nat :=
  let free := s.freeCores d
  let x := s.die d
  match x.holder with
  | none => free
  | some h =>
    if h = id then free.filter (fun n => x.reserved.contains n) ++ free.filter (fun n => !x.reserved.contains n)
    else if SMap.get 0 ranks h < SMap.get 0 ranks id then free
    else free.filter (fun n => !x.reserved.contains n)

/-! ### Candidates (R332, R338) -/

/-- The record ahead of a task in its queue. -/
def State.ahead (s : State) (t : Task) : Option Task :=
  s.tasks.foldl (fun a e =>
    if e.2.queue = t.queue ∧ e.2.order < t.order then
      (match a with | some x => if x.order < e.2.order then some e.2 else a | none => some e.2)
    else a) none

/-- The head of a queue: its first pre-empted task, else its first enqueued one. -/
def State.isHead (s : State) (t : Task) : Bool :=
  s.tasks.all (fun e => e.2.queue != t.queue || !(e.2.st == .enqueued || e.2.st == .preempted)
    || decide (t.order ≤ e.2.order) || (t.st == .preempted && e.2.st == .enqueued))
    && (t.st == .preempted || !s.tasks.any (fun e => e.2.queue == t.queue && e.2.st == .preempted))

def State.candidate (s : State) (t : Task) : Bool :=
  (s.ctxOf t.ctx).valid && s.isHead t &&
    (match t.st with
     | .preempted => true
     | .enqueued =>
       t.deps.isEmpty && (match s.ahead t with
         | none => true
         | some a => a.st == .retired || (t.overlap && a.st != .enqueued))
     | _ => false)

/-- The candidates of a die's queues in the order of a selection: rank, then round-robin from the rank's pointer (R334). -/
def State.inOrder (s : State) (ranks : SMap Nat) (d : Nat) : List Nat :=
  let cs := (s.tasks.filter (fun e => e.2.homeDie == d && s.candidate e.2)).map (fun e => (e.1, e.2.queue % 256))
  let key (c : Nat × Nat) : Nat × Nat :=
    let r := SMap.get 0 ranks c.1
    (r, (c.2 + 256 - SMap.get 0 (s.die d).rr r) % 256)
  (sortBy cs (fun a b => decide ((key b).1 < (key a).1 ∨ ((key b).1 = (key a).1 ∧ (key a).2 ≤ (key b).2)))).map (·.1)

/-- The dies and the share of a task whose gang is known. -/
def State.gangShape (s : State) (t : Task) : Option (List Nat × Nat) :=
  let shape (loops : List (Nat × Nat)) : List Nat × Nat := (gangDies t.homeDie (dieCountOf loops), shareOf loops)
  if t.st = .preempted then some (shape t.loops)
  else match s.placement t with | .ok p => some (shape p.loops) | .error _ => none

/-- The dies and the share of a candidate that fits on each of its dies. -/
def State.fitting (s : State) (ranks : SMap Nat) (id : Nat) : Option (List Nat × Nat) :=
  match (SMap.find? s.tasks id).bind s.gangShape with
  | some (ds, share) => if ds.all (fun y => decide (share ≤ (s.available ranks id y).length)) then some (ds, share) else none
  | none => none

/-- The first fitting candidates of the other dies that may still select in the cycle and that outrank a task, or were enqueued before it
at equal rank, each with its dies and its share: the winners, in that order, those that find no room beside the earlier ones left out
(R334). -/
def State.winners (s : State) (ranks : SMap Nat) (id : Nat) : List (Nat × List Nat × Nat) :=
  let own := ((SMap.find? s.tasks id).map Task.homeDie).getD 4
  let before (u v : Nat) : Bool :=
    decide (SMap.get 0 ranks v < SMap.get 0 ranks u ∨ (SMap.get 0 ranks u = SMap.get 0 ranks v ∧ u < v))
  let others := ((List.range 4).filter (fun x => x != own && decide ((s.die x).lastSelect + 8 ≤ s.fabric))).filterMap (fun x =>
    ((s.inOrder ranks x).find? (fun u => (s.fitting ranks u).isSome)).bind (fun u => (s.fitting ranks u).map (fun f => (u, f))))
  (sortBy (others.filter (fun o => before o.1 id)) (fun a b => before a.1 b.1)).foldl (fun ws o =>
    let taken (d : Nat) : Nat := (ws.filter (fun w => w.2.1.contains d)).foldl (fun n w => n + w.2.2) 0
    if o.2.1.all (fun d => decide (taken d + o.2.2 ≤ (s.available ranks o.1 d).length)) then ws ++ [o] else ws) []
/-- What they take on a die from the cores that are open to a task: a winner's reserved cores, closed to the task, go first. -/
def State.contended (s : State) (ranks : SMap Nat) (id d : Nat) : Nat :=
  let mine := s.available ranks id d
  ((s.winners ranks id).filter (fun w => w.2.1.contains d)).foldl (fun n w =>
    n + (w.2.2 - ((s.available ranks w.1 d).filter (fun c => !mine.contains c)).length)) 0

/-! ### Reservations (R335, R336) -/

/-- A die's reservation kept up: free cores join it until they equal its holder's share, but for as many as winners of other dies take
in the cycle. -/
def State.topUp (s : State) (share : Nat) (d : Nat) (spare : Nat := 0) : State :=
  let x := s.die d
  if x.holder.isNone then s
  else
    let free := s.freeCores d
    let kept := x.reserved.filter (fun n => free.contains n)
    let more := free.filter (fun n => !kept.contains n)
    s.setDie d { x with reserved := (kept ++ more).take (min share (free.length - spare)) }

/-- Cores freed join the reservations of their dies. -/
def State.topUpAll (s : State) : State :=
  (List.range 4).foldl (fun s d =>
    match (s.die d).holder.bind (SMap.find? s.tasks) with
    | some t => (match s.gangShape t with | some (_, share) => s.topUp share d | none => s)
    | none => s) s

/-- A die's reservation passed to a candidate that does not fit, if it outranks the holder. -/
def State.reserve (s : State) (ranks : SMap Nat) (id share d : Nat) (spare : Nat := 0) : State :=
  let x := s.die d
  match x.holder with
  | some h =>
    if h = id then s.topUp share d spare
    else if SMap.get 0 ranks id ≤ SMap.get 0 ranks h then s
    else (s.setDie d { x with holder := some id, since := s.fabric }).topUp share d spare
  | none => (s.setDie d { x with holder := some id, since := s.fabric }).topUp share d spare

/-- A holder that waits no more gives its reservation up. -/
def State.dropHolder (s : State) (id d : Nat) : State :=
  let x := s.die d
  if x.holder = some id then s.setDie d { x with holder := none, reserved := [] } else s
/-- Holders that are candidates no more give theirs up at a selection's start. -/
def State.dropOldHolders (s : State) : State :=
  (List.range 4).foldl (fun s d =>
    match (s.die d).holder with
    | some h => if (match SMap.find? s.tasks h with | some t => s.candidate t | none => false) then s else s.dropHolder h d
    | none => s) s
/-- A die's reservation as another state has it, where a task holds it there. -/
def State.copyHolder (s u : State) (id d : Nat) : State :=
  let x := u.die d
  if x.holder = some id then s.setDie d { s.die d with holder := x.holder, reserved := x.reserved, since := x.since } else s

/-! ### Retirement (R343, R344, R346) -/

def taskLayers (p : Placement) : List Nat :=
  ((p.leases.filter (·.streamed)).filterMap (fun l => (p.sof.layers.find? (fun y => y.2 == l.index)).map (·.1))).eraseDups

/-- LPINS of a task's layers changed; a rise requests the layer (R360, R368). -/
def State.pinLayers (s : State) (ctx : Nat) (ls : List Nat) (up : Bool) : State :=
  ls.foldl (fun s l =>
    let x := s.seenLayer ctx l
    if up then (s.setLayer ctx l { x with lpins := x.lpins + 1 }).requestLayer ctx l
    else s.setLayer ctx l { x with lpins := x.lpins - 1 }) s

/-- A core freed: what belongs to the task goes, what survives a task stays (R26). `ctx` is the context of a task that has run on it. -/
def Core.leave (c : Core) (ctx : Option Nat) : Core :=
  { c with task := none, gangPos := 0, started := false, lastCtx := ctx.or c.lastCtx, ranges := Vector.replicate 16 {}, preempt := none,
           preemptGroup := none, budget := none, budgetTaken := false, blockedSince := none, versions := [], stats := [],
           faults := [], checker := [], journal := [], flights := [], unit := none, phase := none, feeds := [], fills := [],
           lwait := none }

/-- A task retired: its scope left, its cores and save slots free, its event written where NOTIFY asks for it. -/
def State.retireTask (s : State) (id : Nat) : State :=
  match SMap.find? s.tasks id with
  | none => s
  | some t =>
    let bound := t.st == .running || t.st == .launching
    let s := s.postHotness t
    let s := if t.notify then s.postEvent t.queue 1 0 t.scope t.seq 0 else s
    let s := if bound then s.pinLayers t.ctx t.layers false else s
    let s := t.cores.foldl (fun s n => s.modCoreAt n (fun c => c.leave (if t.st = .running then some t.ctx else none))) s
    let s := s.dropSaves id
    let s := s.setTask id { t with st := .retired, cores := [], pins := [], asked := [] }
    let s := (List.range 4).foldl (fun s d => s.dropHolder id d) s
    ((s.leaveScope t).settleContext t.ctx).topUpAll

/-- A task refused at placement: the walk that met no valid entry logged, event kind 2 with reason 5, then its retirement. -/
def State.refuseTask (s : State) (id : Nat) (at_ : Option (Nat × Nat) := none) : State :=
  match SMap.find? s.tasks id with
  | none => s
  | some t => (State.postEvent (s.walkAll at_.toList) t.queue 2 5 t.scope t.seq 0).retireTask id

/-- Whether a core owes nothing more: its L1 holds registered words only, its statistics are merged (R201), and nothing of its own is on its way or held in a
weir (R232, R343). -/
def State.coreSettled (s : State) (n : Nat) : Bool :=
  let c := s.coreAt n
  c.l1.all (fun e => e.2.st == .registered) && c.stats.all (fun x => x.counts == {}) && !s.coh.reqs.any (fun r => r.core == n)
    && !s.coh.invals.any (fun i => i.writer == some n) && !s.coh.weir.any (fun w => w.core == n)
    && !s.coh.tmrs.any (fun x => match x.act with | .merge k _ => k == n | _ => false)

/-- A core's statistics merged and its L1 cleaned (R201, R244). -/
def State.cleanCore (s : State) (n : Nat) : State := (s.mergeAll n).cleanL1 n

/-- TASK_RETIRE: the cores are cleaned first, and the task retires once they owe nothing more. -/
def State.taskRetire (s : State) (id : Nat) : State :=
  match SMap.find? s.tasks id with
  | none => s
  | some t =>
    if t.st ≠ .running ∨ s.saves.any (fun x => x.task == id) ∨ !t.cores.all (fun n => (s.coreAt n).allDone) then s
    else if t.cores.all s.coreSettled then s.retireTask id
    else t.cores.foldl (fun s n => if s.coreSettled n then s else s.cleanCore n) s
def execTaskRetire (task : Nat) (s : State) : Out := .next (s.taskRetire task)

/-! ### Binding (R331, R340, R341) -/

/-- The cores of a gang in its order: on each die the positions in ascending order get the chosen cores in ascending
order. -/
def gangCores (loops : List (Nat × Nat)) (q : Nat) (chosen : List Nat) : List Nat :=
  let delta (pos : Nat) : Nat :=
    ((Task.coords pos loops).zip loops).foldl (fun n cl => if cl.2.2 = 3 then n * cl.2.1 + cl.1 else n) 0
  let die (pos : Nat) : Nat := (q + delta pos) % 4
  let on (d : Nat) : List Nat := sortBy (chosen.filter (fun n => coreDie n == d)) (fun a b => decide (a ≤ b))
  (List.range (gangOf loops)).map (fun pos =>
    ((on (die pos))[((List.range pos).filter (fun p => die p == die pos)).length]?).getD 0)

/-- The cores chosen for a candidate on one die: those the turn names, if they suit, else the first available, those that a test
prefers first. A holder's are its reserved ones, `kept` (R331, R335). -/
def pickCores (named avail kept : List Nat) (prefer : Nat → Bool) (share d : Nat) : List Nat :=
  let mine := (named.filter (fun n => coreDie n == d)).eraseDups
  if mine.length = share ∧ mine.all (fun n => avail.contains n) ∧ kept.all (fun n => mine.contains n) then mine
  else
    let rest := avail.filter (fun n => !kept.contains n)
    (kept ++ rest.filter prefer ++ rest.filter (fun n => !prefer n)).take share

/-- Whether a core's rings hold a task's code object under a partition word's ring fields (R26). -/
def Core.holdsObject (c : Core) (ctx code : Nat) (part : Word64) : Bool :=
  c.obj.ctx == ctx && c.obj.addr == code && !c.obj.streams.isEmpty && c.obj.rings == part.toNat % 2 ^ 16

/-- The core of a warm launch (R341). -/
def State.warmCore (s : State) (t : Task) (p : Placement) : Option Nat :=
  match t.issuer with
  | none => none
  | some i =>
    if t.seen ∨ t.st ≠ .enqueued ∨ coreDie i ≠ t.homeDie ∨ gangOf p.loops ≠ 1 then none
    else
      (clusterCores (coreCluster i)).find? (fun n =>
        (s.coreAt n).task.isNone && !(s.die (coreDie n)).reserved.contains n && !(s.island (coreIsland n)).asleep
          && (s.coreAt n).holdsObject t.ctx (Rec.u t.record 0 8) p.part)

/-- A task bound to cores: the launch path then brings it up. -/
def State.bindTask (s : State) (id : Nat) (t : Task) (cores : List Nat) (warm : Bool) (p : Option Placement) : State :=
  let t' : Task :=
    match p with
    | some p =>
      { t with loops := p.loops, gangSize := gangOf p.loops, bindTime := s.time, budget := Rec.u t.record 0x30 4, fullPath := !warm,
               layers := taskLayers p, hot := (s.hotTouch t).hotness t, qprio := t.qprio.or (some (s.queueOf t.queue).qprio) }
    | none => { t with fullPath := true }
  let t' := { t' with st := .launching, cores, resumeAt := s.fabric, waits := false }
  let s := (s.hotTouch t).setTask id t'
  let s := cores.zipIdx.foldl (fun s c => s.modCoreAt c.1 (fun k => { k with task := some id, gangPos := c.2, started := false })) s
  let s := (List.range 4).foldl (fun s d => s.dropHolder id d) s
  let s := (List.range 4).foldl (fun s d => s.setDie d { s.die d with reserved := (s.die d).reserved.filter (fun n => !cores.contains n) }) s
  s.pinLayers t.ctx t'.layers true

/-- A selection's walk over its candidates: the state as sampled at its start, with the reservations as they pass on, what the
selection has done so far, and whether a task has been bound (R334 to R336). -/
structure Walk where
  at_ : State
  s : State
  bound : Bool

/-- One candidate met: it is bound where its share fits beside the candidates of other dies that win cores, else it becomes the
reservation holder of the dies on which it does not fit (R334, R335, R342, R354). The selection waits with a read that must (R248, R255). -/
def Walk.meet (w : Walk) (ranks : SMap Nat) (named : List Nat) (id : Nat) : Walk :=
  if w.bound then w
  else
    match SMap.find? w.at_.tasks id with
    | none => w
    | some t =>
      let place (loops : List (Nat × Nat)) (p : Option Placement) : Walk :=
        let share := shareOf loops
        let ds := gangDies t.homeDie (dieCountOf loops)
        let avail (d : Nat) : List Nat := w.at_.available ranks id d
        let lost (d : Nat) : Nat := w.at_.contended ranks id d
        let short := ds.filter (fun d => decide ((avail d).length < share + lost d))
        if !short.isEmpty then
          let at_ := short.foldl (fun x d => x.reserve ranks id share d (lost d)) w.at_
          { w with at_, s := short.foldl (fun s d => s.copyHolder at_ id d) w.s }
        else
          let warm := p.bind (fun p => w.at_.warmCore t p)
          let holds (n : Nat) : Bool := match p with | some p => (w.at_.coreAt n).holdsObject t.ctx (Rec.u t.record 0 8) p.part | none => false
          let chosen := match warm with
            | some n => [n]
            | none => ds.flatMap (fun d =>
                pickCores named (avail d) (if (w.at_.die d).holder = some id then (w.at_.die d).reserved else []) holds share d)
          let q := t.queue % 256
          let d := t.homeDie
          let r := SMap.get 0 ranks id
          let s := w.s.bindTask id t (gangCores loops d chosen) warm.isSome p
          { w with s := s.setDie d { s.die d with rr := SMap.put (s.die d).rr r ((q + 1) % 256) }, bound := true }
      if t.st = .preempted then place t.loops none
      else if t.waits then w
      else if !w.at_.hotReady t then { w with s := w.s.hotTouch t, bound := true }
      else
        match w.at_.placement t with
        | .ok p => place p.loops (some p)
        | .error (.refuse a) => { w with s := w.s.refuseTask id a }
        | .error (.pages ps) => { w with s := w.s.awaitPages id ps }
        | .error (.busy ctx ia n) => { w with s := w.s.unitTouch ctx ia n, bound := true }

/-- SLUICE_SELECTION: at most one task bound, every 8 fabric cycles. -/
def State.select (s : State) (d : Nat) (named : List Nat) : State :=
  if s.fabric < (s.die d).lastSelect + 8 then s
  else
    let s := s.dropOldHolders
    let ranks := s.ranks
    let s := ((s.inOrder ranks d).foldl (fun w id => w.meet ranks named id) (⟨s, s, false⟩ : Walk)).s
    let s : State := { s with tasks := s.tasks.map (fun e => (e.1, if e.2.homeDie = d then { e.2 with seen := true } else e.2)) }
    s.setDie d { s.die d with lastSelect := s.fabric }
def execSluiceSelection (die : Nat) (cores : List Nat) (s : State) : Out := .next (s.select (die % 4) cores)

/-! ### The launch path (R26, R83, R115, R340, R373) -/

/-- An island woken: clean L1 words go, registered ones where the retirement count has changed, and TMR copies whose
HORIZON has moved (R426). -/
def State.wakeIsland (s : State) (i : Nat) : State :=
  let x := s.island i
  if !x.asleep then s
  else
    let y : Island := { x with asleep := false, horizons := [], since := s.fabric }
    let s : State := { s with power := { s.power with islands := SMap.put s.power.islands i y } }
    let cores := (List.range 3).map (fun j => i / 128 * 512 + i % 128 / 4 * 16 + i % 4 * 3 + j)
    let fresh (a : Nat) : Bool := x.horizons.contains (a, ofBytes ((s.readNow (a + 6) 2)))
    cores.foldl (fun s n =>
      s.modCoreAt n (fun c =>
        { c with l1 := c.l1.filter (fun e => match e.2.st with
                   | .clean _ | .kept => false
                   | .registered => x.retiredAt == s.rcv.retired
                   | _ => true),
                 tmrCache := c.tmrCache.filter fresh })) s

/-- The arguments s1 to s8 (R115). -/
def argRegs (r : List Byte) : Vector Word64 32 :=
  (List.range 8).foldl (fun v i => v.set (Fin.ofNat 32 (i + 1)) (BitVec.ofNat 64 (Rec.u r (0x40 + 8 * i) 8))) (Vector.replicate 32 0)

/-- A core as a launch leaves it before its first word (R26, R83, R115). -/
def Core.launched (c : Core) (id pos : Nat) (t : Task) (p : Placement) (ranges : Vector RangeReg 16) : Core :=
  let code := Rec.u t.record 0 8
  let held := c.holdsObject t.ctx code p.part
  let keep := c.lastCtx = some t.ctx
  -- a window that has moved starts at 0 again (R41)
  let ring (e : Engine) : Ring :=
    let r := (c.eng e).ring
    if r.base = 0 then r else ringOf p.file ((p.sof.streams[e.num]?).getD (0, 0)) 0 (Part.ringWords p.part e)
  let kept (x : PoolPart × Nat) : Bool := match x.1 with | .l1 => true | .ring _ => held | _ => false
  let fresh : Core :=
    { task := some id, gangPos := pos, started := true, part := p.part, s := argRegs t.record, ranges, l1 := c.l1, soft := c.soft.filter kept,
      tmrCache := c.tmrCache, preempt := c.preempt, wbuf := if keep then c.wbuf else [], wlay := if keep then c.wlay else [],
      wupsets := if keep then c.wupsets else [],
      lastCtx := some t.ctx, obj := c.obj, trapRing := c.trapRing,
      engS := { ring := ring .S }, engV := { ring := ring .V }, engM := { ring := ring .M }, engC := { ring := ring .C } }
  let c := if held then fresh else fresh.loadRings p.file p.sof t.ctx code p.part
  { c with data := SMap.setRange 0 [] 0 c.obj.image }

/-- A save slot's core put back on a core (R373). The atomics withdrawn are sent again from translation (R371). The trap window, and the
rings that a soft save does not hold, are loaded from the code object again at their window bases (R370, R407). -/
def State.restored (s : State) (x : Saved) (id n : Nat) (p : Placement) (ranges : Vector RangeReg 16) : State :=
  let old := s.coreAt n
  let now := s.cycleOf n
  let k := x.core
  let run (e : Engine) : Eng :=
    let y := k.eng e
    let ring := if x.hard then y.ring
                else ringOf p.file ((p.sof.streams[e.num]?).getD (0, 0)) y.ring.base (Part.ringWords k.part e)
    { y with parked := none, pause := y.pause.map (fun p => (p.1 + now, p.2)), ring }
  let saved := k.trap.saved.map (fun v => { v with parked := none, pause := v.pause.map (fun p => (p.1 + now, p.2)) })
  let k : Core :=
    { k with trap := { k.trap with saved },
             faults := x.reqs.map (fun r => { eng := r.eng, va := r.va, req := some r.id }),
             task := some id, gangPos := x.place, started := true, preempt := old.preempt, preemptGroup := none, blockedSince := none,
             ranges, l1 := old.l1, tmrCache := old.tmrCache, lastCtx := some x.ctx, budget := k.budget.map (fun _ => now),
             trapRing := ringOf p.file (p.sof.trapAt, p.sof.trapLen) k.trapRing.base 256,
             obj := { k.obj with trapAt := p.sof.trapAt, trapLen := p.sof.trapLen },
             soft := k.soft ++ old.soft.filter (fun x => x.1 == .l1),
             engS := run .S, engV := run .V, engM := run .M, engC := run .C }
  let s := (s.setCoreAt n k).acquireNow n
  { s with coh := { s.coh with reqs := s.coh.reqs ++ x.reqs.map (fun r => { r with core := n }) } }

/-- A carve-out made smaller gives up its lines (R26, R244). -/
def State.shrinkTo (s : State) (n bytes : Nat) : State := s.shrinkL1 n bytes none (s.coreAt n).l1Lines.length

/-- Every core of a gang restored from its slot, the slots given back. -/
def State.resumeTask (s : State) (id : Nat) (t : Task) (p : Placement) (ranges : Vector RangeReg 16) : State :=
  let mine := s.saves.filter (fun x => x.task == id)
  let on (x : Saved) : Nat := (t.cores[x.place]?).getD 0
  let s := mine.foldl (fun s x => (s.shrinkTo (on x) (Part.l1Bytes x.core.part)).restored x id (on x) p ranges) s
  s.dropSaves id

/-- LAUNCH_PATH_COMPLETE: every page of the pinned leases walked, the valid ones pinned as they are, then every core of the gang brought up
or restored; a core's first words acquire what the launch or the resumption released (R230, R232, R391). -/
def State.launchPath (s : State) (id : Nat) : State :=
  match SMap.find? s.tasks id with
  | none => s
  | some t =>
    if t.st ≠ .launching ∨ t.waits then s
    else
      match s.placement t with
      | .error (.refuse a) => s.refuseTask id a
      | .error (.pages ps) => s.awaitPages id ps
      | .error (.busy ctx ia n) => s.unitTouch ctx ia n
      | .ok p =>
        match s.rangesFor t p with
        | .error (.refuse a) => s.refuseTask id a
        | .error (.pages ps) => ((s.walkAll (p.walks t)).setTask id { t with pins := s.pinsOf t p }).awaitPages id ps
        | .error (.busy ctx ia n) => s.unitTouch ctx ia n
        | .ok ranges =>
          let s := s.walkAll (p.walks t)
          let s := (t.cores.map coreIsland).eraseDups.foldl (fun s i => s.wakeIsland i) s
          let s := s.setTask id { t with st := .running, locks := [], asked := [], pins := s.pinsOf t p }
          if s.saves.any (fun x => x.task == id) then s.resumeTask id t p ranges
          else
            t.cores.zipIdx.foldl (fun s c =>
              ((s.shrinkTo c.1 (Part.l1Bytes p.part)).modCoreAt c.1 (fun k => k.launched id c.2 t p ranges)).acquireNow c.1) s
def execLaunchPathComplete (task : Nat) (s : State) : Out := .next (s.launchPath task)

/-! ### Pre-emption rounds (R337) -/

/-- Whether a task holds cores that a round may ask for. -/
def Task.holdsCores (t : Task) : Bool := t.st == .running || t.st == .launching
/-- The cores a task holds on a die. -/
def Task.coresOn (t : Task) (d : Nat) : Nat := (t.cores.filter (fun n => coreDie n == d)).length

/-- The victims of a round in the order they are picked: lowest rank, then latest bind time, those whose context has room
for their cores' saves. -/
def State.victimOrder (s : State) (ranks : SMap Nat) (rank : Nat) (ds : List Nat) : List (Nat × Task) :=
  let ok (e : Nat × Task) : Bool :=
    e.2.holdsCores && decide (SMap.get 0 ranks e.1 < rank) && ds.any (fun d => e.2.coresOn d != 0)
      && decide ((s.ctxOf e.2.ctx).slotsused + e.2.gangSize ≤ (s.ctxOf e.2.ctx).saveslots)
  sortBy (s.tasks.filter ok) (fun a b =>
    let ra := SMap.get 0 ranks a.1
    let rb := SMap.get 0 ranks b.1
    decide (ra < rb ∨ (ra = rb ∧ b.2.bindTime ≤ a.2.bindTime)))

/-- PREEMPTION_ROUND: victims picked until they cover the holder's share on every die of its gang. -/
def State.preemptionRound (s : State) (d : Nat) : State :=
  let x := s.die d
  match x.holder.bind (fun h => (SMap.find? s.tasks h).map (fun t => (h, t))) with
  | none => s
  | some (h, t) =>
    let w := (s.queueOf t.queue).preemptWait
    let live := x.victims.any (fun v => match SMap.find? s.tasks v.1 with | some t => t.holdsCores && t.resumeAt == v.2 | none => false)
    if w = 0 ∨ s.fabric ≤ x.since + w ∨ live then s
    else
      match s.gangShape t with
      | none => s
      | some (ds, share) =>
        let ranks := s.ranks
        let have_ (vs : List (Nat × Task)) (d : Nat) : Nat :=
          (if (s.die d).holder = some h then (s.die d).reserved.length else 0) + vs.foldl (fun n v => n + v.2.coresOn d) 0
        let covers (vs : List (Nat × Task)) : Bool := ds.all (fun d => decide (share ≤ have_ vs d))
        let slots (vs : List (Nat × Task)) (c : Nat) : Nat :=
          vs.foldl (fun n v => if v.2.ctx = c then n + v.2.gangSize else n) (s.ctxOf c).slotsused
        let vs := (s.victimOrder ranks (SMap.get 0 ranks h) ds).foldl (fun vs v =>
          if covers vs ∨ (s.ctxOf v.2.ctx).saveslots < slots (vs ++ [v]) v.2.ctx then vs else vs ++ [v]) []
        if !covers vs then s
        else
          let s := vs.foldl (fun s v => v.2.cores.foldl (fun s n =>
            let now := s.cycleOf n
            s.modCoreAt n (fun c => if c.preempt.isSome then c else { c with preempt := some now, preemptGroup := none })) s) s
          s.setDie d { s.die d with victims := vs.map (fun v => (v.1, v.2.resumeAt)) }
def execPreemptionRound (die : Nat) (s : State) : Out := .next (s.preemptionRound (die % 4))

/-! ### Budgets (R339) -/

/-- BUDGET_EXHAUSTION: each core of the gang owes one trap. -/
def State.budgetExhaustion (s : State) (id : Nat) : State :=
  match SMap.find? s.tasks id with
  | none => s
  | some t =>
    if !t.deadlineClass ∨ t.st ≠ .running ∨ s.budgetLeft t ≠ 0 then s
    else
      t.cores.foldl (fun s n =>
        let now := s.cycleOf n
        s.modCoreAt n (fun c => if c.budget.isSome ∨ c.budgetTaken then c else { c with budget := some now })) s
def execBudgetExhaustion (task : Nat) (s : State) : Out := .next (s.budgetExhaustion task)

/-- BUDGET_BOUNDARY_TRAP: with no SAFE for 2^20 of the core's cycles, S traps before its next word. -/
def State.budgetBoundary (s : State) (core : Nat) : State :=
  s.onCore core (fun s =>
    let c := s.core
    match c.budget with
    | none => s
    | some since =>
      if s.cycleOf core < since + 2 ^ 20 ∨ !c.started ∨ c.trap.mode ∨ c.engS.ended ∨ c.unit.isSome ∨ c.phase.isSome
          ∨ c.engS.pause.isSome then s
      else (s.setCore { c with budget := none, budgetTaken := true }).takeTrap .S c.engS.pc { cause := 9, info := 1 })
def execBudgetBoundaryTrap (core : Nat) (s : State) : Out := .next (s.budgetBoundary core)

end Sys2Proof.Machine
end

