-- ==== Sys2Proof/Machine/Residency.lean ====
section
/-! DEFINITION. The residency manager and LWAIT, LPIN, LUNPIN (spec/16 R356 to R368). -/

namespace Sys2Proof.Machine

/-- Every layer of the contexts that a die serves, as (context, layer number, what is held of it). -/
def State.dieLayers (s : State) (d : Nat) : List (Nat × Nat × Layer) :=
  (s.ctxs.filter (fun e => e.2.valid && layerDie e.1 == d)).flatMap (fun e => e.2.layers.map (fun l => (e.1, l.1, l.2)))

/-- The free pages of a die's residency region, ascending: no layer has them, no page table of the manager's, and no task has pinned
them (R391). -/
def State.freePages (s : State) (d : Nat) : List Nat :=
  let used := (s.dieLayers d).flatMap (fun x => x.2.2.pages) ++ s.ctxs.flatMap (fun e => e.2.tables.map (·.2))
    ++ s.tasks.flatMap (fun e => e.2.pins)
  ((List.range (s.resSize d / pageSize)).map (fun i => s.resBase d + pageSize * i)).filter (fun p => !used.contains p)

/-! ### Mappings (R359, R361) -/

/-- An entry of a page table as it stands; 0 where it cannot be read. -/
def State.entryAt (s : State) (a : Nat) : Nat := match s.tableEntry a with | .ok e => e | .error _ => 0
/-- The addresses of the entries on the way to a page, from L0 to L3, as far as tables stand. -/
def State.path (s : State) (ctx ia : Nat) : List Nat :=
  let a0 := (s.ctxOf ctx).ptroot + 8 * bits ia 47 5
  let ok (a : Nat) : Bool := bits (s.entryAt a) 0 1 == 1 && nonLeafOk (s.entryAt a)
  let next (a lo w : Nat) : Nat := nextTable (s.entryAt a) + 8 * bits ia lo w
  if !ok a0 then [a0]
  else
    let a1 := next a0 34 13
    if !ok a1 then [a0, a1]
    else
      let a2 := next a1 21 13
      if !ok a2 then [a0, a1, a2] else [a0, a1, a2, next a2 16 5]

/-- A table for the last entry of a page's path, in the first free page of the serving die: empty, or a 2 MiB leaf split into its
pieces (log 97). -/
def State.addTable (s : State) (ctx ia : Nat) : State :=
  match (s.path ctx ia).getLast?, (s.freePages (layerDie ctx)).head? with
  | some a, some page =>
    let e := s.entryAt a
    let last := (s.path ctx ia).length = 3
    let piece (j : Nat) : Nat := if last ∧ bits e 0 1 = 1 ∧ bits e 1 1 = 1 ∧ s.leafOk e true then e + 2 ^ 16 * j else 0
    let s := s.writeNow page (if last then (List.range 32).flatMap (fun j => toBytes 8 (piece j)) else List.replicate pageSize 0) 0
      (pageSize / 64 + 2)
    let s := s.writeNow a (toBytes 8 (1 + page / pageSize * 2 ^ 16)) 0 2
    s.setCtx ctx { s.ctxOf ctx with tables := (s.ctxOf ctx).tables ++ [(a, page)] }
  | _, _ => s
/-- How many tables a range of pages lacks. -/
def State.tablesLacked (s : State) (ctx ia n : Nat) : Nat :=
  let ps := (List.range n).map (fun j => ia + pageSize * j)
  let lack (len span : Nat) : Nat := ((ps.filter (fun p => decide ((s.path ctx p).length ≤ len))).map (· / span)).eraseDups.length
  lack 1 (2 ^ 47) + lack 2 (2 ^ 34) + lack 3 (2 ^ 21)

/-- A layer's page entry written: a readable device page, or none; the lock stays as it is, and the page's cached translation goes. -/
def State.mapPage (s : State) (ctx ia : Nat) (pa : Option Nat) : State :=
  let s := if pa.isSome then (List.range 3).foldl (fun s _ => if (s.path ctx ia).length < 4 then s.addTable ctx ia else s) s else s
  match s.path ctx ia with
  | [_, _, _, a] =>
    let lock := 128 * bits (s.entryAt a) 7 1
    let e := match pa with | some x => 3 + x / pageSize * 2 ^ 16 + lock | none => lock
    (s.dropTlb (fun k => k == tlbKey ctx ia)).writeNow a (toBytes 8 e) 0 2
  | _ => s
def State.mapLayer (s : State) (ctx : Nat) (l : Layer) (on : Bool) : State :=
  l.pages.zipIdx.foldl (fun s p => s.mapPage ctx (l.ibase + pageSize * p.2) (if on then some p.1 else none)) s

/-- LRESB moved by a layer's bytes. -/
def State.growRes (s : State) (ctx n : Nat) (up : Bool) : State :=
  let c := s.ctxOf ctx
  s.setCtx ctx { c with lresb := if up then c.lresb + n else c.lresb - n }

/-- A layer without its pages, in a state. -/
def State.dropPages (s : State) (ctx l : Nat) (st : LayerState) (req : Bool) (fail : Nat) : State :=
  let x := s.layer ctx l
  let s := (s.mapLayer ctx x false).growRes ctx (pageSize * x.pages.length) false
  s.setLayer ctx l { x with st, req, fail, pages := [] }

/-! ### Arrivals (R360, R361, R364) -/

/-- The requested ABSENT layers of a die in the order of R360. -/
def State.wanted (s : State) (d : Nat) : List (Nat × Nat × Layer) :=
  let xs := (s.dieLayers d).filter (fun x => x.2.2.st == .absent && x.2.2.req)
  sortBy xs (fun a b =>
    let pa := (s.ctxOf a.1).evprio
    let pb := (s.ctxOf b.1).evprio
    decide (pb < pa ∨ (pa = pb ∧ (a.1 < b.1 ∨ (a.1 = b.1 ∧ a.2.1 ≤ b.2.1)))))
/-- The same with their entries. -/
def State.requested (s : State) (d : Nat) : List (Nat × Nat × LayerEntry) :=
  (s.wanted d).filterMap (fun x => (s.layerEntry x.1 x.2.1).map (fun e => (x.1, x.2.1, e)))

/-- The layers that may be evicted for a context, in the order of R364. -/
def State.evictable (s : State) (d ctx : Nat) : List (Nat × Nat × Layer) :=
  let p (c : Nat) : Nat := (s.ctxOf c).evprio
  let xs := (s.dieLayers d).filter (fun x =>
    x.2.2.st == .resident && x.2.2.pins == 0 && x.2.2.lpins == 0 && decide (p x.1 ≤ p ctx))
  sortBy xs (fun a b =>
    decide (p a.1 < p b.1 ∨ (p a.1 = p b.1 ∧ (a.2.2.access < b.2.2.access ∨ (a.2.2.access = b.2.2.access
      ∧ (b.1 < a.1 ∨ (a.1 = b.1 ∧ b.2.1 ≤ a.2.1)))))))

/-- Evictions chosen until `need` pages are on their way to be free. -/
def State.evictFor (s : State) (need : Nat) : List (Nat × Nat × Layer) → State
  | [] => s
  | x :: xs =>
    if need = 0 then s
    else (s.setLayer x.1 x.2.1 { x.2.2 with st := .evicting, chosen := some s.fabric }).evictFor (need - x.2.2.pages.length) xs

/-- One requested layer met: it fails where it is larger than the region; it starts, with pages for the tables that its range lacks, or evictions start or are under way for it, or
it is passed over (none). -/
def State.startLayer (s : State) (d : Nat) (x : Nat × Nat × LayerEntry) : Option State :=
  let (ctx, l, e) := x
  if s.resSize d < pageSize * e.size then some (s.requestAbsent ctx l (s.layer ctx l))
  else
    let free := s.freePages d
    let need := e.size + s.tablesLacked ctx e.ibase e.size
    if need ≤ free.length then
      let y := s.layer ctx l
      let y : Layer := { y with st := .arriving, pages := free.take e.size, ibase := e.ibase, source := (e.srckind, e.peer, e.srcaddr) }
      some (((s.setLayer ctx l y).growRes ctx (pageSize * e.size) true).mapLayer ctx y true)
    else
      let coming := ((s.dieLayers d).filter (fun z => z.2.2.st == .evicting)).foldl (fun n z => n + z.2.2.pages.length) 0
      let cand := s.evictable d ctx
      let gain := cand.foldl (fun n z => n + z.2.2.pages.length) 0
      if need ≤ free.length + coming then some s
      else if free.length + coming + gain < need then none
      else some (s.evictFor (need - free.length - coming) cand)

/-- LAYER_ARRIVAL_START: with a copy channel free, the first requested layer that can get pages. The manager waits for entries of its
tables that cannot be read yet (R248, R255, R392). -/
def State.arrivalStart (s : State) (d : Nat) : State :=
  let ready := (s.wanted d).all (fun x => s.layerReady x.1 x.2.1)
  let s := (s.wanted d).foldl (fun s x => s.layerTouch x.1 x.2.1) s
  if !ready ∨ 16 ≤ ((s.dieLayers d).filter (fun x => x.2.2.st == .arriving)).length then s
  else ((s.requested d).findSome? (fun x => s.startLayer d x)).getD s
def execLayerArrivalStart (die : Nat) (s : State) : Out := .next (s.arrivalStart (die % 4))

/-- The bytes of a layer's page from its source: host memory, or a peer's, which the outside gives. -/
def State.sourcePage (s : State) (l : Layer) (i : Nat) : List Byte :=
  let (kind, _, addr) := l.source
  if kind = 0 then s.readNow (hostBase + (addr + pageSize * i) % 2 ^ 64) pageSize
  else (List.range pageSize).map (fun j => Config.freeByte (s.nextId * 2 ^ 100 + pageSize * i + j))

/-- Why a layer's source cannot be read now: a poisoned line, a peer that no link reaches, or a range or a port that its context may not
read (R358, R361, R398). What a peer's copy meets there is the outside's. -/
def State.sourceFails (s : State) (ctx : Nat) (l : Layer) : Option Nat :=
  let (kind, peer, addr) := l.source
  let at_ := hostBase + addr % 2 ^ 64
  if kind ≠ 0 then
    if !mayRead (s.portCode peer ctx) then some 3 else if s.fab.down.contains peer then some 2 else none
  else if !mayRead (s.accessCode 0x210 ctx) then some 3
  else if s.side.any (fun e => e.2 != 0 && decide (at_ ≤ e.1 + 63 ∧ e.1 < at_ + pageSize * l.pages.length)) then some 1
  else none

/-- A failed arrival. -/
def State.failArrival (s : State) (ctx l code : Nat) : State :=
  (s.dropPages ctx l .failed false code).logLayer ctx (s.layer ctx l).ibase

/-- LAYER_ARRIVAL_COMPLETE: every byte in place (R359, R361), or the arrival fails where its source cannot be read. It comes before
the instructions of its cycle (R368). -/
def State.arrivalComplete (s : State) (ctx l : Nat) : State :=
  let x := s.layer ctx l
  if x.st ≠ .arriving ∨ x.met = some s.fabric then s
  else
    match s.sourceFails ctx x with
    | some code => s.failArrival ctx l code
    | none =>
      let s := x.pages.zipIdx.foldl (fun s p => let bs := s.sourcePage x p.2; s.writeNow p.1 bs 0 (lineCount bs)) s
      State.setLayer { s with nextId := s.nextId + 1 } ctx l { x with st := .resident, req := false, access := s.fabric }
def execLayerArrivalComplete (ctx layer : Nat) (s : State) : Out := .next (s.arrivalComplete (ctx % 64) (layer % 1024))

/-- LAYER_ARRIVAL_FAIL: a source that cannot be read (1 to 3), or a requested layer larger than the region (4). A host source fails
with 1 or 3 only where it cannot be read for that reason. -/
def State.arrivalFail (s : State) (ctx l code : Nat) : State :=
  let x := s.layer ctx l
  if code = 4 then
    match x.st, x.req, s.layerEntry ctx l with
    | .absent, true, some e =>
      if s.resSize (layerDie ctx) < pageSize * e.size then
        (s.setLayer ctx l { x with st := .failed, fail := 4, req := false }).logLayer ctx e.ibase
      else s
    | _, _, _ => s
  else if x.st = .arriving ∧ x.met ≠ some s.fabric ∧ (code = 2 ∨ (x.source.1 ≠ 0 ∧ (code = 1 ∨ code = 3)) ∨ s.sourceFails ctx x = some code) then
    s.failArrival ctx l code
  else s
def execLayerArrivalFail (ctx layer code : Nat) (s : State) : Out := .next (s.arrivalFail (ctx % 64) (layer % 1024) code)

/-- LAYER_EVICTION_COMPLETE: mappings removed, the requests that had been translated done, pages freed; a layer still wanted is
requested at once. -/
def State.evictionComplete (s : State) (ctx l : Nat) : State :=
  let x := s.layer ctx l
  if x.st ≠ .evicting ∨ x.chosen = some s.fabric
      ∨ s.coh.reqs.any (fun r => x.pages.any (fun p => decide (p ≤ paOf r.addr ∧ paOf r.addr < p + pageSize))) then s
  else s.dropPages ctx l .absent (x.req || x.pins != 0 || x.lpins != 0) 0
def execLayerEvictionComplete (ctx layer : Nat) (s : State) : Out := .next (s.evictionComplete (ctx % 64) (layer % 1024))

/-! ### LWAIT, LPIN, LUNPIN (R366, R367) -/

/-- An instruction on the layer that s[a] names, which must describe one; it waits for an entry that cannot be read yet. -/
def State.layerOp (s : State) (h : Hdr) (a : Fin 32) (rs : List (Fin 32)) (eff : Nat → State → Res) : Out :=
  s.sluiceOp h (a :: rs) (fun s =>
    let l := (s.core.readS a).toNat % 1024
    let t := s.layerTouch s.taskCtx l
    if !s.layerReady s.taskCtx l then .hold t
    else if (t.layerEntry t.taskCtx l).isNone then .trap (fun _ => t) (leaseFault 0x06 l) else eff l t)

/-- LWAIT on a layer: it waits until the layer is RESIDENT, and acquires at core scope for the whole core. -/
def State.lwait (s : State) (l : Nat) : Res :=
  let x := s.seenLayer s.taskCtx l
  match x.st with
  | .failed => .trap (fun s => s.modCore (fun c => { c with lwait := none })) (swapFault 0 s.taskCtx l x.fail)
  | .resident => .done (s.modCore (fun c => { c.learnAll (Clock.all s.nextId) with lwait := none }))
  | _ => .hold ((s.requestLayer s.taskCtx l).modCore (fun c => { c with lwait := some l }))
def execLwait (h : Hdr) (a : Fin 32) (s : State) : Out := s.layerOp h a [] (fun l s => s.lwait l)

/-- The result word of LPIN and LUNPIN. -/
def pinResult (code reason : Nat) (st : LayerState) : Word64 := BitVec.ofNat 64 (code + 2 ^ 8 * reason + 2 ^ 16 * st.code)

/-- LPIN's update of the entry. The manager may start the layer in the same update, as the outside's choice says (log 98). -/
def State.pin (s : State) (ctx l : Nat) (rerequest : Bool) : State × Word64 :=
  let x := s.seenLayer ctx l
  let x : Layer := { (if rerequest ∧ x.st = .failed then { x with fail := 0, st := .absent } else x) with met := some s.fabric }
  if x.pins = 65535 then (s.setLayer ctx l x, pinResult 2 1 x.st)
  else
    let t := (s.setLayer ctx l { x with pins := x.pins + 1 }).requestLayer ctx l
    let t :=
      if x.st = .absent ∧ (Config.freeByte (s.nextId * 2 ^ 100 + 2 ^ 95)).toNat % 2 = 1 then
        State.arrivalStart { t with nextId := s.nextId + 1 } (layerDie ctx)
      else t
    (t, pinResult 0 0 (t.layer ctx l).st)
def execLpin (h : Hdr) (rerequest : Bool) (d a : Fin 32) (s : State) : Out :=
  s.layerOp h a [d] (fun l s => let r := s.pin s.taskCtx l rerequest; r.1.answer d r.2)

/-- LUNPIN's update of the entry. -/
def State.unpin (s : State) (ctx l : Nat) : State × Word64 :=
  let x : Layer := { s.seenLayer ctx l with met := some s.fabric }
  if x.pins = 0 then (s.setLayer ctx l { s.layer ctx l with met := some s.fabric }, pinResult 2 2 x.st)
  else (s.setLayer ctx l { x with pins := x.pins - 1 }, pinResult 0 0 x.st)
def execLunpin (h : Hdr) (d a : Fin 32) (s : State) : Out :=
  s.layerOp h a [d] (fun l s => let r := s.unpin s.taskCtx l; r.1.answer d r.2)

end Sys2Proof.Machine
end

