-- ==== Sys2Proof/Machine/Resume.lean ====
section
/-! DEFINITION. Return from a trap, by ERET or by the host (spec/05 R139, 20 R405, R409 to R411, R414). -/

namespace Sys2Proof.Machine

/-! ### Where the trapped engine resumes (R409, R411) -/

/-- Whether the cause resumes at "next": for illegal instructions by the subcode, for budget exhaustion by the boundary bit,
both as they stood at trap entry. -/
def TrapState.next (t : TrapState) : Bool :=
  match t.cause % 256 with
  | 0x01 => t.sub07
  | 0x04 | 0x05 | 0x06 | 0x0A | 0x0C => true
  | 0x09 => !t.boundary
  | _ => false

def TrapState.resumeAt (t : TrapState) : Nat := if !t.pcWritten && t.next then t.pc % 2 ^ 13 + 1 else t.pc % 2 ^ 13

/-- An engine placed at an offset, to issue from there; a word that had issued keeps its WAIT byte performed where it is the
one to issue again. -/
def Eng.placedAt (x : Eng) (pc : Nat) : Eng := { x with pc, ended := false, parked := none, taken := x.taken && pc == x.pc }

/-- A faulting command dropped: a drain-role one returns its handle to FULL, a fill-role one takes its bytes out of the
pending ones (R410). -/
def Core.dropCommand (k : Core) (j : JEntry) : Core :=
  let k := k.dropFootprint (fun f => f.id == j.id)
  if j.cmd.hd = 63 then k
  else
    let h := k.handle j.cmd.hd
    if j.cmd.drain then (if h.st = .draining then k.setHandle j.cmd.hd { h with st := .full } else k)
    else k.setHandle j.cmd.hd { h with pending := h.pending - j.count }

/-- Cancelled commands restart, a re-entered one among them in its place (R290, R410). -/
def Core.restart (k : Core) : Core :=
  { k with
    journal := sortBy (k.journal.map (fun x => if x.cancelled then { x with cancelled := false, fault := none, moved := none } else x))
      (fun a b => decide (a.id ≤ b.id)),
    checker := k.checker.map (fun f => { f with held := false }) }

/-- Trap mode left: S's task state restored, the trapped engine at its resume point (R139, R405, R410, R411). -/
def Core.leaveTrap (k : Core) : Core :=
  let t := k.trap
  let k : Core := { k with trap := { t with mode := false, hostHeld := false, saved := none, cEntry := none, pcWritten := false },
                           checker := k.inFlightC }
  let k : Core :=
    match t.saved with
    | some v => { k with engS := { k.engS with pc := v.pc, link := v.link, loops := v.loops, ended := v.ended, pause := v.pause,
                                               parked := v.parked, taken := v.taken } }
    | none => k
  match t.cEntry with
  | some j =>
    let k : Core := if t.pcWritten || t.next then k.dropCommand j else { k with journal := j :: k.journal }
    let k := k.restart
    if t.pcWritten then k.setEng .C ((k.eng .C).placedAt t.resumeAt) else k
  | none =>
    -- an END whose own signal trapped has stopped its engine (R37, R118)
    let x := k.eng t.engine
    let y := x.placedAt t.resumeAt
    k.setEng t.engine { y with ended := !t.pcWritten && t.next && x.ended, taken := y.taken || (t.late && !t.pcWritten && !t.next) }

/-! ### Faults held in trap mode (R405) -/

/-- A held fault discarded: its word issues again, but for a signal's condition, whose word has had its effect. -/
def Eng.discardHeld (x : Eng) : Eng :=
  match x.held with
  | none => x
  | some (pc, t) =>
    let x : Eng := { x with held := none }
    if t.cause = 1 ∧ t.info % 256 = 7 then x else { x.placedAt pc with taken := t.late }

/-- At ERET the held fault of the lowest-numbered of S, V and M is taken, theirs else discarded; with none, C's, then the
earliest journal entry's (R290, R405). -/
def State.takeHeld (s : State) : State :=
  match [Engine.S, .V, .M].find? (fun e => (s.eng e).held.isSome) with
  | some e =>
    let at_ := (s.eng e).held
    let s := s.modEng e (fun x => { x with held := none })
    let s := [Engine.S, .V, .M].foldl (fun s e => s.modEng e Eng.discardHeld) s
    (match at_ with | some (pc, t) => s.takeTrap e pc t | none => s)
  | none =>
    match (s.eng .C).held with
    | some (pc, t) => (s.modEng .C (fun x => { x with held := none })).takeTrap .C pc t
    | none =>
      match s.core.journal.find? (fun j => j.fault.isSome && !j.cancelled) with
      | some j => (match j.fault with | some t => s.transferTrap j t | none => s)
      | none => s

/-- THE RETURN FROM A TRAP, the one operation, for ERET and for TC_ACT. -/
def State.leaveTrapMode (s : State) : State := (s.setCore (s.core.leaveTrap.learnAll (Clock.all s.nextId))).takeHeld

/-! ### ERET (R139) -/

/-- The handler's own accesses finish before ERET; a signal that cannot be performed is a failed ERET (R412). -/
def State.eret (s : State) (h : Hdr) : Res :=
  if s.core.flights.any (fun f => f.eng == .S && f.inTrap) then .stall id
  else
    match s.core.perform h.sig with
    | some (_, some t) => .trap id t
    | _ =>
      .resume s.leaveTrapMode

/-- ERET. Outside trap mode it is subcode 0x01, a check that R139 puts together with those of R68; a set reserved bit or field of the same
word is reported first, as decoding finds it: DESIGN CHOICE, the spec ranks neither before the other (log 79). -/
def execEret (h : Hdr) (s : State) : Out :=
  .next (s.issue .S h { mode := if s.core.trap.mode then none else some (illegal 0x01) } false (fun s => s.eret h))

end Sys2Proof.Machine
end

