-- ==== Sys2Proof/Machine/Manage.lean ====
section
/-! DEFINITION. The management register space: masters, registers, contexts, shoot-downs, migration, ownership, the host's trap
control, firmware and SPDM (spec/15 R324, 16 R356, R357, 19 R392 to R403, 20 R414, R421, R424, R425, 21 R432). -/

namespace Sys2Proof.Machine

def State.modMgmt (s : State) (f : Mgmt → Mgmt) : State := { s with mgmt := f s.mgmt }

/-! ### Contexts (R356, R357) -/

/-- Word 0x18 of a layer entry zeroed. -/
def State.zeroLayerWord (s : State) (ctx l : Nat) : State := s.unitWrite ctx ((s.ctxOf ctx).ltab + 32 * l + 0x18) (toBytes 8 0)

/-- VALID set: every layer ABSENT, every scope FREE, enqueue numbers from 0. -/
def State.createContext (s : State) (ctx : Nat) : State :=
  let c := s.ctxOf ctx
  if c.valid then s
  else
    let s := s.setCtx ctx { c with valid := true, layers := [], scopes := [], taskSeq := 0, slotsused := 0, lresb := 0 }
    (List.range (min c.lcount 1024)).foldl (fun s l => s.zeroLayerWord ctx l) s
def execContextValidSet (m : Master) (ctx : Nat) (s : State) : Out :=
  .next (s.managed m 0 (fun s => s.createContext (ctx % 64)))

/-- VALID cleared, unless a task of the context is left: its layers leave and its pins go. -/
def State.dropContext (s : State) (ctx : Nat) : State :=
  let c := s.ctxOf ctx
  if !c.valid || s.tasks.any (fun e => e.2.ctx == ctx && e.2.st != .retired) then s
  else
    let s := c.layers.foldl (fun s e =>
      let s := s.dropPages ctx e.1 .absent false 0
      s.setLayer ctx e.1 { s.layer ctx e.1 with pins := 0, lpins := 0 }) s
    let s := (s.ctxOf ctx).tables.foldl (fun s t => s.writeNow t.1 (toBytes 8 0) 0 2) s
    s.setCtx ctx { s.ctxOf ctx with valid := false, tables := [] }
def execContextValidClear (m : Master) (ctx : Nat) (s : State) : Out :=
  .next (s.managed m 0 (fun s => s.dropContext (ctx % 64)))

def execSeedWrite (m : Master) (ctx : Nat) (v : Word64) (s : State) : Out :=
  .next (s.managed m 0 (fun s => s.setCtx (ctx % 64) { s.ctxOf (ctx % 64) with seed := v }))

/-! ### Shoot-downs (R393, R394) -/

/-- Whether a shoot-down's range holds the page of a cached translation. -/
def Mgmt.shotDown (g : Mgmt) (k : Nat) : Bool :=
  (g.sdAll || k / 2 ^ 36 == g.sdCtx) && decide (g.sdBase / 65536 ≤ k % 2 ^ 36 ∧ k % 2 ^ 36 < g.sdBase / 65536 + g.sdPages)
/-- SD_GO: the range's cached translations go, and the requests already sent are what the acknowledgements wait for. -/
def State.startShootdown (s : State) : State :=
  if s.mgmt.sdBusy then s
  else State.modMgmt (s.dropTlb s.mgmt.shotDown) (fun g => { g with sdBusy := true, sdWaits := s.coh.reqs.map (·.id) })
def execSdGo (m : Master) (s : State) : Out := .next (s.managed m 4 State.startShootdown)

/-- SHOOTDOWN_COMPLETE: every awaited request performed, or returned to a fault buffer or a weir. -/
def State.shootdownComplete (s : State) : State :=
  if s.mgmt.sdBusy && s.coh.reqs.all (fun r => !s.mgmt.sdWaits.contains r.id || s.held r) then
    s.modMgmt (fun g => { g with sdBusy := false, sdWaits := [], sdDone := (g.sdDone + 1) % 2 ^ 32 })
  else s
def execShootdownComplete (s : State) : Out := .next s.shootdownComplete

/-! ### Migration (R392, R393) -/

/-- MG_REQ: the host asks for MG_PAGE's lock. -/
def State.migrationRequest (s : State) : State :=
  let res (s : State) (r : Nat) : State := s.modMgmt (fun g => { g with mgRes := r })
  match s.pageLock s.mgmt.mgCtx s.mgmt.mgPage with
  | none => res s 3
  | some p =>
    if !p.held then res (s.takeLock p) 1
    else if s.pathLocked p.at_ then res s 2
    else res s 1
def execMgReq (m : Master) (s : State) : Out := .next (s.managed m 4 State.migrationRequest)

/-- MG_DONE: MG_PAGE's lock clears, and the launches that wait walk again (R391). -/
def State.migrationDone (s : State) : State :=
  let key := s.mgmt.mgCtx * 2 ^ 52 + pageOf s.mgmt.mgPage
  let at_ := (s.pageLock s.mgmt.mgCtx s.mgmt.mgPage).map (·.at_)
  let mine (k : Nat) : Bool := k == key || (match at_ with | some a => s.pathHolds a k | none => false)
  let tasks := s.tasks.map (fun e => (e.1, { e.2 with locks := e.2.locks.filter (fun k => !mine k), waits := false }))
  let s' : State := { s with tasks }
  match s.pageLock s.mgmt.mgCtx s.mgmt.mgPage with
  | some p => if p.held then s'.putLock p false else s'
  | none => s'
def execMgDone (m : Master) (s : State) : Out := .next (s.managed m 4 State.migrationDone)

/-! ### Ownership (R400, R401) -/

/-- HBAGE: microseconds since the owner's last heartbeat. -/
def State.hbAge (s : State) : Nat := if s.mgmt.owner = 0 then 0 else (s.time - s.mgmt.hbSince * 10 / 33) / 1000

/-- A change of OWNER. -/
def State.setOwner (s : State) (o : Nat) : State :=
  s.modMgmt (fun g => { g with owner := o, epoch := (g.epoch + 1) % 2 ^ 32, offer := 0, hbSince := s.fabric, claimAt := none })

/-- CLAIM: of the claims of one cycle the lowest number wins. -/
def State.claim (s : State) (n : Nat) : State :=
  if s.mgmt.owner = 0 then (s.setOwner n).modMgmt (fun g => { g with claimAt := some s.fabric })
  else if s.mgmt.claimAt = some s.fabric ∧ n < s.mgmt.owner then s.modMgmt (fun g => { g with owner := n })
  else s
def execClaim (m : Master) (s : State) : Out := .next (s.offered m 3 (fun s => s.claim (Master.code m)))

/-- HANDOVER offers ownership to a control master; 0 withdraws the offer. -/
def execHandover (m : Master) (dest : BitVec 3) (s : State) : Out :=
  .next (s.managed m 3 (fun s => if dest.toNat ≤ 4 then s.modMgmt (fun g => { g with offer := dest.toNat }) else s))
def execAccept (m : Master) (s : State) : Out :=
  .next (s.offered m 3 (fun s => if s.mgmt.offer = (Master.code m) then s.setOwner (Master.code m) else s))
def execHeartbeat (m : Master) (s : State) : Out :=
  .next (s.managed m 3 (fun s => s.modMgmt (fun g => { g with hbSince := s.fabric })))
def execHeartbeatExpiry (s : State) : Out :=
  .next (if s.mgmt.owner ≠ 0 ∧ s.mgmt.hblimit < s.hbAge then s.setOwner 0 else s)

/-! ### Trap control (R414) -/

def State.tcHeld (s : State) (n : Nat) : Bool := (s.coreAt n).trap.mode && (s.coreAt n).trap.hostHeld

/-- A write of the trap control block on the selected core, which a trap must hold for the host. -/
def State.trapControl (s : State) (m : Master) (f : State → State) : Out :=
  .next (s.managed m 5 (fun s => if s.tcHeld s.mgmt.tcSel then s.onCore s.mgmt.tcSel f else s))
def execTcPcWrite (m : Master) (v : Word64) (s : State) : Out :=
  s.trapControl m (fun s => s.modCore (fun c => { c with trap := c.trap.write 2 v }))
def execTcActResume (m : Master) (s : State) : Out := s.trapControl m State.leaveTrapMode
def execTcActAbandon (m : Master) (s : State) : Out := s.trapControl m (fun s => s.abandon s.cur false)

/-! ### The error log (R424, R425) -/

def State.logCons (s : State) (die v : Nat) : State :=
  let d := s.die die
  if v < d.logCons ∨ d.logWr < v then s else s.setDie die { d with logCons := v }
def execLogConsWrite (m : Master) (die : Nat) (v : Word32) (s : State) : Out :=
  .next (s.managed m 6 (fun s => s.logCons (die % 4) v.toNat))

/-- ERROR_EVENT_QUEUED: a channel's next queued event, one in a cycle; the records of a cycle are stored at its end, in ascending channel
order. -/
def State.raiseQueued (s : State) (die ch : Nat) : State :=
  let d := s.die die
  let c := d.channel ch
  match c.queue with
  | [] => s
  | r :: rs =>
    if c.last = some s.fabric then s
    else
      let n := satCount (c.count + 1)
      s.setDie die ((d.setChannel ch { c with count := n, last := some s.fabric, queue := rs }).stage ch (withCount r n))
def execErrorEventQueued (die channel : Nat) (s : State) : Out := .next (s.raiseQueued (die % 4) channel)

/-! ### Registers as 8-byte words (R324, R356, R393, R397, R400, R414, R421, R425, R432) -/

/-- Bytes of a sparse window as a word. -/
def windowWord (m : SMap Byte) (off : Nat) : Nat := ofBytes (SMap.getRange 0 m off 8)

def Queue.word (b : Queue) : Nat → Nat
  | 0 => b.ring
  | 1 => b.word8
  | 2 => b.evring
  | 3 => b.evlog
  | 4 => b.prod + 2 ^ 32 * b.cons
  | 5 => b.evprod + 2 ^ 32 * b.evcons
  | 6 => b.evlost + 2 ^ 32 * b.preemptWait
  | _ => 0

def Ctx.word (c : Ctx) : Nat → Nat
  | 0 => c.valid.toNat + 2 * c.evprio + 2 ^ 5 * c.detlevel
  | 1 => c.seed.toNat
  | 2 => c.ptroot
  | 3 => c.ltab
  | 4 => c.lcount + 2 ^ 32 * c.tmrcount
  | 5 => c.tmrtab
  | 6 => c.rotab
  | 7 => c.save
  | 8 => c.saveslots + 2 ^ 16 * c.slotsused
  | 9 => c.lresb
  | _ => 0

/-- Block 0. -/
def State.word0 (s : State) (off : Nat) : Nat :=
  if off < 0x10000 then (s.queueOf (off / 64)).word (off % 64 / 8)
  else if off < 0x12000 then (s.ctxOf ((off - 0x10000) / 128)).word (off % 128 / 8)
  else if off = 0x20000 then 0x1536 + 2 ^ 16 * (s.mgmt.step % 256) + 2 ^ 24 * s.ready.toNat + 2 ^ 25 * s.power.recov.toNat
  else if off = 0x20008 then s.mgmt.pkgId
  else if off = 0x20010 then s.mgmt.place.toNat
  else if off = 0x20018 then s.mgmt.chHash.toNat
  else if off = 0x20020 then s.mgmt.pcHash.toNat
  else if 0x20040 ≤ off ∧ off < 0x20080 then
    (if off % 16 = 0 then s.resBase ((off - 0x20040) / 16) else s.resSize ((off - 0x20040) / 16))
  else if 0x30000 ≤ off ∧ off < 0x40000 then windowWord s.rcv.fwWindow (off - 0x30000)
  else 0

/-- Block 1. -/
def State.word1 (s : State) (off : Nat) : Nat :=
  if off = 0 then s.power.cap + 2 ^ 16 * s.power.now + 2 ^ 32 * s.power.tjMax
  else if off = 8 then s.power.tentRuns
  else if 0x100 ≤ off ∧ off < 0x1100 then
    let i := s.island ((off - 0x100) / 8)
    i.op + 2 ^ 2 * i.opcap + 2 ^ 8 * i.slack + 2 ^ 16 * i.vmv + 2 ^ 26 * i.demote.toNat
  else 0

/-- Block 3. -/
def State.word3 (s : State) (off : Nat) : Nat :=
  if off = 0 then s.mgmt.owner + 2 ^ 3 * s.mgmt.offer + 2 ^ 32 * s.mgmt.epoch
  else if off = 0x18 then s.mgmt.hblimit + 2 ^ 32 * (s.hbAge % 2 ^ 32)
  else 0

/-- Block 4. -/
def Mgmt.word4 (g : Mgmt) (off : Nat) : Nat :=
  if off = 0 then g.sdCtx + 2 ^ 6 * g.sdAll.toNat
  else if off = 8 then g.sdBase
  else if off = 0x10 then g.sdPages
  else if off = 0x18 then 2 * g.sdBusy.toNat + 2 ^ 32 * g.sdDone
  else if off = 0x20 then g.mgCtx
  else if off = 0x28 then g.mgPage
  else if off = 0x30 then 2 * g.mgRes
  else 0

/-- Block 5. -/
def State.word5 (s : State) (off : Nat) : Nat :=
  let t := (s.coreAt s.mgmt.tcSel).trap
  if off = 0 then s.mgmt.tcSel
  else if off = 8 then
    ((s.cores.map (·.1)).find? (fun n => s.tcHeld n)).getD 0x7FF + 2 ^ 11 * (s.tcHeld s.mgmt.tcSel).toNat + 2 ^ 12 * (t.eng % 4)
  else if off = 0x10 then t.cause
  else if off = 0x18 then t.pc
  else if off = 0x20 then t.addr.toNat
  else if off = 0x28 then t.info.toNat
  else 0

/-- One die's area of block 6. -/
def Die.word6 (d : Die) (off : Nat) : Nat :=
  if off = 0 then d.logWr + 2 ^ 32 * d.logCons
  else if off = 8 then d.logLost
  else if 0x1000 ≤ off ∧ off < 0x2000 then
    (d.channel ((off - 0x1000) / 4)).count + 2 ^ 32 * (d.channel ((off - 0x1000) / 4 + 1)).count
  else if 0x2000 ≤ off then ofBytes (((SMap.get [] d.slots ((off - 0x2000) / 32)).drop (off % 32)).take 8)
  else 0

/-- Block 7. -/
def Recovery.word7 (r : Recovery) (off : Nat) : Nat :=
  if off = 0 then r.scrubH + 2 ^ 8 * r.pprTh
  else if 0x100 ≤ off ∧ off < 0x1100 then (SMap.get 0 r.remap ((off - 0x100) / 8)).toNat
  else 0

/-- The 8-byte word at an aligned offset of the management space, what no block defines reading as zero. -/
def State.mgmtWord (s : State) (off : Nat) : Nat :=
  let o := off % 0x100000
  match off / 0x100000 with
  | 0 => s.word0 o
  | 1 => s.word1 o
  | 2 => if o < 0x8000 then ofBytes ((List.range 8).map (fun i => s.mgmt.accessByte (o + i))) else 0
  | 3 => s.word3 o
  | 4 => s.mgmt.word4 o
  | 5 => s.word5 o
  | 6 => if o < 0x10000 then (s.die (o / 0x4000)).word6 (o % 0x4000) else 0
  | 7 => s.rcv.word7 o
  | _ => 0

/-! ### Register writes (R397, R401) -/

/-- The registers of a control block that have no behaviour of their own; PROD and EVCONS have theirs. -/
def Queue.putWord (b : Queue) (i v : Nat) : Queue :=
  match i with
  | 0 => { b with ring := v / 4096 * 4096 }
  | 1 => { b with rlog := bits v 0 4, ctx := bits v 4 6, en := bits v 10 1 == 1, priv := bits v 11 1 == 1,
                  dlok := bits v 12 1 == 1, devq := bits v 13 1 == 1, qprio := bits v 14 3 }
  | 2 => { b with evring := v / 4096 * 4096 }
  | 3 => { b with evlog := bits v 0 4 }
  | 6 => { b with preemptWait := bits v 32 32 }
  | _ => b

/-- A context's registers but VALID and SEED; all but EVPRIO are fixed while the context is valid. -/
def Ctx.putWord (c : Ctx) (i v : Nat) : Ctx :=
  if i = 0 then { c with evprio := bits v 1 4 }
  else if c.valid then c
  else
    match i with
    | 2 => { c with ptroot := v }
    | 3 => { c with ltab := bits v 0 52 / 64 * 64 }
    | 4 => { c with lcount := if bits v 0 11 ≤ 1024 then bits v 0 11 else c.lcount,
                    tmrcount := if bits v 32 21 ≤ 2 ^ 20 then bits v 32 21 else c.tmrcount }
    | 5 => { c with tmrtab := bits v 0 52 / 256 * 256 }
    | 6 => { c with rotab := bits v 0 52 / 64 * 64 }
    | 7 => { c with save := bits v 0 52 / 2 ^ 21 * 2 ^ 21 }
    | 8 => { c with saveslots := bits v 0 16 }
    | _ => c

/-- An access-table byte: reserved masters and targets stay 0. -/
def Mgmt.putAccess (g : Mgmt) (k : Nat) (b : Byte) : Mgmt :=
  let b := accessMask k b
  { g with access := if b = imageAccess k then SMap.erase g.access k else SMap.put g.access k b }

def Mgmt.putWord4 (g : Mgmt) (off v : Nat) : Mgmt :=
  if off = 0 then { g with sdCtx := bits v 0 6, sdAll := bits v 6 1 == 1 }
  else if off = 8 then { g with sdBase := bits v 0 52 / 65536 * 65536 }
  else if off = 0x10 then { g with sdPages := bits v 0 32 }
  else if off = 0x20 then { g with mgCtx := bits v 0 6 }
  else if off = 0x28 then { g with mgPage := bits v 0 52 / 65536 * 65536 }
  else g

def Power.putWord (p : Power) (off v : Nat) : Power :=
  if off = 0 then (if 600 ≤ bits v 0 16 ∧ bits v 0 16 ≤ 2400 then { p with cap := bits v 0 16 } else p)
  else if 0x100 ≤ off ∧ off < 0x1100 then
    let i := (off - 0x100) / 8
    { p with islands := SMap.put p.islands i { SMap.get {} p.islands i with opcap := bits v 2 2 } }
  else p

def Recovery.putWord (r : Recovery) (off v : Nat) : Recovery :=
  if off = 0 then { r with scrubH := bits v 0 8, pprTh := bits v 8 8 }
  else if 0x100 ≤ off ∧ off < 0x1100 then { r with remap := SMap.put r.remap ((off - 0x100) / 8) (BitVec.ofNat 64 (bits v 0 43)) }
  else r

/-- A word written at an offset. -/
def State.putMgmtWord (s : State) (off v : Nat) : State :=
  let o := off % 0x100000
  match off / 0x100000 with
  | 0 =>
    if o < 0x10000 then s.setQueue (o / 64) ((s.queueOf (o / 64)).putWord (o % 64 / 8) v)
    else if o < 0x12000 then s.setCtx ((o - 0x10000) / 128) ((s.ctxOf ((o - 0x10000) / 128)).putWord (o % 128 / 8) v)
    else s
  | 1 => { s with power := s.power.putWord o v }
  | 2 => if o < 0x8000 then s.modMgmt (fun g => (toBytes 8 v).zipIdx.foldl (fun g b => g.putAccess (o + b.2) b.1) g) else s
  | 4 => s.modMgmt (fun g => g.putWord4 o v)
  | 5 => if o = 0 then s.modMgmt (fun g => { g with tcSel := bits v 0 11 }) else s
  | 7 => { s with rcv := s.rcv.putWord o v }
  | _ => s

/-- The word at an offset with the bytes of a write put in. -/
def State.mergedWord (s : State) (off : Nat) (bs : List Byte) (w : Nat) : Nat :=
  let old := s.mgmtWord w
  ofBytes ((List.range 8).map (fun i =>
    if off ≤ w + i ∧ w + i < off + bs.length then (bs[w + i - off]?).getD 0 else BitVec.ofNat 8 (old / 256 ^ i)))
/-- Bytes written at an offset, word by word. -/
def State.putMgmt (s : State) (off : Nat) (bs : List Byte) : State :=
  (List.range ((off % 8 + bs.length + 7) / 8)).foldl (fun s j =>
    let w := off / 8 * 8 + 8 * j
    s.putMgmtWord w (s.mergedWord off bs w)) s

/-- MGMT_REGISTER_WRITE: applied for the owner alone; the write lies within one block. A function reaches PREEMPT_WAIT of its queues
(R396). -/
def execMgmtRegisterWrite (m : Master) (off : Nat) (bytes : List Byte) (s : State) : Out :=
  let off := off % 0x800000
  let put (s : State) : State := s.putMgmt off (bytes.take (0x100000 - off % 0x100000))
  .next (match m with
    | .function _ =>
      if off < 0x10000 ∧ off % 64 = 0x34 ∧ bytes.length = 4 then s.queueWrite m (off / 64) put else s
    | _ => s.managed m (off / 0x100000) put)

/-- The bytes from an offset to the end of its 8-byte word. -/
def State.mgmtBytes (s : State) (off : Nat) : Nat := s.mgmtWord (off / 8 * 8) / 256 ^ (off % 8)

/-- What a master reads at an offset of the management space, and what the read leaves: none where the host gets Unsupported Request,
ones and a record for the management controller (R399). A function finds PROD, EVCONS and PREEMPT_WAIT of its queues and nothing else
(R396). Before bring-up has finished only the ownership and error-log blocks answer (R430); in recovery mode function 0 and the
firmware window do (R402). -/
def State.mgmtRead (s : State) (m : Master) (off : Nat) : State × Option Nat :=
  let off := off % 0x800000
  let block := off / 0x100000
  let tables : Bool := mayRead (s.accessCode (0x230 + block) (Master.number m))
  let fw : Bool := s.power.recov && decide (0x30000 ≤ off ∧ off < 0x40000)
  let open_ : Bool := s.ready || block == 3 || block == 6 || fw
  match m with
  | .function n =>
    (s, if off < 0x10000 && s.assigned n (off / 64) false && [0x20, 0x2C, 0x34].contains (off % 64) then
          some (s.mgmtBytes off % 2 ^ 32) else none)
  | .host0 | .host1 =>
    (s, if (open_ || s.power.recov) && mayRead (s.accessCode 0x200 64) && tables then some (s.mgmtBytes off) else none)
  | _ => if open_ && tables then (s, some (s.mgmtBytes off)) else (s.refuseRecord 0 0 0, some (2 ^ 64 - 1))
/-- Such a read as a turn makes it: what it returns is held. -/
def State.readMgmt (s : State) (m : Master) (off : Nat) : State :=
  let r := s.mgmtRead m off
  r.1.modMgmt (fun g => { g with reply := r.2 })

/-! ### Firmware and SPDM (R397, R402, R403) -/

/-- FIRMWARE_UPDATE_WRITE: into the window, for the owner, or in recovery mode for any control master. -/
def State.firmwareWrite (s : State) (m : Master) (off : Nat) (bs : List Byte) : State :=
  let off := off % 0x10000
  let put (s : State) : State :=
    { s with rcv := { s.rcv with fwWindow := SMap.setRange 0 s.rcv.fwWindow off (bs.take (0x10000 - off)) } }
  if s.power.recov then (match m with | .function _ => s | _ => put s) else s.managed m 0 put
def execFirmwareUpdateWrite (m : Master) (off : Nat) (bytes : List Byte) (s : State) : Out := .next (s.firmwareWrite m off bytes)

/-- The response code of an SPDM 1.2 request that the package answers, else ERROR's (R403; log 18). -/
def spdmResponse (code : Byte) : Byte :=
  match code.toNat with
  | 0x81 => 0x01 | 0x82 => 0x02 | 0x83 => 0x03 | 0x84 => 0x04 | 0xE0 => 0x60 | 0xE1 => 0x61 | 0xE3 => 0x63 | _ => 0x7F

def digestOf (bs : List Byte) : List Byte := (List.range 48).map (fun i => Config.digest bs i)
/-- The values of a configuration image as bytes, for its digest; the file itself has no stated format (log 17). -/
def ConfigImage.bytes (x : ConfigImage) : List Byte :=
  toBytes 2 x.pkgId ++ toBytes 8 x.place.toNat ++ toBytes 8 x.chHash.toNat ++ toBytes 8 x.pcHash.toNat ++ x.resbase.flatMap (toBytes 8)
    ++ x.ressize.flatMap (toBytes 8) ++ toBytes 4 x.hblimit ++ toBytes 2 x.cap ++ [BitVec.ofNat 8 x.scrubH, BitVec.ofNat 8 x.pprTh]
    ++ x.vmv.flatMap (fun e => toBytes 4 (e.1 + 2 ^ 16 * e.2)) ++ x.requesters.flatMap (toBytes 2) ++ toBytes 2 x.fabricMaster.1
    ++ toBytes 2 x.fabricMaster.2 ++ toBytes 2 x.functions.toNat ++ x.queueFn.flatMap (fun e => toBytes 4 (e.1 + 2 ^ 16 * e.2))
    ++ x.access.flatMap (fun e => toBytes 4 (e.1 + 2 ^ 16 * e.2.toNat))
/-- The measurements of R403: the mask ROM's version and the firmware images' digests are the package's own, free values; those of the
configuration image and the access tables are digests of what is in effect at the request, with OWNER and EPOCH. -/
def State.measurement (s : State) (i : Nat) : List Byte :=
  let own (n : Nat) : List Byte := (List.range n).map (fun k => Config.freeByte (2 ^ 99 + 2 ^ 16 * i + k))
  match i with
  | 1 => own 4
  | 2 => own 52
  | 3 => digestOf s.rcv.image.bytes
  | _ => digestOf ((List.range (32 * 0x238)).map s.mgmt.accessByte) ++ toBytes 4 s.mgmt.owner ++ toBytes 4 s.mgmt.epoch
/-- A measurement block (log 18). -/
def measurementBlock (i : Nat) (m : List Byte) : List Byte :=
  [BitVec.ofNat 8 i, 1] ++ toBytes 2 (m.length + 3) ++ [BitVec.ofNat 8 (i - 1)] ++ toBytes 2 m.length ++ m
/-- The blocks that a request's operation asks for: none for a count, one, or all. -/
def State.measured (s : State) (op : Nat) : List Byte :=
  ([1, 2, 3, 4].filter (fun i => op == i || op == 255)).flatMap (fun i => measurementBlock i (s.measurement i))

/-- SPDM_REQUEST: the DOE mailbox answers in every mode: the algorithms P-384 and SHA-384 alone, the measurements as they stand; what
keys and certificates make of the answer is the outside's (log 18). -/
def State.spdmAnswer (s : State) (code : Byte) (body : List Byte) : State :=
  let f (i : Nat) : Byte := Config.freeByte (s.nextId * 2 ^ 100 + i)
  let n := (f 0).toNat + 256 * (f 1).toNat
  let rest := (List.range n).map (fun i => f (i + 2))
  let answer : List Byte := match code.toNat with
    | 0xE0 =>
      let op := (body[1]?.getD 0).toNat
      let bs := s.measured op
      [if op = 0 then 4 else 0, 0, if op = 255 then 4 else if 1 ≤ op ∧ op ≤ 4 then 1 else 0] ++ toBytes 3 bs.length ++ bs ++ rest
    | 0xE3 => [0, 0] ++ toBytes 2 36 ++ [1, 0] ++ toBytes 4 4 ++ toBytes 4 0x80 ++ toBytes 4 2 ++ List.replicate 16 0
    | _ => rest
  { s with nextId := s.nextId + 1, rcv := { s.rcv with spdm := (if code = 0x84 then 0x10 else 0x12) :: spdmResponse code :: answer } }
def execSpdmRequest (code : Byte) (body : List Byte) (s : State) : Out := .next (s.spdmAnswer code body)

end Sys2Proof.Machine
end

