-- ==== Sys2Proof/Machine/Matrix.lean ====
section
/-! DEFINITION. The matrix engine (spec/07 R172 to R187). -/

namespace Sys2Proof.Machine

/-! ### Scale products (R174, R181) -/

/-- An odd part and a power of two. -/
def stripTwos : Nat → Nat → Int → Nat × Int
  | 0, m, e => (m, e)
  | fuel + 1, m, e => if m ≠ 0 ∧ m % 2 = 0 then stripTwos fuel (m / 2) (e + 1) else (m, e)
def exactProduct (a b : Val) : Nat × Int :=
  match Val.mul a b with
  | .fin _ n d => stripTwos 600 n (-(d.log2 : Int))
  | _ => (0, 0)

/-- The scale product of a descriptor, none where a scale is a NaN. -/
def scaleProduct (desc : Nat) : Option (Nat × Int) :=
  if bits desc 32 1 = 0 then some (1, 0)
  else
    let a := decodeVal .e8f2 (bits desc 0 16)
    let b := decodeVal .e8f2 (bits desc 16 16)
    if a.isNan || b.isNan then none else some (exactProduct a b)

/-- The checks of R181 on an accumulator tile's records: the new product, or the trap. -/
def Core.scaleCheck (c : Core) (z desc : Nat) : Except TrapInfo (Nat × Int) :=
  let rc := c.accRecOf z
  let cls := if c.mshape.int then AccClass.int else .flt
  match scaleProduct desc with
  | none => .error (scaleMismatch 3 z)
  | some p =>
    if rc.cls.isSome ∧ rc.cls ≠ some cls then .error (scaleMismatch 2 z)
    else if rc.prod.isSome ∧ rc.prod ≠ some p then .error (scaleMismatch 1 z) else .ok p

/-! ### MMA and MMAS (R182, R183) -/

def Core.weight (c : Core) (start i : Nat) : Byte := SMap.get 0 c.wbuf ((start + i) % wbufBytes)
def Core.weightStart (c : Core) (w : Fin 16) (off : BitVec 12) : Nat :=
  ((c.readK .M w).toNat + off.toNat * 64) % wbufBytes
/-- Whether every line that the B panels touch has the shape's layout. -/
def Core.layoutOk (c : Core) (start : Nat) : Bool :=
  let first := start / 64
  let n := (start % 64 + c.mshape.bBytes + 63) / 64
  (List.range (min n 4096)).all (fun j => c.wlay.contains ((first + j) % 4096) == c.mshape.sparse)

/-- The trap of weights that hold an uncorrectable soft error (R419). -/
def Core.weightFault (c : Core) (start : Nat) : Option TrapInfo :=
  if c.wupsets.any (fun g => decide ((8 * g + 7 + wbufBytes - start) % wbufBytes < c.mshape.bBytes + 7)) then
    some (uncorrectable 0x03 0) else none

/-- The tile updated from its operands. -/
def Core.multiply (c : Core) (z : Nat) (p : Nat × Int) (ga gb : Nat → Byte) : Core :=
  let sh := c.mshape
  let outs := (List.range sh.rows).flatMap (fun r => (List.range sh.cols).map (fun n =>
    (r * 64 + n, sh.output ga gb r n (c.accAt z (r * 64 + n)))))
  let acc := outs.foldl (fun a o => SMap.set 0 a (z * 2048 + o.1) (BitVec.ofNat 32 o.2.1)) c.acc
  let rc : AccRec := { cls := some (if sh.int then .int else .flt), prod := some p }
  let c := { c with acc, accRec := SMap.set {} c.accRec z rc }
  c.addFlags .M (orFlags (outs.map (·.2.2)))
/-- The same beside what V does to the tile unordered with it (R170); `src` and `a` say where the A operand lies. -/
def Core.product (c : Core) (key pc z : Nat) (p : Nat × Int) (src : SMap Byte) (a start : Nat) : Core :=
  (c.multiply z p (fun i => SMap.get 0 src (a + i)) (c.weight start)).raced c key pc
    { z, work := .product c.mshape src a c.wbuf start, before := c.acc }

/-- The bytes of an accumulator tile's first rows and columns. -/
def accRuns (z : Fin 256) (rows cols : Nat) : List (Nat × Nat) := (List.range rows).map (fun r => (z.val * 8192 + 256 * r, 4 * cols))
/-- The common part; `via` is the access to the A operand, which lies at `a` in `src`. -/
def State.mma (s : State) (z : Fin 256) (w : Fin 16) (off : BitVec 12) (via : State → (State → Res) → Res)
    (src : Core → SMap Byte) (a : Nat) : Res :=
  let c := s.core
  let start := c.weightStart w off
  match c.scaleCheck z.val (c.readK .M (Fin.ofNat 16 (w.val + 1))).toNat with
  | .error t => .trap id t
  | .ok p =>
    if !c.layoutOk start then .trap id (illegal 0x0D)
    else
      via s (fun s =>
        match s.core.weightFault start with
        | some t => .trap (fun s => s.logSram .M t) t
        | none => s.onPool .M .acc (accRuns z s.core.mshape.rows s.core.mshape.cols) (fun s =>
            .done (s.modCore (fun c => c.product s.accKey (s.eng .M).pc z.val p (src c) a start))))

/-- The tiles of MMA's A operand. -/
def Core.aTiles (c : Core) (a : Fin 256) : List Nat :=
  (List.range ((c.mshape.aBytes + 1023) / 1024)).map (fun i => a.val + i)

def execMma (h : Hdr) (z a : Fin 256) (w : Fin 16) (off : BitVec 12) (s : State) : Out :=
  let ts := s.core.aTiles a
  let shared := ts.filter (s.core.sharedWith .M)
  .next (s.issue .M h { regs := ts.map (fun t => (false, t)) ++ [(true, z.val)] } false (fun s =>
    if !shared.all s.core.fullOf then .stall id
    else
      match s.mma z w off (fun s f => s.onPool .M .tile [(a.val * 1024, s.core.mshape.aBytes)] f) (fun c => c.tiles) (a.val * 1024) with
      | .done s => .done (s.modCore (fun c => c.emptyTiles shared))
      | r => r))

def execMmas (h : Hdr) (z : Fin 256) (w d : Fin 16) (off : BitVec 12) (s : State) : Out :=
  .next (s.issue .M h { regs := [(true, z.val)] } false (fun s =>
    let a := (s.core.readK .M d).toNat / 16 * 16
    let run := [(a, s.core.mshape.aBytes)]
    s.mma z w off (fun s f => match s.core.runsFault 63 run with | some t => .trap id t | none => s.onData .M run [] f)
      (fun c => c.data) a))

/-! ### MSHAPE, MZERO, WLD, WCLR, MDRAIN (R173, R175, R184 to R186) -/

def execMshape (h : Hdr) (a b : ElemType) (blk : BlkMode) (sparse : Bool) (rows cols : Fin 4) (kg : BitVec 12) (s : State) : Out :=
  .next (s.issue .M h { limit := if a = .e2m1 ∧ kg.toNat % 2 = 1 then some 9 else none } false (fun s =>
    .done (s.modCore (fun c =>
      { c with mshape := { a, b, blk, sparse, rows := 8 * (rows.val + 1), cols := 16 * (cols.val + 1), kgroups := kg.toNat } }))))

def execMzero (h : Hdr) (z : Fin 256) (s : State) : Out :=
  .next (s.issue .M h { regs := [(true, z.val)] } false (fun s =>
    .done (s.modCore (fun c =>
      Core.raced { c with acc := SMap.drop c.acc (fun k => k / 2048 == z.val), accRec := SMap.erase c.accRec z.val,
                           soft := c.soft.filter (fun x : PoolPart × Nat => !(x.1 == .acc && x.2 / 1024 == z.val)) } c s.accKey (s.eng .M).pc
        { z := z.val, work := .zero, before := c.acc }))))

/-- Weight lines written, with their layout bits. -/
def Core.loadWeights (c : Core) (src dst len : Nat) (sparse : Bool) : Core :=
  (List.range len).foldl (fun c j =>
    let line := (dst / 64 + j) % 4096
    { c with wbuf := SMap.setRange 0 c.wbuf (line * 64) (c.readData (src + 64 * j) 64),
             wupsets := c.wupsets.filter (fun g => g / 8 != line),
             wlay := (if sparse then [line] else []) ++ c.wlay.filter (· != line) }) c

def execWld (h : Hdr) (w : Fin 16) (off : BitVec 12) (d : Fin 16) (hd : Fin 64) (sparse : Bool) (len : BitVec 13) (s : State) :
    Out :=
  .next (s.issue .M h { handles := vmHandle hd } false (fun s =>
    let c := s.core
    let src : Word64 := c.readK .M d + (if hd = 63 then 0 else BitVec.ofNat 64 (c.handle hd).base)
    let src := src.toNat / 64 * 64
    s.withRows .M hd [(src, len.toNat * 64)] false (fun s =>
      .done (s.modCore (fun c => c.loadWeights src (c.weightStart w off) len.toNat sparse)))))

def execWclr (h : Hdr) (s : State) : Out :=
  .next (s.issue .M h {} false (fun s => .done (s.modCore (fun c => { c with wbuf := [], wlay := [], wupsets := [] }))))

def execMdrain (h : Hdr) (z : Fin 256) (k : Fin 16) (hd : Fin 64) (off : BitVec 22) (s : State) : Out :=
  .next (s.issue .M h { regs := [(true, z.val)], handles := vmHandle hd } false (fun s =>
    let sh := s.core.mshape
    let a := s.core.rowStart .M k hd off
    s.withRows .M hd [(a, sh.rows * sh.cols * 4)] true (fun s => s.onPool .M .acc (accRuns z sh.rows sh.cols) (fun s =>
      .done (s.modCore (fun c =>
        c.writeData a ((List.range sh.rows).flatMap (fun r => (List.range sh.cols).flatMap (fun n =>
          toBytes 4 (c.accAt z.val (r * 64 + n)))))))))))

end Sys2Proof.Machine
end

