-- ==== Sys2Proof/Machine/Power.lean ====
section
/-! DEFINITION. Scrubbing and repair, the resets, operating points, tentering and retention sleep (spec/20 R418, R420, R426, 21
R428 to R435). -/

namespace Sys2Proof.Machine

def State.setIsland (s : State) (i : Nat) (x : Island) : State := { s with power := { s.power with islands := SMap.put s.power.islands i x } }
/-- Islands are numbered 0 to 511; the cores of one. -/
def islandExists (i : Nat) : Bool := decide (i < 512)
def islandCores (i : Nat) : List Nat := (List.range 3).map (fun j => i / 128 * 512 + i % 128 / 4 * 16 + i % 4 * 3 + j)
/-- Whether a task is bound to a core of an island. -/
def State.islandBound (s : State) (i : Nat) : Bool := (islandCores i).any (fun n => (s.coreAt n).task.isSome)

/-! ### Scrubbing and repair (R418, R420) -/

/-- Bytes of a stack that exist (R316). -/
def stackBytes : Nat := 64000000000

/-- SCRUB_READ: the next line of a stack's pass read and decoded. -/
def State.scrubRead (s : State) (stack : Nat) : State :=
  if s.rcv.scrubH = 0 ∨ !s.ready then s
  else
    let o := SMap.get 0 s.rcv.scrubAt stack
    let s := s.readDecode (s.unplace stack o)
    { s with rcv := { s.rcv with scrubAt := SMap.put s.rcv.scrubAt stack ((o + 64) % stackBytes) } }
def execScrubRead (stack : Nat) (s : State) : Out := .next (s.scrubRead (stack % 8))

/-- A remap register's word. -/
def remapWord (row spare : Nat) : Word64 := BitVec.ofNat 64 (row + 2 ^ 36 * spare + 2 ^ 42)
def remapRow (w : Word64) : Nat := w.toNat % 2 ^ 36
def remapSpare (w : Word64) : Nat := w.toNat / 2 ^ 36 % 64
def remapValid (w : Word64) : Bool := w.getLsbD 42
def State.remap (s : State) (n : Nat) : Word64 := SMap.get 0 s.rcv.remap n

/-- The lines of a row that hold anything. -/
def State.rowLines (s : State) (stack row : Nat) : List Nat :=
  (((s.mem.filter (fun e => !isHost e.1)).map (fun e => lineOf e.1)) ++ (s.side.filter (fun e => !isHost e.1)).map (·.1)).eraseDups.filter (fun l =>
    let p := s.place l
    p.1 == stack && Config.rowOf stack p.2 == row)

/-- A row's record on its pseudo-channel. -/
def State.logRow (s : State) (stack row type : Nat) : State :=
  s.logError (stack / 2)
    { time := s.time, channel := 64 * (stack % 2) + 2 * s.channelOf row + s.pseudoOf row, type, pa := s.unplace stack row }

/-- The spare rows that the remaps of a row's bank have taken (R420; log 16). -/
def State.sparesUsed (s : State) (stack row : Nat) : List Nat :=
  ((List.range 64).map (fun j => s.remap (64 * stack + j))).filterMap (fun w =>
    if remapValid w && Config.bankOf stack (remapRow w) == Config.bankOf stack row then some (remapSpare w) else none)

/-- ROW_REPAIR: each line copied as a read decodes it, the remap latched in a free register, its record kept in flash. The spare row is the
one named, or where that is in use the bank's lowest free one; a number past 63 says that the bank has none left. With none, or with no
free register, nothing changes, and the refusal is logged once. -/
def State.rowRepair (s : State) (stack row spare : Nat) : State :=
  let regs := (List.range 64).map (64 * stack + ·)
  let live (n : Nat) : Bool := remapValid (s.remap n)
  let refuse : State :=
    if s.rcv.refused.contains (2 ^ 36 * stack + row) then s
    else State.logRow { s with rcv := { s.rcv with refused := (2 ^ 36 * stack + row) :: s.rcv.refused } } stack row 5
  if s.rcv.pprTh = 0 ∨ SMap.get 0 s.rcv.rowErrors (2 ^ 36 * stack + row) < s.rcv.pprTh
      ∨ regs.any (fun n => live n && remapRow (s.remap n) == row % 2 ^ 36) then s
  else
    let left := if 64 ≤ spare then [] else (spare :: List.range 64).filter (fun x => !(s.sparesUsed stack row).contains x)
    match regs.find? (fun n => !live n), left with
    | some n, x :: _ =>
      let w := remapWord row x
      let s := (s.rowLines stack row).foldl (fun s l => s.readDecode l) s
      State.logRow { s with rcv := { s.rcv with remap := SMap.put s.rcv.remap n w, kept := SMap.put s.rcv.kept n w } } stack row 4
    | _, _ => refuse
def execRowRepair (stack row spare : Nat) (s : State) : Out := .next (s.rowRepair (stack % 8) row spare)

/-! ### Tentering (R434, R435) -/

/-- VMV as a reading asks for it, before its limit. -/
def plannedVmv (vmv slack : Nat) : Nat :=
  if slack < 20 then vmv + 5 * ((20 - slack + 3) / 4) else if slack < 32 then vmv else max 700 (vmv - 5)

/-- One reading of an island: a raise is applied at once. -/
def Island.reading (i : Island) (slack : Nat) : Island :=
  let v := plannedVmv i.vmv slack
  let vmv := min v 800
  { i with slack := min slack 255, vmv, demote := decide (800 < v), applied := if i.vmv < vmv then vmv else i.applied }

/-- What the management controller is sent once the last reading of a pass is made: every island's SLACK, VMV and DEMOTE. -/
def State.sendReport (s : State) : State :=
  if s.power.islands.any (fun e => e.2.waits.isSome) then s
  else { s with power := { s.power with report := (List.range 512).map (fun n =>
      (n, ((s.island n).slack, (s.island n).vmv, (s.island n).demote))) } }

/-- A pass of readings, one of each island: those named, the others as the monitors give them. The reading of an island whose point
changes waits until that has ended (R435). -/
def State.tenter (s : State) (rs : List Reading) : State :=
  let slack (n : Nat) : Nat := match rs.find? (fun r => r.island == n) with
    | some r => r.slack
    | none => (Config.freeByte (s.nextId * 2 ^ 100 + n)).toNat
  let t := (List.range 512).foldl (fun t n =>
    let i := t.island n
    t.setIsland n (if i.changing.isSome then { i with waits := some (slack n) } else i.reading (slack n))) s
  State.sendReport
    { t with nextId := s.nextId + 1, power := { t.power with tentRuns := (t.power.tentRuns + 1) % 2 ^ 32, passed := s.fabric } }
/-- An hour, and the millisecond of R433, in fabric cycles. -/
def hourCycles : Nat := 3600 * 3300000000
def msCycles : Nat := 3300000
/-- TENTERING_PASS, after every hour of operation. -/
def State.tenteringPass (s : State) (rs : List Reading) : State := if s.fabric < s.power.passed + hourCycles then s else s.tenter rs
def execTenteringPass (readings : List Reading) (s : State) : Out := .next (s.tenteringPass readings)

/-! ### Resets (R428 to R430) -/

/-- The image that a written firmware window stands for, each field within its range, reserved bits 0 (R10, R317, R398, R432); its format
is the outside's (log 17). -/
def configImageOf (w : SMap Byte) : ConfigImage :=
  let v (k : Nat) : Nat := Config.imageValue w k
  { pkgId := v 0 % 2 ^ 12, place := BitVec.ofNat 64 (v 1), chHash := BitVec.ofNat 64 (v 2 % 2 ^ 23), pcHash := BitVec.ofNat 64 (v 3 % 2 ^ 23),
    resbase := (List.range 4).map (fun d => v (4 + d)), ressize := (List.range 4).map (fun d => v (8 + d)), hblimit := v 12 % 2 ^ 32,
    cap := 600 + v 13 % 1801, scrubH := v 14 % 256, pprTh := v 15 % 256, requesters := [v 16 % 2 ^ 16, v 17 % 2 ^ 16],
    fabricMaster := (v 18 % 18, v 19 % 2 ^ 12), functions := BitVec.ofNat 16 (v 20),
    vmv := (List.range 512).foldl (fun m i => SMap.set 750 m i (700 + v (2 ^ 16 + i) % 101)) [],
    queueFn := (List.range 1024).foldl (fun m q => SMap.set 0 m q (v (2 ^ 17 + q) % 16)) [],
    access := (List.range (32 * 0x238)).foldl (fun m k => SMap.set (imageAccess k) m k (accessMask k (BitVec.ofNat 8 (v (2 ^ 18 + k))))) [] }
/-- Whether the residency regions of an image are legal: whole 64 KiB pages none of which reaches absent memory under the image's own
placement and hashes (R316, R404). -/
def State.regionsOk (s : State) (x : ConfigImage) : Bool :=
  let s : State := { s with mgmt := { s.mgmt with place := x.place, chHash := x.chHash, pcHash := x.pcHash } }
  let page (a : Nat) : Bool := !s.absent a && !s.absent (a + 65535)
  (x.resbase.zip x.ressize).all (fun r =>
    r.1 % 65536 == 0 && r.2 % 65536 == 0 && decide (r.1 + r.2 ≤ 2 ^ 39) && (List.range (r.2 / 65536)).all (fun i => page (r.1 + 65536 * i)))

/-- The values of a configuration image loaded (R404, R429). -/
def State.loadImage (s : State) (x : ConfigImage) : State :=
  { s with
    mgmt := { s.mgmt with pkgId := x.pkgId, place := x.place, chHash := x.chHash, pcHash := x.pcHash, resbase := x.resbase,
                          ressize := x.ressize, hblimit := x.hblimit, access := x.access },
    rcv := { s.rcv with scrubH := x.scrubH, pprTh := x.pprTh, image := x },
    power := { s.power with cap := x.cap,
                            islands := x.vmv.map (fun e => (e.1, { vmv := e.2, applied := e.2 })) } }

/-- What every reset leaves: each register at its reset value or the image's, device memory zeroed, TIME and CYCLE at 0, the remap
registers written again from the records kept, but not in recovery mode, which step 4 of R429 is never reached in (R420, R428). The host's memory, and the schedule and the counters of free values, are not the
package's. -/
def State.afterReset (s : State) (x : ConfigImage) (kept : SMap Word64) (stage : Nat) (recov : Bool) : State :=
  let r := State.reset
  let r : State :=
    { r with
      schedule := s.schedule, turns := s.turns, nextId := s.nextId + 1,
      mem := s.mem.filter (fun e => isHost e.1),
      side := s.side.filter (fun e => isHost e.1),
      rcv := { r.rcv with kept, remap := if recov then [] else kept },
      power := { r.power with stage, recov } }
  r.loadImage x

/-- The first readings of every island, which the monitors give. -/
def firstReadings (k : Nat) : List Reading := (List.range 512).map (fun i => ⟨i, (Config.freeByte (k * 2 ^ 100 + i)).toNat⟩)

/-- The image that the next reset loads: a new one where the firmware window has been written since the last (R404). -/
def State.nextImage (s : State) : ConfigImage := if s.rcv.fwWindow = [] then s.rcv.image else configImageOf s.rcv.fwWindow

/-- Steps 1 to 6 of bring-up, or recovery mode where an image does not verify (R402, R404). -/
def State.bringUp (s : State) (kept : SMap Word64) : State :=
  let x := s.nextImage
  if Config.imagesVerify s.nextId && s.regionsOk x then (s.afterReset x kept 6 false).tenter (firstReadings s.nextId)
  else
    let r := s.afterReset {} kept 1 true
    { r with rcv := { r.rcv with image := x } }

def execPowerOnReset (s : State) : Out := .next (s.bringUp [])
def execDeviceReset (s : State) : Out := .next (s.bringUp s.rcv.kept)

/-! ### Operating points (R431, R433) -/

/-- 200 ns in fabric cycles. -/
def pointChangeCycles : Nat := 660

/-- An island moved to a point: its cycles are counted at the new rate from here, and a lowered supply is applied. -/
def State.movePoint (s : State) (n op : Nat) : State :=
  let i := s.island n
  if op = i.op then s
  else
    let ran := i.frac + (s.fabric - i.since) * pointRate i.op
    s.setIsland n { i with op, cycles := i.cycles + ran / 33, frac := ran % 33, since := s.fabric,
                           changing := some (s.fabric + pointChangeCycles), applied := i.vmv }

/-- Whether the package limit asks for less, or allows more (R433). -/
def Power.over (p : Power) : Bool := decide (p.cap < p.now ∨ 105 < p.tjMax)
def Power.under (p : Power) : Bool := decide (100 * p.now < 95 * p.cap ∧ p.tjMax ≤ 100)

/-- An island's part in a power step: the fastest point that OPCAP, DEMOTE and the package limit all allow. -/
def State.stepIsland (s : State) (n : Nat) : State :=
  let i := s.island n
  if i.asleep ∨ i.changing.isSome then s
  else
    let bound := s.islandBound n
    let slowed :=
      if s.power.over then (if bound then min 3 (i.op + 1) else i.slowed)
      else if s.power.under then i.slowed - 1 else i.slowed
    let s := s.setIsland n { i with slowed }
    s.movePoint n (if bound then max i.opcap (max i.demote.toNat slowed) else 3)

/-- POINT_CHANGE_END: the island issues again once its 200 ns are over, and a reading that waited is made. -/
def State.endPointChange (s : State) (n : Nat) : State :=
  let i := s.island n
  match i.changing with
  | some t =>
    if s.fabric < t then s
    else
      match i.waits with
      | some x => (s.setIsland n ({ i with changing := none, waits := none }.reading x)).sendReport
      | none => s.setIsland n { i with changing := none }
  | none => s
def execPointChangeEnd (island : Nat) (s : State) : Out := .next (s.endPointChange island)

/-- POWER_STEP with the power and temperature measured, at most once in a millisecond; the power never exceeds 2,640 W (R433). -/
def State.powerStep (s : State) (watts temp : Nat) : State :=
  if s.power.stepped.any (fun t => decide (s.fabric < t + msCycles)) then s
  else
    let s : State := { s with power := { s.power with now := min watts 2640, tjMax := temp % 256, stepped := some s.fabric } }
    (List.range 512).foldl (fun s n => (s.endPointChange n).stepIsland n) s
def execPowerStep (watts temp : Nat) (s : State) : Out := .next (s.powerStep watts temp)

/-! ### Retention sleep (R426) -/

/-- RETENTION_SLEEP_ENTRY: with no core bound, the cores are cleaned, and the island sleeps once they owe nothing. -/
def State.sleepIsland (s : State) (n : Nat) : State :=
  let i := s.island n
  if !islandExists n || i.asleep || i.changing.isSome || s.islandBound n then s
  else if (islandCores n).all s.coreSettled then
    let horizon (a : Nat) : Nat × Nat := (a, ofBytes (s.readNow (a + 6) 2))
    let horizons := ((islandCores n).flatMap (fun k => (s.coreAt k).tmrCache)).eraseDups.map horizon
    let ran := i.frac + (s.fabric - i.since) * pointRate i.op
    s.setIsland n { i with asleep := true, horizons, retiredAt := s.rcv.retired, cycles := i.cycles + ran / 33, frac := ran % 33,
                           since := s.fabric }
  else (islandCores n).foldl (fun s k => if s.coreSettled k then s else s.cleanCore k) s
def execRetentionSleepEntry (island : Nat) (s : State) : Out := .next (s.sleepIsland island)

def execRetentionWake (island : Nat) (s : State) : Out := .next (s.wakeIsland island)

end Sys2Proof.Machine
end

