-- ==== Sys2Proof/Machine/Fetch.lean ====
section
/-! DEFINITION. When an engine may take its next word, and fetching it (spec/02 R40 to R46, 20 R407). -/

namespace Sys2Proof.Machine

/-- What a fetch finds: no word of the stream there, a word that is not resident, or the word (R41 to R43). -/
inductive Fetched where
  | outside | absent
  | word (w : Word64)
  deriving DecidableEq, Repr

/-- The ring an engine fetches from and its slots: in trap mode S fetches from the trap window (R407). -/
def Core.fetchRing (c : Core) (e : Engine) : Ring × Nat :=
  if e = .S ∧ c.trap.mode then (c.trapRing, 256) else ((c.eng e).ring, Part.ringWords c.part e)

def Core.fetch (c : Core) (e : Engine) : Fetched :=
  let pc := (c.eng e).pc
  let (r, n) := c.fetchRing e
  if c.streamLen e ≤ pc then .outside
  else if r.base ≤ pc ∧ pc < r.base + n then .word (SMap.get 0 r.slots (pc % n)) else .absent

/-- Whether an engine may take its next word: its task runs, and neither END, a SAFE, a PAUSE, a signal (R46), a unit
(R436), a PHASE (R374), an atomic in the fault buffer (R280), trap mode (R405) nor its island (R431) holds it. A fault of one of its own
words that a handler's entry has overtaken does not hold the handler back. -/
def State.mayIssue (s : State) (e : Engine) : Bool :=
  let c := s.core
  let x := c.eng e
  let i := s.island (coreIsland s.cur)
  c.started && !x.ended && x.parked.isNone && x.pause.isNone && !x.sigHold && (x.held.isNone || c.trap.mode)
    && (!c.trap.mode || (e == .S && !c.trap.hostHeld)) && (e != .S || c.unit.isNone) && c.phase.isNone
    && !c.flights.any (fun f => f.eng == e && (match f.kind with | .atom _ => true | _ => false)
      && f.parts.any (fun p => c.faults.any (fun x => x.req == some p.req)))
    && !i.asleep && i.changing.isNone

/-- A PAUSE whose cycles have elapsed finishes (R45, R118), on S also one that a trap has set aside. -/
def State.endPause (s : State) (e : Engine) : State :=
  let past (p : Option (Nat × Nat)) : Option Nat := p.bind (fun p => if p.1 ≤ s.cycleOf s.cur then some p.2 else none)
  let s' := match past (s.eng e).pause with
    | some id => (s.modEng e (fun x => { x with pause := none })).finishSig e id
    | none => s
  match (if e = .S then past (s.core.trap.saved.bind (·.pause)) else none) with
  | some id => (s'.modCore (fun c => { c with trap := { c.trap with saved := c.trap.saved.map (fun v => { v with pause := none }) } })).finishSig .S id
  | none => s'

/-- The trap of a word that is no instruction (R68, R69). -/
def trapOfIllegal : Illegal → TrapInfo
  | .reservedOp => illegal 0x01
  | .reservedBit p => illegal 0x02 p
  | .reservedValue p => illegal 0x03 p

/-- Time passing: a later cycle finds the error records of the last one stored (R424). -/
def State.passTime (s : State) (dt : Nat) : State :=
  { (if dt = 0 then s else s.storeLogs) with turns := s.turns + 1, fabric := s.fabric + dt }
/-- The next turn: the schedule's, else the free value's (log 1). -/
def State.takeTurn (s : State) : Turn × State :=
  match s.schedule with
  | t :: ts => (t, { s with schedule := ts }.passTime t.dt)
  | [] => (Config.freeTurn s.turns, s.passTime (Config.freeTurn s.turns).dt)

/-! ### Errors of the memories (R415, R416, R419) -/

/-- One symbol of a stored line changed: a data byte, the tag or a check symbol. A line of the host's memory becomes poisoned. -/
def State.flipSymbol (s : State) (line i : Nat) (v : Byte) : State :=
  let side (x : BitVec 32) : State := { s with side := SMap.set 0 s.side line (s.sideOf line ^^^ x) }
  if isHost line then s.recode line 0 true
  else if i < 64 then { s with mem := s.mem.write (line + i) (s.mem.read (line + i) ^^^ v) }
  else if i = 64 then side ((v.extractLsb' 0 4).zeroExtend 32 <<< 24)
  else if i < 68 then side (v.zeroExtend 32 <<< (8 * (i - 65)))
  else s

/-- An error strikes: a soft error in the SRAM is logged where it is met, one in the pool or the weight buffer by its reader. -/
def State.upset (s : State) : Upset → State
  | .memory line i v => s.flipSymbol (lineOf line) i v
  | .corrected die ch =>
    if die < 4 ∧ 128 ≤ ch ∧ ch < 544 then s.logError die { time := s.time, channel := ch, type := 6 } else s
  | .slice die n line dirty =>
    let line := lineOf line
    if 4 ≤ die ∨ 32 ≤ n then s
    else
      let s := s.logError die { time := s.time, channel := 128 + n, type := 7, pa := if isHost line then 0 else line }
      if dirty then s.recode line (s.tagOf line) true else s
  | .pool core g =>
    if coreExists core ∧ 8 * g < Part.dataBytes (s.coreAt core).part then
      s.modCoreAt core (fun c => { c with upsets := if c.upsets.contains g then c.upsets else g :: c.upsets })
    else s
  | .part core p g =>
    let c := s.coreAt core
    let there : Bool := match p with
      | .tile => decide (8 * g < 1024 * Part.tiles c.part)
      | .acc => decide (g / 1024 < Part.accs c.part)
      | .ring e => decide (g < Part.ringWords c.part e)
      | .l1 => (c.l1At (2 * g)).isSome || (c.l1At (2 * g + 1)).isSome
    if coreExists core ∧ there then s.modCoreAt core (fun c => { c with soft := if c.soft.contains (p, g) then c.soft else (p, g) :: c.soft })
    else s
  | .weights core g =>
    if coreExists core ∧ g < 32768 then
      s.modCoreAt core (fun c => { c with wupsets := if c.wupsets.contains g then c.wupsets else g :: c.wupsets })
    else s

end Sys2Proof.Machine
end

