-- ==== Sys2Proof/Machine/Preempt.lean ====
section
/-! DEFINITION. Pre-emption saves, PHASE and the core deadlock (spec/16 R369 to R376, 13 R314). -/

namespace Sys2Proof.Machine

/-! ### What is saved (R370, R371) -/

/-- Whether an item of some live maps holds number `n` of a kind. -/
def mapHolds (items : List MapItem) (kind n : Nat) : Bool :=
  items.any (fun i => i.kind == kind && decide (i.first ≤ n ∧ n < i.first + i.count))

/-- A PAUSE's end as cycles still to run. -/
def Eng.pauseLeft (x : Eng) (now : Nat) : Eng := { x with pause := x.pause.map (fun p => (p.1 - now, p.2)) }

/-- What every save holds: the L1 has been cleaned and its registered words stay behind, and the transfers will start again from their
first bytes (R314). -/
def Core.saved (c : Core) (now : Nat) : Core :=
  { c with l1 := [], l1Names := [], l1Since := [], tmrCache := [], faults := [], phase := none, feeds := [], sample := none, lwait := none,
           soft := c.soft.filter (fun x => x.1 != .l1),
           checker := c.inFlightC, journal := c.journal.map (fun j => { j.restart with moved := none }),
           trap := { c.trap with saved := c.trap.saved.map (fun v => { v with pause := v.pause.map (fun p => (p.1 - now, p.2)) }) },
           engS := c.engS.pauseLeft now, engV := c.engV.pauseLeft now, engM := c.engM.pauseLeft now, engC := c.engC.pauseLeft now }

/-- A soft save: of tiles, accumulators, data and queues only what the parked SAFE words' live maps list. -/
def Core.softSaved (c : Core) : Core :=
  let maps := Engine.all.filterMap (fun e => (c.eng e).parked.bind (fun p => c.obj.maps.find? (fun m => m.number == p.2)))
  let items := maps.flatMap (·.items)
  { c with
    tiles := c.tiles.filter (fun e => mapHolds items 1 (e.1 / 1024)),
    fullTiles := c.fullTiles.filter (mapHolds items 1),
    acc := c.acc.filter (fun e => mapHolds items 2 (e.1 / 2048)),
    accRec := c.accRec.filter (fun e => mapHolds items 2 e.1),
    data := c.data.filter (fun e => mapHolds items 3 e.1),
    queues := Vector.ofFn (fun q => if mapHolds items 5 q.val then c.queues[q] else []),
    wbuf := [], wlay := [], wupsets := [], upsets := c.upsets.filter (fun g => mapHolds items 3 (8 * g)),
    soft := c.soft.filter (fun x => match x.1 with
      | .tile => mapHolds items 1 (x.2 / 128)
      | .acc => mapHolds items 2 (x.2 / 1024)
      | _ => false) }

/-- A save moved into its slot of the context's save area: 2,816 KiB of a hard save, of a soft one the live bytes. How they are laid
out is not given: the slot's bytes, and the pages that a soft save writes, are the outside's (log 78). -/
def State.fillSlot (s : State) (ctx slot : Nat) (hard : Bool) : State :=
  let base := (s.ctxOf ctx).save + slot * (3 * 2 ^ 20)
  (List.range 44).foldl (fun s j =>
    let f (i : Nat) : Byte := Config.freeByte (s.nextId * 2 ^ 100 + i)
    if hard || (f 65536).toNat % 2 == 1 then
      State.unitWrite { s with nextId := s.nextId + 1 } ctx (base + 65536 * j) ((List.range 65536).map f)
    else { s with nextId := s.nextId + 1 }) s

/-- The core's state put into the lowest free save slot of its context; the core stays bound until the save is done. -/
def State.putSave (s : State) (n : Nat) (img : Core) (reqs : List Req) (hard : Bool) : State :=
  match (s.coreAt n).task.bind (fun id => (SMap.find? s.tasks id).map (fun t => (id, t))) with
  | none => s
  | some (id, t) =>
    let c := s.ctxOf t.ctx
    let used := (s.saves.filter (fun x => x.ctx == t.ctx)).map (·.slot)
    let slot := ((List.range (used.length + 1)).find? (fun i => !used.contains i)).getD 0
    let x : Saved := { ctx := t.ctx, slot, task := id, place := img.gangPos, core := img, reqs, hard }
    let s := s.setCtx t.ctx { c with slotsused := c.slotsused + 1 }
    let s := State.fillSlot { s with saves := s.saves ++ [x] } t.ctx slot hard
    s.modCoreAt n (fun k =>
      { k with started := false, preempt := none, journal := [], flights := [], unit := none, phase := none, faults := [],
               feeds := [], fills := [], lwait := none })

/-- The writes that a transfer may have made of those it has still to make, and the tag they carry: of one that resolves its version
from line tags those up to the first line that does not agree (R198, R298), of an encode that would overflow none (R303). -/
def State.movable (s : State) (j : JEntry) : List Move × Option (Nat × Nat) :=
  let d := j.desc
  let resolving : Bool := Box.srcSpace d == 1
  match j.cmd.kind with
  | .copy =>
    if Box.tagValid d ∧ resolving then
      let ms := s.movesLeft j plainScale
      match s.resolveRuns j (Box.tagIdx d) (if j.found.isSome then [] else (ms.flatMap (·.reads)).take 1) with
      | .ok q => (s.resolved j (Box.tagIdx d) q.1 ms, none)
      | .error _ => ([], none)
    else (s.movesLeft j plainScale, j.tagged)
  | .copyc =>
    if Box.mode d = 1 ∧ resolving then
      match s.decodeScale j with
      | .ok q => (s.resolved j (Box.tagIdx d) q.1 (s.movesLeft j q.2), none)
      | .error _ => ([], none)
    else if Box.mode d = 2 then
      match s.firstPass j with
      | .ok _ => (s.movesLeft j (s.pairScale j.tmr), j.tagged)
      | .error _ => ([], none)
    else (s.movesLeft j (s.pairScale j.tmr), none)
  | _ => (s.movesLeft j plainScale, none)

/-- Transfers stopped in their course: the writes they had made stand, how many the outside says. -/
def State.partialMoves (s : State) (js : List JEntry) : State :=
  js.foldl (fun s j =>
    let (w, s) := s.freeWord
    let (ms, tag) := s.movable j
    ((s.before j).movesUpTo j tag ms w).beside s j) s
/-- The partial writes of the transfers that abandonments have stopped (R412). -/
def State.settleStopped (s : State) : State :=
  if s.cores.any (fun e => !e.2.stopped.isEmpty) then
    s.cores.foldl (fun s e =>
      if e.2.stopped.isEmpty then s
      else (s.onCore e.1 (fun s => (s.partialMoves e.2.stopped).modCore (fun c => { c with stopped := [], checker := [] })))) s
  else s

/-- Whether a message that arrives is for one of a core's RECVs: messages match RECVs in the order of their issue (R310). -/
def State.messageFor (s : State) (n i : Nat) : Bool :=
  match s.fab.received[i]? with
  | none => false
  | some m =>
    let before := ((s.fab.received.take i).filter (fun x => x.pkg == m.pkg && x.mtag == m.mtag)).length
    ((s.postedRecvs m.pkg m.mtag)[before]?).any (fun r => r.2 == n)
/-- What a SEND still held has put on its port: the message of its peer, tag and length sent last. -/
def Fabric.unsend (f : Fabric) (j : JEntry) : Fabric :=
  match f.sent.reverse.findIdx? (fun m => m.pkg == du j.desc 0x0C 2 && m.mtag == du j.desc 0x10 4 && m.len == du j.desc 8 4) with
  | some i => { f with sent := (f.sent.reverse.eraseIdx i).reverse }
  | none => f

/-- The transfers in flight discarded: the writes they had made stand, how many the outside says; a SEND or RECV is cancelled at both
ends, and its message comes or goes again in whole (R314). -/
def State.discardTransfers (s : State) (n : Nat) : State :=
  s.onCore n (fun s =>
    let s := s.partialMoves (s.core.journal.filter (fun j => !j.cancelled && j.fault.isNone && j.moved.isNone))
    let kept := (List.range s.fab.received.length).filter (fun i => !s.messageFor n i)
    let fab := (s.core.journal.filter (fun j => j.cmd.kind == .send && j.moved.isSome)).foldl Fabric.unsend s.fab
    { s with fab := { fab with received := kept.filterMap (fun i => s.fab.received[i]?) } })

/-- Whether a bound task has the core, which a request of pre-emption has reached. -/
def State.victimCore (s : State) (n : Nat) : Bool :=
  let c := s.coreAt n
  c.preempt.isSome && (match c.task.bind (SMap.find? s.tasks) with | some t => t.st == .running | none => false)

def Core.collInFlight (c : Core) : Bool :=
  c.journal.any (fun j => match j.cmd.kind with | .coll _ => true | _ => false)

/-! ### Soft and hard pre-emption (R369 to R371) -/

/-- Quiesced: every engine parked or at END, its signals performed, with nothing of its words in flight. -/
def Core.quiesced (c : Core) : Bool :=
  Engine.all.all (fun e => ((c.eng e).ended || (c.eng e).parked.isSome) && (c.eng e).sigs.isEmpty) && c.flights.isEmpty && c.unit.isNone
    && c.phase.isNone

/-- SOFT_PREEMPTION: the core stops, its transfers discarded, is cleaned, and is saved once it owes nothing more. -/
def State.softPreempt (s : State) (n : Nat) : State :=
  let c := s.coreAt n
  if !s.victimCore n ∨ c.trap.mode ∨ !c.quiesced ∨ c.collInFlight then s
  else if c.started then (s.discardTransfers n).modCoreAt n (fun c => { c with started := false })
  else if s.coreSettled n then s.putSave n ((c.applyFills.softSaved).saved (s.cycleOf n)) [] false
  else s.cleanCore n
def execSoftPreemption (core : Nat) (s : State) : Out := .next (s.softPreempt core)

/-- A contribution held in a weir as the request it was (R280); the retry translates it afresh (R394). -/
def State.weirReq (s : State) (w : WeirEntry) : Req :=
  { id := w.req, core := w.core, eng := w.eng, kind := .atomic w.op, pol := .wt, inv := false,
    addr := (match s.translate w.ctx w.ctx w.ia true with | .addr a => s.keyed w.ctx w.ia a | _ => 0), size := 4, va := w.va,
    ctx := w.ctx, ia := w.ia, data := w.data, wb := [], seq := some w.contributor, pc := w.pc, inTrap := w.inTrap, since := w.since,
    ncon := match s.robject w.ctx w.ia with | some o => o.ncon | none => 1, stage := .sent }

/-- The atomics of a core that have not been performed, none of them waited for at its home. -/
def State.withdrawable (s : State) (n : Nat) : List Req :=
  s.coh.reqs.filter (fun r => r.core == n && r.isAtomic && r.stage == .sent && !s.awaiting r.id)
    ++ (s.coh.weir.filter (fun w => w.core == n)).map s.weirReq

/-- Requests taken back from their homes. -/
def State.withdraw (s : State) (rs : List Req) : State :=
  let gone (id : Nat) : Bool := rs.any (fun r => r.id == id)
  let s := rs.foldl (fun s r => s.clearBusy (lineOf r.addr) r.id) s
  { s with coh := { s.coh with reqs := s.coh.reqs.filter (fun r => !gone r.id), weir := s.coh.weir.filter (fun w => !gone w.req) } }

/-- HARD_PREEMPTION: 2^20 cycles after the request, the core not being quiesced, the engines stop, and the core is saved whole once its
loads and stores are done and its L1 is clean. An FSWAIT goes on waiting in its slot, as does an instruction that waits for
conditions of its own, an atomic's release among them. -/
def State.hardPreempt (s : State) (n : Nat) : State :=
  let c := s.coreAt n
  let due : Bool := match c.preempt with | some t => decide (t + 2 ^ 20 ≤ s.cycleOf n) | none => false
  if !s.victimCore n ∨ !due ∨ c.collInFlight ∨ (c.quiesced ∧ !c.trap.mode) then s
  else if c.started then (s.discardTransfers n).modCoreAt n (fun c => { c with started := false, phase := none })
  else
    let rs := s.withdrawable n
    let held (id : Nat) : Bool := id == 0 || rs.any (fun r => r.id == id)
    let waits : Bool := match c.unit with
      | some u => (match u.cmd with | .fswait _ _ _ => false | _ => u.answer.isNone)
      | none => false
    if waits ∨ !c.flights.all (fun f => f.parts.all (fun p => p.got.isSome || held p.req)) ∨ c.flights.any Flight.complete then s
    else
      let s' := s.withdraw rs
      if s'.coreSettled n then s'.putSave n (c.applyFills.saved (s.cycleOf n)) rs true else s.cleanCore n
def execHardPreemption (core : Nat) (s : State) : Out := .next (s.hardPreempt core)

/-- SAVE_COMPLETE: the core leaves its task; with the last one the task is pre-empted, its layers' LPINS fall, and its
context's held publications are proposed again (R208, R338, R368, R372). -/
def State.saveComplete (s : State) (n : Nat) : State :=
  let c := s.coreAt n
  match c.task.bind (fun id => (SMap.find? s.tasks id).map (fun t => (id, t))) with
  | none => s
  | some (id, t) =>
    if t.st ≠ .running ∨ c.started ∨ !s.saves.any (fun x => x.task == id && x.place == c.gangPos) then s
    else
      let s := s.modCoreAt n (fun c => c.leave (some t.ctx))
      let t := { t with cores := t.cores.filter (· != n) }
      if !t.cores.isEmpty then (s.setTask id t).topUpAll
      else
        let s := s.setTask id { t with st := .preempted, budgetUsed := t.budgetUsed + (s.fabric - t.resumeAt) }
        ((s.pinLayers t.ctx t.layers false).settleContext t.ctx).topUpAll
def execSaveComplete (core : Nat) (s : State) : Out := .next (s.saveComplete core)

/-! ### PHASE (R374, R375) -/

/-- PHASE at its issue: a legal word holds the engines until PHASE_COMPLETE, its WAIT byte performed. -/
def State.phaseStart (s : State) (h : Hdr) (v : Word64) : Res :=
  let w := Part.resolve v
  if !Part.valid w then .trap id (illegal 0x12 0)
  else if w.toNat % 2 ^ 16 ≠ s.core.part.toNat % 2 ^ 16 then .trap id (illegal 0x12 1)
  else .hold (s.modCore (fun c => { c with phase := some (h, w) }))
def execPhase (h : Hdr) (a : Fin 32) (s : State) : Out :=
  s.sluiceOp h [a] (fun s => s.phaseStart h (s.core.readS a))

/-- The handle or the shared tile that forbids a new partition. -/
def Core.phaseFault (c : Core) (w : Word64) : Option TrapInfo :=
  let bad (reason n : Nat) : TrapInfo := { cause := 1, info := 0x12 + 2 ^ 8 * reason + 2 ^ 16 * n }
  let far (i : Nat) : Bool :=
    let h := c.handle (Fin.ofNat 64 i)
    decide (Part.dataBytes w < h.base + h.expected) && h.st != .free
  match (List.range 64).find? far with
  | some i => some (bad 2 i)
  | none => ((c.fullTiles.filter (fun t => decide (Part.tiles w ≤ t))).min?).map (bad 3)

/-- The pool under a new partition word: what lies beyond it ceases to exist. -/
def Core.repartition (c : Core) (w : Word64) : Core :=
  { c with part := w,
           tiles := c.tiles.filter (fun e => decide (e.1 / 1024 < Part.tiles w)),
           acc := c.acc.filter (fun e => decide (e.1 / 2048 < Part.accs w)),
           accRec := c.accRec.filter (fun e => decide (e.1 < Part.accs w)),
           data := c.data.filter (fun e => decide (e.1 < Part.dataBytes w)),
           upsets := c.upsets.filter (fun g => decide (8 * g < Part.dataBytes w)),
           soft := c.soft.filter (fun x => match x.1 with
             | .tile => decide (x.2 / 128 < Part.tiles w)
             | .acc => decide (x.2 / 1024 < Part.accs w)
             | _ => true) }

/-- Without an L1 every access is a .wt access, those of S that are under way too (R245). -/
def State.withoutL1 (s : State) (w : Word64) : State :=
  if Part.l1Bytes w ≠ 0 then s
  else { s with coh := { s.coh with reqs := s.coh.reqs.map (fun r =>
      if r.core = s.cur ∧ r.stage = .sent ∧ r.kind ≠ .writeback then { r with pol := .wt, inv := false } else r) } }

/-- PHASE_COMPLETE: with V and M idle and the journal empty, its checks, its evictions with their write-backs, then the new
word. -/
def State.phaseComplete (s : State) (core : Nat) : State :=
  s.onCore core (fun s =>
    let c := s.core
    match c.phase with
    | none => s
    | some (h, w) =>
      if c.flights.any (fun f => f.eng != .S) ∨ !c.journal.isEmpty then s
      else
        match c.phaseFault w with
        | some t => (s.setCore { c with phase := none }).takeTrap .S c.engS.pc t
        | none =>
          if Part.l1Bytes w < 64 * c.l1Lines.length then s.shrinkTo s.cur (Part.l1Bytes w)
          else if s.coh.reqs.any (fun r => r.core == s.cur && r.kind == .writeback) then s
          else ((s.setCore { c.repartition w with phase := none }).withoutL1 w).retire .S h c.engS.pc)
def execPhaseComplete (core : Nat) (s : State) : Out := .next (s.phaseComplete core)

/-! ### Core deadlock (R376) -/

/-- The tiles that a V word reads and writes (R147). -/
def vecTiles : Instr → List (Fin 256) × List (Fin 256)
  | .vld _ t _ _ _ | .vldq _ t _ _ _ => ([], [t])
  | .vst _ t _ _ _ | .vstq _ t _ _ _ => ([t], [])
  | .vgath _ t i _ _ _ _ => ([i], [t])
  | .vscat _ t i _ _ _ _ => ([i, t], [])
  | .vmov _ _ _ d a | .vabs _ _ _ d a | .vneg _ _ _ d a | .vsqrt _ _ _ _ d a | .vrcp _ _ _ _ d a | .vrsq _ _ _ _ d a
  | .vexp2 _ _ _ _ d a | .vexp _ _ _ _ d a | .vlog2 _ _ _ _ d a | .vsinpi _ _ _ _ d a | .vcospi _ _ _ _ d a
  | .vtanh _ _ _ _ d a | .vcvt _ _ _ _ _ _ d a | .vscale _ _ _ _ _ _ d a _ | .vred _ _ _ _ _ d a | .vscan _ _ _ _ _ d a
  | .vxpose _ _ _ d a => ([a], [d])
  | .vbcast _ _ _ d _ | .viota _ _ _ _ _ d _ | .vrand _ _ _ _ d _ _ | .vdrain _ _ _ _ _ d _ _ => ([], [d])
  | .vadd _ _ _ _ _ d a b | .vsub _ _ _ _ _ d a b | .vmul _ _ _ _ _ d a b | .vmin _ _ _ d a b | .vmax _ _ _ d a b
  | .vdiv _ _ _ _ d a b | .vsel _ _ d a b | .viadd _ _ _ _ d a b | .visub _ _ _ _ d a b | .vimul _ _ _ _ d a b
  | .vand _ _ _ d a b | .vor _ _ _ d a b | .vxor _ _ _ d a b | .vshl _ _ _ d a b | .vshr _ _ _ d a b | .vsar _ _ _ d a b
  | .vimin _ _ _ d a b | .vimax _ _ _ d a b | .vperm _ _ _ d a b => ([a, b], [d])
  | .vfma _ _ _ _ _ d a b c | .vfms _ _ _ _ _ d a b c | .vfnma _ _ _ _ _ d a b c => ([a, b, c], [d])
  | .vcmp _ _ _ _ _ a b => ([a, b], [])
  | .vamax _ _ _ a | .vzld _ _ _ _ a _ => ([a], [])
  | _ => ([], [])

/-- The shared tile that a word waits on. -/
def Core.tileWait (c : Core) (i : Instr) : Option Nat :=
  match i with
  | .mma _ _ a _ _ => (c.aTiles a).find? (fun t => c.sharedWith .M t && !c.fullTiles.contains t)
  | _ =>
    let (rs, ws) := vecTiles i
    (((rs.map (·.val)).filter (fun t => c.sharedWith .V t && !c.fullTiles.contains t)
      ++ (ws.map (·.val)).filter (fun t => !rs.any (fun r => r.val == t) && c.sharedWith .V t && c.fullTiles.contains t)).min?)

/-- What a word waits on inside its core: 1 pop, 2 push, 3 handle FULL, 4 handle FREE, 5 shared tile, and which. Of a word that has
issued the WAIT byte is done. -/
def Core.wordWait (c : Core) (e : Engine) (i : Instr) : Option (Nat × Nat) :=
  let h := i.hdr
  if !(c.eng e).taken && !{ c with sample := none }.waitOk h.wait then
    (match h.wait with
     | .pop _ q => some (1, q.val) | .full x => some (3, x.val) | .free x => some (4, x.val) | .none => none)
  else if e = .S ∧ (c.readP h.guard == h.neg) then none
  else
    match i with
    | .tok _ _ true q _ => if (c.queue q).isEmpty then some (1, q.val) else none
    | .tok _ _ false q _ => if (c.queue q).length < 16 then none else some (2, q.val)
    | .hwait _ _ x free =>
      if free then (if (c.handle x).st = .free then none else some (4, x.val))
      else if (c.handle x).st = .full then none else some (3, x.val)
    | _ => (c.tileWait i).map (fun t => (5, t))

/-- How an engine is blocked, if it is. -/
def Core.blockOf (c : Core) (e : Engine) : Option (Nat × Nat) :=
  let x := c.eng e
  if x.ended ∨ x.parked.isSome ∨ x.pause.isSome ∨ x.held.isSome ∨ (e = .S ∧ c.unit.isSome) then none
  else
    match x.sigs.head? with
    | some ⟨_, true, .push n q, _, _, _⟩ => if 16 < (c.queue q).length + n.val + 1 then some (2, q.val) else none
    | _ =>
      if x.sigHold then none
      else
        match c.fetch e with
        | .word w => (match decode e w with | .ok i => c.wordWait e i | .error _ => none)
        | _ => none

/-- TRAP_INFO of a core deadlock. -/
def Core.deadlockInfo (c : Core) : Nat :=
  Engine.all.foldl (fun n e =>
    match c.blockOf e with
    | some (k, x) => n + 2 ^ e.num + 2 ^ (8 + 4 * e.num) * k + 2 ^ (32 + 8 * e.num) * x
    | none => n) 0

/-- CORE_DEADLOCK: noted when every live engine is blocked, taken where that has held for 256 of the core's cycles. -/
def State.coreDeadlock (s : State) (core : Nat) : State :=
  s.onCore core (fun s =>
    let c := s.core
    let stuck := c.started && !c.trap.mode && c.phase.isNone && c.preempt.isNone && c.journal.isEmpty && c.flights.isEmpty
      && Engine.all.all (fun e => (c.eng e).ended || (c.blockOf e).isSome) && Engine.all.any (fun e => (c.blockOf e).isSome)
    if !stuck then s.setCore { c with blockedSince := none }
    else
      match c.blockedSince, Engine.all.find? (fun e => (c.blockOf e).isSome) with
      | some t, some e =>
        if s.cycleOf s.cur < t + 256 then s
        else (s.setCore { c with blockedSince := none }).takeTrap e (c.eng e).pc { cause := 8, info := c.deadlockInfo }
      | _, _ => s.setCore { c with blockedSince := some (s.cycleOf s.cur) })
def execCoreDeadlock (core : Nat) (s : State) : Out := .next (s.coreDeadlock core)

end Sys2Proof.Machine
end

