-- ==== Sys2Proof/Machine/Scalar.lean ====
section
/-! DEFINITION. The scalar integer, immediate, compare and predicate instructions (spec/05 R127 to R134), TIME. -/

namespace Sys2Proof.Machine

/-- s registers of an instruction as 64-bit words, no flags. -/
def State.int2 (s : State) (h : Hdr) (d a b : Fin 32) (f : Word64 → Word64 → Word64) : Out :=
  s.sop h d [a, b] (fun c => (f (c.readS a) (c.readS b), 0))
def State.int1 (s : State) (h : Hdr) (d a : Fin 32) (f : Word64 → Word64) : Out :=
  s.sop h d [a] (fun c => (f (c.readS a), 0))

/-- decode(·, i64) or decode(·, n64) (R127). -/
def sg (uns : Bool) (x : Word64) : Int := if uns then x.toNat else x.toInt
/-- R128: quotient and remainder, with DZ for a zero divisor. -/
def divRem (uns : Bool) (a b : Word64) : Word64 × Word64 × Flags :=
  if b = 0 then (BitVec.allOnes 64, a, .dz)
  else
    let q := (sg uns a).tdiv (sg uns b)
    (BitVec.ofInt 64 q, BitVec.ofInt 64 (sg uns a - sg uns b * q), 0)

def mulHigh (uns : Bool) (a b : Word64) : Word64 := BitVec.ofInt 64 (sg uns a * sg uns b / 2 ^ 64)
def rotr (a b : Word64) : Word64 := a.rotateRight (b.toNat % 64)
/-- Leading zeros: 63 − floor(log2 A), 64 for zero (R127). -/
def clz (a : Word64) : Nat := if a = 0 then 64 else 63 - a.toNat.log2
def ctz (a : Word64) : Nat := ((List.range 64).find? (fun i => a.getLsbD i)).getD 64
def popc (a : Word64) : Nat := ((List.range 64).filter (fun i => a.getLsbD i)).length

/-- R129: pos = B[5:0], w = min(B[14:8], 64 − pos). -/
def fieldPos (b : Word64) : Nat := b.toNat % 64
def fieldWidth (b : Word64) : Nat := min (b.toNat / 256 % 128) (64 - fieldPos b)
def bfx (uns : Bool) (a b : Word64) : Word64 :=
  let w := fieldWidth b
  let f := a.toNat / 2 ^ fieldPos b % 2 ^ w
  if w = 0 then 0 else if uns then BitVec.ofNat 64 f else BitVec.ofInt 64 (signedOf w f)
def bfi (d a b : Word64) : Word64 :=
  let mask : Word64 := BitVec.ofNat 64 ((2 ^ fieldWidth b - 1) * 2 ^ fieldPos b)
  (d &&& ~~~ mask) ||| ((a <<< fieldPos b) &&& mask)

def execAdd (h : Hdr) (d a b : Fin 32) (s : State) : Out := s.int2 h d a b (· + ·)
def execSub (h : Hdr) (d a b : Fin 32) (s : State) : Out := s.int2 h d a b (· - ·)
def execMul (h : Hdr) (d a b : Fin 32) (s : State) : Out := s.int2 h d a b (· * ·)
def execMulh (h : Hdr) (uns : Bool) (d a b : Fin 32) (s : State) : Out := s.int2 h d a b (mulHigh uns)
def execDiv (h : Hdr) (uns : Bool) (d a b : Fin 32) (s : State) : Out :=
  s.sop h d [a, b] (fun c => let r := divRem uns (c.readS a) (c.readS b); (r.1, r.2.2))
def execRem (h : Hdr) (uns : Bool) (d a b : Fin 32) (s : State) : Out :=
  s.sop h d [a, b] (fun c => let r := divRem uns (c.readS a) (c.readS b); (r.2.1, r.2.2))
def execAnd (h : Hdr) (d a b : Fin 32) (s : State) : Out := s.int2 h d a b (· &&& ·)
def execOr (h : Hdr) (d a b : Fin 32) (s : State) : Out := s.int2 h d a b (· ||| ·)
def execXor (h : Hdr) (d a b : Fin 32) (s : State) : Out := s.int2 h d a b (· ^^^ ·)
def execAndn (h : Hdr) (d a b : Fin 32) (s : State) : Out := s.int2 h d a b (fun x y => x &&& ~~~ y)
def execShl (h : Hdr) (d a b : Fin 32) (s : State) : Out := s.int2 h d a b (fun x y => x <<< (y.toNat % 64))
def execShr (h : Hdr) (d a b : Fin 32) (s : State) : Out := s.int2 h d a b (fun x y => x >>> (y.toNat % 64))
def execSar (h : Hdr) (d a b : Fin 32) (s : State) : Out := s.int2 h d a b (fun x y => x.sshiftRight (y.toNat % 64))
def execRotr (h : Hdr) (d a b : Fin 32) (s : State) : Out := s.int2 h d a b rotr
def execMin (h : Hdr) (uns : Bool) (d a b : Fin 32) (s : State) : Out :=
  s.int2 h d a b (fun x y => if sg uns x ≤ sg uns y then x else y)
def execMax (h : Hdr) (uns : Bool) (d a b : Fin 32) (s : State) : Out :=
  s.int2 h d a b (fun x y => if sg uns y ≤ sg uns x then x else y)
def execClz (h : Hdr) (d a : Fin 32) (s : State) : Out := s.int1 h d a (fun x => BitVec.ofNat 64 (clz x))
def execCtz (h : Hdr) (d a : Fin 32) (s : State) : Out := s.int1 h d a (fun x => BitVec.ofNat 64 (ctz x))
def execPopc (h : Hdr) (d a : Fin 32) (s : State) : Out := s.int1 h d a (fun x => BitVec.ofNat 64 (popc x))
def execSel (h : Hdr) (d a b : Fin 32) (p : Fin 8) (s : State) : Out :=
  s.sop h d [a, b] (fun c => (if c.readP p then c.readS a else c.readS b, 0))
def execBfx (h : Hdr) (uns : Bool) (d a b : Fin 32) (s : State) : Out := s.int2 h d a b (bfx uns)
def execBfi (h : Hdr) (d a b : Fin 32) (s : State) : Out :=
  s.sop h d [a, b] (fun c => (bfi (c.readS d) (c.readS a) (c.readS b), 0))

/-! ### Immediates (R130) -/

def execAddi (h : Hdr) (d a : Fin 32) (imm : BitVec 27) (s : State) : Out := s.int1 h d a (· + imm.signExtend 64)
def execAndi (h : Hdr) (d a : Fin 32) (imm : BitVec 27) (s : State) : Out := s.int1 h d a (· &&& imm.signExtend 64)
def execOri (h : Hdr) (d a : Fin 32) (imm : BitVec 27) (s : State) : Out := s.int1 h d a (· ||| imm.signExtend 64)
def execXori (h : Hdr) (d a : Fin 32) (imm : BitVec 27) (s : State) : Out := s.int1 h d a (· ^^^ imm.signExtend 64)
def execShli (h : Hdr) (d a : Fin 32) (n : Fin 64) (s : State) : Out := s.int1 h d a (· <<< n.val)
def execShri (h : Hdr) (d a : Fin 32) (n : Fin 64) (s : State) : Out := s.int1 h d a (· >>> n.val)
def execSari (h : Hdr) (d a : Fin 32) (n : Fin 64) (s : State) : Out := s.int1 h d a (·.sshiftRight n.val)
def execLi (h : Hdr) (d : Fin 32) (imm : BitVec 32) (s : State) : Out := s.sop h d [] (fun _ => (imm.signExtend 64, 0))
def execLih (h : Hdr) (d : Fin 32) (imm : BitVec 32) (s : State) : Out :=
  s.sop h d [] (fun c => ((imm.zeroExtend 64 <<< 32) ||| (c.readS d &&& 0xFFFFFFFF), 0))
def execMuli (h : Hdr) (d a : Fin 32) (imm : BitVec 27) (s : State) : Out := s.int1 h d a (· * imm.signExtend 64)

/-! ### Compare, predicates, indirect branch (R131 to R134) -/

def intCondHolds (c : IntCond) (x y : Word64) : Bool :=
  match c with
  | .eq => x == y | .ne => x != y
  | .lt => x.slt y | .ge => !x.slt y | .ltu => x.ult y | .geu => !x.ult y
  | .le => x.sle y | .gt => !x.sle y | .leu => x.ule y | .gtu => !x.ule y

def execCmp (h : Hdr) (c : IntCond) (p : Fin 8) (a b : Fin 32) (s : State) : Out :=
  s.pop h p [a, b] (fun k => (intCondHolds c (k.readS a) (k.readS b), 0))
def execCmpi (h : Hdr) (c : IntCond) (p : Fin 8) (a : Fin 32) (imm : BitVec 23) (s : State) : Out :=
  s.pop h p [a] (fun k => (intCondHolds c (k.readS a) (imm.signExtend 64), 0))
def execPset (h : Hdr) (d a b : Fin 8) (f : BitVec 4) (s : State) : Out :=
  s.pop h d [] (fun k => (f.getLsbD (2 * (k.readP b).toNat + (k.readP a).toNat), 0))
def execPmov (h : Hdr) (toS : Bool) (p : Fin 8) (r : Fin 32) (s : State) : Out :=
  if toS then s.sop h r [] (fun k => (if k.readP p then 1 else 0, 0))
  else s.pop h p [r] (fun k => (k.readS r != 0, 0))

/-- BRX branches to the stream offset s[a] holds (R134). -/
def execBrx (h : Hdr) (a : Fin 32) (s : State) : Out :=
  .next (s.issue .S h { branch := true } (s.core.busyFor (sRegs [a])) (fun s =>
    let t := (s.core.readS a).toNat
    s.branch .S (if t < s.core.streamLen .S then some t else none)))

def execTime (h : Hdr) (d : Fin 32) (s : State) : Out :=
  .next (s.issue .S h {} (s.core.busyFor (sRegs [d])) (fun s => .done (s.setCore (s.core.writeS d (BitVec.ofNat 64 (s.coreTime s.cur))))))

/-! ### Scalar FP32 (R135 to R137) -/

/-- The FP32 value in the low bits of a register. -/
def f32 (x : Word64) : Val := Fmt.f32.decode (x.toNat % 2 ^ 32)
/-- A rounded FP32 result, zero-extended, with its flags. -/
def f32Result (rm : Rounding) (sat : Bool) (v : Val) (extra : Flags := 0) : Word64 × Flags :=
  let r := Fmt.f32.quant rm sat v
  (BitVec.ofNat 64 r.1, r.2 ||| extra)

def execFadd (h : Hdr) (rm : Rounding) (sat : Bool) (d a b : Fin 32) (s : State) : Out :=
  s.sop h d [a, b] (fun c => f32Result rm sat (Val.add rm (f32 (c.readS a)) (f32 (c.readS b))))
def execFsub (h : Hdr) (rm : Rounding) (sat : Bool) (d a b : Fin 32) (s : State) : Out :=
  s.sop h d [a, b] (fun c => f32Result rm sat (Val.sub rm (f32 (c.readS a)) (f32 (c.readS b))))
def execFmul (h : Hdr) (rm : Rounding) (sat : Bool) (d a b : Fin 32) (s : State) : Out :=
  s.sop h d [a, b] (fun c => f32Result rm sat (Val.mul (f32 (c.readS a)) (f32 (c.readS b))))
def execFfma (h : Hdr) (rm : Rounding) (sat : Bool) (d a b : Fin 32) (s : State) : Out :=
  s.sop h d [a, b] (fun c => f32Result rm sat (Val.fma rm (f32 (c.readS a)) (f32 (c.readS b)) (f32 (c.readS d))))
def execFmin (h : Hdr) (d a b : Fin 32) (s : State) : Out :=
  s.sop h d [a, b] (fun c =>
    let r := minMax .f32 false ((c.readS a).toNat % 2 ^ 32) ((c.readS b).toNat % 2 ^ 32)
    (BitVec.ofNat 64 r.1, r.2))
def execFmax (h : Hdr) (d a b : Fin 32) (s : State) : Out :=
  s.sop h d [a, b] (fun c =>
    let r := minMax .f32 true ((c.readS a).toNat % 2 ^ 32) ((c.readS b).toNat % 2 ^ 32)
    (BitVec.ofNat 64 r.1, r.2))

/-- FCMP's truth and flags (R137). -/
def fpCompare (c : FpCond) (x y : Val) : Bool × Flags :=
  let sig : Flags := if x.isSig || y.isSig then .nv else 0
  let anyNan : Flags := if x.isNan || y.isNan then .nv else 0
  match c with
  | .eq => (Val.cmp x y == some .eq, sig)
  | .lt => (Val.cmp x y == some .lt, anyNan)
  | .le => (Val.cmp x y == some .lt || Val.cmp x y == some .eq, anyNan)
  | .un => (x.isNan || y.isNan, sig)

def execFcmp (h : Hdr) (c : FpCond) (p : Fin 8) (a b : Fin 32) (s : State) : Out :=
  s.pop h p [a, b] (fun k => fpCompare c (f32 (k.readS a)) (f32 (k.readS b)))

/-- FCVT (R136) on the source register. -/
def fcvt (c : Conv) (rm : Rounding) (sat : Bool) (x : Word64) : Word64 × Flags :=
  let zero (r : Nat × Flags) : Word64 × Flags := (BitVec.ofNat 64 r.1, r.2)
  let lo := x.toNat % 2 ^ 32
  match c with
  | .f32i32 => let r := quant1 .i32 rm sat (f32 x); (BitVec.ofInt 64 (signedOf 32 r.1), r.2)
  | .f32n32 => zero (quant1 .n32 rm sat (f32 x))
  | .f32i64 => zero (quant1 .i64 rm sat (f32 x))
  | .f32n64 => zero (quant1 .n64 rm sat (f32 x))
  | .i32f32 => zero (quant1 .f32 rm false (decodeVal .i32 lo))
  | .n32f32 => zero (quant1 .f32 rm false (decodeVal .n32 lo))
  | .i64f32 => zero (quant1 .f32 rm false (decodeVal .i64 x.toNat))
  | .n64f32 => zero (quant1 .f32 rm false (decodeVal .n64 x.toNat))
  | .f32f16 => zero (quant1 .f16 rm sat (f32 x))
  | .f16f32 => zero (convert .f16 .f32 rm sat (lo % 2 ^ 16))
  | .f32bf16 => zero (quant1 .bf16 rm sat (f32 x))
  | .bf16f32 => zero (convert .bf16 .f32 rm sat (lo % 2 ^ 16))
  | .f32rint => zero (rint rm lo)

def execFcvt (h : Hdr) (rm : Rounding) (sat : Bool) (c : Conv) (d a : Fin 32) (s : State) : Out :=
  s.sop h d [a] (fun k => fcvt c rm sat (k.readS a))
def execFdiv (h : Hdr) (rm : Rounding) (sat : Bool) (d a b : Fin 32) (s : State) : Out :=
  s.sop h d [a, b] (fun c => let r := Val.div (f32 (c.readS a)) (f32 (c.readS b)); f32Result rm sat r.1 r.2)
def execFsqrt (h : Hdr) (rm : Rounding) (sat : Bool) (d a : Fin 32) (s : State) : Out :=
  s.sop h d [a] (fun c => f32Result rm sat (Val.sqrt (f32 (c.readS a))))

end Sys2Proof.Machine
end

