-- ==== Sys2Proof/Machine/Dispatch.lean ====
section
/-! DEFINITION. What each instruction and event does: one arm per constructor, each a direct call of its meaning. -/

namespace Sys2Proof.Machine

def exec (i : Instr) (s : State) : Host.Outcome State Fault Refusal :=
  match i with
  | .nop e h => Sys2Proof.Machine.execNop e h s
  | .endw e h => Sys2Proof.Machine.execEnd e h s
  | .loop e h len count => Sys2Proof.Machine.execLoop e h len count s
  | .brSb h abs off => Sys2Proof.Machine.execBrSb h abs off s
  | .brXb e h cond abs off => Sys2Proof.Machine.execBrXb e h cond abs off s
  | .callSb h abs off => Sys2Proof.Machine.execCallSb h abs off s
  | .callXb e h cond abs off => Sys2Proof.Machine.execCallXb e h cond abs off s
  | .ret e h => Sys2Proof.Machine.execRet e h s
  | .tok e h pop q r => Sys2Proof.Machine.execTok e h pop q r s
  | .hset e h hd base count => Sys2Proof.Machine.execHset e h hd base count s
  | .hwait e h hd free => Sys2Proof.Machine.execHwait e h hd free s
  | .safe e h group map => Sys2Proof.Machine.execSafe e h group map s
  | .trap e h code => Sys2Proof.Machine.execTrap e h code s
  | .brk e h code => Sys2Proof.Machine.execBrk e h code s
  | .fence e h kind scope => Sys2Proof.Machine.execFence e h kind scope s
  | .srd e h d num => Sys2Proof.Machine.execSrd e h d num s
  | .swr e h r num => Sys2Proof.Machine.execSwr e h r num s
  | .flagsWrite e h r => Sys2Proof.Machine.execFlagsWrite e h r s
  | .trapRegisterWrite e h r which => Sys2Proof.Machine.execTrapRegisterWrite e h r which s
  | .chHashWrite e h r => Sys2Proof.Machine.execChHashWrite e h r s
  | .pcHashWrite e h r => Sys2Proof.Machine.execPcHashWrite e h r s
  | .preemptWaitWrite e h r => Sys2Proof.Machine.execPreemptWaitWrite e h r s
  | .pause e h n => Sys2Proof.Machine.execPause e h n s
  | .kli e h d imm => Sys2Proof.Machine.execKli e h d imm s
  | .kaddi e h d a imm => Sys2Proof.Machine.execKaddi e h d a imm s
  | .kadd e h d a b => Sys2Proof.Machine.execKadd e h d a b s
  | .ksub e h d a b => Sys2Proof.Machine.execKsub e h d a b s
  | .kmul e h d a b => Sys2Proof.Machine.execKmul e h d a b s
  | .kshl e h d a b => Sys2Proof.Machine.execKshl e h d a b s
  | .kshr e h d a b => Sys2Proof.Machine.execKshr e h d a b s
  | .kand e h d a b => Sys2Proof.Machine.execKand e h d a b s
  | .add h d a b => Sys2Proof.Machine.execAdd h d a b s
  | .sub h d a b => Sys2Proof.Machine.execSub h d a b s
  | .mul h d a b => Sys2Proof.Machine.execMul h d a b s
  | .mulh h uns d a b => Sys2Proof.Machine.execMulh h uns d a b s
  | .div h uns d a b => Sys2Proof.Machine.execDiv h uns d a b s
  | .rem h uns d a b => Sys2Proof.Machine.execRem h uns d a b s
  | .and h d a b => Sys2Proof.Machine.execAnd h d a b s
  | .or h d a b => Sys2Proof.Machine.execOr h d a b s
  | .xor h d a b => Sys2Proof.Machine.execXor h d a b s
  | .andn h d a b => Sys2Proof.Machine.execAndn h d a b s
  | .shl h d a b => Sys2Proof.Machine.execShl h d a b s
  | .shr h d a b => Sys2Proof.Machine.execShr h d a b s
  | .sar h d a b => Sys2Proof.Machine.execSar h d a b s
  | .rotr h d a b => Sys2Proof.Machine.execRotr h d a b s
  | .min h uns d a b => Sys2Proof.Machine.execMin h uns d a b s
  | .max h uns d a b => Sys2Proof.Machine.execMax h uns d a b s
  | .clz h d a => Sys2Proof.Machine.execClz h d a s
  | .ctz h d a => Sys2Proof.Machine.execCtz h d a s
  | .popc h d a => Sys2Proof.Machine.execPopc h d a s
  | .sel h d a b p => Sys2Proof.Machine.execSel h d a b p s
  | .bfx h uns d a b => Sys2Proof.Machine.execBfx h uns d a b s
  | .bfi h d a b => Sys2Proof.Machine.execBfi h d a b s
  | .addi h d a imm => Sys2Proof.Machine.execAddi h d a imm s
  | .andi h d a imm => Sys2Proof.Machine.execAndi h d a imm s
  | .ori h d a imm => Sys2Proof.Machine.execOri h d a imm s
  | .xori h d a imm => Sys2Proof.Machine.execXori h d a imm s
  | .shli h d a n => Sys2Proof.Machine.execShli h d a n s
  | .shri h d a n => Sys2Proof.Machine.execShri h d a n s
  | .sari h d a n => Sys2Proof.Machine.execSari h d a n s
  | .li h d imm => Sys2Proof.Machine.execLi h d imm s
  | .lih h d imm => Sys2Proof.Machine.execLih h d imm s
  | .muli h d a imm => Sys2Proof.Machine.execMuli h d a imm s
  | .cmp h c p a b => Sys2Proof.Machine.execCmp h c p a b s
  | .cmpi h c p a imm => Sys2Proof.Machine.execCmpi h c p a imm s
  | .pset h d a b f => Sys2Proof.Machine.execPset h d a b f s
  | .pmov h toS p r => Sys2Proof.Machine.execPmov h toS p r s
  | .brx h a => Sys2Proof.Machine.execBrx h a s
  | .fadd h rm sat d a b => Sys2Proof.Machine.execFadd h rm sat d a b s
  | .fsub h rm sat d a b => Sys2Proof.Machine.execFsub h rm sat d a b s
  | .fmul h rm sat d a b => Sys2Proof.Machine.execFmul h rm sat d a b s
  | .ffma h rm sat d a b => Sys2Proof.Machine.execFfma h rm sat d a b s
  | .fmin h d a b => Sys2Proof.Machine.execFmin h d a b s
  | .fmax h d a b => Sys2Proof.Machine.execFmax h d a b s
  | .fcmp h c p a b => Sys2Proof.Machine.execFcmp h c p a b s
  | .fcvt h rm sat c d a => Sys2Proof.Machine.execFcvt h rm sat c d a s
  | .fdiv h rm sat d a b => Sys2Proof.Machine.execFdiv h rm sat d a b s
  | .fsqrt h rm sat d a => Sys2Proof.Machine.execFsqrt h rm sat d a s
  | .ld h pol scope size bit18 d b off => Sys2Proof.Machine.execLd h pol scope size bit18 d b off s
  | .st h pol scope size d b off => Sys2Proof.Machine.execSt h pol scope size d b off s
  | .lds h size sx d b off => Sys2Proof.Machine.execLds h size sx d b off s
  | .sts h size d b off => Sys2Proof.Machine.execSts h size d b off s
  | .sPref h pol lines b off => Sys2Proof.Machine.execSPref h pol lines b off s
  | .flush h b off => Sys2Proof.Machine.execFlush h b off s
  | .atom h op pol scope ord d b v off => Sys2Proof.Machine.execAtom h op pol scope ord d b v off s
  | .red h op pol scope rel b v off => Sys2Proof.Machine.execRed h op pol scope rel b v off s
  | .cas h w64 pol scope ord d b v off => Sys2Proof.Machine.execCas h w64 pol scope ord d b v off s
  | .atoms h op ord d b v off => Sys2Proof.Machine.execAtoms h op ord d b v off s
  | .launch h d a b => Sys2Proof.Machine.execLaunch h d a b s
  | .fsopen h d a => Sys2Proof.Machine.execFsopen h d a s
  | .fsclose h d a => Sys2Proof.Machine.execFsclose h d a s
  | .fswait h d a => Sys2Proof.Machine.execFswait h d a s
  | .fstest h d a => Sys2Proof.Machine.execFstest h d a s
  | .lwait h a => Sys2Proof.Machine.execLwait h a s
  | .lpin h rerequest d a => Sys2Proof.Machine.execLpin h rerequest d a s
  | .lunpin h d a => Sys2Proof.Machine.execLunpin h d a s
  | .phase h a => Sys2Proof.Machine.execPhase h a s
  | .qctlSetprio h d a b => Sys2Proof.Machine.execQctlSetprio h d a b s
  | .qctlDetset h d a b => Sys2Proof.Machine.execQctlDetset h d a b s
  | .qctlSeed h d a b => Sys2Proof.Machine.execQctlSeed h d a b s
  | .qctlQread h d a b => Sys2Proof.Machine.execQctlQread h d a b s
  | .goveval h rebind d a => Sys2Proof.Machine.execGoveval h rebind d a s
  | .govrd h item d a => Sys2Proof.Machine.execGovrd h item d a s
  | .govhold h a => Sys2Proof.Machine.execGovhold h a s
  | .govrel h a => Sys2Proof.Machine.execGovrel h a s
  | .time h d => Sys2Proof.Machine.execTime h d s
  | .eret h => Sys2Proof.Machine.execEret h s
  | .vshape h rows cols ty stride => Sys2Proof.Machine.execVshape h rows cols ty stride s
  | .vld h t k hd off => Sys2Proof.Machine.execVld h t k hd off s
  | .vst h t k hd off => Sys2Proof.Machine.execVst h t k hd off s
  | .vstq h t k hd off => Sys2Proof.Machine.execVstq h t k hd off s
  | .vldq h t k hd off => Sys2Proof.Machine.execVldq h t k hd off s
  | .vgath h t idx k sp m z => Sys2Proof.Machine.execVgath h t idx k sp m z s
  | .vscat h t idx k sp m z => Sys2Proof.Machine.execVscat h t idx k sp m z s
  | .vmov h m z d a => Sys2Proof.Machine.execVmov h m z d a s
  | .vbcast h m z d k => Sys2Proof.Machine.execVbcast h m z d k s
  | .vadd h m z rm sat d a b => Sys2Proof.Machine.execVadd h m z rm sat d a b s
  | .vsub h m z rm sat d a b => Sys2Proof.Machine.execVsub h m z rm sat d a b s
  | .vmul h m z rm sat d a b => Sys2Proof.Machine.execVmul h m z rm sat d a b s
  | .vfma h m z rm sat d a b c => Sys2Proof.Machine.execVfma h m z rm sat d a b c s
  | .vfms h m z rm sat d a b c => Sys2Proof.Machine.execVfms h m z rm sat d a b c s
  | .vfnma h m z rm sat d a b c => Sys2Proof.Machine.execVfnma h m z rm sat d a b c s
  | .vmin h m z d a b => Sys2Proof.Machine.execVmin h m z d a b s
  | .vmax h m z d a b => Sys2Proof.Machine.execVmax h m z d a b s
  | .vabs h m z d a => Sys2Proof.Machine.execVabs h m z d a s
  | .vneg h m z d a => Sys2Proof.Machine.execVneg h m z d a s
  | .vdiv h m z sat d a b => Sys2Proof.Machine.execVdiv h m z sat d a b s
  | .vsqrt h m z sat d a => Sys2Proof.Machine.execVsqrt h m z sat d a s
  | .vrcp h m z sat d a => Sys2Proof.Machine.execVrcp h m z sat d a s
  | .vrsq h m z sat d a => Sys2Proof.Machine.execVrsq h m z sat d a s
  | .vexp2 h m z sat d a => Sys2Proof.Machine.execVexp2 h m z sat d a s
  | .vexp h m z sat d a => Sys2Proof.Machine.execVexp h m z sat d a s
  | .vlog2 h m z sat d a => Sys2Proof.Machine.execVlog2 h m z sat d a s
  | .vsinpi h m z sat d a => Sys2Proof.Machine.execVsinpi h m z sat d a s
  | .vcospi h m z sat d a => Sys2Proof.Machine.execVcospi h m z sat d a s
  | .vtanh h m z sat d a => Sys2Proof.Machine.execVtanh h m z sat d a s
  | .vcmp h m z c d a b => Sys2Proof.Machine.execVcmp h m z c d a b s
  | .vsel h m d a b => Sys2Proof.Machine.execVsel h m d a b s
  | .mop h d a b f => Sys2Proof.Machine.execMop h d a b f s
  | .mcnt h first d a => Sys2Proof.Machine.execMcnt h first d a s
  | .viadd h m z sat d a b => Sys2Proof.Machine.execViadd h m z sat d a b s
  | .visub h m z sat d a b => Sys2Proof.Machine.execVisub h m z sat d a b s
  | .vimul h m z sat d a b => Sys2Proof.Machine.execVimul h m z sat d a b s
  | .vand h m z d a b => Sys2Proof.Machine.execVand h m z d a b s
  | .vor h m z d a b => Sys2Proof.Machine.execVor h m z d a b s
  | .vxor h m z d a b => Sys2Proof.Machine.execVxor h m z d a b s
  | .vshl h m z d a b => Sys2Proof.Machine.execVshl h m z d a b s
  | .vshr h m z d a b => Sys2Proof.Machine.execVshr h m z d a b s
  | .vsar h m z d a b => Sys2Proof.Machine.execVsar h m z d a b s
  | .vimin h m z d a b => Sys2Proof.Machine.execVimin h m z d a b s
  | .vimax h m z d a b => Sys2Proof.Machine.execVimax h m z d a b s
  | .vcvt h m z rm sat ty d a => Sys2Proof.Machine.execVcvt h m z rm sat ty d a s
  | .vamax h m d a => Sys2Proof.Machine.execVamax h m d a s
  | .vscale h m z rm sat divs d a k => Sys2Proof.Machine.execVscale h m z rm sat divs d a k s
  | .vred h m z op col d a => Sys2Proof.Machine.execVred h m z op col d a s
  | .vscan h m z op col d a => Sys2Proof.Machine.execVscan h m z op col d a s
  | .vxpose h m z d a => Sys2Proof.Machine.execVxpose h m z d a s
  | .vperm h m z d a b => Sys2Proof.Machine.execVperm h m z d a b s
  | .viota h m z rm sat d k => Sys2Proof.Machine.execViota h m z rm sat d k s
  | .vrand h m z unif d a b => Sys2Proof.Machine.execVrand h m z unif d a b s
  | .vdrain h m z rm sat d za k => Sys2Proof.Machine.execVdrain h m z rm sat d za k s
  | .vzld h m z zd a k => Sys2Proof.Machine.execVzld h m z zd a k s
  | .mshape h a b blk sparse rows cols kg => Sys2Proof.Machine.execMshape h a b blk sparse rows cols kg s
  | .wld h w off d hd sparse len => Sys2Proof.Machine.execWld h w off d hd sparse len s
  | .mma h z a w off => Sys2Proof.Machine.execMma h z a w off s
  | .mmas h z w d off => Sys2Proof.Machine.execMmas h z w d off s
  | .mzero h z => Sys2Proof.Machine.execMzero h z s
  | .mdrain h z k hd off => Sys2Proof.Machine.execMdrain h z k hd off s
  | .wclr h => Sys2Proof.Machine.execWclr h s
  | .copy h hd k off pol scope drain => Sys2Proof.Machine.execCopy h hd k off pol scope drain s
  | .copyc h hd k off pol scope drain => Sys2Proof.Machine.execCopyc h hd k off pol scope drain s
  | .gather h hd k off pol scope drain => Sys2Proof.Machine.execGather h hd k off pol scope drain s
  | .scatter h hd k off pol scope drain => Sys2Proof.Machine.execScatter h hd k off pol scope drain s
  | .fill h hd k off pol scope drain => Sys2Proof.Machine.execFill h hd k off pol scope drain s
  | .win h hd k off pol scope => Sys2Proof.Machine.execWin h hd k off pol scope s
  | .adv h hd pol scope n => Sys2Proof.Machine.execAdv h hd pol scope n s
  | .wend h hd pol scope => Sys2Proof.Machine.execWend h hd pol scope s
  | .xform h hd k off pol scope drain => Sys2Proof.Machine.execXform h hd k off pol scope drain s
  | .xpq h hd k off pol scope drain => Sys2Proof.Machine.execXpq h hd k off pol scope drain s
  | .send h hd k off pol drain => Sys2Proof.Machine.execSend h hd k off pol drain s
  | .recv h hd k off pol drain => Sys2Proof.Machine.execRecv h hd k off pol drain s
  | .coll h hd k off pol op drain => Sys2Proof.Machine.execColl h hd k off pol op drain s
  | .cPref h k off pol scope => Sys2Proof.Machine.execCPref h k off pol scope s
  | .code h k off pol scope => Sys2Proof.Machine.execCode h k off pol scope s
  | .cflush h hd k off pol scope drain => Sys2Proof.Machine.execCflush h hd k off pol scope drain s
  | .phaseComplete core => Sys2Proof.Machine.execPhaseComplete core s
  | .transferComplete core entry ext => Sys2Proof.Machine.execTransferComplete core entry ext s
  | .transferFault core entry doneBytes => Sys2Proof.Machine.execTransferFault core entry doneBytes s
  | .loadResponse core op => Sys2Proof.Machine.execLoadResponse core op s
  | .codeFeedRefill core e => Sys2Proof.Machine.execCodeFeedRefill core e s
  | .coreDeadlock core => Sys2Proof.Machine.execCoreDeadlock core s
  | .budgetExhaustion task => Sys2Proof.Machine.execBudgetExhaustion task s
  | .budgetBoundaryTrap core => Sys2Proof.Machine.execBudgetBoundaryTrap core s
  | .homeLoadSi req => Sys2Proof.Machine.execHomeLoadSi req s
  | .homeLoadWi req => Sys2Proof.Machine.execHomeLoadWi req s
  | .homeLoadWt req => Sys2Proof.Machine.execHomeLoadWt req s
  | .homeLoadOwn req => Sys2Proof.Machine.execHomeLoadOwn req s
  | .homeStoreWi req => Sys2Proof.Machine.execHomeStoreWi req s
  | .homeStoreWt req => Sys2Proof.Machine.execHomeStoreWt req s
  | .homeStoreOwn req => Sys2Proof.Machine.execHomeStoreOwn req s
  | .homeWriteback req => Sys2Proof.Machine.execHomeWriteback req s
  | .homeAtomic req => Sys2Proof.Machine.execHomeAtomic req s
  | .recall idx => Sys2Proof.Machine.execRecall idx s
  | .invalidation idx => Sys2Proof.Machine.execInvalidation idx s
  | .invalidationAck idx => Sys2Proof.Machine.execInvalidationAck idx s
  | .l1DirtyTimeout core line => Sys2Proof.Machine.execL1DirtyTimeout core line s
  | .l1CleanTimeout core line => Sys2Proof.Machine.execL1CleanTimeout core line s
  | .faultBufferRetry core idx => Sys2Proof.Machine.execFaultBufferRetry core idx s
  | .hostReadShared pa => Sys2Proof.Machine.execHostReadShared pa s
  | .hostReadExclusive pa => Sys2Proof.Machine.execHostReadExclusive pa s
  | .hostWrite pa bytes => Sys2Proof.Machine.execHostWrite pa bytes s
  | .bisnpComplete line bytes => Sys2Proof.Machine.execBisnpComplete line bytes s
  | .biconflict line => Sys2Proof.Machine.execBiconflict line s
  | .hostSnoop line excl bytes => Sys2Proof.Machine.execHostSnoop line excl bytes s
  | .peerRequest pkg ctx ia write bytes => Sys2Proof.Machine.execPeerRequest pkg ctx ia write bytes s
  | .fabricBlockReceive port mtag len block => Sys2Proof.Machine.execFabricBlockReceive port mtag len block s
  | .linkDown port => Sys2Proof.Machine.execLinkDown port s
  | .prodWrite q v => Sys2Proof.Machine.execProdWrite q v s
  | .launchRecordEnqueue q => Sys2Proof.Machine.execLaunchRecordEnqueue q s
  | .scopeOpenPacket q => Sys2Proof.Machine.execScopeOpenPacket q s
  | .scopeClosePacket q => Sys2Proof.Machine.execScopeClosePacket q s
  | .detsetPacket q => Sys2Proof.Machine.execDetsetPacket q s
  | .seedPacket q => Sys2Proof.Machine.execSeedPacket q s
  | .evconsWrite q v => Sys2Proof.Machine.execEvconsWrite q v s
  | .sluiceSelection die cores => Sys2Proof.Machine.execSluiceSelection die cores s
  | .taskRetire task => Sys2Proof.Machine.execTaskRetire task s
  | .preemptionRound die => Sys2Proof.Machine.execPreemptionRound die s
  | .softPreemption core => Sys2Proof.Machine.execSoftPreemption core s
  | .hardPreemption core => Sys2Proof.Machine.execHardPreemption core s
  | .governorEvaluation die => Sys2Proof.Machine.execGovernorEvaluation die s
  | .statsMerge core slot => Sys2Proof.Machine.execStatsMerge core slot s
  | .layerArrivalStart die => Sys2Proof.Machine.execLayerArrivalStart die s
  | .layerArrivalComplete ctx layer => Sys2Proof.Machine.execLayerArrivalComplete ctx layer s
  | .layerArrivalFail ctx layer code => Sys2Proof.Machine.execLayerArrivalFail ctx layer code s
  | .layerEvictionComplete ctx layer => Sys2Proof.Machine.execLayerEvictionComplete ctx layer s
  | .contextValidSet m ctx => Sys2Proof.Machine.execContextValidSet m ctx s
  | .contextValidClear m ctx => Sys2Proof.Machine.execContextValidClear m ctx s
  | .seedWrite m ctx v => Sys2Proof.Machine.execSeedWrite m ctx v s
  | .sdGo m => Sys2Proof.Machine.execSdGo m s
  | .shootdownComplete => Sys2Proof.Machine.execShootdownComplete s
  | .mgReq m => Sys2Proof.Machine.execMgReq m s
  | .mgDone m => Sys2Proof.Machine.execMgDone m s
  | .claim m => Sys2Proof.Machine.execClaim m s
  | .handover m dest => Sys2Proof.Machine.execHandover m dest s
  | .accept m => Sys2Proof.Machine.execAccept m s
  | .heartbeat m => Sys2Proof.Machine.execHeartbeat m s
  | .heartbeatExpiry => Sys2Proof.Machine.execHeartbeatExpiry s
  | .tcPcWrite m v => Sys2Proof.Machine.execTcPcWrite m v s
  | .tcActResume m => Sys2Proof.Machine.execTcActResume m s
  | .tcActAbandon m => Sys2Proof.Machine.execTcActAbandon m s
  | .logConsWrite m die v => Sys2Proof.Machine.execLogConsWrite m die v s
  | .mgmtRegisterWrite m off bytes => Sys2Proof.Machine.execMgmtRegisterWrite m off bytes s
  | .errorEventQueued die channel => Sys2Proof.Machine.execErrorEventQueued die channel s
  | .scrubRead stack => Sys2Proof.Machine.execScrubRead stack s
  | .rowRepair stack row spare => Sys2Proof.Machine.execRowRepair stack row spare s
  | .powerOnReset => Sys2Proof.Machine.execPowerOnReset s
  | .deviceReset => Sys2Proof.Machine.execDeviceReset s
  | .powerStep watts temp => Sys2Proof.Machine.execPowerStep watts temp s
  | .pointChangeEnd island => Sys2Proof.Machine.execPointChangeEnd island s
  | .tenteringPass readings => Sys2Proof.Machine.execTenteringPass readings s
  | .retentionSleepEntry island => Sys2Proof.Machine.execRetentionSleepEntry island s
  | .retentionWake island => Sys2Proof.Machine.execRetentionWake island s
  | .spdmRequest code body => Sys2Proof.Machine.execSpdmRequest code body s
  | .firmwareUpdateWrite m off bytes => Sys2Proof.Machine.execFirmwareUpdateWrite m off bytes s
  | .launchPathComplete task => Sys2Proof.Machine.execLaunchPathComplete task s
  | .saveComplete core => Sys2Proof.Machine.execSaveComplete core s
  | .unitReply core => Sys2Proof.Machine.execUnitReply core s
  | .fabricGroupWrite group members => Sys2Proof.Machine.execFabricGroupWrite group members s
  | .portTraining port partner => Sys2Proof.Machine.execPortTraining port partner s
  | .linkErrorRetransmitted die channel => Sys2Proof.Machine.execLinkErrorRetransmitted die channel s

end Sys2Proof.Machine
end

