-- ==== Sys2Proof/Machine/Turn.lean ====
section
/-! DEFINITION. What a turn of an engine does before its next word (spec/02 R38, R45, R46, 12 R269, R283). -/

namespace Sys2Proof.Machine

/-- Errors of L1 words that have left the L1 are gone with them (R419). -/
def Core.pruneSoft (c : Core) : Core :=
  { c with soft := c.soft.filter (fun x => x.1 != .l1 || (c.l1At (2 * x.2)).isSome || (c.l1At (2 * x.2 + 1)).isSome) }
def State.pruneL1 (s : State) : State :=
  if s.cores.any (fun e => e.2.soft.any (fun x => x.1 == .l1)) then { s with cores := s.cores.map (fun e => (e.1, e.2.pruneSoft)) } else s

/-- What the machine settles before each turn: time limits, held contributions, posted writes, asked-for locks, what abandonments
have stopped, and the updates of tensor records that waited. -/
def State.between (s : State) : State := s.tick.serveAsks.settleStopped.drainTmrs.pruneL1

/-- The engine noted as the last that has acted in the cycle. -/
def Core.acted (c : Core) (e : Engine) : Core := { c with sample := c.sample.map (fun m => { m with last := some e.num }) }

/-- The engine's accesses to the data area that have finished since: at the latest when it performs a signal, and at any time
before, as the outside's choice says (R238; log 96). -/
def State.finishAccesses (s : State) (e : Engine) : State :=
  if e != .C && s.core.checker.any (fun f => f.eng == e.num) && (Config.freeByte (s.turns * 2 ^ 100 + 2 ^ 97)).toNat % 2 == 1 then
    s.endFootprints e
  else s

/-- What an engine does before its next word: a PAUSE ends, instructions whose conditions are met finish, the shared tiles that V's
gathers have written become FULL, and due signals are performed in the same step (R45, R46, R147). -/
def State.settle (s : State) (e : Engine) : State :=
  let s := (((s.modCore (fun c => c.acted e)).finishAccesses e).endPause e).progress e
  let s := if e = .V ∧ s.core.fills ≠ [] then s.modCore Core.applyFills else s
  s.flushSigs e (s.eng e).sigs

/-! ### Uses of a loaded register (R44, R238) -/

/-- The s registers that a word of S reads or writes. -/
def sUses : Instr → List (Fin 32)
  | .loop .S _ _ (.reg r) | .tok .S _ _ _ r | .srd .S _ r _ | .swr .S _ r _ | .flagsWrite .S _ r | .trapRegisterWrite .S _ r _
  | .chHashWrite .S _ r | .pcHashWrite .S _ r | .preemptWaitWrite .S _ r => [r]
  | .hset .S _ _ a b => [a, b]
  | .add _ d a b | .sub _ d a b | .mul _ d a b | .mulh _ _ d a b | .div _ _ d a b | .rem _ _ d a b | .and _ d a b | .or _ d a b
  | .xor _ d a b | .andn _ d a b | .shl _ d a b | .shr _ d a b | .sar _ d a b | .rotr _ d a b | .min _ _ d a b | .max _ _ d a b
  | .sel _ d a b _ | .bfx _ _ d a b | .bfi _ d a b => [d, a, b]
  | .clz _ d a | .ctz _ d a | .popc _ d a | .addi _ d a _ | .andi _ d a _ | .ori _ d a _ | .xori _ d a _ | .shli _ d a _ | .shri _ d a _
  | .sari _ d a _ | .muli _ d a _ => [d, a]
  | .li _ d _ | .lih _ d _ | .time _ d => [d]
  | .cmp _ _ _ a b => [a, b]
  | .cmpi _ _ _ a _ | .brx _ a => [a]
  | .pmov _ _ _ r => [r]
  | .fadd _ _ _ d a b | .fsub _ _ _ d a b | .fmul _ _ _ d a b | .ffma _ _ _ d a b | .fmin _ d a b | .fmax _ d a b
  | .fdiv _ _ _ d a b => [d, a, b]
  | .fcmp _ _ _ a b => [a, b]
  | .fcvt _ _ _ _ d a | .fsqrt _ _ _ d a => [d, a]
  | .ld _ _ _ _ _ d b _ | .st _ _ _ _ d b _ | .lds _ _ _ d b _ | .sts _ _ d b _ => [d, b]
  | .sPref _ _ _ b _ | .flush _ b _ => [b]
  | .atom _ _ _ _ _ d b v _ | .cas _ _ _ _ _ d b v _ | .atoms _ _ _ d b v _ => [d, b, v]
  | .red _ _ _ _ _ b v _ => [b, v]
  | .launch _ d a b | .qctlSetprio _ d a b | .qctlDetset _ d a b | .qctlSeed _ d a b | .qctlQread _ d a b => [d, a, b]
  | .fsopen _ d a | .fsclose _ d a | .fswait _ d a | .fstest _ d a | .lpin _ _ d a | .lunpin _ d a | .goveval _ _ d a => [d, a]
  | .govrd _ (.slot b) d a => [d, a, b]
  | .govrd _ _ d a => [d, a]
  | .lwait _ a | .phase _ a | .govhold _ a | .govrel _ a => [a]
  | _ => []

/-- A word that issues and uses a register that an LDS or ATOMS has loaded shows that this one has finished: its footprint ends (R44,
R238). -/
def State.noteUses (s : State) (e : Engine) (i : Instr) : State :=
  match i.parts with
  | some (_, _, h, _) =>
    if e = .S ∧ ((s.eng .S).taken || s.core.waitOk h.wait) = true ∧ s.core.readP h.guard ≠ h.neg
        ∧ s.core.busyFor (sRegs (sUses i)) = false ∧ s.core.checker.any (fun f => f.d.any (fun d => (sUses i).contains d)) = true then
      s.modCore (fun c => { c with checker := c.checker.filter (fun f => !(f.d.any (fun d => (sUses i).contains d))) })
    else s
  | none => s

end Sys2Proof.Machine
end

