-- ==== Sys2Proof/Machine/Step.lean ====
section
/-! DEFINITION. One step: a turn of the schedule, in which an engine takes its next word or an event acts. -/

namespace Sys2Proof.Machine

/-- Whether the slot that holds the word at the PC has an uncorrectable soft error (R419); the trap window is outside the pool (R407). -/
def Core.ringFault (c : Core) (e : Engine) : Bool :=
  !(e == .S && c.trap.mode) && c.soft.contains (.ring e, (c.eng e).pc % Part.ringWords c.part e)

/-- The turn of an engine of the core `s.cur`: one in each of the core's cycles, in engine order (R38, R44, R408). The cycles of the
package's cores take their turns in the order in which they start, so that what one core does after another samples no earlier time
(R138). -/
def stepEngine (s : State) (e : Engine) : Host.Outcome State Fault Refusal :=
  if s.edgeOf s.cur < s.edge then .next s else
  let s0 := { s with edge := s.edgeOf s.cur }.sampleCycle
  let s := s0.settle e
  if !s0.core.turnLeft e then .next s0
  else if !s.mayIssue e then .next s
  else
    match s.core.fetch e with
    | .outside => .next (s.takeTrap e (s.eng e).pc (illegal 0x09))
    | .absent => .next s
    | .word w =>
      if s.core.ringFault e then .next ((s.logSram e s.softTrap).takeTrap e (s.eng e).pc s.softTrap)
      else
        match decode e w with
        | .error x => .next (s.takeTrap e (s.eng e).pc (trapOfIllegal x))
        | .ok i => exec i (s.noteUses e i)

/-- The turn of an event; a command word is no event. -/
def stepEvent (s : State) (i : Instr) : Host.Outcome State Fault Refusal :=
  match i.parts with
  | none => exec i s
  | some _ => .next s

/-- One turn. -/
def step (s : State) : Host.Outcome State Fault Refusal :=
  let t := s.takeTurn
  let s := t.2.between
  match t.1.act with
  | .engine n e => if coreExists n then stepEngine { s with cur := n } e else .fault .noSuchCore
  | .event i => stepEvent s i
  | .upset u => .next (s.upset u)
  | .evict x => .next (s.evict x)
  | .piece core entry k => .next (if coreExists core then s.makePiece core entry k else s)
  | .read m off => .next (s.readMgmt m off)

/-- The word `w` placed as the only word of an engine's stream on core 0, which then runs it in the next turn: bits
63 to 0 are the word, bits 65 and 64 the engine (log 9). It stands for the load of a program (log 15). -/
def State.withFetchWord (s : State) (nbits w : Nat) : State :=
  let n := w % 2 ^ nbits
  let e := Engine.ofNum (n / 2 ^ 64)
  let c := s.coreAt 0
  let x := c.eng e
  let c := c.setEng e { x with pc := 0, ended := false, parked := none, pause := none, sigs := [], held := none,
                               taken := false, ring := { slots := SMap.put x.ring.slots 0 (BitVec.ofNat 64 n), base := 0, len := 1 } }
  let c := { c with started := true, unit := none, phase := none, trap := { c.trap with mode := false }, sample := none }
  { s.setCoreAt 0 { c with soft := c.soft.filter (fun x => x != (.ring e, 0)) } with schedule := [{ dt := 0, act := .engine 0 e }], edge := 0 }

end Sys2Proof.Machine
end

