-- ==== Sys2Proof/Safety.lean ====
section
/-! DEFINITION. What a safe step is, and the words the claims are stated in. -/

namespace Sys2Proof

open Machine

/-- The step went on: neither a fault nor a refusal. -/
def Proceeds (o : Host.Outcome State Fault Refusal) : Prop := ∃ t, o = .next t

/-- The canonical form of memory and sideband, kept by every step. -/
def MemoryOk (s : State) : Prop := s.mem.wf = true ∧ SMap.wf (0 : BitVec 32) s.side = true

/-! ### When a word issues, and what its issue leaves (spec/02 R33, R44 to R47, R68) -/

/-- The conditions under which a word issues: it has not yet, no check of R68 fails on what it names, its WAIT byte is satisfied, no
instruction in flight still writes a register it uses, it is no branch that ends a loop body (R120), and on S its guard holds. -/
structure Issues (s : State) (e : Engine) (h : Hdr) (n : Names) (rs : List Reg) : Prop where
  fresh : (s.eng e).taken = false
  legal : s.illegal? e h n = none
  waits : s.core.waitOk h.wait = true
  idle : s.core.busyFor rs = false
  body : (n.branch && (s.eng e).endsLoop) = false
  guard : e = .S → s.core.readP h.guard ≠ h.neg

/-- The state a word's own effect starts from: its WAIT byte taken. -/
def Begun (s : State) (h : Hdr) : State := s.setCore { s.core.takeWait h.wait with blockedSince := none }

/-- The conditions under which a word that issued on an earlier turn and waits goes on, its WAIT byte taken then (R33). -/
structure Resumes (s : State) (e : Engine) (h : Hdr) (n : Names) (rs : List Reg) : Prop where
  taken : (s.eng e).taken = true
  idle : s.core.busyFor rs = false
  body : (n.branch && (s.eng e).endsLoop) = false
  guard : e = .S → s.core.readP h.guard ≠ h.neg

/-- A word's effect works on a state: the word issues now, or goes on where it waits. -/
def Works (s : State) (e : Engine) (h : Hdr) (n : Names) (rs : List Reg) (b : State) : Prop :=
  (Issues s e h n rs ∧ b = Begun s h) ∨ (Resumes s e h n rs ∧ b = s)

/-- A word's effect done: the PC past it by the loop rule, and its signal queued behind the engine's earlier ones and
performed where it is due. -/
def Done (s : State) (e : Engine) (h : Hdr) (t : State) : State := t.retire e h (s.eng e).pc
/-- The same for a transfer of control to an offset. -/
def Jumped (s : State) (e : Engine) (h : Hdr) (t : State) (target : Nat) : State :=
  (t.modEng e (fun x => { x with pc := target, taken := false })).signal e 0 true (s.eng e).pc h.sig
/-- The same for a word that more follows once its signal has been performed (R118, R124, R369). -/
def DoneThen (s : State) (e : Engine) (h : Hdr) (t : State) (a : After) : State := t.retireThen e h (s.eng e).pc a
/-- A word that has issued and waits for the end of its own effect, its WAIT byte performed once (R33). -/
def Holding (e : Engine) (t : State) : State := t.modEng e (fun x => { x with taken := true })
/-- The same for a word that finishes later, under an identity that its queued signal carries. -/
def Pending (s : State) (e : Engine) (h : Hdr) (t : State) (id : Nat) : State :=
  (t.modEng e Eng.advance).signal e id false (s.eng e).pc h.sig

/-- An instruction that issues completes at once with `f` done to its core. -/
def Gives (i : Instr) (s : State) (e : Engine) (h : Hdr) (n : Names) (rs : List Reg) (f : Core → Core) : Prop :=
  Issues s e h n rs → exec i s = .next (Done s e h ((Begun s h).modCore f))

/-- An instruction that issues completes at once with `f` done to the state. -/
def Makes (i : Instr) (s : State) (e : Engine) (h : Hdr) (n : Names) (rs : List Reg) (f : State → State) : Prop :=
  Issues s e h n rs → exec i s = .next (Done s e h (f (Begun s h)))

/-- A V word that issues, its shared tiles ready and no soft error in the rows of tiles that it reads, completes at once with `f` done to
the core, the errors of what it wrote gone, and its shared destinations FULL (spec/06 R147, 20 R419). -/
def VGives (i : Instr) (s : State) (h : Hdr) (n : Names) (reads writes : List (Fin 256)) (f : Core → Core) (index : Option (Fin 256) := none) :
    Prop :=
  Issues s .V h n ((reads ++ writes).map .t) →
    (Begun s h).core.sharedReady (reads.map (·.val)) (writes.map (·.val)) = true →
    (Begun s h).core.softIn .tile ((Begun s h).core.readRuns index reads) = false →
    exec i s = .next (Done s .V h (((Begun s h).modCore f).written writes))

/-- The elements of a destination tile after an elementwise word: `f` of each selected index, the others kept or zeroed; the
flags of the selected ones accumulate. -/
def Elementwise (c : Core) (d : Fin 256) (m : Fin 8) (z : Bool) (f : Nat → Nat × Flags) : Core :=
  c.mapElems d c.vshape.w m z c.vshape.count f

/-! ### Accesses to the data area (spec/10 R238 to R240) -/

/-- A core noting the data-area accesses of a word of an engine, issued at a state, as in flight from then on; `d` is the register that a
load of S writes. -/
def Beside (s : State) (e : Engine) (reads writes : List (Nat × Nat)) (c : Core) (d : Option (Fin 32) := none) : Core :=
  c.noted s.detlevel s.core.data { eng := e.num, pc := (s.eng e).pc, reads, writes, d }

/-! ### Accesses to global memory (spec/12 R258, R259, R269) -/

/-- The conditions under which an engine's access goes to an address now, and the state its translation leaves. -/
structure Reaches (s : State) (e : Engine) (va n : Nat) (write : Bool) (a : Nat) (t : State) : Prop where
  room : s.memStall e = false
  go : s.access e va n write = .go a t
  first : t.free e t.nextId va n a = true

/-- The request that a word sent, the registers and memory being left to its answer. -/
structure Sends (t u : State) (e : Engine) (kind : ReqKind) (a n data : Nat) : Prop where
  request : ∃ r : Req, u.coh.reqs = t.coh.reqs ++ [r] ∧ r.id = t.nextId ∧ r.core = t.cur ∧ r.eng = e ∧ r.kind = kind
    ∧ r.addr = a ∧ r.size = n ∧ r.data = data ∧ r.stage = .sent
  regs : u.core.s = t.core.s
  mem : u.mem = t.mem

/-! ### What a frame speaks of -/

/-- The registers that instructions name, the tiles, the accumulators, the data area and the weight buffer of a core, with the
engines' index registers. -/
structure Regs where
  s : Vector Word64 32
  p : Vector Bool 8
  m : Vector (BitVec 2048) 8
  k : Engine → Vector Word64 16
  vshape : VShape
  mshape : MShape
  tiles : SMap Byte
  data : SMap Byte
  wbuf : SMap Byte
  wlay : List Nat
  acc : SMap Word32
  accRec : SMap AccRec

def regsOf (c : Core) : Regs :=
  { s := c.s, p := c.p, m := c.m, k := fun e => (c.eng e).k, vshape := c.vshape, mshape := c.mshape, tiles := c.tiles, data := c.data,
    wbuf := c.wbuf, wlay := c.wlay, acc := c.acc, accRec := c.accRec }

/-- Memory, its sideband and every other core as before. -/
structure SameOutside (s t : State) : Prop where
  mem : t.mem = s.mem
  side : t.side = s.side
  cores : ∀ n, n ≠ s.cur → t.coreAt n = s.coreAt n

/-- Nothing outside the core changed, where no trap was taken: the trap registers are as before. -/
def QuietOutside (s t : State) : Prop := t.core.trap = s.core.trap → SameOutside s t

end Sys2Proof
end

