-- ==== Sys2Proof/WellFormed.lean ====
section
/-! DEFINITION. Which instruction terms a command word can stand for (spec/02 R53 to R59, R68, R111, R148, R172,
R287): the types of the operands already bound every field but those checked here. -/

namespace Sys2Proof

/-- The guard of a word whose format has none: p0, not inverted (R53). -/
def Hdr.isPlain (h : Hdr) : Bool := h.guard == 0 && !h.neg
/-- A control word's header: guards exist on S alone (R53). -/
def Hdr.okOn (e : Engine) (h : Hdr) : Bool := e == .S || h.isPlain
/-- The register field of a control word names an s register on S and a k register elsewhere (R53). -/
def regOk (e : Engine) (r : Fin 32) : Bool := e == .S || decide (r.val < 16)
/-- The numbers SWR keeps once the rows that name one register are taken out. -/
def swrOther (num : BitVec 12) : Bool :=
  let n := num.toNat
  decide (n ≠ 0x022 ∧ ¬ (0x030 ≤ n ∧ n ≤ 0x034) ∧ n ≠ 0x100 ∧ n ≠ 0x101 ∧ n ≠ 0x102)

/-- Whether some command word encodes the instruction; false for an event, which has no word. -/
def Instr.wellFormed : Instr → Bool
  | .nop e h | .endw e h | .ret e h | .hwait e h _ _ | .safe e h _ _ | .trap e h _ | .brk e h _ | .pause e h _
  | .fence e h _ _ => h.okOn e
  | .loop e h len c => h.okOn e && len != 0 && (match c with | .imm _ => true | .reg r => regOk e r)
  | .brXb e h _ _ _ | .callXb e h _ _ _ => e != .S && h.isPlain
  | .tok e h _ _ r | .srd e h r _ | .flagsWrite e h r | .trapRegisterWrite e h r _ | .chHashWrite e h r
  | .pcHashWrite e h r | .preemptWaitWrite e h r => h.okOn e && regOk e r
  | .swr e h r num => h.okOn e && regOk e r && swrOther num
  | .hset e h _ b c => h.okOn e && regOk e b && regOk e c
  | .kli e h _ _ | .kaddi e h _ _ _ | .kadd e h _ _ _ | .ksub e h _ _ _ | .kmul e h _ _ _ | .kshl e h _ _ _
  | .kshr e h _ _ _ | .kand e h _ _ _ => e != .S && h.isPlain
  | .addi h _ _ _ | .andi h _ _ _ | .ori h _ _ _ | .xori h _ _ _ | .shli h _ _ _ | .shri h _ _ _ | .sari h _ _ _
  | .li h _ _ | .lih h _ _ | .muli h _ _ _ | .cmpi h _ _ _ _ | .ld h _ _ _ _ _ _ _ | .st h _ _ _ _ _ _
  | .lds h _ _ _ _ _ | .sts h _ _ _ _ | .sPref h _ _ _ _ | .flush h _ _ => !h.neg
  | .vcvt h _ _ rm _ ty _ _ => h.isPlain && Rows.modeOk ty rm
  | .vldq h _ _ hd _ => h.isPlain && hd != 63
  | .vscat h _ _ _ sp _ _ => h.isPlain && (match sp with | .data => true | .global _ _ inv => !inv)
  | .mshape h a b blk _ _ _ kg => h.isPlain && kg != 0 && Rows.pairOk a b && Rows.blockOk a blk
  | .wld h _ _ _ _ _ len => h.isPlain && decide (1 ≤ len.toNat ∧ len.toNat ≤ 4096)
  | .win h hd _ _ _ _ | .adv h hd _ _ _ | .wend h hd _ _ => h.isPlain && hd != 63
  | i =>
    match i.parts with
    | some (.S, _, _, _) => true
    | some (_, _, h, _) => h.isPlain
    | none => false

end Sys2Proof
end

