-- ==== Sys2Proof/Certificates/Slice0/Obligations.lean ====
section
/-! DEFINITION. The statements for the provers: one Prop each, named for what it says. -/

open Sys2Proof Sys2Proof.Machine

/-! ### Scalar words -/

/-- R127, R130: the exact integer results of two register operands, and of a register with an immediate sign-extended to 64 bits,
discarded where they go to s0. Every form of each. -/
def Obligations.ScalarIntegerResults : Prop :=
  (∀ (s : State) (h : Hdr) (d a b : Fin 32),
    let R : List Reg := [.s d, .s a, .s b]
    let G (i : Instr) (f : Word64 → Word64 → Word64) : Prop :=
      Gives i s .S h {} R (fun c => c.writeS d (f (c.readS a) (c.readS b)))
    G (.add h d a b) (fun x y => x + y) ∧ G (.sub h d a b) (fun x y => x - y) ∧ G (.mul h d a b) (fun x y => x * y)
      ∧ G (.mulh h false d a b) (fun x y => BitVec.ofInt 64 (x.toInt * y.toInt / 2 ^ 64))
      ∧ G (.mulh h true d a b) (fun x y => BitVec.ofNat 64 (x.toNat * y.toNat / 2 ^ 64))
      ∧ G (.and h d a b) (fun x y => x &&& y) ∧ G (.or h d a b) (fun x y => x ||| y) ∧ G (.xor h d a b) (fun x y => x ^^^ y)
      ∧ G (.andn h d a b) (fun x y => x &&& ~~~ y)
      ∧ G (.shl h d a b) (fun x y => x <<< (y.toNat % 64)) ∧ G (.shr h d a b) (fun x y => x >>> (y.toNat % 64))
      ∧ G (.sar h d a b) (fun x y => x.sshiftRight (y.toNat % 64)) ∧ G (.rotr h d a b) (fun x y => x.rotateRight (y.toNat % 64))
      ∧ G (.min h false d a b) (fun x y => if x.toInt ≤ y.toInt then x else y)
      ∧ G (.min h true d a b) (fun x y => if x.toNat ≤ y.toNat then x else y)
      ∧ G (.max h false d a b) (fun x y => if y.toInt ≤ x.toInt then x else y)
      ∧ G (.max h true d a b) (fun x y => if y.toNat ≤ x.toNat then x else y))
  ∧ (∀ (s : State) (h : Hdr) (d a : Fin 32) (imm : BitVec 27) (n : Fin 64) (long : BitVec 32),
    let x : Word64 := imm.signExtend 64
    let G (i : Instr) (f : Word64 → Word64) : Prop := Gives i s .S h {} [.s d, .s a] (fun c => c.writeS d (f (c.readS a)))
    G (.addi h d a imm) (· + x) ∧ G (.andi h d a imm) (· &&& x) ∧ G (.ori h d a imm) (· ||| x) ∧ G (.xori h d a imm) (· ^^^ x)
      ∧ G (.muli h d a imm) (· * x) ∧ G (.shli h d a n) (· <<< n.val) ∧ G (.shri h d a n) (· >>> n.val)
      ∧ G (.sari h d a n) (·.sshiftRight n.val)
      ∧ Gives (.li h d long) s .S h {} [.s d] (fun c => c.writeS d (long.signExtend 64))
      ∧ Gives (.lih h d long) s .S h {} [.s d] (fun c =>
          c.writeS d ((long.zeroExtend 64 <<< 32) ||| (c.readS d &&& 0xFFFFFFFF))))

/-- R127: division rounds towards zero; by zero the quotient is all ones, the remainder the dividend, and DZ is set; the
overflowing signed quotient wraps with remainder 0. -/
def Obligations.ScalarDivision : Prop :=
  ∀ (s : State) (h : Hdr) (uns : Bool) (d a b : Fin 32),
    let v (x : Word64) : Int := if uns then x.toNat else x.toInt
    let R : List Reg := [.s d, .s a, .s b]
    Gives (.div h uns d a b) s .S h {} R (fun c =>
        if c.readS b = 0 then (c.writeS d (BitVec.allOnes 64)).addFlags .S .dz
        else c.writeS d (BitVec.ofInt 64 ((v (c.readS a)).tdiv (v (c.readS b)))))
      ∧ Gives (.rem h uns d a b) s .S h {} R (fun c =>
        if c.readS b = 0 then (c.writeS d (c.readS a)).addFlags .S .dz
        else c.writeS d (BitVec.ofInt 64 ((v (c.readS a)).tmod (v (c.readS b)))))

/-- R127, R128, R129: counts of bits, selection and bit fields. -/
def Obligations.ScalarBitResults : Prop :=
  ∀ (s : State) (h : Hdr) (d a b : Fin 32) (p : Fin 8),
    let R2 : List Reg := [.s d, .s a]
    let R3 : List Reg := [.s d, .s a, .s b]
    let bit (x : Word64) (i : Nat) : Bool := x.getLsbD i
    Gives (.clz h d a) s .S h {} R2 (fun c =>
        c.writeS d (if c.readS a = 0 then 64 else BitVec.ofNat 64 (63 - (c.readS a).toNat.log2)))
      ∧ Gives (.ctz h d a) s .S h {} R2 (fun c =>
        c.writeS d (BitVec.ofNat 64 (((List.range 64).find? (bit (c.readS a))).getD 64)))
      ∧ Gives (.popc h d a) s .S h {} R2 (fun c =>
        c.writeS d (BitVec.ofNat 64 ((List.range 64).filter (bit (c.readS a))).length))
      ∧ Gives (.sel h d a b p) s .S h {} R3 (fun c => c.writeS d (if c.readP p then c.readS a else c.readS b))
      ∧ (∀ uns, Gives (.bfx h uns d a b) s .S h {} R3 (fun c =>
          let pos := (c.readS b).toNat % 64
          let w := min ((c.readS b).toNat / 256 % 128) (64 - pos)
          let x := (c.readS a).toNat / 2 ^ pos % 2 ^ w
          c.writeS d (if w = 0 then 0 else if uns then BitVec.ofNat 64 x else BitVec.ofInt 64 (signedOf w x))))
      ∧ Gives (.bfi h d a b) s .S h {} R3 (fun c =>
          let pos := (c.readS b).toNat % 64
          let w := min ((c.readS b).toNat / 256 % 128) (64 - pos)
          let mask : Word64 := BitVec.ofNat 64 ((2 ^ w - 1) * 2 ^ pos)
          c.writeS d ((c.readS d &&& ~~~ mask) ||| ((c.readS a <<< pos) &&& mask)))

/-- R131 to R133: compares write a predicate, p0 discarding the write; PSET reads a truth table; PMOV moves a predicate. -/
def Obligations.PredicateResults : Prop :=
  ∀ (s : State) (h : Hdr) (c : IntCond) (p q r : Fin 8) (a b : Fin 32) (imm : BitVec 23) (f : BitVec 4),
    let holds (x y : Word64) : Bool :=
      match c with
      | .eq => x == y | .ne => x != y
      | .lt => decide (x.toInt < y.toInt) | .ge => decide (y.toInt ≤ x.toInt)
      | .ltu => decide (x.toNat < y.toNat) | .geu => decide (y.toNat ≤ x.toNat)
      | .le => decide (x.toInt ≤ y.toInt) | .gt => decide (y.toInt < x.toInt)
      | .leu => decide (x.toNat ≤ y.toNat) | .gtu => decide (y.toNat < x.toNat)
    Gives (.cmp h c p a b) s .S h {} [.s a, .s b] (fun k => k.writeP p (holds (k.readS a) (k.readS b)))
      ∧ Gives (.cmpi h c p a imm) s .S h {} [.s a] (fun k => k.writeP p (holds (k.readS a) (imm.signExtend 64)))
      ∧ Gives (.pset h p q r f) s .S h {} [] (fun k => k.writeP p (f.getLsbD (2 * (k.readP r).toNat + (k.readP q).toNat)))
      ∧ Gives (.pmov h true p a) s .S h {} [.s a] (fun k => k.writeS a (if k.readP p then 1 else 0))
      ∧ Gives (.pmov h false p a) s .S h {} [.s a] (fun k => k.writeP p (k.readS a != 0))

/-- R135 to R137: scalar FP32 results are the exact value rounded once, zero-extended, with their flags; FMIN, FMAX and FCMP
as the model's functions of R135 and R137 give them. -/
def Obligations.ScalarFloatResults : Prop :=
  ∀ (s : State) (h : Hdr) (rm : Rounding) (sat : Bool) (d a b : Fin 32) (p : Fin 8),
    let R : List Reg := [.s d, .s a, .s b]
    let x (c : Core) (r : Fin 32) : Val := f32 (c.readS r)
    let put (c : Core) (q : Nat × Flags) : Core := (c.writeS d (BitVec.ofNat 64 q.1)).addFlags .S q.2
    let round (v : Val) : Nat × Flags := Fmt.f32.quant rm sat v
    Gives (.fadd h rm sat d a b) s .S h {} R (fun c => put c (round (Val.add rm (x c a) (x c b))))
      ∧ Gives (.fsub h rm sat d a b) s .S h {} R (fun c => put c (round (Val.sub rm (x c a) (x c b))))
      ∧ Gives (.fmul h rm sat d a b) s .S h {} R (fun c => put c (round (Val.mul (x c a) (x c b))))
      ∧ Gives (.ffma h rm sat d a b) s .S h {} R (fun c => put c (round (Val.fma rm (x c a) (x c b) (x c d))))
      ∧ Gives (.fdiv h rm sat d a b) s .S h {} R (fun c =>
          let r := Val.div (x c a) (x c b)
          put c ((round r.1).1, (round r.1).2 ||| r.2))
      ∧ Gives (.fsqrt h rm sat d a) s .S h {} [.s d, .s a] (fun c => put c (round (Val.sqrt (x c a))))
      ∧ Gives (.fmin h d a b) s .S h {} R (fun c =>
          put c (minMax .f32 false ((c.readS a).toNat % 2 ^ 32) ((c.readS b).toNat % 2 ^ 32)))
      ∧ Gives (.fmax h d a b) s .S h {} R (fun c =>
          put c (minMax .f32 true ((c.readS a).toNat % 2 ^ 32) ((c.readS b).toNat % 2 ^ 32)))
      ∧ (∀ cv, Gives (.fcvt h rm sat cv d a) s .S h {} [.s d, .s a] (fun c =>
          (c.writeS d (fcvt cv rm sat (c.readS a)).1).addFlags .S (fcvt cv rm sat (c.readS a)).2))
      ∧ (∀ k, Gives (.fcmp h k p a b) s .S h {} [.s a, .s b] (fun c =>
          (c.writeP p (fpCompare k (x c a) (x c b)).1).addFlags .S (fpCompare k (x c a) (x c b)).2))

/-- R113, R138: TIME and the index-register block; what each writes to its destination. TIME is the nanoseconds that had passed where
the core's present cycle started: at point 0, where a core cycle is a fabric cycle, those that have passed now, and at every point at
most three fabric cycles' fewer. -/
def Obligations.IndexRegisterResults : Prop :=
  ∀ (s : State) (e : Engine) (h : Hdr) (d a b : Fin 16) (r : Fin 32) (imm : BitVec 32),
    (e ≠ .S →
      let G (i : Instr) (f : Word64 → Word64 → Word64) : Prop :=
        Gives i s e h {} [] (fun c => c.writeK e d (f (c.readK e a) (c.readK e b)))
      Gives (.kli e h d imm) s e h {} [] (fun c => c.writeK e d (imm.signExtend 64))
        ∧ Gives (.kaddi e h d a imm) s e h {} [] (fun c => c.writeK e d (c.readK e a + imm.signExtend 64))
        ∧ G (.kadd e h d a b) (· + ·) ∧ G (.ksub e h d a b) (· - ·) ∧ G (.kmul e h d a b) (· * ·)
        ∧ G (.kshl e h d a b) (fun x y => x <<< (y.toNat % 64)) ∧ G (.kshr e h d a b) (fun x y => x >>> (y.toNat % 64))
        ∧ G (.kand e h d a b) (· &&& ·))
      ∧ Gives (.time h r) s .S h {} [.s r] (fun c => c.writeS r (BitVec.ofNat 64 (s.coreTime s.cur)))
      ∧ (let i := s.island (coreIsland s.cur)
         i.asleep = false → i.since ≤ s.fabric →
           s.coreTime s.cur ≤ s.fabric * 10 / 33 ∧ (s.fabric - 3) * 10 / 33 ≤ s.coreTime s.cur
             ∧ (i.op = 0 → i.frac = 0 → s.coreTime s.cur = s.fabric * 10 / 33))

/-! ### Words whose guard fails -/

/-- R47, R116: a word of S whose guard fails, legal and its wait satisfied, performs its WAIT and SIGNAL bytes and goes on to the next word:
no effect of its own happens, whatever registers are still to be written. Every constructor of S; a branch or LOOP that ends a loop body
traps before its guard is looked at (log 79). -/
def Obligations.GuardedWords : Prop :=
  ∀ (s : State) (h : Hdr) (u re x tp : Bool) (d a b : Fin 32) (p q r : Fin 8) (hd : Fin 64) (n : Fin 64) (tq : Fin 16) (w : Fin 5)
    (len : BitVec 13) (cnt : LoopCount) (g : BitVec 8) (m16 : BitVec 16) (num : BitVec 12) (im23 : BitVec 23) (im27 : BitVec 27)
    (im32 : BitVec 32) (off18 : BitVec 18) (off9 : BitVec 9) (tt : BitVec 4) (rm : Rounding) (sat : Bool) (cv : Conv) (ic : IntCond)
    (fc : FpCond) (pol : Policy) (sc : Scope) (sz : Size) (op : Aop) (ord : AtomOrder) (kind : FenceKind) (item : GovItem) (i : Instr)
    (names : Names), (s.eng .S).taken = false → s.illegal? .S h names = none → s.core.waitOk h.wait = true →
    (names.branch && (s.eng .S).endsLoop) = false → s.core.readP h.guard = h.neg →
    let N : Names := {}
    (i, names) ∈ ([(.nop .S h, N), (.endw .S h, N), (.loop .S h len cnt, { branch := true }), (.brSb h u im32, { branch := true }),
        (.callSb h u im32, { branch := true }), (.ret .S h, { branch := true }), (.tok .S h tp tq a, { queues := [(tq.val, !tp)] }),
        (.hset .S h hd a b, { handles := [hd.val] }), (.hwait .S h hd u, { handles := [hd.val] }), (.safe .S h g m16, N),
        (.trap .S h m16, N), (.brk .S h m16, N), (.fence .S h kind sc, N), (.srd .S h d num, { sysreg := some num.toNat }),
        (.swr .S h d num, { sysreg := some num.toNat }), (.flagsWrite .S h d, { sysreg := some 0x022 }),
        (.trapRegisterWrite .S h d w, { sysreg := some (0x030 + w.val) }), (.chHashWrite .S h d, { sysreg := some 0x100 }),
        (.pcHashWrite .S h d, { sysreg := some 0x101 }), (.preemptWaitWrite .S h d, { sysreg := some 0x102 }), (.pause .S h m16, N)]
      ++ [Instr.add h d a b, .sub h d a b, .mul h d a b, .mulh h u d a b, .div h u d a b, .rem h u d a b, .and h d a b, .or h d a b,
        .xor h d a b, .andn h d a b, .shl h d a b, .shr h d a b, .sar h d a b, .rotr h d a b, .min h u d a b, .max h u d a b, .clz h d a,
        .ctz h d a, .popc h d a, .sel h d a b p, .bfx h u d a b, .bfi h d a b, .addi h d a im27, .andi h d a im27, .ori h d a im27,
        .xori h d a im27, .shli h d a n, .shri h d a n, .sari h d a n, .li h d im32, .lih h d im32, .muli h d a im27, .cmp h ic p a b,
        .cmpi h ic p a im23, .pset h p q r tt, .pmov h u p a, .fadd h rm sat d a b, .fsub h rm sat d a b, .fmul h rm sat d a b,
        .ffma h rm sat d a b, .fmin h d a b, .fmax h d a b, .fcmp h fc p a b, .fcvt h rm sat cv d a, .fdiv h rm sat d a b,
        .fsqrt h rm sat d a, .ld h pol sc sz x d a off18, .st h pol sc sz d a off18, .lds h sz x d a off18, .sts h sz d a off18,
        .sPref h pol sz a off18, .flush h a off18, .atom h op pol sc ord d a b off9, .red h op pol sc u a b off9,
        .cas h u pol sc ord d a b off9, .atoms h op ord d a b off9, .launch h d a b, .fsopen h d a, .fsclose h d a, .fswait h d a,
        .fstest h d a, .lwait h a, .lpin h re d a, .lunpin h d a, .phase h a, .goveval h re d a, .govrd h item d a, .govhold h a,
        .govrel h a, .time h d].map (fun i => (i, N))
      ++ [(.brx h a, { branch := true }), (.qctlSetprio h d a b, { qctl := true }), (.qctlDetset h d a b, { qctl := true }),
        (.qctlSeed h d a b, { qctl := true }), (.qctlQread h d a b, { qctl := true }),
        (.eret h, { mode := if s.core.trap.mode then none else some { cause := 1, info := 1 } })]) →
      exec i s = .next (Done s .S h (Begun s h))

/-! ### Control -/

/-- R33, R38, R118, R123 to R125, R369 (spec/16), R412 (spec/20): words that go on to the next one. NOP does nothing, SAFE nothing with no
request pending and parks its engine for one whose group it names; END stops its engine, and as a handler's abandons the task, after its
signal; HWAIT passes on the state it names and waits in another, its WAIT byte performed, and goes on from there once the handle has it;
HSET records a base and a count. That the queued signal is followed in its turn rests on log 11, HWAIT's holding on log 80, both the model's
reading. PAUSE of 0 is a NOP; else the engine holds issue until n of its core's cycles have passed, its signal queued under the next
identity. -/
def Obligations.ControlCompletes : Prop :=
  ∀ (s : State) (e : Engine) (h : Hdr) (hd : Fin 64) (r q : Fin 32) (g : BitVec 8) (m n : BitVec 16),
    Makes (.nop e h) s e h {} [] id
      ∧ (s.core.budget = none → s.core.preempt = none → Makes (.safe e h g m) s e h {} [] id)
      ∧ (s.core.trap.mode = false → s.core.budget = none → s.core.preempt.isSome = true →
          s.core.preemptGroup = none ∨ s.core.preemptGroup = some g.toNat → Issues s e h {} [] →
          exec (.safe e h g m) s = .next (DoneThen s e h ((Begun s h).modCore (fun c => { c with preemptGroup := some g.toNat }))
            (.park g.toNat m.toNat)))
      ∧ (Issues s e h {} [] → exec (.endw e h) s = .next
          (if e = .S ∧ s.core.trap.mode = true then DoneThen s e h (Begun s h) .abandon
           else ((Begun s h).modEng e (fun x => { x with ended := true, loops := [], taken := false })).signal e 0 true (s.eng e).pc h.sig))
      ∧ (∀ free : Bool, let i := Instr.hwait e h hd free
          ∀ b, Works s e h { handles := [hd.val] } [] b →
            (b.core.stateOf hd = (if free then .free else .full) → exec i s = .next (Done s e h b))
            ∧ (b.core.stateOf hd ≠ (if free then .free else .full) → exec i s = .next (Holding e b)))
      ∧ (let c := (Begun s h).core
         let base := (c.readR e r).toNat
         let count := (c.readR e q).toNat
         c.stateOf hd = .free → base % 64 = 0 → base + count ≤ Part.dataBytes c.part →
          Gives (.hset e h hd r q) s e h { handles := [hd.val] } (if e = .S then [.s r, .s q] else []) (fun c =>
            c.setHandle hd { c.handle hd with base, expected := count, counted := 0, pending := 0, rcd := none }))
      ∧ (Issues s e h {} [] → exec (.pause e h n) s = .next
        (if n = 0 then Done s e h (Begun s h)
         else
           let t : State := { Begun s h with nextId := s.nextId + 1 }
           Pending s e h (t.modEng e (fun x => { x with pause := some (s.cycleOf s.cur + n.toNat, s.nextId) })) s.nextId))

/-- R42, R120, R121, R134: where control goes. A taken branch goes to its target in the stream and leaves the loop entries that it
leaves; CALL pushes the word after it; RET pops. LOOP samples its count, from the word or from a register's low 32 bits; 0 skips
the body, else an entry is pushed. -/
def Obligations.TransfersAndLoops : Prop :=
  (∀ (s : State) (e : Engine) (h : Hdr) (abs : Bool) (off : BitVec 32) (c : XbCond) (a : Fin 32) (t : Nat),
     let b := Begun s h
     let leave (t : Nat) (s : State) : State := s.modEng e (fun x => { x with loops := popLeft x.link.length t x.loops })
     let push (s : State) : State := s.modEng e (fun x => { x with link := (x.pc + 1) :: x.link })
     let to_ (i : Instr) (rs : List Reg) (f : State → State) : Prop :=
       Issues s e h { branch := true } rs → exec i s = .next (Jumped s e h (f b) t)
     (e = .S → b.core.target? .S abs off = some t →
         to_ (.brSb h abs off) [] (leave t) ∧ ((s.eng e).link.length < 8 → to_ (.callSb h abs off) [] push))
       ∧ (b.core.xbTaken e c = true → b.core.target? e abs off = some t →
         to_ (.brXb e h c abs off) [] (leave t) ∧ ((s.eng e).link.length < 8 → to_ (.callXb e h c abs off) [] push))
       ∧ (b.core.xbTaken e c = false →
         Makes (.brXb e h c abs off) s e h { branch := true } [] id ∧ Makes (.callXb e h c abs off) s e h { branch := true } [] id)
       ∧ (e = .S → t = (b.core.readS a).toNat → t < b.core.streamLen .S → to_ (.brx h a) [.s a] (leave t))
       ∧ (∀ rest, (s.eng e).link = t :: rest → t < b.core.streamLen e →
         to_ (.ret e h) [] (fun s => s.modEng e (fun x =>
           { x with loops := x.loops.filter (fun l => l.level != x.link.length), link := rest }))))
  ∧ (∀ (s : State) (e : Engine) (h : Hdr) (len : BitVec 13) (count : LoopCount) (n : Nat),
     let b := Begun s h
     let x := s.eng e
     let last := x.pc + len.toNat
     n = (match count with | .imm v => v.toNat | .reg r => (b.core.readR e r).toNat % 2 ^ 32) →
     Issues s e h { branch := true } (match count with | .imm _ => [] | .reg r => if e = .S then [.s r] else []) →
     last < b.core.streamLen e →
     (n = 0 → exec (.loop e h len count) s = .next (Jumped s e h b (last + 1)))
       ∧ (n ≠ 0 → x.loops.length < 4 → (∀ l ∈ x.loops, l.level = x.link.length → last ≤ l.last) →
         exec (.loop e h len count) s = .next (Done s e h (b.modEng e (fun x =>
           { x with loops := { first := x.pc + 1, last, remaining := n, level := x.link.length } :: x.loops })))))

/-- R33, R35, R38, R39 (spec/02), R122: TOK moves a payload: a pop takes the oldest token and writes it zero-extended, a push adds the
register's low 32 bits where there is room, as the cycle sampled them; with no token, or no room, the word waits, its WAIT byte performed,
and goes on from there in a later turn (Holding: the model's reading, logs 20 and 80). What tokens leave or enter a queue, its order
stays. -/
def Obligations.TokenMoves : Prop :=
  (∀ (s : State) (e : Engine) (h : Hdr) (q : Fin 16) (r : Fin 32),
    let rs : List Reg := if e = .S then [.s r] else []
    ∀ (pop : Bool) (b : State), Works s e h { queues := [(q.val, !pop)] } rs b →
      (∀ x xs, pop = true → b.core.queue q = x :: xs → 0 < b.core.availOf q →
        exec (.tok e h pop q r) s = .next (Done s e h (b.modCore (fun c => (c.popTokens q 1).writeR e r (x.zeroExtend 64)))))
      ∧ (pop = false → 0 < b.core.roomOf q →
        exec (.tok e h pop q r) s = .next (Done s e h
          ((b.modCore (fun c => c.pushTokens q [(c.readR e r).truncate 32])).teach e (.push 0 q))))
      ∧ ((if pop then b.core.availOf q else b.core.roomOf q) = 0 → exec (.tok e h pop q r) s = .next (Holding e b)))
  ∧ (∀ (c : Core) (q p : Fin 16) (n : Nat) (ts : List Word32), q.val < 12 →
    (c.popTokens q n).queue p = (if p = q then (c.queue q).drop n else c.queue p)
      ∧ (c.pushTokens q ts).queue p = (if p = q then c.queue q ++ ts else c.queue p)
      ∧ regsOf (c.popTokens q n) = regsOf c ∧ regsOf (c.pushTokens q ts) = regsOf c
      ∧ (c.sample = none → c.availOf q = (c.queue q).length ∧ c.roomOf q = 16 - (c.queue q).length))

/-- R67, R112 and R113 (spec/04), R125, R406: SRD writes the register's value; SWR of a register that is read only or ignored changes
nothing; a write of FLAGS clears the bits written 1, but those that a transfer of C has set in the cycle (its set where it names no handle:
log 91); the handler's writes of the trap registers take effect in trap mode alone. -/
def Obligations.SystemRegisterAccess : Prop :=
  ∀ (s : State) (e : Engine) (h : Hdr) (r : Fin 32) (num : BitVec 12) (w : Fin 5),
    let rs : List Reg := if e = .S then [.s r] else []
    let b := Begun s h
    let v := b.core.readR e r
    Makes (.srd e h r num) s e h { sysreg := some num.toNat } rs (fun t => t.modCore (fun c => c.writeR e r (b.sysreg e num.toNat)))
      ∧ Makes (.swr e h r num) s e h { sysreg := some num.toNat } rs id
      ∧ Makes (.flagsWrite e h r) s e h { sysreg := some 0x022 } rs (fun t =>
          t.modEng e (fun x => { x with flags := x.flags &&& ~~~ v.truncate 6
            ||| (x.flags &&& (match b.core.sample with | some m => if e = .C then m.raised else 0 | none => 0)) }))
      ∧ (s.core.trap.mode = false →
        Makes (.trapRegisterWrite e h r w) s e h { sysreg := some (0x030 + w.val) } rs (fun t => t.modCore (fun c => c)))
      ∧ (s.core.trap.mode = true →
        Makes (.trapRegisterWrite e h r w) s e h { sysreg := some (0x030 + w.val) } rs (fun t => t.modCore (fun c =>
          { c with trap :=
              match w with
              | 0 => { c.trap with cause := v.toNat % 2 ^ 8 }
              | 1 => { c.trap with eng := v.toNat % 4 }
              | 2 => { c.trap with pc := v.toNat % 2 ^ 13, pcWritten := true }
              | 3 => { c.trap with addr := v }
              | 4 => { c.trap with info := v } })))

/-- R67, R318, R324: a privileged task's write of 0x102 sets its own queue's PREEMPT_WAIT to the low 32 bits. A write of a hash mask
by a task that is not alone on the package is ignored; by one that is, the mask takes the low 23 bits, and each line of device memory
takes what some line of its stack held, with any tag: which one is a free value (log 14). -/
def Obligations.PrivilegedWrites : Prop :=
  ∀ (s : State) (e : Engine) (h : Hdr) (r : Fin 32),
    let rs : List Reg := if e = .S then [.s r] else []
    let b := Begun s h
    let v : Word64 := b.core.readR e r &&& 0x7FFFFF
    (∀ t, s.task? = some t → Makes (.preemptWaitWrite e h r) s e h { sysreg := some 0x102 } rs (fun b =>
        b.setQueue t.queue { b.queueOf t.queue with preemptWait := (b.core.readR e r).toNat % 2 ^ 32 }))
      ∧ (b.aloneOnPackage = false →
        Makes (.chHashWrite e h r) s e h { sysreg := some 0x100 } rs id
          ∧ Makes (.pcHashWrite e h r) s e h { sysreg := some 0x101 } rs id)
      ∧ (b.aloneOnPackage = true →
        Makes (.chHashWrite e h r) s e h { sysreg := some 0x100 } rs (fun t =>
            State.scrambled { t with mgmt := { t.mgmt with chHash := v } })
          ∧ Makes (.pcHashWrite e h r) s e h { sysreg := some 0x101 } rs (fun t =>
            State.scrambled { t with mgmt := { t.mgmt with pcHash := v } }))

/-- R124, R405, R406, R409: TRAP and BRK go past their word with the trap to follow their signal. Outside trap mode, with no signal of
their own, they enter trap mode with their cause, their code and their own offset, and S starts the handler at offset 0. -/
def Obligations.SoftwareTraps : Prop :=
  (∀ (s : State) (e : Engine) (h : Hdr) (code : BitVec 16), Issues s e h {} [] →
    exec (.trap e h code) s = .next (DoneThen s e h (Begun s h) (.trap { cause := 0x0A, info := code.toNat }))
      ∧ exec (.brk e h code) s = .next (DoneThen s e h (Begun s h) (.trap { cause := 0x0C, info := code.toNat })))
  ∧ ∀ (s : State) (e : Engine) (h : Hdr) (code : BitVec 16),
    Issues s e h {} [] → h.sig = .none → (s.eng e).sigs = [] → s.core.trap.mode = false → s.core.obj.trapLen ≠ 0 →
    ∀ cause i, (i = Instr.trap e h code ∧ cause = 0x0A) ∨ (i = Instr.brk e h code ∧ cause = 0x0C) →
      ∃ t, exec i s = .next t ∧ t.core.trap.mode = true ∧ t.core.trap.hostHeld = false ∧ t.core.trap.engine = e
        ∧ t.core.trap.cause = cause ∧ t.core.trap.eng = e.num ∧ t.core.trap.pc = (s.eng e).pc ∧ t.core.trap.addr = 0
        ∧ t.core.trap.info = code.zeroExtend 64 ∧ t.core.engS.pc = 0 ∧ t.core.engS.link = [] ∧ t.core.engS.loops = []
        ∧ t.core.s = s.core.s ∧ t.core.p = s.core.p ∧ t.mem = s.mem

/-! ### Scalar memory -/

/-- R224, R258, R262 to R264, R266: a load that hits, or an LDS, writes its extended value; one that misses goes out by words and stays
in flight for what comes back: one word access, or two of an eight-byte load, each sent to its home where nothing before it keeps it
back. An LDS whose word an earlier access still waits for waits in flight. What an LDS has read is noted as read beside what is in flight
(R238); a hit on, or a read of, an uncorrectable soft error traps (R419; log 77). Which copies hit is the model's reading of R230, R235 and
R243 (logs 29, 102). -/
def Obligations.ScalarLoads : Prop :=
  (∀ (s t : State) (h : Hdr) (pol : Policy) (sc : Scope) (size : Size) (x : Bool) (d r : Fin 32) (off : BitVec 18) (a : Nat),
    let b := Begun s h
    let n := sizeBytes size
    let va := (b.core.readS r + off.signExtend 64).toNat
    let sext := decide (n ≠ 8) && x
    let inv := decide (n = 8) && x
    let p : Policy := if Part.l1Bytes b.core.part = 0 then .wt else pol
    let i : Instr := .ld h pol sc size x d r off
    let ext (v : Nat) : Word64 := if n < 8 ∧ sext = true then BitVec.ofInt 64 (signedOf (8 * n) v) else BitVec.ofNat 64 v
    let runs := [(va, n)]
    Issues s .S h {} [.s d, .s r] →
      (Reaches b .S va n false a t →
        (∀ v, t.localValue p inv a n = some v →
          (t.l1Fault (wordKeys a n) = none → exec i s = .next (Done s .S h (t.setCore (t.core.writeS d (ext v)))))
          ∧ ∀ y, t.l1Fault (wordKeys a n) = some y → exec i s = .next ((s.logSram .S y).takeTrap .S (s.eng .S).pc y))
        ∧ (t.localValue p inv a n = none → t.poisoned (lineOf a) = false →
            let todo (o k : Nat) : Todo := { store := false, pol := p, inv, va := va + o, n := k, data := 0 }
            let f : Flight := { id := t.nextId, eng := .S, pc := (t.eng .S).pc, kind := .load d n sext, inTrap := t.core.trap.mode,
                                parts := if n = 8 then [⟨0, 0, none, some (todo 0 4)⟩, ⟨0, 1, none, some (todo 4 4)⟩]
                                         else [⟨0, 0, none, some (todo 0 n)⟩] }
            ∀ u ps, State.sendParts { t with nextId := t.nextId + 1 } f (some a) = .ok (u, ps) → (∃ q ∈ ps, q.got = none) →
              exec i s = .next (Pending s .S h (u.modCore (fun c => { c with flights := c.flights ++ [{ f with parts := ps }] })) t.nextId)))
      ∧ (va + n ≤ Part.dataBytes b.core.part → va % n = 0 → b.holdsBack .S b.nextId = false →
          let lds : Instr := .lds h size x d r off
          let early := b.ordered .S b.nextId || b.samePool b.nextId va n
          let signed := decide (n < 8) && x
          (early = false → b.clear .S runs [] = true → exec lds s = .next (Done s .S h (b.modCore (fun c => Beside b .S runs [] (c.writeS d
            (if signed then BitVec.ofInt 64 (signedOf (8 * n) (ofBytes (c.readData va n)))
             else BitVec.ofNat 64 (ofBytes (c.readData va n)))) (some d)))))
          ∧ (early = false → ∀ y, b.dataFault .S runs [] = some y → exec lds s = .next ((s.logSram .S y).takeTrap .S (s.eng .S).pc y))
          ∧ (early = true → ∃ f : Flight, f.id = b.nextId ∧ f.kind = .waiting (.lds n x d va)
              ∧ exec lds s = .next (Pending s .S h (State.modCore { b with nextId := b.nextId + 1 } (fun c =>
                  { c with flights := c.flights ++ [f] })) b.nextId))))
  ∧ (∀ (s : State) (e : Engine) (pc till a : Nat) (p : Part) (w : Todo),
      let pol : Policy := if Part.l1Bytes s.core.part = 0 then .wt else w.pol
      (s.free e till w.va w.n a = false → s.sendAt e pc till a p w = .wait id)
      ∧ (s.free e till w.va w.n a = true → (s.coh.reqs.filter (fun r => r.core == s.cur && !r.half)).length
            + (s.coh.weir.filter (fun w => w.core == s.cur)).length + (s.core.faults.filter (fun f => f.req.isNone)).length
            + s.core.feeds.length + s.outstandingC < 4096 →
          ((w.store = true → s.storeAt pol a w.n w.va w.data = none) ∧ (w.store = false → s.localValue pol w.inv a w.n = none)) →
            ∃ u, Sends s u e (if w.store then .store else .load) a w.n w.data ∧ u.core.flights = s.core.flights
              ∧ s.sendAt e pc till a p w = .ok u { p with todo := none, req := s.nextId }))
  ∧ ∀ (s : State) (f : Flight) (at_ : Option Nat) (w : Todo) (p : Part), f.parts = [p] → p.todo = some w →
      ∀ u q, (match at_ with | some a => s.sendAt f.eng f.pc f.id (a + 4 * p.idx) p w | none => s.sendPart f.eng f.pc f.id p w) = .ok u q →
        s.sendParts f at_ = .ok (u, [q])

/-- R264, R266, R274, R276: a store takes effect in the L1 where its policy says so, else it goes out by words (what each does:
ScalarLoads); STS and ATOMS change the data area at once, but where an earlier access keeps them back, of an ATOMS also one that its
release waits for: then they stay in flight till it is done. R237, R239: at level 1 or 2 a data-area access that shares a byte, written by
one of the two, with an unordered command in flight traps instead. -/
def Obligations.ScalarStores : Prop :=
  ∀ (s t : State) (h : Hdr) (pol : Policy) (sc : Scope) (size : Size) (d r v : Fin 32) (off : BitVec 18) (off9 : BitVec 9) (op : Aop)
    (ord : AtomOrder) (a : Nat),
    let b := Begun s h
    let n := sizeBytes size
    let va := (b.core.readS r + off.signExtend 64).toNat
    let x := (b.core.readS d).toNat % 2 ^ (8 * n)
    let p : Policy := if Part.l1Bytes b.core.part = 0 then .wt else pol
    let i : Instr := .st h pol sc size d r off
    let waits (i : Instr) (op : MemOp) : Prop :=
      ∃ f : Flight, f.id = b.nextId ∧ f.kind = .waiting op ∧ exec i s = .next (Pending s .S h (State.modCore { b with nextId := b.nextId + 1 }
        (fun c => { c with flights := c.flights ++ [f] })) b.nextId)
    (Issues s .S h {} [.s d, .s r] →
      (Reaches b .S va n true a t →
        (∀ u, t.storeAt p a n va x = some u → exec i s = .next (Done s .S h u))
          ∧ (t.storeAt p a n va x = none →
            let todo (o k v : Nat) : Todo := { store := true, pol := p, inv := false, va := va + o, n := k, data := v }
            let f : Flight := { id := t.nextId, eng := .S, pc := (t.eng .S).pc, kind := .store, inTrap := t.core.trap.mode,
                                parts := if n = 8 then [⟨0, 0, none, some (todo 0 4 (x % 2 ^ 32))⟩, ⟨0, 1, none, some (todo 4 4 (x / 2 ^ 32))⟩]
                                         else [⟨0, 0, none, some (todo 0 n x)⟩] }
            ∀ u ps, State.sendParts { t with nextId := t.nextId + 1 } f (some a) = .ok (u, ps) → (∃ q ∈ ps, q.got = none) →
              exec i s = .next (Pending s .S h (u.modCore (fun c => { c with flights := c.flights ++ [{ f with parts := ps }] })) t.nextId)))
      ∧ (va + n ≤ Part.dataBytes b.core.part → va % n = 0 → b.holdsBack .S b.nextId = false →
          let early := b.ordered .S b.nextId || b.samePool b.nextId va n
          (early = false → b.clear .S [] [(va, n)] = true → exec (.sts h size d r off) s = .next (Done s .S h (b.modCore (fun c =>
            Beside b .S [] [(va, n)] (c.writeData va (toBytes n (c.readS d).toNat))))))
          ∧ (early = true → waits (.sts h size d r off) (.sts n va (b.core.readS d).toNat))))
    ∧ (Issues s .S h {} [.s d, .s r, .s v] →
      let o := (b.core.readS r + off9.signExtend 64).toNat
      let k := Atomic.bytes op
      let old := ofBytes (b.core.readData o k)
      let rel := decide (ord = .rel ∨ ord = .ar)
      let early := b.ordered .S b.nextId || b.samePool b.nextId o k || rel && !b.releaseReady .S .core b.nextId
      let i : Instr := .atoms h op ord d r v off9
      o + k ≤ Part.dataBytes b.core.part → o % k = 0 → b.holdsBack .S b.nextId = false →
        (early = false → b.clear .S [(o, k)] [(o, k)] = true →
          exec i s = .next (Done s .S h (b.modCore (fun c => Beside b .S [(o, k)] [(o, k)] ((c.writeData o
            (toBytes k (Atomic.apply op old ((b.core.readS v).toNat % 2 ^ (8 * k))))).writeS d (BitVec.ofNat 64 old)) (some d)))))
        ∧ (early = true → waits i (.atoms op rel (decide (ord = .acq ∨ ord = .ar)) d (b.core.readS v) o))
        ∧ (early = false → ∀ x, b.orderFault .S [(o, k)] [(o, k)] = some x → exec i s = .next (s.takeTrap .S (s.eng .S).pc x)))
    ∧ (∀ (e : Engine) (reads writes : List (Nat × Nat)) (x : TrapInfo), s.orderFault e reads writes = some x →
        s.detlevel ≠ 0 ∧ x.cause = 7 ∧ ∃ f ∈ s.core.checker, (e ≠ .C → f.eng ≠ e.num) ∧ f.held = false
          ∧ x.info = 1 + 2 ^ 8 * f.eng + 2 ^ 16 * f.pc ∧ f.clash reads writes = some x.addr)

/-- R270 to R275: ATOM, RED and CAS on a word that reaches its address and is neither poisoned nor misdeclared. A release first sends the
core's dirty words; where something before it has still to finish, or an earlier access to the word is still to be performed, the word has
issued and waits in flight, RED done as far as its engine goes. Else one whose word the core owns and no reduction object sequences is
performed in the L1: the old value goes to the destination, the new one replaces it; another is sent to its home with its operand: ATOM
and CAS stay in flight for the old value, RED is done. -/
def Obligations.GlobalAtomics : Prop :=
  ∀ (s t u : State) (h : Hdr) (op : Aop) (w64 rel : Bool) (pol : Policy) (sc : Scope) (ord : AtomOrder) (d r v : Fin 32) (off : BitVec 9)
    (a : Nat),
    let b := Begun s h
    let va := (b.core.readS r + off.signExtend 64).toNat
    let goes (i : Instr) (rs : List Reg) (kind : ReqKind) (n : Nat) (q : AtomOrder) (dst : Option (Fin 32)) : Prop :=
      let ks := wordKeys a n
      let v0 := b.core.readS v
      let w := if q = .rel ∨ q = .ar then b.pushRelease sc else b
      let ready := (q ≠ .rel ∧ q ≠ .ar) ∨ w.releaseReady .S sc w.nextId = true
      let old := fromWords a n (ks.map (u.coreWord u.cur))
      let y := v0.toNat % 2 ^ (8 * n)
      let new : Option Nat :=
        match kind with
        | .atomic op => some (Atomic.apply op old y)
        | .cas c => if old = c then some y else none
        | _ => none
      let declared (z : State) : Prop := ∀ c m, z.sequence kind va v0 = some (c, m) → c < m
      let local_ := u.sequence kind va v0 = none ∧ u.ownsAll u.cur ks = true
      let free := u.free .S w.nextId va n a = true ∧ u.mayIndex kind va = true
      Issues s .S h {} rs → b.memStall .S = false → b.access .S va n true = .go a t → declared t →
      (t.ownsAll t.cur ks = true ∨ t.poisoned (lineOf a) = false) → w.access .S va n true = .go a u → declared u →
        (ready → free → local_ → u.l1Fault ks = none → ∃ x, exec i s = .next (Done s .S h x) ∧ x.mem = u.mem ∧ x.coh = u.coh
          ∧ (∀ k, x.core.readS k = if dst = some k ∧ k ≠ 0 then BitVec.ofNat 64 old else u.core.readS k)
          ∧ (∀ z, new = some z → (∀ k ∈ ks, ∃ z, u.core.l1At k = some ⟨.owned, z⟩) → n = 4 → a % 4 = 0 →
              ∀ k ∈ ks, x.core.l1At k = some ⟨.owned, BitVec.ofNat 32 z⟩))
        ∧ (ready → free → ¬ local_ → ∃ x, Sends u x .S kind a n y
          ∧ exec i s = .next (if dst = none then Done s .S h x else Pending s .S h x u.nextId))
        ∧ (¬ (ready ∧ free) → ∃ x f o, exec i s = .next (if dst = none then Done s .S h x else Pending s .S h x w.nextId)
          ∧ x.core.flights = w.core.flights ++ [f] ∧ f.id = w.nextId ∧ f.eng = .S ∧ f.kind = .waiting (.atomic o) ∧ o.kind = kind
          ∧ o.va = va ∧ o.v = v0 ∧ o.d = dst ∧ o.scope = sc ∧ o.rel = decide (q = .rel ∨ q = .ar) ∧ o.acq = decide (q = .acq ∨ q = .ar)
          ∧ x.core.s = w.core.s ∧ x.mem = w.mem)
    goes (.atom h op pol sc ord d r v off) [.s d, .s r, .s v] (.atomic op) (Atomic.bytes op) ord (some d)
      ∧ goes (.red h op pol sc rel r v off) [.s r, .s v] (.atomic op) (Atomic.bytes op) (if rel then .rel else .none) none
      ∧ goes (.cas h w64 pol sc ord d r v off) [.s d, .s r, .s v]
          (.cas ((b.core.readS d).toNat % 2 ^ (8 * (if w64 then 8 else 4)))) (if w64 then 8 else 4) ord (some d)

/-- R243, R267, R268, R283: FENCE sends what its release must and completes once what it waits for is done, acquiring where it is an
acquire and ending its engine's footprints where it is a release (R238); else it has issued and stays in flight, till its engine's turn
finds that done. M's has nothing to wait for but as an .ar at package or system scope, for what M has acquired (log 106). FLUSH of a line
that is not in the L1 completes at once; else its words go home, and it completes once they are there. PREF asks for its lines (log 38). Where a
FENCE or an acquire before them is not complete, FLUSH and PREF wait in flight, PREF done as far as its engine goes. An acquire leaves no
clean word of an ordinary load (log 29). -/
def Obligations.OrderingWords : Prop :=
  ∀ (s t : State) (e : Engine) (h : Hdr) (kind : FenceKind) (sc : Scope) (pol : Policy) (lines : Size) (r : Fin 32) (off : BitVec 18)
    (a : Nat),
    let b := Begun s h
    let va := (b.core.readS r + off.signExtend 64).toNat
    let idle : Prop := e = .M ∧ ¬ (kind = .ar ∧ (sc = .pkg ∨ sc = .sys))
    let w := if kind = .acq ∨ idle then b else b.pushRelease sc
    let line := lineOf va
    let waits (t : State) (done : Bool) (kind : FlightKind) (i : Instr) : Prop :=
      ∃ u f, exec i s = .next (if done then Done s e h u else Pending s e h u t.nextId) ∧ u.core.flights = t.core.flights ++ [f]
        ∧ f.id = t.nextId ∧ f.eng = e ∧ f.kind = kind ∧ u.mem = t.mem ∧ u.core.s = t.core.s
    (Issues s e h {} [] → b.holdsBack e b.nextId = false →
      (w.fenceReady e kind sc w.nextId = true → exec (.fence e h kind sc) s = .next (Done s e h (w.fenced e kind sc)))
      ∧ (w.fenceReady e kind sc w.nextId = false → waits w false (.fence kind sc) (.fence e h kind sc)))
    ∧ (∀ till : Nat, s.fenceReady e kind sc till = true ↔ idle
        ∨ (kind ≠ .acq → s.quiet e till = true ∧ (sc ≠ .core → s.flushed till = true)) ∧ (kind ≠ .rel → s.loadsBack e till = true))
    ∧ (s.fenced e kind sc).mem = s.mem ∧ (kind = .acq → s.fenced e kind sc = s.acquire sc)
    ∧ (kind ≠ .acq → e ≠ .C → ∀ f ∈ (s.fenced e kind sc).core.checker, f.eng ≠ e.num)
    ∧ (∀ f g (u : State), s.core.flights.filter (fun f => f.eng == e) = [f] →
        (f.kind = .fence kind sc → u = (if kind = .acq then s else s.pushFlight f sc) → s.core.flights.find? (fun x => x.id == f.id) = some f →
          u.core.flights.find? (fun x => x.id == f.id) = some g →
          s.progress e = if (kind ≠ .acq → u.quiet g.eng g.id = true ∧ (sc ≠ .core → ∃ p, g.pushed = some p ∧ u.flushed p = true))
              ∧ (kind ≠ .rel → u.loadsBack g.eng g.id = true) then (u.fenced e kind sc).endFlight g else u)
        ∧ (∀ l, f.kind = .flush l → s.core.flights.find? (fun x => x.id == f.id) = some f → s.lineFlushed l f.id = true →
            s.progress e = s.endFlight f)
        ∧ (∀ op, f.kind = .waiting op → u = (match op.releases with | some c => s.pushFlight f c | none => s) →
            s.core.flights.find? (fun x => x.id == f.id) = some f → u.core.flights.find? (fun x => x.id == f.id) = some g →
            ∀ z, u.perform g.pc g.id (match op.releases with
                | some c => u.quiet g.eng g.id && (c == .core || (match g.pushed with | some p => u.flushed p | none => false))
                | none => true) op = .done z → s.progress e = z.endFlight g))
    ∧ (e = .S → Issues s .S h {} [.s r] → b.memStall .S = false →
      (b.access .S va 1 false = .go a t →
        (t.ordered .S b.nextId = true → waits b false (.waiting (.flush va)) (.flush h r off))
        ∧ (t.ordered .S b.nextId = false → t.sameWord b.nextId line 64 (lineOf a) = false → t.renamed va a = false →
        (t.core.l1.any (fun x => inLine (lineOf a) x.1) = false → exec (.flush h r off) s = .next (Done s .S h t))
        ∧ (t.core.l1.any (fun x => inLine (lineOf a) x.1) = true →
          let u := t.evictLine t.cur (lineOf a) true
          (u.lineFlushed (lineOf a) u.nextId = true → exec (.flush h r off) s = .next (Done s .S h u))
          ∧ (u.lineFlushed (lineOf a) u.nextId = false → waits u false (.flush (lineOf a)) (.flush h r off)))))
      ∧ (b.noRoom .S (sizeBytes lines) = false →
        let p : Policy := if Part.l1Bytes b.core.part = 0 then .wt else pol
        (b.ordered .S b.nextId = false → exec (.sPref h pol lines r off) s = .next (Done s .S h ((List.range (sizeBytes lines)).foldl
          (fun u i => u.prefLine .S (s.eng .S).pc b.nextId p (line + 64 * i)) b)))
        ∧ (b.ordered .S b.nextId = true → waits b true (.waiting (.pref p (sizeBytes lines) line)) (.sPref h pol lines r off))))
    ∧ (s.acquire .core = s ∧ (sc ≠ .core → (s.acquire sc).mem = s.mem
        ∧ ∀ x ∈ (s.acquire sc).core.l1, x.2.st ≠ .clean false ∧ x.2.st ≠ .clean true))

/-! ### The sluice's and the managers' words on S -/

/-- R350, R351: FSOPEN opens a scope under the issuer's and FSCLOSE closes one, or they are refused with the status that the rule gives.
R346, R347, R352: what FSWAIT and FSTEST answer at once, and FSWAIT's wait. -/
def Obligations.FinishScopeWords : Prop :=
  ∀ (s : State) (h : Hdr) (d r : Fin 32), Issues s .S h {} [.s d, .s r] →
    let b := Begun s h
    let n := (b.core.readS r).toNat % 256
    let c := b.ctxOf b.taskCtx
    let x := c.scope n
    let status (t : State) (code value : Nat) : State := t.setCore (t.core.writeS d (BitVec.ofNat 64 (code + 2 ^ 16 * value)))
    (n ≠ 0 → x.st = .free ∨ x.st = .complete → c.accepts b.ownScope (some b.ownScope) = true →
        exec (.fsopen h d r) s = .next (Done s .S h
          (status (b.setCtx b.taskCtx (c.openScope n b.ownScope)) 0 ((c.openScope n b.ownScope).scope n).gen.toNat)))
      ∧ (n = 0 ∨ x.st ≠ .free ∧ x.st ≠ .complete → exec (.fsopen h d r) s = .next (Done s .S h (status b (2 + 2 ^ 8 * 1) 0)))
      ∧ (n ≠ 0 → x.st = .free ∨ x.st = .complete → c.accepts b.ownScope (some b.ownScope) = false →
        exec (.fsopen h d r) s = .next (Done s .S h (status b (2 + 2 ^ 8 * 7) 0)))
      ∧ (n = 0 ∨ x.st ≠ .opened → exec (.fsclose h d r) s = .next (Done s .S h (status b (2 + 2 ^ 8 * 1) 0)))
      ∧ (n ≠ 0 → x.st = .opened → exec (.fsclose h d r) s = .next (Done s .S h (status (b.closeScope b.taskCtx n) 0 x.gen.toNat)))
      ∧ (x.st = .free → exec (.fswait h d r) s = .next (Done s .S h (status b 0 x.gen.toNat))
          ∧ exec (.fstest h d r) s = .next (Done s .S h (status b 0 x.gen.toNat)))
      ∧ (x.st = .complete → exec (.fswait h d r) s = .next (Done s .S h (status (b.acquire .pkg) 0 x.gen.toNat))
          ∧ exec (.fstest h d r) s = .next (Done s .S h (status (b.acquire .pkg) 0 x.gen.toNat)))
      ∧ (x.st = .opened ∨ x.st = .closing → exec (.fstest h d r) s = .next (Done s .S h (status b 1 x.gen.toNat))
          ∧ (n = 0 ∨ scopeWithin c n 256 b.ownScope = true → exec (.fswait h d r) s = .next (Done s .S h (status b (2 + 2 ^ 8 * 2) 0)))
          ∧ (n ≠ 0 → scopeWithin c n 256 b.ownScope = false → ∃ u, exec (.fswait h d r) s = .next (Pending s .S h u b.nextId)
              ∧ u.core.unit = some { id := b.nextId, cmd := .fswait h d r, d, arg := n, arg2 := x.gen.toNat, answer := none, fault := none }
              ∧ u.mem = b.mem ∧ u.core.s = b.core.s))

/-- R231, R324, R349: LAUNCH of an accepted launch record enqueues it, its TASK_SEQ in the destination; the queue's PROD and CONS count it,
and past the queue's first 64 unbound records it is written to its slot of the queue's ring too (log 99). It waits, its WAIT byte
performed, while its release at package scope is not complete, or a line of the record is BUSY or the host's own, and goes on from there
(log 80). -/
def Obligations.LaunchEnqueues : Prop :=
  ∀ (s b t u : State) (h : Hdr) (d r q : Fin 32) (a a' : Nat) (lease : Nat × RangeReg), Works s .S h {} [.s d, .s r, .s q] b →
    let va := (b.core.readS r).toNat
    let n := (b.core.readS q).toNat % 1024
    va % 128 = 0 → b.core.lease va 128 false = .ok lease →
    (b.mayRelease .S .pkg = false → exec (.launch h d r q) s = .next (Holding .S (b.pushRelease .pkg)))
    ∧ (b.mayRelease .S .pkg = true → b.memStall .S = false → b.access .S va 64 false = .go a t → t.memStall .S = false →
      t.access .S (va + 64) 64 false = .go a' u →
      ((u.readable (lineOf a) && u.readable (lineOf a')) = false →
        exec (.launch h d r q) s = .next (Holding .S ((u.snoopFor (lineOf a) false).snoopFor (lineOf a') false)))
      ∧ ((u.readable (lineOf a) && u.readable (lineOf a')) = true → u.poisoned (lineOf a) = false → u.poisoned (lineOf a') = false →
        let w := (u.readDecode (lineOf a)).readDecode (lineOf a')
        let rec_ := w.readNow a 64 ++ w.readNow a' 64
        let k := w.queueOf n
        k.en = true → k.devq = true → k.ctx = w.taskCtx → w.unbound n < k.records → Rec.kind rec_ = 0 →
        w.refusal? n rec_ (some w.ownScope) = none →
          let y := (w.setQueue n { k with prod := (k.prod + 1) % 2 ^ 32, cons := (k.cons + 1) % 2 ^ 32 }).enqueueTask n rec_ (some w.cur)
          let slot := k.ring + k.prod % k.records * 128
          let z := if 64 < y.1.unbound n then y.1.spill n k.prod rec_ else y.1
          exec (.launch h d r q) s = .next (Done s .S h (z.setCore (z.core.writeS d (BitVec.ofNat 64 (2 ^ 16 * y.2)))))
            ∧ ∀ v : State, (v.queueOf n).ring = k.ring → (v.queueOf n).rlog = k.rlog → v.slotAbsent slot = false →
                v.spill n k.prod rec_ = v.writeNow slot rec_ 0 3))

/-- R353: QCTL by a privileged task on a queue of its context: the priority set, the determinism level and the seed of the
context set as their packets set them, the control block's word read. -/
def Obligations.QueueControl : Prop :=
  ∀ (s : State) (h : Hdr) (d r v : Fin 32), Issues s .S h { qctl := true } [.s d, .s r, .s v] →
    let b := Begun s h
    let q := (b.core.readS r).toNat % 1024
    let k := b.queueOf q
    let x := b.core.readS v
    let done (t : State) (w : Word64) : Host.Outcome State Fault Refusal := .next (Done s .S h (t.setCore (t.core.writeS d w)))
    let counted : State :=
      if k.devq then b.setQueue q { k with prod := (k.prod + 1) % 2 ^ 32, cons := (k.cons + 1) % 2 ^ 32 } else b
    k.ctx = b.taskCtx →
      exec (.qctlSetprio h d r v) s = done (b.setQueue q { k with qprio := x.toNat % 8 }) 0
      ∧ exec (.qctlQread h d r v) s = done b (BitVec.ofNat 64 (k.rlog % 16 + 2 ^ 4 * (k.ctx % 64) + 2 ^ 10 * k.en.toNat
          + 2 ^ 11 * k.priv.toNat + 2 ^ 12 * k.dlok.toNat + 2 ^ 13 * k.devq.toNat + 2 ^ 14 * (k.qprio % 8)))
      ∧ (k.en = false → exec (.qctlDetset h d r v) s = done b (2 + 2 ^ 8 * 3) ∧ exec (.qctlSeed h d r v) s = done b (2 + 2 ^ 8 * 3))
      ∧ (k.en = true → b.unbound q < k.records →
        (x.toNat % 4 ≠ 3 → exec (.qctlDetset h d r v) s =
            done (counted.setCtx k.ctx { counted.ctxOf k.ctx with detlevel := x.toNat % 4 }) 0)
        ∧ exec (.qctlSeed h d r v) s = done (counted.setCtx k.ctx { counted.ctxOf k.ctx with seed := x }) 0)

/-- R365 to R368: words on a layer that the context's table describes, an eviction chosen in the same cycle being still to come. LWAIT
passes a RESIDENT one, requests and waits for another, going on where it stands in a later turn (log 80), and traps on a FAILED one; LPIN
and LUNPIN count pins, LPIN answering the state that its update leaves (log 98). Each waits for a table entry that cannot be read yet. -/
def Obligations.LayerWords : Prop :=
  ∀ (s b : State) (h : Hdr) (re : Bool) (d r : Fin 32),
    let l := (b.core.readS r).toNat % 1024
    let c := b.taskCtx
    let y := b.layerTouch c l
    let x := y.seenLayer y.taskCtx l
    let code : LayerState → Nat := LayerState.code
    let done (t : State) (w : Nat) : Host.Outcome State Fault Refusal :=
      .next (Done s .S h (t.setCore (t.core.writeS d (BitVec.ofNat 64 w))))
    (b.layerReady c l = false →
        (Works s .S h {} [.s r] b → exec (.lwait h r) s = .next (Holding .S y))
        ∧ (Works s .S h {} [.s r, .s d] b → exec (.lpin h re d r) s = .next (Holding .S y) ∧ exec (.lunpin h d r) s = .next (Holding .S y)))
    ∧ (b.layerReady c l = true → (y.layerEntry y.taskCtx l).isSome →
      (Works s .S h {} [.s r] b →
        (x.st = .resident → exec (.lwait h r) s = .next (Done s .S h (y.modCore (fun k =>
          { k.learnAll (Clock.all y.nextId) with lwait := none }))))
        ∧ (x.st ≠ .resident → x.st ≠ .failed → exec (.lwait h r) s = .next (Holding .S ((y.requestLayer y.taskCtx l).modCore (fun k =>
          { k with lwait := some l }))))
        ∧ (x.st = .failed → exec (.lwait h r) s = .next ((s.modCore (fun k => { k with lwait := none })).takeTrap .S (s.eng .S).pc
          { cause := 3, info := l + 2 ^ 10 * (x.fail % 16) + 2 ^ 16 * y.taskCtx })))
      ∧ (Works s .S h {} [.s r, .s d] b →
        (let z : Layer := { (if re = true ∧ x.st = .failed then { x with fail := 0, st := .absent } else x) with met := some y.fabric }
         x.pins ≠ 65535 →
          let t := (y.setLayer y.taskCtx l { z with pins := x.pins + 1 }).requestLayer y.taskCtx l
          ∃ u, (u = t ∨ z.st = .absent ∧ u = State.arrivalStart { t with nextId := y.nextId + 1 } (y.taskCtx % 4))
            ∧ exec (.lpin h re d r) s = done u (2 ^ 16 * code (u.layer y.taskCtx l).st))
        ∧ (x.pins ≠ 0 → exec (.lunpin h d r) s =
          done (y.setLayer y.taskCtx l { x with pins := x.pins - 1, met := some y.fabric }) (2 ^ 16 * code x.st))))

/-- R199, R210, R214 to R218: the governor's words on a TMR whose record can be read. GOVEVAL waits for the governor, which it asks; GOVRD
reads; GOVHOLD and GOVREL set and clear the software hold in one update at the record's home, and finish once it is performed there. -/
def Obligations.GovernorWords : Prop :=
  (∀ (s : State) (h : Hdr) (d r k : Fin 32) (t : Nat),
    let b := Begun s h
    let idx := (b.core.readS r).toNat % 2 ^ 20
    let c := b.taskCtx
    let put (u : State) (v : Nat) : Host.Outcome State Fault Refusal :=
      .next (Done s .S h (u.setCore (u.core.writeS d (BitVec.ofNat 64 v))))
    b.tmrReadable c idx = true → b.tmrLoad c idx = .ok t →
      (Issues s .S h {} [.s r, .s d] →
        exec (.govrd h .hdr d r) s = put (b.cacheTmr c idx) (t % 2 ^ 3 + 2 ^ 4 * (t / 2 ^ 4 % 2 ^ 18) + 2 ^ 32 * (t / 2 ^ 32 % 2 ^ 32))
        ∧ (let u := b.cacheTmr c idx
           exec (.govrd h .wslot d r) s = put (u.keepVersion idx (u.writeVersion idx t)) (Tmr.slot t (u.writeVersion idx t)))
        ∧ ∀ re, re = false ∨ (b.core.stats.filter (fun x => x.rebound.isSome)).length < 8 → ∃ u x,
            exec (.goveval h re d r) s = .next (Pending s .S h u u.nextId.pred)
            ∧ u.core.unit = some { id := u.nextId.pred, cmd := .goveval h re d r, d, arg := idx, arg2 := re.toNat, answer := none,
                                   fault := none }
            ∧ (c, idx, s.cur) ∈ (u.die x).asks)
      ∧ (Issues s .S h {} [.s r, .s d, .s k] →
        let v := (b.core.readS k).toNat % 2 ^ 16
        exec (.govrd h (.slot k) d r) s = put (b.cacheTmr c idx)
          (if Tmr.live t v = true ∧ imageSeq (Tmr.slot t v) = v then Tmr.slot t v else 2 ^ 64 - 1)))
  ∧ (∀ (s b : State) (h : Hdr) (r : Fin 32) (t : Nat) (hold : Bool),
      let idx := (b.core.readS r).toNat % 2 ^ 20
      let i : Instr := if hold then .govhold h r else .govrel h r
      let act : TmrUpdate := if hold then .hold b.cur else .release b.cur
      let p : TmrTask := { ctx := b.taskCtx, idx, act }
      b.tmrReadable b.taskCtx idx = true → b.tmrLoad b.taskCtx idx = .ok t →
        (Issues s .S h {} [.s r] → b = Begun s h →
          let u := b.updateTmr b.taskCtx idx act
          exec i s = .next (if u.coh.tmrs.contains p then Holding .S u else Done s .S h u))
        ∧ (Resumes s .S h {} [.s r] → b = s → exec i s = .next (if b.coh.tmrs.contains p then Holding .S b else Done s .S h b)))
  ∧ ∀ (b : State) (c idx t core : Nat), b.tmrLoad c idx = .ok t →
      let off := Tmr.setSwhold t false
      let ready := b.tmrReady c idx && !b.tmrQueued c idx
      (ready = true → b.updateTmr c idx (.hold core) = b.setTmr c idx (Tmr.setSwhold t true)
          ∧ b.updateTmr c idx (.release core) = b.setTmr c idx (if Tmr.held off = 3 then b.repropose c off else off))
        ∧ (ready = false → ∀ act, ({ ctx := c, idx, act } : TmrTask) ∈ (b.updateTmr c idx act).coh.tmrs)

/-- R245, R374, R375: PHASE with a legal partition word whose rings are the present ones holds its core's engines; PHASE_COMPLETE, with
nothing in flight on V, M and C, no handle's window or FULL tile beyond the new pool, and the L1 within its new size, installs the
word, drops what lies beyond it, and retires the PHASE; without an L1 a request still under way is a .wt access from then on. -/
def Obligations.PhaseInstalls : Prop :=
  (∀ (s : State) (h : Hdr) (r : Fin 32), Issues s .S h {} [.s r] →
    let w := Part.resolve (s.core.readS r)
    Part.valid w = true → w.toNat % 2 ^ 16 = s.core.part.toNat % 2 ^ 16 →
      exec (.phase h r) s = .next (Holding .S ((Begun s h).modCore (fun c => { c with phase := some (h, w) }))))
  ∧ (∀ (s : State) (n : Nat) (h : Hdr) (w : Word64),
    let b : State := { s with cur := n }
    let c := b.core
    c.phase = some (h, w) → (∀ f ∈ c.flights, f.eng = .S) → c.journal = [] →
    (∀ k : Fin 64, (c.handle k).st = .free ∨ (c.handle k).base + (c.handle k).expected ≤ Part.dataBytes w) →
    (∀ t ∈ c.fullTiles, t < Part.tiles w) → 64 * c.l1Lines.length ≤ Part.l1Bytes w →
    (∀ r ∈ b.coh.reqs, r.core = n → r.kind ≠ .writeback) →
      ∃ u : State, u.core.part = w ∧ u.core.phase = none ∧ u.core.s = c.s ∧ u.mem = s.mem
        ∧ u.core.data = c.data.filter (fun e => decide (e.1 < Part.dataBytes w))
        ∧ u.core.tiles = c.tiles.filter (fun e => decide (e.1 / 1024 < Part.tiles w))
        ∧ (Part.l1Bytes w = 0 → ∀ r ∈ u.coh.reqs, r.core = n → r.stage = .sent → r.kind ≠ .writeback → r.pol = .wt)
        ∧ exec (.phaseComplete n) s = .next { u.retire .S h c.engS.pc with cur := s.cur })

/-! ### Traps -/

/-- R405, R406: a condition met outside trap mode enters it: the trap registers hold it, S starts the handler at offset 0 with
empty stacks, and no general register, predicate, mask or tile changes. -/
def Obligations.TrapEntry : Prop :=
  ∀ (s : State) (e : Engine) (pc : Nat) (x : TrapInfo), s.core.trap.mode = false →
    let t := s.takeTrap e pc x
    t.core.trap.mode = true ∧ t.core.trap.engine = e ∧ t.core.trap.cause = x.cause ∧ t.core.trap.eng = e.num ∧ t.core.trap.pc = pc
      ∧ t.core.trap.addr = BitVec.ofNat 64 x.addr ∧ t.core.trap.info = BitVec.ofNat 64 x.info
      ∧ t.core.engS.pc = 0 ∧ t.core.engS.link = [] ∧ t.core.engS.loops = [] ∧ t.core.engS.ended = false
      ∧ t.core.s = s.core.s ∧ t.core.p = s.core.p ∧ t.core.m = s.core.m ∧ t.core.tiles = s.core.tiles ∧ t.core.data = s.core.data
      ∧ t.core.acc = s.core.acc ∧ t.core.engS.k = s.core.engS.k ∧ t.core.engS.flags = s.core.engS.flags
      ∧ t.core.engV = s.core.engV ∧ t.core.engM = s.core.engM ∧ t.core.engC = s.core.engC
      ∧ (t.core.trap.hostHeld = true ↔ s.core.obj.trapLen = 0)
      ∧ (s.core.obj.trapLen ≠ 0 → t.mem = s.mem ∧ ∀ n, n ≠ s.cur → t.coreAt n = s.coreAt n)

/-- R405, R412: in trap mode a condition on another engine than S is held, the first one kept, and nothing else changes; one
on S is a double trap: the trap registers hold it with TRAP_ENG 0, and every core of the gang stops: not started, its engines ended, its
journal empty, out of trap mode, its registers as they are. -/
def Obligations.TrapsInTrapMode : Prop :=
  ∀ (s : State) (e : Engine) (pc : Nat) (x : TrapInfo), s.core.trap.mode = true →
    (e ≠ .S → s.takeTrap e pc x = s.modEng e (fun y => { y with held := some (y.held.getD (pc, x)) }))
      ∧ (let t := s.takeTrap .S pc x
         t.core.trap.cause = x.cause ∧ t.core.trap.eng = 0 ∧ t.core.trap.pc = pc
          ∧ t.core.trap.addr = BitVec.ofNat 64 x.addr ∧ t.core.trap.info = BitVec.ofNat 64 x.info
          ∧ ∀ n, n = s.cur ∨ (∃ id k, s.core.task = some id ∧ SMap.find? s.tasks id = some k ∧ n ∈ k.cores) →
            let c := t.coreAt n
            c.started = false ∧ (∀ e, (c.eng e).ended = true) ∧ c.journal = [] ∧ c.trap.mode = false ∧ c.s = (s.coreAt n).s)

/-- R139, R409 to R411: ERET in trap mode, the handler's accesses finished and its signal performable, leaves trap mode and goes to
where S resumes, its signal performed; with no fault held and none in the journal, S's task state is as it was, a word of it that had
issued and waits among it, and the trapped engine issues from TRAP_PC, or from the word after it where the cause resumes there and TRAP_PC
was not written (logs 59, 60, 80). Outside trap mode it is an illegal instruction with subcode 0x01. -/
def Obligations.TrapReturn : Prop :=
  ∀ (s : State) (h : Hdr), (s.core.trap.mode = false → (s.eng .S).taken = false → exec (.eret h) s = .next (s.takeTrap .S (s.eng .S).pc { cause := 1, info := 1 }))
   ∧ (s.core.trap.mode = true → Issues s .S h {} [] →
    let b := Begun s h
    b.core.flights.any (fun f => f.eng == .S && f.inTrap) = false →
    (∀ c x, b.core.perform h.sig ≠ some (c, some x)) →
      exec (.eret h) s = .next (b.leaveTrapMode.signal .S 0 true (s.eng .S).pc h.sig)
      ∧ (∀ v, b.core.trap.saved = some v → b.core.trap.cEntry = none → (∀ e, (b.core.eng e).held = none) → b.core.journal = [] →
          let t := b.core.trap
          let u := b.leaveTrapMode
          let at_ := if t.pcWritten then t.pc % 2 ^ 13
            else if t.cause % 256 = 1 ∧ t.sub07 = true ∨ t.cause % 256 ∈ [4, 5, 6, 0x0A, 0x0C] ∨ t.cause % 256 = 9 ∧ t.boundary = false then
              t.pc % 2 ^ 13 + 1
            else t.pc % 2 ^ 13
          u.core.trap.mode = false ∧ u.core.engS.link = v.link ∧ u.core.engS.loops = v.loops ∧ u.core.s = b.core.s
            ∧ (u.core.eng t.engine).pc = at_ ∧ (t.pcWritten = true ∨ at_ = t.pc % 2 ^ 13 → (u.core.eng t.engine).ended = false)
            ∧ (t.engine ≠ .S → u.core.engS.pc = v.pc ∧ u.core.engS.taken = v.taken) ∧ u.mem = b.mem))

/-! ### Privilege -/

/-- R67, R68: SRD or SWR of a register that is not assigned, or by an unprivileged task of one from 0x100 up, is an illegal
instruction with subcode 0x08 and the register's number; QCTL by an unprivileged task has subcode 0x11. -/
def Obligations.PrivilegeTraps : Prop :=
  ∀ (s : State) (e : Engine) (h : Hdr) (r d q v : Fin 32) (num : BitVec 12), s.illegal? e h {} = none →
    (s.eng e).taken = false →
    let n := num.toNat
    let sub08 (n : Nat) : TrapInfo := { cause := 1, info := 0x08 + 2 ^ 8 * (n % 2 ^ 8) + 2 ^ 16 * (n / 2 ^ 8) }
    let traps (i : Instr) (e : Engine) (x : TrapInfo) : Prop := exec i s = .next (s.takeTrap e (s.eng e).pc x)
    (((0x00E ≤ n ∧ n ≤ 0x00F) ∨ (0x016 ≤ n ∧ n ≤ 0x017) ∨ (0x01C ≤ n ∧ n ≤ 0x01F) ∨ (0x024 ≤ n ∧ n ≤ 0x02F) ∨ (0x035 ≤ n ∧ n ≤ 0x0FF)
        ∨ 0x104 ≤ n ∨ (0x100 ≤ n ∧ s.privileged = false)) →
      traps (.srd e h r num) e (sub08 n) ∧ traps (.swr e h r num) e (sub08 n))
    ∧ (s.privileged = false →
      traps (.chHashWrite e h r) e (sub08 0x100) ∧ traps (.pcHashWrite e h r) e (sub08 0x101)
        ∧ traps (.preemptWaitWrite e h r) e (sub08 0x102)
        ∧ (e = .S → traps (.qctlSetprio h d q v) .S { cause := 1, info := 0x11 } ∧ traps (.qctlDetset h d q v) .S { cause := 1, info := 0x11 }
          ∧ traps (.qctlSeed h d q v) .S { cause := 1, info := 0x11 } ∧ traps (.qctlQread h d q v) .S { cause := 1, info := 0x11 }))

/-! ### Frames -/

/-- R113, R127 to R130: a word with a result in an s register changes no other register, no predicate, mask, tile or accumulator, and
no flag; where it meets no trap, memory and the other cores are as before. -/
def Obligations.IntegerFrame : Prop :=
  ∀ (s t : State) (h : Hdr) (uns : Bool) (d a b : Fin 32) (p : Fin 8) (imm : BitVec 27) (n : Fin 64) (long : BitVec 32) (i : Instr),
    i ∈ [Instr.add h d a b, .sub h d a b, .mul h d a b, .mulh h uns d a b, .and h d a b, .or h d a b, .xor h d a b, .andn h d a b,
        .shl h d a b, .shr h d a b, .sar h d a b, .rotr h d a b, .min h uns d a b, .max h uns d a b, .clz h d a, .ctz h d a,
        .popc h d a, .sel h d a b p, .bfx h uns d a b, .bfi h d a b, .addi h d a imm, .andi h d a imm, .ori h d a imm,
        .xori h d a imm, .muli h d a imm, .shli h d a n, .shri h d a n, .sari h d a n, .li h d long, .lih h d long,
        .pmov h true p d, .time h d] →
    exec i s = .next t →
      (∀ r, r ≠ d → t.core.readS r = s.core.readS r) ∧ { regsOf t.core with s := s.core.s } = regsOf s.core
        ∧ (∀ e, (t.core.eng e).flags = (s.core.eng e).flags) ∧ QuietOutside s t

/-- R113, R127, R135, R136: DIV, REM and the FP32 words change their destination and set flags of S; no flag is cleared. -/
def Obligations.FlagSettingFrame : Prop :=
  ∀ (s t : State) (h : Hdr) (uns sat : Bool) (rm : Rounding) (c : Conv) (d a b : Fin 32) (i : Instr),
    i ∈ [Instr.div h uns d a b, .rem h uns d a b, .fadd h rm sat d a b, .fsub h rm sat d a b, .fmul h rm sat d a b,
        .ffma h rm sat d a b, .fdiv h rm sat d a b, .fsqrt h rm sat d a, .fmin h d a b, .fmax h d a b, .fcvt h rm sat c d a] →
    exec i s = .next t →
      (∀ r, r ≠ d → t.core.readS r = s.core.readS r) ∧ { regsOf t.core with s := s.core.s } = regsOf s.core
        ∧ s.core.engS.flags &&& ~~~ t.core.engS.flags = 0 ∧ (∀ e, e ≠ .S → (t.core.eng e).flags = (s.core.eng e).flags)
        ∧ QuietOutside s t

/-- R131 to R133, R137: a word with a result in a predicate changes that predicate alone, p0 never; FCMP sets flags. -/
def Obligations.PredicateFrame : Prop :=
  ∀ (s t : State) (h : Hdr) (c : IntCond) (f : FpCond) (p q r : Fin 8) (a b : Fin 32) (imm : BitVec 23) (tt : BitVec 4) (i : Instr),
    i ∈ [Instr.cmp h c p a b, .cmpi h c p a imm, .pset h p q r tt, .pmov h false p a, .fcmp h f p a b] → exec i s = .next t →
      (∀ x, x ≠ p ∨ x = 0 → t.core.readP x = s.core.readP x) ∧ { regsOf t.core with p := s.core.p } = regsOf s.core
        ∧ (i ≠ .fcmp h f p a b → ∀ e, (t.core.eng e).flags = (s.core.eng e).flags)
        ∧ s.core.engS.flags &&& ~~~ t.core.engS.flags = 0 ∧ QuietOutside s t

/-- R244 (spec/11), R263, R264: what LD and ST that reach their address leave: LD changes no register but its destination, and ST none; no
form changes memory, which a store reaches at its home later, but for the lines of the core's owned words, which the L1 may return to make
room, each at the address that its name leads to (log 81). -/
def Obligations.GlobalAccessFrame : Prop :=
  ∀ (s t u : State) (h : Hdr) (pol : Policy) (sc : Scope) (size : Size) (x : Bool) (d r : Fin 32) (off : BitVec 18) (a : Nat) (write : Bool)
    (i : Instr), Issues s .S h {} [.s d, .s r] →
    Reaches (Begun s h) .S (s.core.readS r + off.signExtend 64).toNat (sizeBytes size) write a t →
    (i = .ld h pol sc size x d r off ∧ write = false) ∨ (i = .st h pol sc size d r off ∧ write = true) →
    exec i s = .next u →
      (∀ k, k ≠ d ∨ write = true → u.core.readS k = t.core.readS k) ∧ { regsOf u.core with s := t.core.s } = regsOf t.core
        ∧ (u.core.trap = t.core.trap → ∀ x, (∀ w ∈ t.core.ownedWords (fun _ => true), x / 64 ≠ paOf (4 * w.1) / 64) →
            u.mem.read x = t.mem.read x)

/-- R258 (spec/12), R388, R416 (spec/20): what the translation of an access leaves: every core as it was, and every byte of memory but
the leaf's first, which holds its A bit, and the one byte of its line that the line's read may correct on the way (log 73). -/
def Obligations.AccessFrame : Prop :=
  ∀ (s t : State) (e : Engine) (va n : Nat) (write : Bool) (a : Nat), s.access e va n write = .go a t →
    t.cur = s.cur ∧ t.cores = s.cores ∧ (MemoryOk s → MemoryOk t)
      ∧ ∀ x, (match s.walk (s.spaceOf va) (vaImage va) with
          | .page l _ _ => x ≠ l ∧ (∀ i v, s.lineState (lineOf l) = .corrected i v → x ≠ lineOf l + i)
          | _ => True) → t.mem.read x = s.mem.read x

/-- R261, R266: STS stores its low bytes at the data-area offset its word computes and changes no other byte of the data area and no
register. LDS and ATOMS change no s register but their destination; LDS changes nothing else, ATOMS only the bytes of its operand in
the data area, which is said by what each byte reads as. Nothing outside the core changes where no trap is met. -/
def Obligations.DataAccessFrame : Prop :=
  ∀ (s t : State) (h : Hdr) (size : Size) (x : Bool) (d r v : Fin 32) (off : BitVec 18) (off9 : BitVec 9) (op : Aop) (ord : AtomOrder),
    (exec (.sts h size d r off) s = .next t →
      let o := (s.core.readS r + off.signExtend 64).toNat
      (∀ k, k < o ∨ o + sizeBytes size ≤ k → SMap.get 0 t.core.data k = SMap.get 0 s.core.data k)
        ∧ { regsOf t.core with data := s.core.data } = regsOf s.core ∧ QuietOutside s t)
    ∧ (exec (.lds h size x d r off) s = .next t →
      (∀ k, k ≠ d → t.core.readS k = s.core.readS k) ∧ (∀ k, SMap.get 0 t.core.data k = SMap.get 0 s.core.data k)
        ∧ { regsOf t.core with s := s.core.s, data := s.core.data } = regsOf s.core ∧ QuietOutside s t)
    ∧ (exec (.atoms h op ord d r v off9) s = .next t →
      let o := (s.core.readS r + off9.signExtend 64).toNat
      (∀ k, k ≠ d → t.core.readS k = s.core.readS k)
        ∧ (∀ k, k < o ∨ o + Atomic.bytes op ≤ k → SMap.get 0 t.core.data k = SMap.get 0 s.core.data k)
        ∧ { regsOf t.core with s := s.core.s, data := s.core.data } = regsOf s.core ∧ QuietOutside s t)

/-! ### Vector words on tiles -/

/-- R145, R153, R154: the elementwise float words, in a shape of f32, bf16 or f16: each selected element is the exact result of the
sources' elements rounded once, with its flags. Where the true result of an exponential, a logarithm or a circular word lies nearer to a
half-way point than the model's bounds tell, its rounding is Config.freeRounding's, a free value (log 8). -/
def Obligations.VectorFloatResults : Prop :=
  ∀ (s : State) (h : Hdr) (m : Fin 8) (z sat : Bool) (rm : Rounding) (d a b e : Fin 256),
    let ty := s.core.vshape.ty
    let w := elemBits ty
    let x (c : Core) (t : Fin 256) (i : Nat) : Val := decodeVal ty (c.elem t w i)
    let put (c : Core) (f : Nat → Nat × Flags) : Core := Elementwise c d m z f
    let near (r : Val × Flags) : Nat × Flags := ((quant1 ty .rne sat r.1).1, (quant1 ty .rne sat r.1).2 ||| r.2)
    let N (ts : List (Fin 256)) : Names := { regs := ts.map (fun t => (false, t.val)) }
    let G1 (i : Instr) (f : Core → Nat → Nat × Flags) : Prop := VGives i s h (N [a, d]) [a] [d] (fun c => put c (f c))
    let G2 (i : Instr) (f : Core → Nat → Nat × Flags) : Prop := VGives i s h (N [b, a, d]) [a, b] [d] (fun c => put c (f c))
    let G3 (i : Instr) (f : Core → Nat → Nat × Flags) : Prop := VGives i s h (N [e, b, a, d]) [a, b, e] [d] (fun c => put c (f c))
    (ty = .f32 ∨ ty = .bf16 ∨ ty = .f16) →
      G2 (.vadd h m z rm sat d a b) (fun c i => quant1 ty rm sat (Val.add rm (x c a i) (x c b i)))
      ∧ G2 (.vsub h m z rm sat d a b) (fun c i => quant1 ty rm sat (Val.sub rm (x c a i) (x c b i)))
      ∧ G2 (.vmul h m z rm sat d a b) (fun c i => quant1 ty rm sat (Val.mul (x c a i) (x c b i)))
      ∧ G3 (.vfma h m z rm sat d a b e) (fun c i => quant1 ty rm sat (Val.fma rm (x c a i) (x c b i) (x c e i)))
      ∧ G3 (.vfms h m z rm sat d a b e) (fun c i => quant1 ty rm sat (Val.fma rm (x c a i) (x c b i) (x c e i).neg))
      ∧ G3 (.vfnma h m z rm sat d a b e) (fun c i => quant1 ty rm sat (Val.fma rm (x c a i).neg (x c b i) (x c e i)))
      ∧ G2 (.vmin h m z d a b) (fun c i => minMax ty false (c.elem a w i) (c.elem b w i))
      ∧ G2 (.vmax h m z d a b) (fun c i => minMax ty true (c.elem a w i) (c.elem b w i))
      ∧ G1 (.vabs h m z d a) (fun c i => (c.elem a w i % 2 ^ (w - 1), 0))
      ∧ G1 (.vneg h m z d a) (fun c i => (c.elem a w i ^^^ 2 ^ (w - 1), 0))
      ∧ G2 (.vdiv h m z sat d a b) (fun c i => near (Val.div (x c a i) (x c b i)))
      ∧ G1 (.vsqrt h m z sat d a) (fun c i => quant1 ty .rne sat (x c a i).sqrt)
      ∧ G1 (.vrcp h m z sat d a) (fun c i => near (Val.div (Val.ofInt 1) (x c a i)))
      ∧ G1 (.vrsq h m z sat d a) (fun c i => near (x c a i).rsqrt)
      ∧ G1 (.vexp2 h m z sat d a) (fun c i => Trans.apply ty sat .exp2 (x c a i))
      ∧ G1 (.vexp h m z sat d a) (fun c i => Trans.apply ty sat .exp (x c a i))
      ∧ G1 (.vlog2 h m z sat d a) (fun c i => Trans.apply ty sat .log2 (x c a i))
      ∧ G1 (.vsinpi h m z sat d a) (fun c i => Trans.apply ty sat .sinpi (x c a i))
      ∧ G1 (.vcospi h m z sat d a) (fun c i => Trans.apply ty sat .cospi (x c a i))
      ∧ G1 (.vtanh h m z sat d a) (fun c i => Trans.apply ty sat .tanh (x c a i))

/-- R157: the integer words in a shape of an integer type of 8 to 64 bits: exact sums, differences and products wrapped, or limited with
SA; bitwise words, shifts by the count modulo the width, and the lesser and greater by the type's sign. -/
def Obligations.VectorIntegerResults : Prop :=
  ∀ (s : State) (h : Hdr) (m : Fin 8) (z sat : Bool) (d a b : Fin 256),
    let ty := s.core.vshape.ty
    let w := elemBits ty
    let sg : Bool := match ty with | .i8 | .i16 | .i32 | .i64 => true | _ => false
    let v (x : Nat) : Int := if sg then signedOf w x else ((x % 2 ^ w : Nat) : Int)
    let lo : Int := if sg then -2 ^ (w - 1) else 0
    let hi : Int := if sg then 2 ^ (w - 1) - 1 else 2 ^ w - 1
    let fit (x : Int) : Nat × Flags :=
      if sat = true ∧ x < lo then (codeOfInt w lo, .sa) else if sat = true ∧ hi < x then (codeOfInt w hi, .sa) else (codeOfInt w x, 0)
    let G (i : Instr) (f : Nat → Nat → Nat × Flags) : Prop :=
      VGives i s h { regs := [(false, b.val), (false, a.val), (false, d.val)] } [a, b] [d] (fun c =>
        Elementwise c d m z (fun i => f (c.elem a w i) (c.elem b w i)))
    intType ty = true →
      G (.viadd h m z sat d a b) (fun x y => fit (v x + v y)) ∧ G (.visub h m z sat d a b) (fun x y => fit (v x - v y))
      ∧ G (.vimul h m z sat d a b) (fun x y => fit (v x * v y))
      ∧ G (.vand h m z d a b) (fun x y => (x &&& y, 0)) ∧ G (.vor h m z d a b) (fun x y => (x ||| y, 0))
      ∧ G (.vxor h m z d a b) (fun x y => (x ^^^ y, 0))
      ∧ G (.vshl h m z d a b) (fun x y => (x * 2 ^ (y % w) % 2 ^ w, 0)) ∧ G (.vshr h m z d a b) (fun x y => (x / 2 ^ (y % w), 0))
      ∧ G (.vsar h m z d a b) (fun x y => (codeOfInt w (signedOf w x / 2 ^ (y % w)), 0))
      ∧ G (.vimin h m z d a b) (fun x y => (if v y < v x then y else x, 0))
      ∧ G (.vimax h m z d a b) (fun x y => (if v x < v y then y else x, 0))

/-- R117, R142, R151, R155, R156: the shape, moves and masks. VSHAPE with a shape of at most 8,192 bits sets it; VCMP writes the mask bits
of the selected elements, the others kept or cleared, and no bit above the count (the model's reading, log 62); MOP is a truth table; MCNT
counts the ones below the element count or finds the first. -/
def Obligations.VectorShapeAndMasks : Prop :=
  ∀ (s : State) (h : Hdr) (m : Fin 8) (z first : Bool) (rows : Fin 32) (cols : Fin 256) (nt : ElemType) (imm : BitVec 20) (k : Fin 16)
    (cond : VecCond) (d a b : Fin 256) (p q r : Fin 8) (f : BitVec 4),
    let ty := s.core.vshape.ty
    let w := elemBits ty
    let count := s.core.vshape.rows * s.core.vshape.cols
    let t1 (x : Fin 256) : Bool × Nat := (false, x.val)
    ((rows.val + 1) * (cols.val + 1) * elemBits nt ≤ 8192 →
      VGives (.vshape h rows cols nt (.imm imm)) s h {} [] [] (fun c =>
          { c with vshape := { rows := rows.val + 1, cols := cols.val + 1, ty := nt, stride := imm.toNat * 16 } })
      ∧ VGives (.vshape h rows cols nt (.reg k)) s h {} [] [] (fun c =>
          { c with vshape := { rows := rows.val + 1, cols := cols.val + 1, ty := nt,
                               stride := (c.readK .V k).toNat / 16 % 2 ^ 20 * 16 } }))
    ∧ VGives (.vmov h m z d a) s h { regs := [t1 a, t1 d] } [a] [d] (fun c => Elementwise c d m z (fun i => (c.elem a w i, 0)))
    ∧ VGives (.vbcast h m z d k) s h { regs := [t1 d] } [] [d] (fun c =>
        Elementwise c d m z (fun _ => ((c.readK .V k).toNat % 2 ^ w, 0)))
    ∧ VGives (.vsel h m d a b) s h { regs := [t1 b, t1 a, t1 d] } [a, b] [d] (fun c =>
        Elementwise c d 0 false (fun i => (if (c.readM m).getLsbD i then c.elem a w i else c.elem b w i, 0)))
    ∧ (wideFloat ty = true ∨ intType ty = true ∧ cond ≠ .un ∧ cond ≠ .ord →
        VGives (.vcmp h m z cond p a b) s h { regs := [t1 b, t1 a] } [a, b] [] (fun c =>
          let r (i : Nat) : Bool × Flags := vcompare ty cond (c.elem a w i) (c.elem b w i)
          let sel (i : Nat) : Bool := (c.readM m).getLsbD i
          let new : BitVec 2048 := (List.range count).foldl (fun x i =>
            let one : BitVec 2048 := 1#2048 <<< i
            if (if sel i then (r i).1 else !z && (c.readM p).getLsbD i) then x ||| one else x &&& ~~~ one) (c.readM p)
          (c.writeM p new).addFlags .V
            (((List.range count).filter sel).foldl (fun (x : Flags) i => x ||| (r i).2) (0 : Flags))))
    ∧ VGives (.mop h p q r f) s h {} [] [] (fun c => c.writeM p
        ((if f.getLsbD 0 then ~~~ c.readM q &&& ~~~ c.readM r else 0) ||| (if f.getLsbD 1 then c.readM q &&& ~~~ c.readM r else 0)
          ||| (if f.getLsbD 2 then ~~~ c.readM q &&& c.readM r else 0) ||| (if f.getLsbD 3 then c.readM q &&& c.readM r else 0)))
    ∧ VGives (.mcnt h first k p) s h {} [] [] (fun c =>
        let ones := (List.range count).filter (fun i => (c.readM p).getLsbD i)
        c.writeK .V k (BitVec.ofNat 64 (if first then ones.headD count else ones.length)))

/-- R158 to R165: conversion, scaling, maxima, reductions and scans along an axis, transposition, permutation, index generation and
random values. -/
def Obligations.VectorWholeTileResults : Prop :=
  ∀ (s : State) (h : Hdr) (m : Fin 8) (z sat divs col unif : Bool) (rm : Rounding) (nt : ElemType) (op : RedOp) (d a b : Fin 256)
    (k l : Fin 16),
    let sh := s.core.vshape
    let ty := sh.ty
    let w := elemBits ty
    let count := sh.rows * sh.cols
    let t1 (x : Fin 256) : Bool × Nat := (false, x.val)
    let G (i : Instr) (f : Core → Core) : Prop := VGives i s h { regs := [t1 a, t1 d] } [a] [d] f
    (count * elemBits nt ≤ 8192 → G (.vcvt h m z rm sat nt d a) (fun c =>
        c.mapElems d (elemBits nt) m z count (fun i => convert ty nt rm sat (c.elem a w i))))
    ∧ (wideFloat ty = true →
        VGives (.vamax h m k a) s h { regs := [t1 a] } [a] [] (fun c =>
          let r := amaxCode (((List.range count).filter (fun i => (c.readM m).getLsbD i)).map (fun i => decodeVal ty (c.elem a w i)))
          (c.writeK .V k (BitVec.ofNat 64 r.1)).addFlags .V r.2)
        ∧ G (.vscale h m z rm sat divs d a k) (fun c =>
          let σ := decodeVal .e8f2 ((c.readK .V k).toNat % 2 ^ 16)
          Elementwise c d m z (fun i =>
            let x := decodeVal ty (c.elem a w i)
            if divs then quant ty σ rm sat x else quant1 ty rm sat (if σ.isNan then .nan true else Val.mul x σ))))
    ∧ (wideFloat ty = true ∨ intType ty = true →
        G (.vred h m z op col d a) (fun c => c.vred m z op col d a) ∧ G (.vscan h m z op col d a) (fun c => c.vscan m z op col d a))
    ∧ (8 ≤ w →
        (sh.cols ≤ 32 → G (.vxpose h m z d a) (fun c =>
          Elementwise c d m z (fun i => (c.elem a w (i % sh.rows * sh.cols + i / sh.rows), 0))))
        ∧ VGives (.vperm h m z d a b) s h { regs := [t1 b, t1 a, t1 d] } [a, b] [d] (fun c =>
          Elementwise c d m z (fun i => (if c.elem b w i < count then c.elem a w (c.elem b w i) else 0, 0))))
    ∧ (ty ≠ .e8m0 → ty ≠ .e8f2 → Rows.modeOk ty rm = true →
        VGives (.viota h m z rm sat d k) s h { regs := [t1 d] } [] [d] (fun c =>
          Elementwise c d m z (fun i => quant1 ty rm sat (Val.ofInt ((c.readK .V k).toInt + i)))))
    ∧ (unif = false ∨ wideFloat ty = true →
        VGives (.vrand h m z unif d k l) s h { regs := [t1 d] } [] [d] (fun c =>
          Elementwise c d m z (fun i =>
            (randElem ty unif (rand64 s.seed ((c.readK .V k).truncate 32) (c.readK .V l + BitVec.ofNat 64 i)), 0))))

/-- R144 to R146: what an elementwise write leaves: a selected element holds the low bits of its result, another is kept or zeroed, and
no other tile changes. Every shape of 4-bit to 64-bit elements. -/
def Obligations.ElementwiseElements : Prop :=
  ∀ (c : Core) (d : Fin 256) (m : Fin 8) (z : Bool) (f : Nat → Nat × Flags),
    SMap.wf (0 : Byte) c.tiles = true → c.vshape.count * c.vshape.w ≤ 8192 →
      let u := Elementwise c d m z f
      (∀ i, i < c.vshape.count → u.elem d c.vshape.w i =
        if (c.readM m).getLsbD i then (f i).1 % 2 ^ c.vshape.w else if z then 0 else c.elem d c.vshape.w i)
      ∧ (∀ t, t ≠ d → ∀ i, i < c.vshape.count → u.elem t c.vshape.w i = c.elem t c.vshape.w i)
      ∧ SMap.wf (0 : Byte) u.tiles = true

/-- R145, R148: an elementwise word changes no byte of the tiles outside its destination's elements, no s register, predicate, mask or
accumulator, and clears no flag; nothing outside the core changes where it meets no trap. -/
def Obligations.VectorFrame : Prop :=
  ∀ (s t : State) (h : Hdr) (m : Fin 8) (z sat : Bool) (rm : Rounding) (d a b e : Fin 256) (k : Fin 16) (i : Instr),
    i ∈ [Instr.vmov h m z d a, .vbcast h m z d k, .vsel h m d a b, .vadd h m z rm sat d a b, .vsub h m z rm sat d a b,
        .vmul h m z rm sat d a b, .vfma h m z rm sat d a b e, .vfms h m z rm sat d a b e, .vfnma h m z rm sat d a b e,
        .vmin h m z d a b, .vmax h m z d a b, .vabs h m z d a, .vneg h m z d a, .vdiv h m z sat d a b, .vsqrt h m z sat d a,
        .vrcp h m z sat d a, .vrsq h m z sat d a, .vexp2 h m z sat d a, .vexp h m z sat d a, .vlog2 h m z sat d a,
        .vsinpi h m z sat d a, .vcospi h m z sat d a, .vtanh h m z sat d a, .viadd h m z sat d a b, .visub h m z sat d a b,
        .vimul h m z sat d a b, .vand h m z d a b, .vor h m z d a b, .vxor h m z d a b, .vshl h m z d a b, .vshr h m z d a b,
        .vsar h m z d a b, .vimin h m z d a b, .vimax h m z d a b, .vxpose h m z d a, .vperm h m z d a b] →
    exec i s = .next t →
      (∀ x, x < 1024 * d.val ∨ 1024 * d.val + (s.core.vshape.count * s.core.vshape.w + 7) / 8 ≤ x →
        SMap.get 0 t.core.tiles x = SMap.get 0 s.core.tiles x)
      ∧ { regsOf t.core with tiles := s.core.tiles } = regsOf s.core ∧ s.core.engV.flags &&& ~~~ t.core.engV.flags = 0
      ∧ QuietOutside s t

/-! ### Vector words on memory -/

/-- R149, R150, R166 to R169, R238: rows of the data area within bounds and clear of unordered commands in flight and of soft errors
(log 77), beside which they are noted: VLD and VST move them, VLDQ and VSTQ decode and encode them under their TMR's version and scale, VSTQ where its overflow count is within the policy's limit. -/
def Obligations.VectorRows : Prop :=
  ∀ (s : State) (h : Hdr) (t : Fin 256) (k : Fin 16) (hd : Fin 64) (off : BitVec 22),
    let b := Begun s h
    let c := b.core
    let sh := c.vshape
    let runs (n : Nat) : List (Nat × Nat) := (List.range sh.rows).map (fun r => (c.rowStart .V k hd off + r * sh.stride, n))
    let hs : List Nat := if hd = 63 then [] else [hd.val]
    let reads (n : Nat) (write : Bool) : List (Nat × Nat) := if write then [] else runs n
    let writes (n : Nat) (write : Bool) : List (Nat × Nat) := if write then runs n else []
    let free (n : Nat) (write : Bool) : Prop :=
      c.runsFault hd (runs n) = none ∧ b.clear .V (reads n write) (writes n write) = true ∧ b.ordered .V b.nextId = false
    let noted (n : Nat) (write : Bool) (c : Core) : Core := Beside b .V (reads n write) (writes n write) c
    let n := sh.cols * elemBits sh.ty / 8
    (elemBits sh.ty ≠ 4 ∨ sh.cols % 2 = 0 →
      (free n false → VGives (.vld h t k hd off) s h { regs := [(false, t.val)], handles := hs } [] [t] (fun c => noted n false
          { c with tiles := SMap.setRange 0 c.tiles (t.val * 1024) ((runs n).flatMap (fun r => c.readData r.1 r.2)) }))
      ∧ (free n true → VGives (.vst h t k hd off) s h { regs := [(false, t.val)], handles := hs } [t] [] (fun c => noted n true
          ((runs n).zipIdx.foldl (fun c r =>
            c.writeData r.1.1 (SMap.getRange 0 c.tiles (t.val * 1024 + r.2 * n) n)) c))))
    ∧ (wideFloat sh.ty = true →
      (∀ idx v tmr, (c.handle hd).rcd = some (idx, v) → b.tmrReadable b.taskCtx idx = true → b.tmrLoad b.taskCtx idx = .ok tmr →
        Tmr.holds tmr v = true →
        let sc := imageScale (Tmr.slot tmr v)
        (sc.fmt ≠ 2 ∨ sh.cols % 32 = 0) → free (sc.rowBytes sh.cols) false →
        Issues s .V h { regs := [(false, t.val)], handles := [hd.val] } [.t t] → c.sharedReady [] [t.val] = true →
          exec (.vldq h t k hd off) s = .next (Done s .V h ((((b.cacheTmr b.taskCtx idx).modCore (fun d =>
            d.vldq t sc (runs (sc.rowBytes sh.cols)) (Rounding.ofCode (bits (c.quantDesc k) 20 3)) (bits (c.quantDesc k) 23 1 == 1))).modCore
              (noted (sc.rowBytes sh.cols) false)).written [t])))
      ∧ (∀ tmr v sc, let idx := bits (c.quantDesc k) 0 20
        b.tmrReadable b.taskCtx idx = true → b.tmrLoad b.taskCtx idx = .ok tmr → b.writeScale idx tmr = .ok (v, sc) →
        b.feedWaits idx = false → b.policyReady b.taskCtx (Tmr.policy tmr) = true → c.softIn .tile (c.readRuns none [t]) = false →
        (hd = 63 ∨ (c.handle hd).rcd = none ∨ (c.handle hd).rcd = some (idx, v)) → (sc.fmt ≠ 2 ∨ sh.cols % 32 = 0) →
        free (sc.rowBytes sh.cols) true →
        let enc := encodeRows sc (Tmr.base tmr) (storeMode (c.quantDesc k)) (bits (c.quantDesc k) 23 1 == 1) (c.tileRows t)
        enc.2.2.ovf * 65536 ≤ (b.policy b.taskCtx (Tmr.policy tmr)).faultLim * sh.count →
        Issues s .V h { regs := [(false, t.val)], handles := hs } [.t t] → c.sharedReady [t.val] [] = true →
          let fed := (((b.policyTouch b.taskCtx (Tmr.policy tmr)).cacheTmr b.taskCtx idx).keepVersion idx v).feed idx enc.2.2
          exec (.vstq h t k hd off) s = .next (Done s .V h (((fed.modCore (fun c =>
              let c := (((runs (sc.rowBytes sh.cols)).zip enc.1).foldl (fun c r => c.writeData r.1.1 r.2) c).addFlags .V enc.2.1
              if hd = 63 then c else c.setHandle hd { c.handle hd with rcd := some (idx, v) })).modCore
            (noted (sc.rowBytes sh.cols) true)).written []))))

/-- R152, R224, R269: a gather or scatter in the data area, every selected element in bounds, moves its elements. One in global memory
whose elements all reach their addresses, none poisoned, sends their word accesses as far as these find room and nothing before them keeps
them back (log 94): it is done where all were made in the core, else it stays in flight for the rest. -/
def Obligations.GathersAndScatters : Prop :=
  (∀ (s : State) (h : Hdr) (t idx : Fin 256) (k : Fin 16) (m : Fin 8) (z : Bool),
    let b := Begun s h
    let c := b.core
    let sh := c.vshape
    let n := elemBits sh.ty / 8
    let as := c.gatherAddrs idx k m
    let runs := as.map (fun a => (a.2, n))
    8 ≤ elemBits sh.ty → sh.rows * sh.cols ≤ 256 → (∀ a ∈ as, a.2 + n ≤ Part.dataBytes c.part) → b.ordered .V b.nextId = false →
      (b.clear .V runs [] = true → VGives (.vgath h t idx k .data m z) s h { regs := [(false, idx.val), (false, t.val)] } [idx] [t]
        (fun c =>
          let f : Flight :=
            { id := 0, eng := .V, pc := 0, kind := .gather t n (c.zeroKeys t m z),
              parts := as.map (fun a => { req := 0, idx := t.val * 1024 + a.1 * n,
                                          got := some (.value (ofBytes (c.readData a.2 n))) }) }
          Beside b .V runs [] (c.arrive f)) (some idx))
      ∧ (b.clear .V [] runs = true → VGives (.vscat h t idx k .data m z) s h { regs := [(false, idx.val), (false, t.val)] } [idx, t] []
        (fun c => Beside b .V [] runs
          (as.foldl (fun c a => c.writeData a.2 (toBytes (c.vshape.w / 8) (c.elem t c.vshape.w a.1))) c)) (some idx)))
  ∧ (∀ (s u w : State) (h : Hdr) (t idx : Fin 256) (k : Fin 16) (pol : Policy) (sc : Scope) (inv : Bool) (m : Fin 8) (z : Bool)
    (xs : List (Nat × Nat × Nat)) (ps : List Part),
    let b := Begun s h
    let c := b.core
    let n := elemBits c.vshape.ty / 8
    let as := c.gatherAddrs idx k m
    let p : Policy := if Part.l1Bytes c.part = 0 then .wt else pol
    let N : Names := { regs := [(false, idx.val), (false, t.val)] }
    let zs := c.zeroKeys t m z
    let back := ps.all (fun q => q.got.isSome)
    let flight (kind : FlightKind) (parts : List Part) : Flight :=
      { id := u.nextId, eng := .V, pc := (u.eng .V).pc, kind, parts, inTrap := u.core.trap.mode }
    let read := flight (.gather t (min n 4) (if n = 8 then zs.flatMap (fun k => [k, k + 4]) else zs))
    let write := flight .scatter
    let sends (f : Flight) : Prop := State.sendParts { u with nextId := u.nextId + 1 } f = .ok (w, ps)
    let kept (f : Flight) (c : Core) : Core := { c with flights := c.flights ++ [f] }
    8 ≤ elemBits c.vshape.ty → c.vshape.rows * c.vshape.cols ≤ 256 → u.holdsBack .V u.nextId = false →
      (Issues s .V h N [.t idx, .t t] → c.sharedReady [idx.val] [t.val] = true → c.softIn .tile (c.readRuns (some idx) [idx]) = false →
        b.reachElements as false = .ok (xs, u) → (∀ x ∈ xs, u.poisoned (lineOf x.2.2) = false) →
        sends (read (elementParts { store := false, pol := p, inv, va := 0, n, data := 0 }
          (xs.map (fun a => (t.val * 1024 + a.1 * n, a.2.1, 0))))) →
          exec (.vgath h t idx k (.global pol sc inv) m z) s = .next (if back = true then Done s .V h ((w.modCore (fun c => c.arrive (read ps))).written [t])
            else Pending s .V h ((w.modCore (kept (read ps))).modCore (fun c => c.mendTiles [t])) u.nextId))
      ∧ (Issues s .V h N [.t idx, .t t] → c.sharedReady [idx.val, t.val] [] = true → c.softIn .tile (c.readRuns (some idx) [idx, t]) = false →
        b.reachElements as true = .ok (xs, u) →
        sends (write (elementParts { store := true, pol := p, inv := false, va := 0, n, data := 0 }
          (xs.map (fun a => (0, a.2.1, u.core.elem t u.core.vshape.w a.1))))) →
          exec (.vscat h t idx k (.global pol sc inv) m z) s = .next (if back = true then Done s .V h ((w.modCore (fun c => c.arrive (write ps))).written [])
            else Pending s .V h ((w.modCore (kept (write ps))).modCore (fun c => c.mendTiles [])) u.nextId)))
  ∧ ∀ (w : Todo) (xs : List (Nat × Nat × Nat)), (w.n ≠ 8 → (elementParts w xs).map (fun p => (p.idx, p.todo)) =
        xs.map (fun a => (a.1, some { w with va := a.2.1, data := a.2.2 })))
      ∧ (w.n = 8 → (elementParts w xs).map (fun p => (p.idx, p.todo)) = xs.flatMap (fun a =>
          [(a.1, some { w with va := a.2.1, n := 4, data := a.2.2 % 2 ^ 32 }),
           (a.1 + 4, some { w with va := a.2.1 + 4, n := 4, data := a.2.2 / 2 ^ 32 })]))

/-! ### Accumulators and the matrix engine -/

/-- R170, R173 to R187: words on accumulators and weights: VDRAIN and VZLD between a tile and a window of an accumulator, MSHAPE, MZERO,
WCLR, WLD, MDRAIN, and MMA and MMAS with their scales, records and weight layout in order, no soft error standing in what they read. Where
V and M touch an accumulator tile unordered, VDRAIN reads an element as it stands or as it stood before a group of M, and what M leaves
beside an unordered VZLD is one of the outcomes of R170; with none of the other engine's accesses unordered with it, each is as if alone (logs 22, 63, 77). -/
def Obligations.AccumulatorWords : Prop :=
  (∀ (s : State) (h : Hdr) (m : Fin 8) (z sat : Bool) (rm : Rounding) (t za : Fin 256) (k : Fin 16),
    let b := Begun s h
    let c := b.core
    let ty := s.core.vshape.ty
    let cls : AccClass := if ty = .i32 then .int else .flt
    (ty ≠ .e8m0 → ty ≠ .e8f2 → Rows.modeOk ty rm = true → c.softIn .acc (c.windowRuns za k) = false →
      VGives (.vdrain h m z rm sat t za k) s h { regs := [(true, za.val), (false, t.val)] } [] [t] (fun c =>
        let r := SMap.get {} c.accRec za.val
        Elementwise c t m z (fun i =>
          let x : Val := match windowAt c.vshape (c.readK .V k) i with
            | some (row, col) => accValue r.cls (c.accSeen b.accKey za.val (row * 64 + col))
            | none => .zero
          quant1 ty rm sat (Val.mul x r.scale))))
    ∧ (wideFloat ty = true ∨ ty = .i32 → ((SMap.get {} c.accRec za.val).cls = none ∨ (SMap.get {} c.accRec za.val).cls = some cls) →
      VGives (.vzld h m z za t k) s h { regs := [(false, t.val), (true, za.val)] } [t] [] (fun c =>
        c.vzld b.accKey (s.eng .V).pc m z za t k)))
  ∧ (∀ (c c' : Core) (key pc z i x : Nat) (m : AccMark),
      let now := (SMap.get 0 c.acc (z * 2048 + i)).toNat
      let groups := (c.accMarks .M z).flatMap (fun m => m.groups i)
      (c.accSeen key z i = now ∨ ∃ m ∈ c.accMarks .M z, c.accSeen key z i ∈ valuesBefore (m.groups i) (m.old i))
        ∧ (c.accLoaded key z i x = now ∧ groups ≠ [] ∨ c.accLoaded key z i x = x ∨ c.accLoaded key z i x ∈ overtaken groups x)
        ∧ (c.accMarks .M z = [] → c.accSeen key z i = now ∧ c.accLoaded key z i x = x)
        ∧ (c.accMarks .V m.z = [] → c'.checker = c.checker → c'.raced c key pc m = c'.mark .M pc m))
  ∧ (∀ (s : State) (h : Hdr) (ta tb : ElemType) (blk : BlkMode) (sparse : Bool) (rows cols : Fin 4) (kg : BitVec 12) (z a : Fin 256)
    (w d k : Fin 16) (hd : Fin 64) (off : BitVec 12) (off22 : BitVec 22) (len : BitVec 13),
    let b := Begun s h
    let c := b.core
    let hs : List Nat := if hd = 63 then [] else [hd.val]
    let start := ((c.readK .M w).toNat + off.toNat * 64) % 262144
    let src : Word64 := c.readK .M d + (if hd = 63 then 0 else BitVec.ofNat 64 (c.handle hd).base)
    let at_ := src.toNat / 64 * 64
    let out := c.rowStart .M k hd off22
    let tiles := (List.range ((s.core.mshape.aBytes + 1023) / 1024)).map (fun i => a.val + i)
    let shared := tiles.filter (s.core.sharedWith .M)
    let run := [((c.readK .M d).toNat / 16 * 16, c.mshape.aBytes)]
    let block := (List.range c.mshape.rows).map (fun r => (z.val * 8192 + 256 * r, 4 * c.mshape.cols))
    let pc := (s.eng .M).pc
    let product (c : Core) (p : Nat × Int) (src : SMap Byte) (o : Nat) : Core :=
      (c.multiply z.val p (fun i => SMap.get 0 src (o + i)) (c.weight start)).raced c b.accKey pc
        { z := z.val, work := .product c.mshape src o c.wbuf start, before := c.acc }
    (ta ≠ .e2m1 ∨ kg.toNat % 2 = 0 → Gives (.mshape h ta tb blk sparse rows cols kg) s .M h {} [] (fun c =>
        { c with mshape := { a := ta, b := tb, blk, sparse, rows := 8 * (rows.val + 1), cols := 16 * (cols.val + 1),
                             kgroups := kg.toNat } }))
    ∧ Gives (.mzero h z) s .M h { regs := [(true, z.val)] } [] (fun c =>
        Core.raced { c with acc := SMap.drop c.acc (fun x => x / 2048 == z.val), accRec := SMap.erase c.accRec z.val,
                            soft := c.soft.filter (fun x : PoolPart × Nat => !(x.1 == .acc && x.2 / 1024 == z.val)) } c b.accKey pc
          { z := z.val, work := .zero, before := c.acc })
    ∧ Gives (.wclr h) s .M h {} [] (fun c => { c with wbuf := [], wlay := [], wupsets := [] })
    ∧ (c.runsFault hd [(at_, len.toNat * 64)] = none → b.clear .M [(at_, len.toNat * 64)] [] = true → b.ordered .M b.nextId = false →
        Gives (.wld h w off d hd sparse len) s .M h { handles := hs } [] (fun c =>
          Beside b .M [(at_, len.toNat * 64)] [] (c.loadWeights at_ start len.toNat sparse)))
    ∧ (c.runsFault hd [(out, c.mshape.rows * c.mshape.cols * 4)] = none → c.softIn .acc block = false →
        b.clear .M [] [(out, c.mshape.rows * c.mshape.cols * 4)] = true → b.ordered .M b.nextId = false →
        Gives (.mdrain h z k hd off22) s .M h { regs := [(true, z.val)], handles := hs } [] (fun c =>
          Beside b .M [] [(out, c.mshape.rows * c.mshape.cols * 4)] (c.writeData out ((List.range c.mshape.rows).flatMap (fun r =>
            (List.range c.mshape.cols).flatMap (fun n => toBytes 4 (SMap.get 0 c.acc (z.val * 2048 + (r * 64 + n))).toNat))))))
    ∧ (∀ p, c.scaleCheck z.val (c.readK .M (Fin.ofNat 16 (w.val + 1))).toNat = .ok p → c.layoutOk start = true →
        c.weightFault start = none → c.softIn .acc block = false →
        (shared.all b.core.fullOf = true → c.softIn .tile [(a.val * 1024, c.mshape.aBytes)] = false →
          Gives (.mma h z a w off) s .M h { regs := tiles.map (fun t => (false, t)) ++ [(true, z.val)] } [] (fun c =>
            (product c p c.tiles (a.val * 1024)).emptyTiles shared))
        ∧ (c.runsFault 63 run = none → b.clear .M run [] = true →
          Gives (.mmas h z w d off) s .M h { regs := [(true, z.val)] } [] (fun c =>
            Beside b .M run [] (product c p c.data ((c.readK .M d).toNat / 16 * 16))))))

/-! ### The stream engine -/

/-- R287, R288, R292, R306: a C command past its checks enters the journal with its descriptor, and its handle takes it as pending,
its issue at a scope beyond the core being a release (log 64)
(a drain makes the handle DRAINING, ADV makes it FILLING again); one that moves nothing completes at once. Its descriptor is read beside
the unordered writes in flight (R240), and a TMR that it needs is read first, for which it may wait (log 31). Its handle transitions come
before those that other engines' signals made in its cycle, which then act anew (R38). No register and no memory changes at its issue. -/
def Obligations.CommandsEnterJournal : Prop :=
  ∀ (s : State) (h : Hdr) (hd : Fin 64) (r : Fin 16) (o : BitVec 16) (pol : Policy) (sc : Scope) (dr : Bool) (op : CollOp) (m : BitVec 9)
    (i : Instr) (c : CCmd) (n : Nat) (x : Option (Nat × Nat × Scale)) (p : Plan),
    let b := Begun s h
    let off := if n = 0 then 0 else b.core.descAt r o
    let d := if n = 0 then [] else b.descriptor off n
    let pair := x.map (fun y => (y.1, y.2.1))
    let y := if n = 0 then b else b.issueTmrTouch c d
    let z := if c.hd = 63 then y else y.modCore (·.rewind c.hd)
    let again (u : State) := if c.hd = 63 then u else u.replay c.hd
    (i, c, n) ∈ [(Instr.copy h hd r o pol sc dr, (⟨.copy, hd, pol, sc, dr⟩ : CCmd), 64),
      (.copyc h hd r o pol sc dr, ⟨.copyc, hd, pol, sc, dr⟩, 64), (.gather h hd r o pol sc dr, ⟨.gather, hd, pol, sc, dr⟩, 48),
      (.scatter h hd r o pol sc dr, ⟨.scatter, hd, pol, sc, dr⟩, 48), (.fill h hd r o pol sc dr, ⟨.fill, hd, pol, sc, dr⟩, 64),
      (.win h hd r o pol sc, ⟨.win, hd, pol, sc, false⟩, 32), (.xform h hd r o pol sc dr, ⟨.xform, hd, pol, sc, dr⟩, 128),
      (.xpq h hd r o pol sc dr, ⟨.xpq, hd, pol, sc, dr⟩, 48), (.send h hd r o pol dr, ⟨.send, hd, pol, .sys, dr⟩, 32),
      (.recv h hd r o pol dr, ⟨.recv, hd, pol, .sys, dr⟩, 32), (.coll h hd r o pol op dr, ⟨.coll op, hd, pol, .sys, dr⟩, 32),
      (.cPref h r o pol sc, ⟨.pref, 63, pol, sc, false⟩, 64), (.code h r o pol sc, ⟨.code, 63, pol, sc, false⟩, 16),
      (.cflush h hd r o pol sc dr, ⟨.cflush, hd, pol, sc, dr⟩, 64), (.adv h hd pol sc m, ⟨.adv (m.toNat + 1), hd, pol, sc, false⟩, 0),
      (.wend h hd pol sc, ⟨.wend, hd, pol, sc, false⟩, 0)] →
    Issues s .C h { handles := if c.hd = 63 then [] else [c.hd.val] } [] → b.core.journal.length < 64 →
    off + n ≤ Part.dataBytes b.core.part → b.core.sramFault [(off, n)] = none → (n ≠ 0 → b.issueTmrReady c d = true) →
    (if n = 0 then x = none else b.issuePair c d = .ok x) → b.plan c d (x.map (·.2.2)) = .ok p →
    b.commandFault c d off p = none → b.core.recordClash c pair = none → b.ordered .C b.nextId = false → y.issueReleased c.scope = true →
      (p.empty = false → ∃ u j, exec i s = .next (Done s .C h (again u)) ∧ u.core.journal = b.core.journal ++ [j] ∧ j.cmd = c
        ∧ j.desc = d ∧ j.pc = s.core.engC.pc ∧ j.count = p.count ∧ j.tmr = pair ∧ j.cancelled = false ∧ j.fault = none ∧ j.moved = none
        ∧ j.made = [] ∧ regsOf u.core = regsOf b.core ∧ ((c.kind = .copyc → x = none) → j.id = z.nextId ∧ u.mem = z.mem)
        ∧ (c.hd ≠ 63 →
          (u.core.handle c.hd).st = (if c.drain then .draining
            else if c.kind = .adv (m.toNat + 1) then .filling else (z.core.handle c.hd).st)
          ∧ (c.drain = false → c.kind ≠ .wend → (u.core.handle c.hd).pending = (z.core.handle c.hd).pending + p.count)))
      ∧ (p.empty = true → z.coh.invals = [] →
        (c.hd = 63 ∨ c.drain = true ∨ (z.core.handle c.hd).widest = 0 ∧ c.scope = .core
          ∨ (z.core.handle c.hd).counted + p.count ≠ (z.core.handle c.hd).expected) →
        ∃ u k, exec i s = .next (Done s .C h (again u)) ∧ u.core.journal = b.core.journal.filter (fun j => j.id != k)
          ∧ ((c.kind = .copyc → x = none) → k = z.nextId ∧ u.mem = z.mem))
      ∧ ((∀ e ∈ (y.core.sample.map (·.sigs)).getD [], e.1 ≠ c.hd.val) → z.core.handles = y.core.handles ∧ z.replay c.hd = z)

/-- R113, R292, R294, R296, R299: a transfer performed leaves the journal, and its handle counts its bytes and is FULL once they are all
there, unless the pair it offers contradicts the handle's record; COPY and FILL within the core's own data area move their rows. R224:
a piece of it may be made by itself before (log 107). R227, R231, R250: one whose handle still owes a release, or that still awaits
acknowledgements, stays in the journal until it has them. R240: at level 0 one that writes the data area stays in flight for a second
turn (log 64). R290: a transfer that faults traps C at its own word, its later entries cancelled, each to start again from its first
byte; in trap mode its entry holds the fault (log 36). A command with no handle leaves its flags in FLAGS when it completes (log 91).
R41: a refill is a request of the core's, and then loads the ring's window at a PC outside it (log 103). -/
def Obligations.TransfersEnd : Prop :=
  (∀ (s : State) (n : Nat) (j : JEntry) (ext : List CollPart) (k : Nat),
    let b : State := State.sampleCycle { s with cur := n }
    b.core.started = true → b.core.transfersLeft = true → b.core.journal.find? (fun k => k.id == j.id) = some j → j.cancelled = false →
    j.fault = none →
      (∀ t fl offer, j.moved = none → (b.before j).performEntry j ext = .ok (t, fl, offer) → b.core.offerClash j offer = none →
        let u := t.beside b j
        let g := fl ||| j.raised
        exec (.transferComplete n j.id ext) s = .next
          { (if b.lingers j then u.holdEntry j g offer else u.finishEntry j g offer) with cur := s.cur })
      ∧ (∀ fl offer, j.moved = some (fl, offer) →
        (b.core.offerClash j offer = none → exec (.transferComplete n j.id ext) s = .next { b.finishEntry j fl offer with cur := s.cur })
        ∧ (∀ x, b.core.offerClash j offer = some x → exec (.transferFault n j.id k) s = .next { b.transferTrap j x with cur := s.cur }))
      ∧ (∀ t fl offer x, j.moved = none → (b.before j).performEntry j [] = .ok (t, fl, offer) → b.core.offerClash j offer = some x →
        exec (.transferFault n j.id k) s = .next { (t.beside b j).transferTrap j x with cur := s.cur })
      ∧ (∀ f x made, j.moved = none → (b.before j).performEntry j [] = .error (.fault f x made) →
        exec (.transferFault n j.id k) s = .next
          { (f (((b.before j).movesUpTo j j.tagged made k).beside b j)).transferTrap j x with cur := s.cur })
      ∧ (∀ t fl v, j.moved = none → j.made.contains k = false → b.core.sramFault (j.firstReads (b.pairScale j.tmr)) = none →
        (b.before j).performPiece j k = .ok (t, fl, v) → s.makePiece n j.id k =
          { (t.beside b j).modCore (fun c => { c with journal := c.journal.map (fun x =>
              if x.id = j.id then { x with made := k :: x.made, raised := x.raised ||| fl, found := v } else x) }) with cur := s.cur }))
  ∧ (∀ (s : State) (j : JEntry) (fl : Flags) (offer : Option (Nat × Nat)),
    ((s.owesAcks j || s.owesRelease j offer) = false → s.finishEntry j fl offer =
        (if j.cmd.kind = .recv then s.acquireNow s.cur else s).modCore (fun k => k.complete j fl offer))
      ∧ ((s.owesAcks j || s.owesRelease j offer) = true → (s.finishEntry j fl offer).core.journal =
          s.core.journal.map (fun k => if k.id = j.id then { k with moved := some (fl, offer) } else k)
            ∧ (s.finishEntry j fl offer).core.handles = s.core.handles))
  ∧ (∀ (c : Core) (j : JEntry) (fl : Flags) (offer : Option (Nat × Nat)),
    let u := c.complete j fl offer
    let x := c.handle j.cmd.hd
    u.journal = c.journal.filter (fun k => k.id != j.id) ∧ u.s = c.s ∧ u.data = c.data
      ∧ (j.cmd.hd = 63 → u.engC.flags = c.engC.flags ||| fl ∧ u.handles = c.handles)
      ∧ (j.cmd.hd ≠ 63 → j.cmd.drain = true → (u.handle j.cmd.hd).st = .free)
      ∧ (j.cmd.hd ≠ 63 → j.cmd.drain = false → j.cmd.kind ≠ .wend → x.st = .filling →
        (u.handle j.cmd.hd).counted = x.counted + j.count ∧ (u.handle j.cmd.hd).pending = x.pending - j.count
          ∧ (u.handle j.cmd.hd).st = if x.counted + j.count = x.expected then .full else .filling))
  ∧ (∀ (s : State) (j : JEntry) (ext : List CollPart),
    let d := j.desc
    let n := Box.ext d 0
    let at_ (x : Nat) : Nat := (j.base + x) % 2 ^ 64
    Box.dstSpace d = 0 → s.core.upsets = [] → j.made = [] →
      (j.cmd.kind = .copy → Box.srcSpace d = 0 → Box.tagValid d = false → s.performEntry j ext = .ok
        ((Box.rows d).foldl (fun t r => t.modCore (fun k => k.writeData (at_ r.2) (t.core.readData (at_ r.1) n))) s, 0, j.tmr))
      ∧ (j.cmd.kind = .fill → s.performEntry j ext = .ok
        ((Box.rows d).foldl (fun t r => t.modCore (fun k => k.writeData (at_ r.2)
          ((List.range n).map (fun i => (BitVec.ofNat 8 (Box.src d / 256 ^ (i % 8)) : Byte))))) s, 0, none)))
  ∧ (∀ (s : State) (j : JEntry) (x : TrapInfo),
    (s.core.trap.mode = true → (s.transferTrap j x).core.journal =
        s.core.journal.map (fun k => if k.id = j.id then { k with fault := some x } else k))
      ∧ (s.core.trap.mode = false → let t := s.transferTrap j x
        t.core.trap.mode = true ∧ t.core.trap.cause = x.cause ∧ t.core.trap.engine = .C ∧ t.core.trap.pc = j.pc
          ∧ t.core.trap.cEntry = some { j with cancelled := false, fault := none, made := [], raised := 0, found := none }
          ∧ t.core.journal = (s.core.journal.filter (fun k => k.id != j.id)).map (fun k =>
              if j.id < k.id then { k with cancelled := true, made := [], raised := 0, found := none } else k)))
  ∧ (∀ (s : State) (n : Nat) (e : Engine) (bs : List Byte),
    let c := (State.core { s with cur := n })
    let g := c.eng e
    let slots := Part.ringWords c.part e
    let w := g.pc / 64 * 64
    let k := min slots (g.ring.len - w)
    let off := ((c.obj.streams[e.num]?).getD (0, 0)).1
    let a := c.obj.addr + off + 8 * w
    let x := ((State.feedWalk { s with cur := n } e c.obj off w k).unitTouch c.obj.ctx a (8 * k)).modCore (fun c =>
      { c with feeds := c.feeds.erase e })
    (e = .S → c.trap.mode = false) → g.pc < g.ring.len → slots < g.ring.len → g.pc < g.ring.base ∨ g.ring.base + slots ≤ g.pc →
      (c.feeds.contains e = false → State.noRoom { s with cur := n } e 1 = false → exec (.codeFeedRefill n e) s = .next
        { State.setCore { s with cur := n } { c with feeds := c.feeds ++ [e] } with cur := s.cur })
      ∧ (c.feeds.contains e = true → State.unitReady { s with cur := n } c.obj.ctx a (8 * k) = false → exec (.codeFeedRefill n e) s = .next
        { State.unitTouch { s with cur := n } c.obj.ctx a (8 * k) with cur := s.cur })
      ∧ (c.feeds.contains e = true → State.unitReady { s with cur := n } c.obj.ctx a (8 * k) = true →
        x.unitBytes c.obj.ctx a (8 * k) = some bs → exec (.codeFeedRefill n e) s = .next
          { (x.modEng e (fun y => { y with ring := { g.ring with
              base := w, slots := (List.range k).foldl (fun m i =>
                SMap.put m ((w + i) % slots) (BitVec.ofNat 64 (recordField bs (8 * i) 8))) [] } })).modCore (fun c =>
            c.mendRing e slots w k) with cur := s.cur }))

/-! ### Homes, the host and the fabric -/

/-- R249 to R251, R269 to R276: a request whose line is ready is served at its home: a load's value goes into the L1 as its policy says,
under what the core has sent home itself (log 32), and to its instruction; a store's or write-back's words are applied and the other copies
told; an atomic's word takes its new value and the old one answers. An .inv load may answer with an older value where its promise is broken
(R235; log 102). A grant starts the time of the copies that other cores hold (R234; log 104). A load or an atomic of a poisoned line answers with poison, and an owning store to one is written through (log 83). A
write-back is translated by its name: it follows its page, waits for a lock, or is dropped where the name leads nowhere (R389, R392). -/
def Obligations.HomesServe : Prop :=
  ∀ (s t : State) (r : Req), s.req? r.id = some r → r.stage = .sent →
    let line := lineOf r.addr
    let ks := wordKeys r.addr r.size
    let ws := pieces r.addr r.size r.data
    let wb := t.applyWords r r.wb false
    let answer (u : State) (v : Nat) : Host.Outcome State Fault Refusal := .next (u.deliver r (.value v))
    let waits (u : State) (v : Nat) : Host.Outcome State Fault Refusal :=
      .next (if u.awaiting r.id then u.modReq r.id (fun q => { q with stage := .acks, reply := v }) else u.deliver r (.value v))
    (∀ i fill (v : State), (i, r.pol, v, fill) ∈ [(Instr.homeLoadSi r.id, Policy.si, wb, fun (u : State) => u.fillLine r.core line (.clean r.inv)),
          (.homeLoadWi r.id, .wi, wb, fun u => if r.inv then u.fillLine r.core line (.clean true)
            else (u.modDir line (fun d => d.register (u.homeDie line) r.core)).fillLine r.core line .registered),
          (.homeLoadWt r.id, .wt, wb, fun u => if r.inv then u.fillLine r.core line (.clean true)
            else if r.size = 64 then u else u.refreshWords r.core ks),
          (.homeLoadOwn r.id, .own, t, fun u => u.grantLine r.core line ks r.wb)] →
      r.kind = .load →
      s.prepare r (if r.pol = .own then [] else r.wb.map (·.1)) (if r.pol = .own then ks else []) false = .ok t →
        let x := v.readDecode line
        let u := fill (x.noteRead r)
        (x.poisoned line = false → exec i s = answer u (fromWords r.addr r.size (ks.map (fun k =>
              if r.inv then u.invWord r.core k (u.coreWord r.core k) else u.coreWord r.core k))))
          ∧ (x.poisoned line = true → r.size ≠ 64 → exec i s = .next
              (((if r.pol = .own then x.applyWords r r.wb false else x).logConsumed r.core r.eng line).deliver r (.poison r.va))))
    ∧ (r.kind = .store →
        (∀ i, (i, r.pol) ∈ [(Instr.homeStoreWi r.id, Policy.wi), (.homeStoreWt r.id, .wt)] → s.prepare r ks [] false = .ok t →
          let u := wb.applyWords r ws (decide (r.pol = .wi))
          exec i s = if r.pol = .wi then waits u 0 else answer u 0)
        ∧ (r.pol = .own → s.prepare r [] ks false = .ok t →
          let x := t.readDecode line
          (x.poisoned line = false → exec (.homeStoreOwn r.id) s = answer (State.trimL1 ((x.grantWords r.core line ks r.wb).modCoreAt r.core
              (fun c => ws.foldl (fun c w => match c.l1At w.1 with
                | some ⟨_, v⟩ => c.putL1 w.1 .owned (mergeWord v w.2.2 w.2.1) | none => c) c)) r.core line) 0)
          ∧ (x.poisoned line = true → exec (.homeStoreOwn r.id) s = answer ((x.applyWords r r.wb false).applyWords r ws false) 0)))
    ∧ (r.kind = .writeback → s.held r = false →
        (∀ w, s.wbTarget r = .ok w →
          let r' := match r.name with | some (ctx, ia) => { r with delegable := w.delegable ctx ia } | none => r
          w.prepare r' (r.wb.map (·.1)) [] false = .ok t →
            exec (.homeWriteback r.id) s = .next ((t.applyWords r' r.wb false).removeReq r.id))
        ∧ (∀ ctx ia, r.name = some (ctx, ia) → s.awaiting r.id = false →
          let w := s.walked ctx ia (agentCore r.core r.eng)
          let x := s.translate ctx (State.taskCtx { s with cur := r.core }) ia true
          (x = .refused → ∃ u, exec (.homeWriteback r.id) s = .next u ∧ u.req? r.id = none ∧ u.mem = w.mem)
          ∧ (x = .locked → exec (.homeWriteback r.id) s = .next (State.onCore (s.clearBusy line r.id) r.core (fun s =>
              s.addFault r.eng r.addr (some r.id) true)))
          ∧ (∀ a, x = .addr a → let l := lineOf (s.keyed ctx ia a)
              l ≠ line → exec (.homeWriteback r.id) s = .next ((w.clearBusy line r.id).modReq r.id (fun q =>
                { q with addr := l, wb := q.wb.map (fun y => (l / 4 + y.1 % 16, y.2)) })))))
    ∧ (((∃ op, r.kind = .atomic op) ∧ r.seq = none) ∨ (∃ c, r.kind = .cas c) →
        let x := t.readDecode line
        let wb := x.applyWords r r.wb false
        (∀ m, (r.pol ≠ .own ∧ m = (ks, []) ∨ r.pol = .own ∧ m = ([], ks)) → s.prepare r m.1 m.2 false = .ok t → x.poisoned line = true →
          exec (.homeAtomic r.id) s = .next ((wb.logConsumed r.core r.eng line).deliver r (.poison r.va)))
        ∧ (r.pol ≠ .own → s.prepare r ks [] false = .ok t → x.poisoned line = false →
          let old := fromWords r.addr r.size (ks.map wb.wordNow)
          (r.newValue old = none → exec (.homeAtomic r.id) s = answer (wb.refreshWords r.core ks) old)
            ∧ (∀ v, r.newValue old = some v → exec (.homeAtomic r.id) s =
                waits (wb.applyWords r (pieces r.addr r.size v) false) old))
        ∧ (r.pol = .own → s.prepare r [] ks false = .ok t → x.poisoned line = false →
          let g := x.grantWords r.core line ks r.wb
          exec (.homeAtomic r.id) s =
            answer ((g.atomicInPlace r).1.trimL1 r.core line) (fromWords r.addr r.size (ks.map (g.coreWord r.core)))))

/-- R263, R269: a load, gather or atomic whose parts are back writes its destination and finishes with its signal; a poisoned part
traps its engine. R279, R280: a sequenced contribution whose turn has come is performed, with those that waited for it; one that is
early waits in its slice's weir while it has room, else, or behind an earlier one of its core, in the fault buffer. One that no valid
object declares is performed on its arrival (log 85). -/
def Obligations.AnswersArrive : Prop :=
  (∀ (s : State) (n : Nat) (f : Flight),
    let b : State := { s with cur := n }
    f ∈ b.core.flights → (∀ g ∈ b.core.flights, g.id = f.id → g = f) → f.complete = true →
      (∀ va, f.poison = some va → exec (.loadResponse n f.id) s = .next
        { (b.dropFlight f).lateTrap f.eng f.inTrap f.pc { cause := 0x0B, addr := va, info := 1 } with cur := s.cur })
      ∧ (f.poison = none → f.acq = none → ∃ u : State, exec (.loadResponse n f.id) s = .next { u.finishSig f.eng f.id with cur := s.cur }
          ∧ u.core.flights = b.core.flights.filter (fun g => g.id != f.id) ∧ u.mem = b.mem
          ∧ (∀ d k sext, f.kind = .load d k sext → f.values ≠ [] → ∀ r,
              let v := f.values.foldl (fun x w => x + w.2 * 2 ^ (32 * w.1)) 0
              u.core.readS r = if r = d ∧ r ≠ 0 then (if k < 8 ∧ sext = true then BitVec.ofInt 64 (signedOf (8 * k) v) else BitVec.ofNat 64 v)
                else b.core.readS r)
          ∧ (∀ d idx v vs, f.kind = .atom d → f.values = (idx, v) :: vs →
              ∀ r, u.core.readS r = if r = d ∧ r ≠ 0 then BitVec.ofNat 64 v else b.core.readS r)))
  ∧ (∀ (s t : State) (r : Req) (op : Aop) (c : Nat), s.req? r.id = some r → r.stage = .sent → r.kind = .atomic op → r.seq = some c →
    (s.rotabReady r.ctx = false → exec (.homeAtomic r.id) s = .next (s.unitTouch r.ctx (s.ctxOf r.ctx).rotab 1024))
    ∧ (s.rotabReady r.ctx = true → s.prepare r (wordKeys r.addr r.size) [] true = .ok t →
      let x := t.readDecode (lineOf r.addr)
      x.poisoned (lineOf r.addr) = false →
        (x.robject r.ctx r.ia = none → exec (.homeAtomic r.id) s = .next (x.atomicAtHome r))
        ∧ ∀ o, x.robject r.ctx r.ia = some o →
          let y := x.unitTouch r.ctx (x.ctxOf r.ctx).rotab 1024
          let w := r.weirEntry (y.slice r.addr) op c
          let wb := (y.applyWords r r.wb false).modReq r.id (fun q => { q with wb := [] })
          let waits := wb.onCore r.core (fun s => s.addFault r.eng r.va (some r.id))
          (wb.heldBefore r = true → exec (.homeAtomic r.id) s = .next waits)
          ∧ (wb.heldBefore r = false →
            (wb.seqNext r.ctx r.ia = c → exec (.homeAtomic r.id) s = .next
              ((((wb.removeReq r.id).contribute w r.addr).setSeqNext w ((c + 1) % o.ncon)).drainWeir w r.addr o.ncon wb.coh.weir.length))
            ∧ (wb.seqNext r.ctx r.ia ≠ c → (wb.coh.weir.filter (fun x => x.slice == w.slice)).length < 512 →
              ∃ u, exec (.homeAtomic r.id) s = .next u ∧ u.coh.weir = wb.coh.weir ++ [w] ∧ u.req? r.id = none ∧ u.mem = wb.mem)
            ∧ (wb.seqNext r.ctx r.ia ≠ c → 512 ≤ (wb.coh.weir.filter (fun x => x.slice == w.slice)).length →
              exec (.homeAtomic r.id) s = .next waits))))

/-- R243, R244, R249, R250, R255, R256, R395: the channel's messages. A recall's words return to the home, whose other copies are told; an
invalidation reaches its cluster, and the last acknowledgement finishes its request; dirty words are written back, whole ones staying as
clean copies (log 10), and clean ones dropped by time; a fault buffer's entry leaves when its condition has cleared, a core's contributions
in their order; the host's answer to a snoop downgrades its copy, and a conflict is noted, the line BUSY until the host's request is done.
-/
def Obligations.CoherenceMessages : Prop :=
  (∀ (s : State) (i : Nat) (r : Recall), s.coh.recalls[i]? = some r →
    let b : State := { s with coh := { s.coh with recalls := s.coh.recalls.eraseIdx i } }
    let u := (List.range 16).foldl (fun t j =>
      if r.words.getLsbD j ∧ (t.dirOf r.line).ownerOf (r.line / 4 + j) = some r.core then t.recallWord (r.line / 4 + j) else t) b
    exec (.recall i) s = .next ((u.sendInvals r.line none false true r.req).setBusy r.line r.req))
  ∧ (∀ (s : State) (i : Nat) (x : Inval), s.coh.invals[i]? = some x →
    (x.delivered = false → let t := s.invalidateCluster x.cluster x.line (if x.keep then x.writer else none)
      exec (.invalidation i) s = .next { t with coh := { t.coh with invals := t.coh.invals.set i { x with delivered := true } } })
    ∧ (x.delivered = true → let b : State := { s with coh := { s.coh with invals := s.coh.invals.eraseIdx i } }
      (∀ id r, x.req = some id → b.req? id = some r →
        (b.awaiting id = true → exec (.invalidationAck i) s = .next b)
        ∧ (b.awaiting id = false → r.stage = .acks →
          exec (.invalidationAck i) s = .next ((b.clearBusy x.line id).deliver r (.value r.reply))))
      ∧ (∀ id, x.req = some id → b.req? id = none →
          exec (.invalidationAck i) s = .next (if b.awaitingAt id x.line then b else b.clearBusy x.line id))))
  ∧ (∀ (s : State) (n line : Nat),
    let ws := (s.coreAt n).dirtyWords (inLine line)
    (ws ≠ [] → ∃ t r, exec (.l1DirtyTimeout n line) s = .next t ∧ t.coh.reqs = s.coh.reqs ++ [r] ∧ r.kind = .writeback ∧ r.core = n
      ∧ r.addr = line ∧ r.wb = ws ∧ t.coreAt n = (s.coreAt n).cleanWords (ws.map (·.1)) ∧ t.mem = s.mem)
    ∧ ∃ t, exec (.l1CleanTimeout n line) s = .next t ∧ t.mem = s.mem ∧ t.coreAt n = { s.coreAt n with
        l1 := (s.coreAt n).l1.filter (fun e => !(inLine line e.1 && (match e.2.st with | .clean _ | .kept => true | _ => false))) })
  ∧ (∀ (s : State) (n i : Nat) (f : FaultEntry),
    let b : State := { s with cur := n }
    b.core.faults[i]? = some f → b.faultCleared f = true → (∀ g ∈ b.core.faults.take i, b.faultCleared g = false) →
      (f.req = none ∨ f.wb = true → exec (.faultBufferRetry n i) s = .next
        { b.modCore (fun c => { c with faults := c.faults.eraseIdx i }) with cur := s.cur })
      ∧ (∀ r, f.wb = false → f.req = some r.id → b.req? r.id = some r → (∀ g ∈ b.core.faults.take i, g.req = none ∨ g.wb = true) →
        exec (.faultBufferRetry n i) s = .next { b.resend i r with cur := s.cur })
      ∧ (f.wb = false → f.req ≠ none → (∃ g ∈ b.core.faults.take i, g.req ≠ none ∧ g.wb = false) →
        exec (.faultBufferRetry n i) s = .next s))
  ∧ (∀ (s : State) (line : Nat) (x : Snoop) (bs : List Byte), s.coh.snoops.find? (fun x => x.line == line) = some x →
    let dirty := bs.length = 64 ∧ (s.dirOf line).host = 2
    let b := if dirty then s.applyLine line bs else s
    ∃ t, exec (.bisnpComplete line bs) s = .next t ∧ t.mem = b.mem
      ∧ t.coh.snoops = s.coh.snoops.filter (fun y => y.line != line) ∧ (t.dirOf line).host = (if x.inv then 0 else 1)
      ∧ (t.dirOf line).busy = if x.req = 0 ∧ (b.dirOf line).conflict = false then none else some x.req)
  ∧ (∀ (s : State) (line : Nat), s.coh.snoops.any (fun x => x.line == line) = true → exec (.biconflict line) s = .next
      (State.modDir { s with coh := { s.coh with
        snoops := s.coh.snoops.map (fun x => if x.line = line then { x with conflict := true } else x) } } line
        (fun d => { d with conflict := true })))

/-- R255, R257, R316, R388, R398, R399: the host's accesses to present lines that its table opens (logs 31, 33), its snoop of a line of
its own memory, which leaves valid data where it rewrites the line (R361; log 84), and a peer's access that its domain and the context's
tables allow (log 52). R310 to R312, R423, R427, R429: a good block joins the message that its port receives and a bad one is logged; a
link that falls takes its partner and its partial messages with it; training brings it up; a group's members are kept in rank order; a
retransmitted error is logged on its channel. -/
def Obligations.HostsAndFabric : Prop :=
  (∀ (s : State) (pa : Nat) (bs : List Byte),
     let line := lineOf (pa % 2 ^ 39)
     let d := (s.hostDone line).readDecode line
     (s.ready = true → s.absent line = false → s.hostMayGo line = true →
       (s.allows 64 line false = true → d.poisoned line = false →
         exec (.hostReadShared pa) s = .next (let t := d.modDir line (fun x => { (if x.lst = 1 then x.returned else x) with host := 1 })
           { t with coh := { t.coh with hostReply := some (t.readNow (t.ownedKey line) 64) } }))
       ∧ (s.allows 64 line false = true →
         let t := (d.recallLine line).modDir line (fun x => { x.returned with host := 2 })
         t.poisoned line = false →
           exec (.hostReadExclusive pa) s = .next { t with coh := { t.coh with hostReply := some (t.readNow (t.ownedKey line) 64) } })
       ∧ (s.allows 64 line true = true →
         let ws := bs.take (line + 64 - pa % 2 ^ 39)
         exec (.hostWrite pa bs) s = .next (((s.hostDone line).applyLine (pa % 2 ^ 39) ws).modDir line (fun x =>
           { x with host := if (s.dirOf line).host = 2 ∧ ws.length = 64 then 0 else (s.dirOf line).host }))))
     ∧ (let hl := hostBase + lineOf (pa % 2 ^ 64)
        s.idle hl = true →
          exec (.hostSnoop pa false bs) s = .next (s.modDir hl (fun x =>
            { (if x.lst = 1 then x.returned else x) with hostLine := min 1 x.hostLine }))
          ∧ (let t := (s.recallLine hl).modDir hl (fun x => { x with hostLine := 0 })
             exec (.hostSnoop pa true bs) s = .next (if bs.length = 64 then
               let u := t.noteUnitWrite ((List.range 16).map (hl / 4 + ·))
               State.recode { u with mem := u.mem.writeN hl bs } hl 0 false else t)))
     ∧ (∀ pkg ctx a, let w := s.walked ctx pa 0
         s.idle (lineOf a) = true →
         (s.translate ctx (82 + SMap.get 0 s.fab.domains pkg % 16) pa true = .addr a →
           exec (.peerRequest pkg ctx pa true bs) s = .next
             (if (s.dirOf (lineOf a)).host = 0 then w.writeNow a bs 0 (lineCount bs) else s.sendSnoop (lineOf a) true 0))
         ∧ ((s.dirOf (lineOf a)).host ≠ 2 → s.translate ctx (82 + SMap.get 0 s.fab.domains pkg % 16) pa false = .addr a → (w.readDecode (lineOf a)).poisoned (lineOf a) = false →
           let x := w.readDecode (lineOf a)
           exec (.peerRequest pkg ctx pa false bs) s = .next { x with fab := { x.fab with reply := some (x.readNow (x.ownedKey a) (lineOf a + 64 - a)) } })))
  ∧ (∀ (s : State) (port pkg mtag len die channel : Nat) (block : List Byte) (members : List Nat),
     (SMap.find? s.fab.ports port = some pkg →
       (s.ready = true → s.portTakes port pkg mtag = true → len ≠ 0 →
         (∀ bs, decodeBlock block = some bs → ∃ t, exec (.fabricBlockReceive port mtag len block) s = .next t ∧ t.mem = s.mem
           ∧ t.fab.received =
             match s.fab.received.findIdx? (fun m =>
               m.port == port && m.pkg == pkg && m.mtag == mtag && m.len == len && decide (m.data.length < m.len)) with
             | some i => s.fab.received.modify i (fun m => { m with data := (m.data ++ bs).take len })
             | none => s.fab.received ++ [{ port, pkg, mtag, len, data := bs.take len }])
         ∧ (decodeBlock block = none → exec (.fabricBlockReceive port mtag len block) s =
             .next (s.logError (port % 4) { time := s.time, channel := 548 + port, type := 10 })))
       ∧ ∃ t, exec (.linkDown port) s = .next t ∧ t.fab.ports = SMap.erase s.fab.ports port ∧ t.mem = s.mem
           ∧ t.fab.received = s.fab.received.filter (fun m => m.port != port || m.data.length == m.len)
           ∧ t.fab.down = if (SMap.erase s.fab.ports port).any (fun e => e.2 == pkg) then s.fab.down else s.fab.down ++ [pkg])
     ∧ (port < 18 → s.power.recov = false → 6 ≤ s.power.stage → exec (.portTraining port pkg) s = .next { s with
         fab := { s.fab with ports := SMap.put s.fab.ports port (pkg % 4096), down := s.fab.down.filter (· != pkg % 4096) },
         power := { s.power with stage := 7 } })
     ∧ exec (.fabricGroupWrite pkg members) s = .next { s with
         fab := { s.fab with groups := SMap.put s.fab.groups (pkg % 65536) (members.map (· % 4096)) } }
     ∧ (die < 4 → linkChannel die channel = true →
         exec (.linkErrorRetransmitted die channel) s = .next (s.logError die { time := s.time, channel, type := 10 })))

/-! ### The sluice -/

/-- R325 to R328, R391, R396: PROD and EVCONS written by the control owner or by the function that the queue is assigned to, and by no other
(an operand q stands for the queue q % 1024 and the writer q / 1024: log 48); the next record of an enabled host-fed queue consumed and,
where nothing refuses it, enqueued, a slot that cannot be read giving none (log 43): a launch becomes a task, and the packets open or close a scope or set the determinism level or the seed.
A refused one posts an event of kind 2. While a line of the record is BUSY, or the host's alone, the sluice waits (R248, R255). -/
def Obligations.QueueEvents : Prop :=
  ∀ (s : State) (q by_ : Nat) (v : Word32), q < 1024 →
    let b := s.queueOf q
    let tooMany := b.records < (v.toNat + 2 ^ 32 - b.cons) % 2 ^ 32
    let m := Master.ofNum by_
    let may : Prop := match m with | .function n => s.assigned n q true = true | m => s.mayManage m 0 = true ∧ s.mgmt.owner = Master.code m
    (may → exec (.prodWrite (1024 * by_ + q) v) s = .next (if b.devq ∨ tooMany then s else s.setQueue q { b with prod := v.toNat }))
    ∧ (may → ∃ t, exec (.evconsWrite (1024 * by_ + q) v) s = .next t ∧ t.queueOf q = { b with evcons := v.toNat } ∧ t.mem = s.mem
        ∧ t.tasks = s.tasks.map (fun e => (e.1, if e.2.queue = q then { e.2 with waits := false } else e.2)))
    ∧ (¬ may → m ≠ .mgmt → exec (.prodWrite (1024 * by_ + q) v) s = .next s ∧ exec (.evconsWrite (1024 * by_ + q) v) s = .next s)
    ∧ (b.en = true → b.devq = false → b.prod ≠ b.cons → let ls := slotLines (b.slotAt b.cons)
      s.slotAbsent (b.slotAt b.cons) = false → ls.all s.readable = false → ∀ i ∈ [Instr.launchRecordEnqueue q, .scopeOpenPacket q,
        .scopeClosePacket q, .detsetPacket q, .seedPacket q], exec i s = .next (ls.foldl (fun s l => s.snoopFor l false) s))
    ∧ (∀ (r : List Byte) (s' : State), b.en = true → b.devq = false → b.prod ≠ b.cons →
      (slotLines (b.slotAt b.cons)).all s.readable = true → s.ringSlot q = (some r, s') →
      let t := s'.setQueue q { b with cons := (b.cons + 1) % 2 ^ 32 }
      let c := t.ctxOf b.ctx
      (∀ i k, (i, k) ∈ [(Instr.launchRecordEnqueue q, 0), (.scopeOpenPacket q, 1), (.scopeClosePacket q, 2), (.detsetPacket q, 3),
          (.seedPacket q, 4)] → Rec.kind r = k →
        (t.refusal? q r none = none → exec i s = .next
          (if k = 0 then (t.enqueueTask q r none).1
           else if k = 1 then t.setCtx b.ctx (c.openScope (Rec.scope r) (Rec.prio r))
           else if k = 2 then t.closeScope b.ctx (Rec.scope r)
           else if k = 3 then t.setCtx b.ctx { c with detlevel := Rec.prio r }
           else t.setCtx b.ctx { c with seed := BitVec.ofNat 64 (Rec.u r 0x40 8) }))
        ∧ (∀ reason, t.refusal? q r none = some reason →
          exec i s = .next (t.postEvent q 2 reason (Rec.scope r) (b.cons % b.records) 0))))

/-- R334, R340, R115, R343: a selection whose first candidate, new and placed, has room on every die of its gang binds it to the cores
named, beside the cores that winners of other dies take in the cycle, and a reservation whose holder waits no
more is given up (log 55); the launch path of a task pins its pages and brings its cores up, the engines at offset 0 with clear flags and empty
stacks and the record's arguments in s1 to s8, their first words acquiring what the launch released (R232), and a resume restores them
as they were saved (R373); it stops where its object or its pages refuse, and waits for pages (log 54); a task whose cores owe nothing
more retires, and others are cleaned first (log 58). -/
def Obligations.SluiceBindsAndRetires : Prop :=
  (∀ (s : State) (d id : Nat) (rest named : List Nat) (t : Task) (p : Placement), d < 4 →
    let s' := s.dropOldHolders
    let ranks := s'.ranks
    let share := shareOf p.loops
    let ds := gangDies t.homeDie (dieCountOf p.loops)
    let kept (d : Nat) : List Nat := if (s'.die d).holder = some id then (s'.die d).reserved else []
    let holds (n : Nat) : Bool := (s'.coreAt n).holdsObject t.ctx (Rec.u t.record 0 8) p.part
    let chosen := ds.flatMap (fun d => pickCores named (s'.available ranks id d) (kept d) holds share d)
    (s.die d).lastSelect + 8 ≤ s.fabric → s'.inOrder ranks d = id :: rest → SMap.find? s'.tasks id = some t → t.st = .enqueued →
    t.waits = false → s'.hotReady t = true → s'.placement t = .ok p → s'.warmCore t p = none →
    (∀ d ∈ ds, share + s'.contended ranks id d ≤ (s'.available ranks id d).length) →
      let b := s'.bindTask id t (gangCores p.loops t.homeDie chosen) false (some p)
      let v := b.setDie t.homeDie { b.die t.homeDie with
        rr := SMap.put (b.die t.homeDie).rr (SMap.get 0 ranks id) ((t.queue % 256 + 1) % 256) }
      let w : State := { v with tasks := v.tasks.map (fun e => (e.1, if e.2.homeDie = d then { e.2 with seen := true } else e.2)) }
      exec (.sluiceSelection d named) s = .next (w.setDie d { w.die d with lastSelect := w.fabric }))
  ∧ (∀ (s : State) (id : Nat) (t : Task) (p : Placement) (ranges : Vector RangeReg 16),
    SMap.find? s.tasks id = some t →
      (t.st = .launching → t.waits = false → s.placement t = .ok p → s.rangesFor t p = .ok ranges →
        let b := s.walkAll (p.walks t)
        (∀ n ∈ t.cores, (b.island (coreIsland n)).asleep = false) →
        let u := b.setTask id { t with st := .running, locks := [], asked := [], pins := b.pinsOf t p }
        exec (.launchPathComplete id) s = .next
          (if b.saves.any (fun x => x.task == id) then u.resumeTask id t p ranges
           else t.cores.zipIdx.foldl (fun u c =>
             ((u.shrinkTo c.1 (Part.l1Bytes p.part)).modCoreAt c.1 (fun k => k.launched id c.2 t p ranges)).acquireNow c.1) u))
      ∧ (t.st = .launching → t.waits = false →
        (∀ a, s.placement t = .error (.refuse a) → exec (.launchPathComplete id) s = .next (s.refuseTask id a))
        ∧ (∀ ps, s.placement t = .error (.pages ps) → exec (.launchPathComplete id) s = .next (s.awaitPages id ps))
        ∧ (s.placement t = .ok p →
          (∀ a, s.rangesFor t p = .error (.refuse a) → exec (.launchPathComplete id) s = .next (s.refuseTask id a))
          ∧ (∀ ps, s.rangesFor t p = .error (.pages ps) → exec (.launchPathComplete id) s = .next
              (((s.walkAll (p.walks t)).setTask id { t with pins := s.pinsOf t p }).awaitPages id ps))))
      ∧ (t.st = .running → s.saves.any (fun x => x.task == id) = false → (∀ n ∈ t.cores, (s.coreAt n).allDone = true) →
        ((∀ n ∈ t.cores, s.coreSettled n = true) → exec (.taskRetire id) s = .next (s.retireTask id))
        ∧ ((∃ n ∈ t.cores, s.coreSettled n = false) → exec (.taskRetire id) s = .next
            (t.cores.foldl (fun s n => if s.coreSettled n then s else s.cleanCore n) s))))
  ∧ (∀ (c : Core) (id pos : Nat) (t : Task) (p : Placement) (ranges : Vector RangeReg 16),
    let u := c.launched id pos t p ranges
    u.started = true ∧ u.task = some id ∧ u.gangPos = pos ∧ u.ranges = ranges ∧ u.trap.mode = false ∧ u.journal = []
      ∧ (∀ e, (u.eng e).pc = 0 ∧ (u.eng e).flags = 0 ∧ (u.eng e).ended = false ∧ (u.eng e).k = Vector.replicate 16 0
          ∧ (u.eng e).link = [] ∧ (u.eng e).loops = [])
      ∧ (∀ q : Fin 8, q ≠ 0 → u.readP q = false)
      ∧ (∀ r : Fin 32, u.readS r = if 1 ≤ r.val ∧ r.val ≤ 8 then BitVec.ofNat 64 (Rec.u t.record (0x38 + 8 * r.val) 8) else 0))
  ∧ (∀ (s : State) (x : Saved) (id n : Nat) (p : Placement) (ranges : Vector RangeReg 16),
    let c := (s.restored x id n p ranges).coreAt n
    c.s = x.core.s ∧ c.p = x.core.p ∧ ∀ e, (c.eng e).pc = (x.core.eng e).pc ∧ (c.eng e).k = (x.core.eng e).k
      ∧ (c.eng e).link = (x.core.eng e).link ∧ (c.eng e).loops = (x.core.eng e).loops)

/-- R337 to R339, R352, R369 to R372, R376: a round asks for its victim's cores; a quiesced core, and after 2^20 cycles any one, is saved
once it owes nothing, its transfers discarded with some of their writes made (logs 36, 78); its save done it leaves its task. A budget that
has run out is owed by every core of the gang and taken at a word's boundary after 2^20 cycles (log 45). A unit's answer reaches S, and a
core blocked for 256 cycles traps (log 70). -/
def Obligations.PreemptionAndBudgets : Prop :=
  (∀ (s : State) (d h : Nat) (t : Task) (v : Nat × Task) (rest : List (Nat × Task)) (ds : List Nat) (share : Nat), d < 4 →
    let x := s.die d
    let w := (s.queueOf t.queue).preemptWait
    x.holder = some h → SMap.find? s.tasks h = some t → w ≠ 0 → x.since + w < s.fabric → x.victims = [] →
    s.gangShape t = some (ds, share) → s.victimOrder s.ranks (SMap.get 0 s.ranks h) ds = v :: rest →
    (s.ctxOf v.2.ctx).slotsused + v.2.gangSize ≤ (s.ctxOf v.2.ctx).saveslots →
    let held (d : Nat) : Nat := if (s.die d).holder = some h then (s.die d).reserved.length else 0
    (∃ d ∈ ds, held d < share) → (∀ d ∈ ds, share ≤ held d + v.2.coresOn d) →
      let u := v.2.cores.foldl (fun s n => s.modCoreAt n (fun c =>
        if c.preempt.isSome then c else { c with preempt := some (s.cycleOf n), preemptGroup := none })) s
      exec (.preemptionRound d) s = .next (u.setDie d { u.die d with victims := [(v.1, v.2.resumeAt)] }))
  ∧ (∀ (s : State) (n : Nat), s.victimCore n = true → (s.coreAt n).collInFlight = false →
    let c := s.coreAt n
    (c.trap.mode = false → c.quiesced = true → exec (.softPreemption n) s = .next
      (if c.started then (s.discardTransfers n).modCoreAt n (fun c => { c with started := false })
       else if s.coreSettled n then s.putSave n (c.applyFills.softSaved.saved (s.cycleOf n)) [] false else s.cleanCore n))
    ∧ (∀ at_, c.preempt = some at_ → at_ + 2 ^ 20 ≤ s.cycleOf n → (c.quiesced = true → c.trap.mode = true) →
      (c.started = true → exec (.hardPreemption n) s = .next
        ((s.discardTransfers n).modCoreAt n (fun c => { c with started := false, phase := none })))
      ∧ (c.started = false → c.unit = none → c.flights = [] →
        let rs := s.withdrawable n
        exec (.hardPreemption n) s = .next
          (if (s.withdraw rs).coreSettled n then (s.withdraw rs).putSave n (c.applyFills.saved (s.cycleOf n)) rs true else s.cleanCore n))))
  ∧ (∀ (s : State) (n id : Nat) (t : Task), (s.coreAt n).task = some id → SMap.find? s.tasks id = some t → t.st = .running →
    (s.coreAt n).started = false → s.saves.any (fun x => x.task == id && x.place == (s.coreAt n).gangPos) = true →
      let b := s.modCoreAt n (fun c => c.leave (some t.ctx))
      let left := t.cores.filter (· != n)
      (left ≠ [] → exec (.saveComplete n) s = .next (b.setTask id { t with cores := left }).topUpAll)
      ∧ (left = [] →
        let u := b.setTask id { t with cores := [], st := .preempted, budgetUsed := t.budgetUsed + (s.fabric - t.resumeAt) }
        exec (.saveComplete n) s = .next ((u.pinLayers t.ctx t.layers false).settleContext t.ctx).topUpAll))
  ∧ (∀ (s : State) (id : Nat) (t : Task), SMap.find? s.tasks id = some t → t.deadlineClass = true → t.st = .running →
    s.budgetLeft t = 0 → exec (.budgetExhaustion id) s = .next (t.cores.foldl (fun s n => s.modCoreAt n (fun c =>
      if c.budget.isSome ∨ c.budgetTaken then c else { c with budget := some (s.cycleOf n) })) s))
  ∧ (∀ (s : State) (n since : Nat),
    let b : State := { s with cur := n }
    let c := b.core
    (c.budget = some since → since + 2 ^ 20 ≤ b.cycleOf n → c.started = true → c.trap.mode = false → c.engS.ended = false →
      c.unit = none → c.phase = none → c.engS.pause = none →
        exec (.budgetBoundaryTrap n) s = .next { (b.setCore { c with budget := none, budgetTaken := true }).takeTrap .S c.engS.pc
          { cause := 9, info := 1 } with cur := s.cur })
    ∧ (∀ u v, c.unit = some u → u.answer = some v →
      let a := match u.cmd with | .fswait _ _ _ => b.acquire .pkg | _ => b
      exec (.unitReply n) s = .next
        { (a.modCore (fun c => { c.writeS u.d (BitVec.ofNat 64 v) with unit := none })).finishSig .S u.id with cur := s.cur })
    ∧ (∀ e, c.started = true → c.trap.mode = false → c.phase = none → c.preempt = none → c.journal = [] → c.flights = [] →
      (∀ e, (c.eng e).ended = true ∨ (c.blockOf e).isSome = true) → Engine.all.find? (fun e => (c.blockOf e).isSome) = some e →
        (c.blockedSince = some since → since + 256 ≤ b.cycleOf n → exec (.coreDeadlock n) s = .next
          { (b.setCore { c with blockedSince := none }).takeTrap e (c.eng e).pc { cause := 8, info := c.deadlockInfo } with cur := s.cur })
        ∧ (c.blockedSince = none → exec (.coreDeadlock n) s = .next
          { b.setCore { c with blockedSince := some (b.cycleOf n) } with cur := s.cur })))

/-! ### The governor and the residency manager -/

/-- R201, R205, R215, R360 to R364: the governor answers a GOVEVAL first, else evaluates the first pending TMR, once the updates that came
before are done; a core's statistics merge; a requested layer takes free pages, and tables where its range lacks them (log 97), and
becomes RESIDENT when its bytes are in place, or FAILED; one larger than the region fails; an eviction drops its pages (logs 41, 53). -/
def Obligations.ManagersAct : Prop :=
  (∀ (s : State) (d ctx idx core : Nat), d < 4 → firstAsk (s.die d).asks = some (ctx, idx, core) → s.mayEvaluate ctx idx = true →
    let rest := (s.die d).asks.erase (ctx, idx, core)
    let b := s.setDie d { s.die d with asks := rest }
    let r := (b.modTmr ctx idx (fun t => Tmr.setPend t (rest.any (fun a => a.1 == ctx && a.2.1 == idx)))).evaluate ctx idx
    ∀ u, (r.1.coreAt core).unit = some u → u.arg2 = 0 → exec (.governorEvaluation d) s = .next
      (r.1.modCoreAt core (fun c => { c with unit := some { u with answer := some (govStatus (r.1.tmr ctx idx) r.2) } })))
  ∧ (∀ (s : State) (d ctx idx : Nat), d < 4 → (s.die d).asks = [] → s.pendingTmr d = some (ctx, idx) →
    (s.mayEvaluate ctx idx = true → exec (.governorEvaluation d) s =
      .next ((s.modTmr ctx idx (fun t => Tmr.setPend t false)).evaluate ctx idx).1)
    ∧ (s.mayEvaluate ctx idx = false → exec (.governorEvaluation d) s = .next (s.tmrSnoop ctx idx)))
  ∧ (∀ (s : State) (n k id : Nat) (x : StatSlot) (t : Task), (s.coreAt n).stats[k]? = some x →
    ((s.coreAt n).allDone || ((s.coreAt n).preempt.isSome && !(s.coreAt n).started)) = true →
    (s.coreAt n).stats.find? (fun y => y.tmr == x.tmr) = some x → (s.coreAt n).task = some id → SMap.find? s.tasks id = some t →
      let clear (y : StatSlot) : Option StatSlot :=
        if y.tmr = x.tmr then (if y.rebound.isSome then some { y with counts := {} } else none) else some y
      exec (.statsMerge n k) s = .next ((s.updateTmr t.ctx x.tmr (.merge n x.counts)).modCoreAt n (fun c =>
        { c with stats := c.stats.filterMap clear })))
  ∧ (∀ (s : State) (d ctx l : Nat) (e : LayerEntry) (rest : List (Nat × Nat × LayerEntry)), d < 4 →
    let b := (s.wanted d).foldl (fun s x => s.layerTouch x.1 x.2.1) s
    let x := b.layer ctx l
    let free := b.freePages d
    (s.wanted d).all (fun x => s.layerReady x.1 x.2.1) = true →
    ((b.dieLayers d).filter (fun x => x.2.2.st == .arriving)).length < 16 → b.requested d = (ctx, l, e) :: rest →
      (b.resSize d < pageSize * e.size → exec (.layerArrivalStart d) s = .next (b.requestAbsent ctx l x))
      ∧ (pageSize * e.size ≤ b.resSize d → e.size + b.tablesLacked ctx e.ibase e.size ≤ free.length →
        let y : Layer := { x with st := .arriving, pages := free.take e.size, ibase := e.ibase, source := (e.srckind, e.peer, e.srcaddr) }
        exec (.layerArrivalStart d) s = .next (((b.setLayer ctx l y).growRes ctx (pageSize * e.size) true).mapLayer ctx y true)))
  ∧ (∀ (s : State) (ctx l code : Nat), ctx < 64 → l < 1024 →
    let x := s.layer ctx l
    (x.st = .arriving → x.met ≠ some s.fabric →
      (s.sourceFails ctx x = none → ∃ t, exec (.layerArrivalComplete ctx l) s = .next t
        ∧ t.layer ctx l = { x with st := .resident, req := false, access := s.fabric })
      ∧ (∀ k, s.sourceFails ctx x = some k → exec (.layerArrivalComplete ctx l) s = .next
          ((s.dropPages ctx l .failed false k).logLayer ctx x.ibase)))
    ∧ (x.st = .arriving → x.met ≠ some s.fabric → code ≠ 4 →
      (code = 2 ∨ x.source.1 ≠ 0 ∧ (code = 1 ∨ code = 3) ∨ s.sourceFails ctx x = some code) →
      exec (.layerArrivalFail ctx l code) s = .next ((s.dropPages ctx l .failed false code).logLayer ctx x.ibase))
    ∧ (x.st = .evicting → x.chosen ≠ some s.fabric →
      (∀ r ∈ s.coh.reqs, ∀ p ∈ x.pages, ¬ (p ≤ paOf r.addr ∧ paOf r.addr < p + pageSize)) → exec (.layerEvictionComplete ctx l) s = .next
      (s.dropPages ctx l .absent (x.req || x.pins != 0 || x.lpins != 0) 0)))

/-! ### Management -/

/-- R324, R356, R357, R392 to R394, R397 to R401, R414, R421, R424, R425: what the management writes of a master that the tables open
and that owns control do (logs 48 to 51); CLAIM and ACCEPT are open to every control master; a write that may not be made changes no
register. A queued error event is raised one in a cycle, and stored at its end (log 51). -/
def Obligations.ManagementWrites : Prop :=
  ∀ (s : State) (m : Master) (ctx die off n : Nat) (v : Word64) (w : Word32) (bs : List Byte) (dest : BitVec 3),
    let may (block : Nat) : Prop := s.mayManage m block = true
    let owns (block : Nat) : Prop := may block ∧ s.mgmt.owner = Master.code m
    let g := s.mgmt
    let put (f : Mgmt → Mgmt) : Host.Outcome State Fault Refusal := .next { s with mgmt := f g }
    (ctx < 64 → owns 0 →
      ((s.ctxOf ctx).valid = false → ∃ t, exec (.contextValidSet m ctx) s = .next t ∧
        t = (List.range (min (s.ctxOf ctx).lcount 1024)).foldl (fun s l => s.zeroLayerWord ctx l) (s.setCtx ctx
          { s.ctxOf ctx with valid := true, layers := [], scopes := [], taskSeq := 0, slotsused := 0, lresb := 0 }))
      ∧ ((s.ctxOf ctx).valid = true → (∀ e ∈ s.tasks, e.2.ctx = ctx → e.2.st = .retired) →
        ∃ t, exec (.contextValidClear m ctx) s = .next t ∧ (t.ctxOf ctx).valid = false)
      ∧ exec (.seedWrite m ctx v) s = .next (s.setCtx ctx { s.ctxOf ctx with seed := v }))
    ∧ (owns 4 →
      (g.sdBusy = false → exec (.sdGo m) s = .next (State.modMgmt (s.dropTlb g.shotDown) (fun g =>
        { g with sdBusy := true, sdWaits := s.coh.reqs.map (·.id) })))
      ∧ (s.pageLock g.mgCtx g.mgPage = none → exec (.mgReq m) s = put (fun g => { g with mgRes := 3 }))
      ∧ (∀ p, s.pageLock g.mgCtx g.mgPage = some p → p.held = false → exec (.mgReq m) s =
          .next ((s.takeLock p).modMgmt (fun g => { g with mgRes := 1 })))
      ∧ (∀ p, s.pageLock g.mgCtx g.mgPage = some p → p.held = true →
          ∃ t u, exec (.mgDone m) s = .next t ∧ t = State.putLock u p false ∧ u.mem = s.mem ∧ ∀ e ∈ u.tasks, e.2.waits = false))
    ∧ ((g.sdBusy = true → (∀ r ∈ s.coh.reqs, r.id ∈ g.sdWaits → s.held r = true) →
        exec .shootdownComplete s = put (fun g => { g with sdBusy := false, sdWaits := [], sdDone := (g.sdDone + 1) % 2 ^ 32 })))
    ∧ (may 3 →
      let own (o : Nat) (claimed : Option Nat) (g : Mgmt) : Mgmt :=
        { g with owner := o, epoch := (g.epoch + 1) % 2 ^ 32, offer := 0, hbSince := s.fabric, claimAt := claimed }
      (g.owner = 0 → exec (.claim m) s = put (own (Master.code m) (some s.fabric)))
      ∧ (g.owner ≠ 0 → g.claimAt ≠ some s.fabric → exec (.claim m) s = .next s)
      ∧ (g.offer = Master.code m → exec (.accept m) s = put (own (Master.code m) none))
      ∧ (g.owner = Master.code m → (dest.toNat ≤ 4 → exec (.handover m dest) s = put (fun g => { g with offer := dest.toNat }))
          ∧ exec (.heartbeat m) s = put (fun g => { g with hbSince := s.fabric })))
    ∧ (g.owner ≠ 0 → g.hblimit < s.hbAge → exec .heartbeatExpiry s = put (fun g =>
        { g with owner := 0, epoch := (g.epoch + 1) % 2 ^ 32, offer := 0, hbSince := s.fabric, claimAt := none }))
    ∧ (owns 5 → s.tcHeld g.tcSel = true →
      let b : State := { s with cur := g.tcSel }
      exec (.tcPcWrite m v) s = .next { b.modCore (fun c => { c with trap := c.trap.write 2 v }) with cur := s.cur }
        ∧ exec (.tcActResume m) s = .next { b.leaveTrapMode with cur := s.cur }
        ∧ exec (.tcActAbandon m) s = .next { b.abandon g.tcSel false with cur := s.cur })
    ∧ (owns 6 → die < 4 → (s.die die).logCons ≤ w.toNat → w.toNat ≤ (s.die die).logWr →
        exec (.logConsWrite m die w) s = .next (s.setDie die { s.die die with logCons := w.toNat }))
    ∧ (off < 0x800000 → owns (off / 0x100000) → exec (.mgmtRegisterWrite m off bs) s =
        .next (s.putMgmt off (bs.take (0x100000 - off % 0x100000))))
    ∧ (die < 4 → ∀ r rs, ((s.die die).channel n).queue = r :: rs → ((s.die die).channel n).last ≠ some s.fabric →
        let c := (s.die die).channel n
        let k := satCount (c.count + 1)
        exec (.errorEventQueued die n) s = .next (s.setDie die
          (((s.die die).setChannel n { c with count := k, last := some s.fabric, queue := rs }).stage n (withCount r k))))
    ∧ (s.mayManage m (off / 0x100000) = false ∨ g.owner ≠ Master.code m → off < 0x800000 → m ≠ .mgmt → (∀ k, m ≠ .function k) →
        exec (.mgmtRegisterWrite m off bs) s = .next s)
    ∧ (∀ k : Fin 16, off < 0x800000 → exec (.mgmtRegisterWrite (.function k) off bs) s = .next
        (if off < 0x10000 ∧ off % 64 = 0x34 ∧ bs.length = 4 ∧ s.assigned k (off / 64) true = true then s.putMgmt off bs else s))

/-! ### Recovery, power and resets -/

/-- R402 to R404, R418, R420, R426, R428 to R435: a scrub decodes its stack's next line; a worn row is remapped and logged; firmware's
bytes enter the window and the mailbox answers (log 18); a power step moves every island to the point its limits allow, at most once in a
millisecond, and a change ends after its 200 ns; an hour after the last pass a reading of each island moves its supply (log 47); an island with no
bound core sleeps once it owes nothing and wakes. A worn row takes a spare that no remap of its bank has, or is refused once (logs 16, 71). A
reset leaves device memory zero and the host's as it was, bring-up at step 6 with the remaps kept where the images verify (log 17), else
recovery mode with none. -/
def Obligations.PowerAndRecovery : Prop :=
  ∀ (s : State) (k row spare island watts temp off : Nat) (m : Master) (bs : List Byte) (code : Byte) (rs : List Reading),
    (k < 8 → s.rcv.scrubH ≠ 0 → s.ready = true →
      let o := SMap.get 0 s.rcv.scrubAt k
      let t := s.readDecode (s.unplace k o)
      exec (.scrubRead k) s = .next { t with rcv := { t.rcv with scrubAt := SMap.put t.rcv.scrubAt k ((o + 64) % 64000000000) } })
    ∧ (k < 8 → spare < 64 → s.rcv.pprTh ≠ 0 → s.rcv.pprTh ≤ SMap.get 0 s.rcv.rowErrors (2 ^ 36 * k + row) →
      (∀ i, i < 64 → remapValid (s.remap (64 * k + i)) = true → remapRow (s.remap (64 * k + i)) ≠ row % 2 ^ 36) →
      (s.sparesUsed k row).contains spare = false → ∀ n, ((List.range 64).map (64 * k + ·)).find? (fun n => !remapValid (s.remap n)) = some n →
        let t := (s.rowLines k row).foldl (fun s l => s.readDecode l) s
        let w := remapWord row spare
        exec (.rowRepair k row spare) s = .next (State.logRow
          { t with rcv := { t.rcv with remap := SMap.put t.rcv.remap n w, kept := SMap.put t.rcv.kept n w } } k row 4))
    ∧ (k < 8 → 64 ≤ spare → s.rcv.pprTh ≠ 0 → s.rcv.pprTh ≤ SMap.get 0 s.rcv.rowErrors (2 ^ 36 * k + row) →
      (∀ i, i < 64 → remapValid (s.remap (64 * k + i)) = true → remapRow (s.remap (64 * k + i)) ≠ row % 2 ^ 36) →
        exec (.rowRepair k row spare) s = .next (if s.rcv.refused.contains (2 ^ 36 * k + row) then s
          else State.logRow { s with rcv := { s.rcv with refused := (2 ^ 36 * k + row) :: s.rcv.refused } } k row 5))
    ∧ (off < 0x10000 → (s.power.recov = true ∧ Master.code m ≤ 4) ∨ s.mayManage m 0 = true ∧ s.mgmt.owner = Master.code m →
      exec (.firmwareUpdateWrite m off bs) s = .next { s with rcv := { s.rcv with
        fwWindow := SMap.setRange 0 s.rcv.fwWindow off (bs.take (0x10000 - off)) } })
    ∧ (∃ t tail, exec (.spdmRequest code bs) s = .next t ∧ t.mem = s.mem
        ∧ t.rcv.spdm = (if code = 0x84 then 0x10 else 0x12) :: spdmResponse code :: tail)
    ∧ (msCycles = 3300000 ∧ hourCycles = 3600 * 3300000000)
    ∧ ((∀ at_, s.power.stepped = some at_ → at_ + msCycles ≤ s.fabric) → exec (.powerStep watts temp) s = .next
        ((List.range 512).foldl (fun t n => (t.endPointChange n).stepIsland n)
          { s with power := { s.power with now := min watts 2640, tjMax := temp % 256, stepped := some s.fabric } }))
    ∧ (∀ at_, s.power.stepped = some at_ → s.fabric < at_ + msCycles → exec (.powerStep watts temp) s = .next s)
    ∧ (let i := s.island island
       (i.asleep = false → i.changing = none → s.islandBound island = true → s.power.over = false → s.power.under = false →
          ∃ t, s.stepIsland island = t ∧ (t.island island).op = max i.opcap (max i.demote.toNat i.slowed))
       ∧ (∀ at_, i.changing = some at_ → at_ ≤ s.fabric → ∃ t, exec (.pointChangeEnd island) s = .next t
          ∧ t.island island = (match i.waits with
              | some x => Island.reading { i with changing := none, waits := none } x | none => { i with changing := none })
          ∧ t.mem = s.mem)
       ∧ (island < 512 → i.asleep = false → i.changing = none → s.islandBound island = false →
          (∀ n ∈ islandCores island, s.coreSettled n = true) →
          ∃ t, exec (.retentionSleepEntry island) s = .next t ∧ (t.island island).asleep = true ∧ t.mem = s.mem ∧ t.cores = s.cores)
       ∧ (i.asleep = true → ∃ t, exec (.retentionWake island) s = .next t ∧ (t.island island).asleep = false ∧ t.mem = s.mem
          ∧ ∀ n, n ∉ islandCores island → t.coreAt n = s.coreAt n))
    ∧ (s.fabric < s.power.passed + hourCycles → exec (.tenteringPass rs) s = .next s)
    ∧ (s.power.passed + hourCycles ≤ s.fabric → ∃ t, exec (.tenteringPass rs) s = .next t ∧ t.mem = s.mem ∧ t.cores = s.cores
        ∧ t.power.tentRuns = (s.power.tentRuns + 1) % 2 ^ 32 ∧ t.power.passed = s.fabric
        ∧ ∀ n, n < 512 → ∃ v, (∀ x, rs.find? (fun r => r.island == n) = some x → v = x.slack)
          ∧ t.island n = (let i := s.island n
              if i.changing.isSome then { i with waits := some v } else i.reading v))
    ∧ (∀ i kept, (i, kept) ∈ [(Instr.powerOnReset, []), (.deviceReset, s.rcv.kept)] →
        ∃ t, exec i s = .next t ∧ t.mem = s.mem.filter (fun e => isHost e.1) ∧ t.side = s.side.filter (fun e => isHost e.1)
          ∧ t.cores = State.reset.cores ∧ t.fabric = 0
          ∧ (if Config.imagesVerify s.nextId = true ∧ s.regionsOk s.nextImage = true then
              t.power.stage = 6 ∧ t.power.recov = false ∧ t.rcv.remap = kept
                ∧ t.mgmt = (State.reset.loadImage s.nextImage).mgmt
             else t.power.stage = 1 ∧ t.power.recov = true ∧ t.rcv.remap = []))

/-! ### Decoding, the step, and what holds in every state -/

/-- R53 to R59, R68: words of the spec's own examples, one or more of each family and format, decode to what they stand for; a
reserved opcode, a reserved bit and a reserved value are rejected. -/
def Obligations.SpecWordsDecode : Prop :=
  let h : Hdr := ⟨.none, .none, 0, false⟩
  let on (e : Engine) (w : Word64) (i : Instr) : Prop := decode e w = .ok i
  let no (e : Engine) (w : Word64) (x : Illegal) : Prop := decode e w = .error x
  (on .S 0x0000_3710_0000_0000 (.li h 2 0) ∧ on .S 0x0000_0208_0010_0001 (.loop .S h 2 (.reg 1))
      ∧ on .S 0x0000_3018_C000_0001 (.addi h 3 3 1) ∧ on .S 0x0000_1010_8600_0000 (.add h 2 2 3)
      ∧ on .S 0x0000_4108_8380_0064 (.cmpi h .gt 1 2 100) ∧ on .S 0x0000_0A20_0000_0012 (.trap .S { h with guard := 1 } 0x12)
      ∧ on .S 0x0000_5719_0001_0000 (.fcvt h .rz false .f32i32 3 4)
      ∧ on .S 0x0000_6029_3618_0010 (.ld h .own .pkg .b8 false 5 4 16) ∧ on .S 0x0000_613A_C618_0000 (.st h .si .pkg .b8 7 11 0)
      ∧ on .S 0x0000_6242_C014_0000 (.lds h .b4 true 8 11 0) ∧ on .S 0x0000_6500_4000_0030 (.flush h 1 48)
      ∧ on .S 0x0000_6830_5015_9800 (.atom h .fmax .wt .pkg .none 6 1 8 0)
      ∧ on .S 0x0000_6900_506A_9808 (.red { h with guard := 1, neg := true } (.maxs false) .wt .pkg false 1 8 8)
      ∧ on .S 0x0000_0B09_8000_0000 (.fence .S h .rel .pkg) ∧ on .S 0x0000_0350_FFFF_FFFD (.brSb { h with guard := 2, neg := true } false (-3)))
    ∧ (on .V 0x0000_1010_0000_0000 (.kli .V h 1 0) ∧ on .V 0x0000_2000_7800_0004 (.vshape h 0 15 .f32 (.imm 4))
      ∧ on .V 0x0000_2100_1FC0_0000 (.vld h 0 1 63 0) ∧ on .V 0x0043_2201_1FC0_0004 (.vst { h with sig := .push 0 3 } 1 1 63 4)
      ∧ on .V 0x0000_3001_0000_0000 (.vadd h 0 false .rne false 1 0 0)
      ∧ on .V 0x4745_3303_0102_0300 (.vfma { h with wait := .pop 0 7, sig := .push 0 5 } 0 false .rne false 3 1 2 3)
      ∧ on .V 0x0000_6802_0100_0000 (.vred h 0 false (.sum .rne false) false 2 1)
      ∧ on .V 0x0000_7002_0003_0004 (.vdrain h 0 false .rna false 2 0 3))
    ∧ (on .M 0x0000_200C_3000_0400 (.mshape h .e4m3 .e4m3 .none false 0 0 2)
      ∧ on .M 0x8100_2110_0040_4008 (.wld { h with wait := .full 1 } 1 0 4 1 false 8)
      ∧ on .M 0x4447_2200_0010_0000 (.mma { h with wait := .pop 0 4, sig := .push 0 7 } 0 0 1 0) ∧ on .M 0x0000_2600_0000_0000 (.wclr h)
      ∧ on .C 0x0000_2014_8004_2600 (.copy h 5 2 0x10 .wt .pkg false)
      ∧ on .C 0x8500_2A14_8008_0801 (.send { h with wait := .full 5 } 5 2 0x20 .si true) ∧ on .M 0x0000_0100_0000_0000 (.endw .M h))
    ∧ (no .S 0x0000_0352_FFFF_FFFD (.reservedValue 32) ∧ no .S 0x0000_2600_0000_0000 .reservedOp
      ∧ no .M 0x0000_2600_0000_0001 (.reservedBit 0) ∧ no .M 0x0000_200C_3000_0000 (.reservedValue 9))

/-- R32, R53 to R65: the word of every well-formed instruction decodes on its engine to that instruction, every operand at every
value that its encoding admits. -/
def Obligations.EncodingRoundTrip : Prop :=
  ∀ i : Instr, i.wellFormed = true → ∃ e, i.engine? = some e ∧ decode e (encode i) = .ok i

/-- R38, R41 to R46, R68: an engine has one turn in a cycle of its core, in engine order, the cores' cycles in the order of their starts
(R138; log 1); the turn of one that may issue fetches the word at its PC, in its ring's window, and runs the instruction that it decodes
to, a use of a loaded register noted (R44, R238); a word that is none traps, as does a slot with a soft error (R419; log 77), a PC at or
past the stream's end traps with subcode 0x09, and an engine that may not issue, or whose word is not resident, issues nothing. The turn
of an event runs it, and an error of the memories, an eviction (logs 34, 100), a piece of a transfer (log 107) and a management read (log 48) act in theirs.
Before each turn what time brings is done (R234, R281). -/
def Obligations.StepRunsTheWord : Prop :=
  ∀ (s : State) (n : Nat) (e : Engine) (i : Instr),
    let t := s.takeTurn.2.between
    let a := s.takeTurn.1.act
    let b := State.sampleCycle { t with cur := n, edge := t.edgeOf n }
    let u := b.settle e
    let g := u.core.eng e
    let r := if e = .S ∧ u.core.trap.mode = true then u.core.trapRing else g.ring
    let slots := if e = .S ∧ u.core.trap.mode = true then 256 else Part.ringWords u.core.part e
    let w := SMap.get 0 r.slots (g.pc % slots)
    let traps (x : TrapInfo) : Prop := step s = .next (u.takeTrap e g.pc x)
    (a = .event i → (i.parts = none → step s = exec i t) ∧ (i.parts ≠ none → step s = .next t))
    ∧ (∀ x, a = .upset x → step s = .next (t.upset x))
    ∧ (∀ x, a = .evict x → step s = .next (t.evict x))
    ∧ (∀ k p, a = .piece n k p → step s = .next (if coreExists n then t.makePiece n k p else t))
    ∧ (∀ m off, a = .read m off → step s = .next (t.readMgmt m off))
    ∧ (a = .engine n e → coreExists n = false → step s = .fault .noSuchCore)
    ∧ (a = .engine n e → coreExists n = true → t.edgeOf n < t.edge → step s = .next { t with cur := n })
    ∧ (a = .engine n e → coreExists n = true → t.edge ≤ t.edgeOf n →
      (b.core.turnLeft e = false → step s = .next b)
      ∧ (b.core.turnLeft e = true → u.mayIssue e = false → step s = .next u)
      ∧ (b.core.turnLeft e = true → u.mayIssue e = true →
        (u.core.streamLen e ≤ g.pc → traps { cause := 1, info := 0x09 })
        ∧ (g.pc < u.core.streamLen e →
          (g.pc < r.base ∨ r.base + slots ≤ g.pc → step s = .next u)
          ∧ (r.base ≤ g.pc → g.pc < r.base + slots →
            (u.core.ringFault e = true → step s = .next ((u.logSram e u.softTrap).takeTrap e g.pc u.softTrap))
            ∧ (u.core.ringFault e = false →
              (decode e w = .ok i → step s = exec i (u.noteUses e i))
              ∧ (decode e w = .error .reservedOp → traps { cause := 1, info := 0x01 })
              ∧ (∀ p, decode e w = .error (.reservedBit p) → traps { cause := 1, info := 0x02 + 2 ^ 8 * p })
              ∧ (∀ p, decode e w = .error (.reservedValue p) → traps { cause := 1, info := 0x03 + 2 ^ 8 * p }))))))

/-- R16, R324, R356, R393, R400, R421, R425, R428, R429: what the spec says a reset leaves: no context, queue, task or owner, every core
free, TIME at 0, device memory zero, and the management registers with a reset column of 0 at 0. That the machine starts past step 7
of bring-up is the model's choice (log 3). -/
def Obligations.ResetState : Prop :=
  let s := State.reset
  (∀ q i, (s.queueOf q).word i = 0) ∧ (∀ c i, (s.ctxOf c).word i = 0) ∧ (∀ off, s.mgmt.word4 off = 0) ∧ s.word3 0 = 0
    ∧ (∀ d off, (s.die d).word6 off = 0) ∧ (∀ off, 0x100 ≤ off → s.rcv.word7 off = 0) ∧ s.tasks = [] ∧ s.saves = [] ∧ s.coh.reqs = []
    ∧ s.time = 0 ∧ (∀ a, s.mem.read a = 0) ∧ (∀ a, SMap.get (0 : BitVec 32) s.side a = 0)
    ∧ ∀ n, s.cycleOf n = 0 ∧ (s.coreAt n).task = none ∧ (s.coreAt n).started = false ∧ (s.coreAt n).trap.mode = false
      ∧ (s.coreAt n).journal = [] ∧ (s.coreAt n).flights = []

/-- The memory and its sideband stand in canonical form at reset. -/
def Obligations.ResetMemoryOk : Prop := MemoryOk State.reset

/-- Every step keeps memory and its sideband in canonical form, from any state that has them so: an engine's turn and every event
alike. -/
def Obligations.StepKeepsMemoryOk : Prop := ∀ s t : State, MemoryOk s → step s = .next t → MemoryOk t
end

