-- ==== Sys2Proof/Laws/Store.lean ====
section
/-! SUPPORT. Laws of the sparse stores: reading after writing, and that every operation keeps the canonical form. -/

namespace Sys2Proof.Laws

open Sys2Proof.Machine

variable {α : Type}

/-- Whether every key of a store lies above a bound. -/
def Above (lo : Option Nat) (k : Nat) : Prop := match lo with | none => True | some l => l < k

section DecEq
variable [DecidableEq α] (d : α)

theorem wfFrom_cons (lo : Option Nat) (k : Nat) (v : α) (m : SMap α) :
    SMap.wfFrom d lo ((k, v) :: m) = true ↔ Above lo k ∧ v ≠ d ∧ SMap.wfFrom d (some k) m = true := by
  cases lo <;> simp [SMap.wfFrom, Above, and_assoc]

theorem wfFrom_weaken (m : SMap α) (lo lo' : Option Nat) (hlo : ∀ k, Above lo k → Above lo' k)
    (h : SMap.wfFrom d lo m = true) : SMap.wfFrom d lo' m = true := by
  cases m with
  | nil => rfl
  | cons e m => obtain ⟨k, v⟩ := e; rw [wfFrom_cons] at *; exact ⟨hlo _ h.1, h.2⟩

theorem wfFrom_put (m : SMap α) (lo : Option Nat) (j : Nat) (x : α) (hj : Above lo j) (hx : x ≠ d)
    (h : SMap.wfFrom d lo m = true) : SMap.wfFrom d lo (SMap.put m j x) = true := by
  induction m generalizing lo with
  | nil => simp only [SMap.put]; rw [wfFrom_cons]; exact ⟨hj, hx, rfl⟩
  | cons e m ih =>
    obtain ⟨k, v⟩ := e
    rw [wfFrom_cons] at h
    simp only [SMap.put]
    split
    · subst_vars; rw [wfFrom_cons]; exact ⟨hj, hx, h.2.2⟩
    · split
      · rw [wfFrom_cons, wfFrom_cons]; exact ⟨hj, hx, ‹_›, h.2⟩
      · rw [wfFrom_cons]; exact ⟨h.1, h.2.1, ih (some k) (show k < j by omega) h.2.2⟩

theorem wfFrom_erase (m : SMap α) (lo : Option Nat) (j : Nat) (h : SMap.wfFrom d lo m = true) :
    SMap.wfFrom d lo (SMap.erase m j) = true := by
  induction m generalizing lo with
  | nil => rfl
  | cons e m ih =>
    obtain ⟨k, v⟩ := e
    have h' := (wfFrom_cons d lo k v m).1 h
    simp only [SMap.erase]
    split
    · refine wfFrom_weaken d m (some k) lo ?_ h'.2.2
      intro i hi
      cases lo with
      | none => trivial
      | some l => exact Nat.lt_trans h'.1 hi
    · split
      · exact h
      · rw [wfFrom_cons]; exact ⟨h'.1, h'.2.1, ih _ h'.2.2⟩

theorem wf_set (m : SMap α) (j : Nat) (x : α) (h : SMap.wf d m = true) : SMap.wf d (SMap.set d m j x) = true := by
  unfold SMap.wf SMap.set at *
  split
  · exact wfFrom_erase d m none j h
  · exact wfFrom_put d m none j x trivial ‹_› h

theorem wf_setRange (m : SMap α) (j : Nat) (xs : List α) (h : SMap.wf d m = true) :
    SMap.wf d (SMap.setRange d m j xs) = true := by
  induction xs generalizing m j with
  | nil => exact h
  | cons x xs ih => exact ih _ _ (wf_set d m j x h)

theorem wfFrom_filter (p : Nat × α → Bool) (m : SMap α) (lo : Option Nat) (h : SMap.wfFrom d lo m = true) :
    SMap.wfFrom d lo (m.filter p) = true := by
  induction m generalizing lo with
  | nil => rfl
  | cons e m ih =>
    obtain ⟨k, v⟩ := e
    have h' := (wfFrom_cons d lo k v m).1 h
    have hk : ∀ i, Above (some k) i → Above lo i := by
      intro i hi
      cases lo with
      | none => trivial
      | some l => exact Nat.lt_trans h'.1 hi
    rw [List.filter_cons]
    split
    · rw [wfFrom_cons]; exact ⟨h'.1, h'.2.1, ih _ h'.2.2⟩
    · exact wfFrom_weaken d _ (some k) lo hk (ih _ h'.2.2)

theorem wf_filter (p : Nat × α → Bool) (m : SMap α) (h : SMap.wf d m = true) : SMap.wf d (m.filter p) = true :=
  wfFrom_filter d p m none h

end DecEq

/-! ### Reading after writing, in every store -/

theorem get_put_self (d : α) (m : SMap α) (j : Nat) (x : α) : SMap.get d (SMap.put m j x) j = x := by
  induction m with
  | nil => simp [SMap.put, SMap.get]
  | cons e m ih =>
    obtain ⟨k, v⟩ := e
    simp only [SMap.put]
    split
    · simp [SMap.get]
    · split
      · simp [SMap.get]
      · simp only [SMap.get]
        rw [if_neg ‹_›]; exact ih

theorem put_put (m : SMap α) (j : Nat) (x y : α) : SMap.put (SMap.put m j x) j y = SMap.put m j y := by
  induction m with
  | nil => simp [SMap.put]
  | cons e m ih =>
    obtain ⟨k, v⟩ := e
    simp only [SMap.put]
    split
    · simp [SMap.put]
    · split
      · simp [SMap.put]
      · next h1 h2 => simp only [SMap.put, if_neg h1, if_neg h2, ih]

theorem get_put_other (d : α) (m : SMap α) (j i : Nat) (x : α) (hij : i ≠ j) :
    SMap.get d (SMap.put m j x) i = SMap.get d m i := by
  induction m with
  | nil => simp only [SMap.put, SMap.get]; rw [if_neg (Ne.symm hij)]
  | cons e m ih =>
    obtain ⟨k, v⟩ := e
    simp only [SMap.put]
    split
    · subst_vars; simp only [SMap.get]; rw [if_neg (Ne.symm hij), if_neg (Ne.symm hij)]
    · split
      · simp only [SMap.get]
        rw [if_neg (Ne.symm hij)]
      · simp only [SMap.get]; rw [ih]

/-- Below a canonical store's keys nothing is listed. -/
theorem get_below [DecidableEq α] (d : α) (m : SMap α) (k j : Nat) (h : SMap.wfFrom d (some k) m = true) (hj : j ≤ k) :
    SMap.get d m j = d := by
  induction m generalizing k with
  | nil => rfl
  | cons e m ih =>
    obtain ⟨i, v⟩ := e
    have h' := (wfFrom_cons d (some k) i v m).1 h
    have hk : k < i := h'.1
    simp only [SMap.get]; rw [if_neg (by omega)]
    exact ih i h'.2.2 (by omega)

theorem get_erase_self [DecidableEq α] (d : α) (m : SMap α) (lo : Option Nat) (j : Nat) (h : SMap.wfFrom d lo m = true) :
    SMap.get d (SMap.erase m j) j = d := by
  induction m generalizing lo with
  | nil => rfl
  | cons e m ih =>
    obtain ⟨k, v⟩ := e
    have h' := (wfFrom_cons d lo k v m).1 h
    simp only [SMap.erase]
    split
    · exact get_below d m k j h'.2.2 (by omega)
    · split
      · simp only [SMap.get]; rw [if_neg ‹_›]; exact get_below d m k j h'.2.2 (by omega)
      · simp only [SMap.get]; rw [if_neg ‹_›]; exact ih _ h'.2.2

theorem get_erase_other (d : α) (m : SMap α) (j i : Nat) (hij : i ≠ j) : SMap.get d (SMap.erase m j) i = SMap.get d m i := by
  induction m with
  | nil => rfl
  | cons e m ih =>
    obtain ⟨k, v⟩ := e
    simp only [SMap.erase]
    split
    · subst_vars
      simp only [SMap.get]
      rw [if_neg (Ne.symm hij)]
    · split
      · rfl
      · simp only [SMap.get]; rw [ih]

/-- Reading a key just written gives the value written. -/
theorem get_set_self [DecidableEq α] (d : α) (m : SMap α) (j : Nat) (x : α) (h : SMap.wf d m = true) :
    SMap.get d (SMap.set d m j x) j = x := by
  unfold SMap.set
  split
  · subst_vars; exact get_erase_self x m none j h
  · exact get_put_self d m j x

/-- Writing a key leaves every other key as it was. -/
theorem get_set_other [DecidableEq α] (d : α) (m : SMap α) (j i : Nat) (x : α) (hij : i ≠ j) :
    SMap.get d (SMap.set d m j x) i = SMap.get d m i := by
  unfold SMap.set
  split
  · exact get_erase_other d m j i hij
  · exact get_put_other d m j i x hij

/-- Writing a run of keys leaves every key outside it as it was, and puts each value at its key. -/
theorem get_setRange_other [DecidableEq α] (d : α) (xs : List α) (m : SMap α) (j i : Nat) (h : i < j ∨ j + xs.length ≤ i) :
    SMap.get d (SMap.setRange d m j xs) i = SMap.get d m i := by
  induction xs generalizing m j with
  | nil => rfl
  | cons x xs ih =>
    simp only [List.length_cons] at h
    rw [SMap.setRange, ih _ _ (by omega), get_set_other _ _ _ _ _ (by omega)]
theorem get_setRange_self [DecidableEq α] (d : α) (xs : List α) (m : SMap α) (j i : Nat) (hm : SMap.wf d m = true) (h : i < xs.length) :
    SMap.get d (SMap.setRange d m j xs) (j + i) = xs[i] := by
  induction xs generalizing m j i with
  | nil => simp at h
  | cons x xs ih =>
    rw [SMap.setRange]
    cases i with
    | zero => rw [get_setRange_other _ _ _ _ _ (by omega), Nat.add_zero, get_set_self _ _ _ _ hm]; rfl
    | succ n =>
      rw [show j + (n + 1) = j + 1 + n by omega, ih _ _ _ (wf_set _ _ _ _ hm) (by simpa using h)]; rfl

theorem find?_put_self (m : SMap α) (j : Nat) (x : α) : SMap.find? (SMap.put m j x) j = some x := by
  induction m with
  | nil => simp [SMap.put, SMap.find?]
  | cons e m ih =>
    obtain ⟨k, v⟩ := e
    simp only [SMap.put]
    split
    · simp [SMap.find?]
    · split
      · simp [SMap.find?]
      · simp only [SMap.find?]
        rw [if_neg ‹_›, if_neg ‹_›]; exact ih

/-! ### Memory -/

theorem Memory.wf_write (m : Memory) (a : Nat) (b : Byte) (h : Memory.wf m = true) : Memory.wf (m.write a b) = true :=
  wf_set _ _ _ _ h
theorem Memory.wf_writeN (m : Memory) (a : Nat) (bs : List Byte) (h : Memory.wf m = true) :
    Memory.wf (m.writeN a bs) = true := wf_setRange _ _ _ _ h

theorem Memory.read_write_self (m : Memory) (a : Nat) (b : Byte) (h : Memory.wf m = true) : (m.write a b).read a = b :=
  get_set_self _ _ _ _ h
theorem Memory.read_write_other (m : Memory) (a i : Nat) (b : Byte) (hi : i ≠ a) : (m.write a b).read i = m.read i :=
  get_set_other _ _ _ _ _ hi
theorem Memory.read_writeN_other (m : Memory) (a i : Nat) (bs : List Byte) (h : i < a ∨ a + bs.length ≤ i) :
    (m.writeN a bs).read i = m.read i := get_setRange_other _ _ _ _ _ h

end Sys2Proof.Laws
end

