-- ==== Sys2Proof/Laws/State.lean ====
section
/-! SUPPORT. What each update of the state leaves alone, one lemma per field and update, and what it writes. -/

namespace Sys2Proof.Machine

variable (s : State)

@[simp] theorem State.setCoreAt_cur (n : Nat) (c : Core) : (s.setCoreAt n c).cur = s.cur := rfl
@[simp] theorem State.setCoreAt_schedule (n : Nat) (c : Core) : (s.setCoreAt n c).schedule = s.schedule := rfl
@[simp] theorem State.setCoreAt_turns (n : Nat) (c : Core) : (s.setCoreAt n c).turns = s.turns := rfl
@[simp] theorem State.setCoreAt_nextId (n : Nat) (c : Core) : (s.setCoreAt n c).nextId = s.nextId := rfl
@[simp] theorem State.setCoreAt_fabric (n : Nat) (c : Core) : (s.setCoreAt n c).fabric = s.fabric := rfl
@[simp] theorem State.setCoreAt_edge (n : Nat) (c : Core) : (s.setCoreAt n c).edge = s.edge := rfl
@[simp] theorem State.setCoreAt_mem (n : Nat) (c : Core) : (s.setCoreAt n c).mem = s.mem := rfl
@[simp] theorem State.setCoreAt_side (n : Nat) (c : Core) : (s.setCoreAt n c).side = s.side := rfl
@[simp] theorem State.setCoreAt_past (n : Nat) (c : Core) : (s.setCoreAt n c).past = s.past := rfl
@[simp] theorem State.setCoreAt_views (n : Nat) (c : Core) : (s.setCoreAt n c).views = s.views := rfl
@[simp] theorem State.setCoreAt_aliases (n : Nat) (c : Core) : (s.setCoreAt n c).aliases = s.aliases := rfl
@[simp] theorem State.setCoreAt_tlb (n : Nat) (c : Core) : (s.setCoreAt n c).tlb = s.tlb := rfl
@[simp] theorem State.setCoreAt_coh (n : Nat) (c : Core) : (s.setCoreAt n c).coh = s.coh := rfl
@[simp] theorem State.setCoreAt_ctxs (n : Nat) (c : Core) : (s.setCoreAt n c).ctxs = s.ctxs := rfl
@[simp] theorem State.setCoreAt_queues (n : Nat) (c : Core) : (s.setCoreAt n c).queues = s.queues := rfl
@[simp] theorem State.setCoreAt_tasks (n : Nat) (c : Core) : (s.setCoreAt n c).tasks = s.tasks := rfl
@[simp] theorem State.setCoreAt_saves (n : Nat) (c : Core) : (s.setCoreAt n c).saves = s.saves := rfl
@[simp] theorem State.setCoreAt_die0 (n : Nat) (c : Core) : (s.setCoreAt n c).die0 = s.die0 := rfl
@[simp] theorem State.setCoreAt_die1 (n : Nat) (c : Core) : (s.setCoreAt n c).die1 = s.die1 := rfl
@[simp] theorem State.setCoreAt_die2 (n : Nat) (c : Core) : (s.setCoreAt n c).die2 = s.die2 := rfl
@[simp] theorem State.setCoreAt_die3 (n : Nat) (c : Core) : (s.setCoreAt n c).die3 = s.die3 := rfl
@[simp] theorem State.setCoreAt_mgmt (n : Nat) (c : Core) : (s.setCoreAt n c).mgmt = s.mgmt := rfl
@[simp] theorem State.setCoreAt_rcv (n : Nat) (c : Core) : (s.setCoreAt n c).rcv = s.rcv := rfl
@[simp] theorem State.setCoreAt_power (n : Nat) (c : Core) : (s.setCoreAt n c).power = s.power := rfl
@[simp] theorem State.setCoreAt_fab (n : Nat) (c : Core) : (s.setCoreAt n c).fab = s.fab := rfl

@[simp] theorem State.setCore_cur (c : Core) : (s.setCore c).cur = s.cur := rfl
@[simp] theorem State.setCore_schedule (c : Core) : (s.setCore c).schedule = s.schedule := rfl
@[simp] theorem State.setCore_turns (c : Core) : (s.setCore c).turns = s.turns := rfl
@[simp] theorem State.setCore_nextId (c : Core) : (s.setCore c).nextId = s.nextId := rfl
@[simp] theorem State.setCore_fabric (c : Core) : (s.setCore c).fabric = s.fabric := rfl
@[simp] theorem State.setCore_edge (c : Core) : (s.setCore c).edge = s.edge := rfl
@[simp] theorem State.setCore_mem (c : Core) : (s.setCore c).mem = s.mem := rfl
@[simp] theorem State.setCore_side (c : Core) : (s.setCore c).side = s.side := rfl
@[simp] theorem State.setCore_past (c : Core) : (s.setCore c).past = s.past := rfl
@[simp] theorem State.setCore_views (c : Core) : (s.setCore c).views = s.views := rfl
@[simp] theorem State.setCore_aliases (c : Core) : (s.setCore c).aliases = s.aliases := rfl
@[simp] theorem State.setCore_tlb (c : Core) : (s.setCore c).tlb = s.tlb := rfl
@[simp] theorem State.setCore_coh (c : Core) : (s.setCore c).coh = s.coh := rfl
@[simp] theorem State.setCore_ctxs (c : Core) : (s.setCore c).ctxs = s.ctxs := rfl
@[simp] theorem State.setCore_queues (c : Core) : (s.setCore c).queues = s.queues := rfl
@[simp] theorem State.setCore_tasks (c : Core) : (s.setCore c).tasks = s.tasks := rfl
@[simp] theorem State.setCore_saves (c : Core) : (s.setCore c).saves = s.saves := rfl
@[simp] theorem State.setCore_die0 (c : Core) : (s.setCore c).die0 = s.die0 := rfl
@[simp] theorem State.setCore_die1 (c : Core) : (s.setCore c).die1 = s.die1 := rfl
@[simp] theorem State.setCore_die2 (c : Core) : (s.setCore c).die2 = s.die2 := rfl
@[simp] theorem State.setCore_die3 (c : Core) : (s.setCore c).die3 = s.die3 := rfl
@[simp] theorem State.setCore_mgmt (c : Core) : (s.setCore c).mgmt = s.mgmt := rfl
@[simp] theorem State.setCore_rcv (c : Core) : (s.setCore c).rcv = s.rcv := rfl
@[simp] theorem State.setCore_power (c : Core) : (s.setCore c).power = s.power := rfl
@[simp] theorem State.setCore_fab (c : Core) : (s.setCore c).fab = s.fab := rfl

@[simp] theorem State.setCtx_cur (n : Nat) (c : Ctx) : (s.setCtx n c).cur = s.cur := rfl
@[simp] theorem State.setCtx_schedule (n : Nat) (c : Ctx) : (s.setCtx n c).schedule = s.schedule := rfl
@[simp] theorem State.setCtx_turns (n : Nat) (c : Ctx) : (s.setCtx n c).turns = s.turns := rfl
@[simp] theorem State.setCtx_nextId (n : Nat) (c : Ctx) : (s.setCtx n c).nextId = s.nextId := rfl
@[simp] theorem State.setCtx_fabric (n : Nat) (c : Ctx) : (s.setCtx n c).fabric = s.fabric := rfl
@[simp] theorem State.setCtx_edge (n : Nat) (c : Ctx) : (s.setCtx n c).edge = s.edge := rfl
@[simp] theorem State.setCtx_cores (n : Nat) (c : Ctx) : (s.setCtx n c).cores = s.cores := rfl
@[simp] theorem State.setCtx_mem (n : Nat) (c : Ctx) : (s.setCtx n c).mem = s.mem := rfl
@[simp] theorem State.setCtx_side (n : Nat) (c : Ctx) : (s.setCtx n c).side = s.side := rfl
@[simp] theorem State.setCtx_past (n : Nat) (c : Ctx) : (s.setCtx n c).past = s.past := rfl
@[simp] theorem State.setCtx_views (n : Nat) (c : Ctx) : (s.setCtx n c).views = s.views := rfl
@[simp] theorem State.setCtx_aliases (n : Nat) (c : Ctx) : (s.setCtx n c).aliases = s.aliases := rfl
@[simp] theorem State.setCtx_tlb (n : Nat) (c : Ctx) : (s.setCtx n c).tlb = s.tlb := rfl
@[simp] theorem State.setCtx_coh (n : Nat) (c : Ctx) : (s.setCtx n c).coh = s.coh := rfl
@[simp] theorem State.setCtx_queues (n : Nat) (c : Ctx) : (s.setCtx n c).queues = s.queues := rfl
@[simp] theorem State.setCtx_tasks (n : Nat) (c : Ctx) : (s.setCtx n c).tasks = s.tasks := rfl
@[simp] theorem State.setCtx_saves (n : Nat) (c : Ctx) : (s.setCtx n c).saves = s.saves := rfl
@[simp] theorem State.setCtx_die0 (n : Nat) (c : Ctx) : (s.setCtx n c).die0 = s.die0 := rfl
@[simp] theorem State.setCtx_die1 (n : Nat) (c : Ctx) : (s.setCtx n c).die1 = s.die1 := rfl
@[simp] theorem State.setCtx_die2 (n : Nat) (c : Ctx) : (s.setCtx n c).die2 = s.die2 := rfl
@[simp] theorem State.setCtx_die3 (n : Nat) (c : Ctx) : (s.setCtx n c).die3 = s.die3 := rfl
@[simp] theorem State.setCtx_mgmt (n : Nat) (c : Ctx) : (s.setCtx n c).mgmt = s.mgmt := rfl
@[simp] theorem State.setCtx_rcv (n : Nat) (c : Ctx) : (s.setCtx n c).rcv = s.rcv := rfl
@[simp] theorem State.setCtx_power (n : Nat) (c : Ctx) : (s.setCtx n c).power = s.power := rfl
@[simp] theorem State.setCtx_fab (n : Nat) (c : Ctx) : (s.setCtx n c).fab = s.fab := rfl

@[simp] theorem State.setQueue_cur (n : Nat) (q : Queue) : (s.setQueue n q).cur = s.cur := rfl
@[simp] theorem State.setQueue_schedule (n : Nat) (q : Queue) : (s.setQueue n q).schedule = s.schedule := rfl
@[simp] theorem State.setQueue_turns (n : Nat) (q : Queue) : (s.setQueue n q).turns = s.turns := rfl
@[simp] theorem State.setQueue_nextId (n : Nat) (q : Queue) : (s.setQueue n q).nextId = s.nextId := rfl
@[simp] theorem State.setQueue_fabric (n : Nat) (q : Queue) : (s.setQueue n q).fabric = s.fabric := rfl
@[simp] theorem State.setQueue_edge (n : Nat) (q : Queue) : (s.setQueue n q).edge = s.edge := rfl
@[simp] theorem State.setQueue_cores (n : Nat) (q : Queue) : (s.setQueue n q).cores = s.cores := rfl
@[simp] theorem State.setQueue_mem (n : Nat) (q : Queue) : (s.setQueue n q).mem = s.mem := rfl
@[simp] theorem State.setQueue_side (n : Nat) (q : Queue) : (s.setQueue n q).side = s.side := rfl
@[simp] theorem State.setQueue_past (n : Nat) (q : Queue) : (s.setQueue n q).past = s.past := rfl
@[simp] theorem State.setQueue_views (n : Nat) (q : Queue) : (s.setQueue n q).views = s.views := rfl
@[simp] theorem State.setQueue_aliases (n : Nat) (q : Queue) : (s.setQueue n q).aliases = s.aliases := rfl
@[simp] theorem State.setQueue_tlb (n : Nat) (q : Queue) : (s.setQueue n q).tlb = s.tlb := rfl
@[simp] theorem State.setQueue_coh (n : Nat) (q : Queue) : (s.setQueue n q).coh = s.coh := rfl
@[simp] theorem State.setQueue_ctxs (n : Nat) (q : Queue) : (s.setQueue n q).ctxs = s.ctxs := rfl
@[simp] theorem State.setQueue_tasks (n : Nat) (q : Queue) : (s.setQueue n q).tasks = s.tasks := rfl
@[simp] theorem State.setQueue_saves (n : Nat) (q : Queue) : (s.setQueue n q).saves = s.saves := rfl
@[simp] theorem State.setQueue_die0 (n : Nat) (q : Queue) : (s.setQueue n q).die0 = s.die0 := rfl
@[simp] theorem State.setQueue_die1 (n : Nat) (q : Queue) : (s.setQueue n q).die1 = s.die1 := rfl
@[simp] theorem State.setQueue_die2 (n : Nat) (q : Queue) : (s.setQueue n q).die2 = s.die2 := rfl
@[simp] theorem State.setQueue_die3 (n : Nat) (q : Queue) : (s.setQueue n q).die3 = s.die3 := rfl
@[simp] theorem State.setQueue_mgmt (n : Nat) (q : Queue) : (s.setQueue n q).mgmt = s.mgmt := rfl
@[simp] theorem State.setQueue_rcv (n : Nat) (q : Queue) : (s.setQueue n q).rcv = s.rcv := rfl
@[simp] theorem State.setQueue_power (n : Nat) (q : Queue) : (s.setQueue n q).power = s.power := rfl
@[simp] theorem State.setQueue_fab (n : Nat) (q : Queue) : (s.setQueue n q).fab = s.fab := rfl

@[simp] theorem State.setTask_cur (n : Nat) (t : Task) : (s.setTask n t).cur = s.cur := rfl
@[simp] theorem State.setTask_schedule (n : Nat) (t : Task) : (s.setTask n t).schedule = s.schedule := rfl
@[simp] theorem State.setTask_turns (n : Nat) (t : Task) : (s.setTask n t).turns = s.turns := rfl
@[simp] theorem State.setTask_nextId (n : Nat) (t : Task) : (s.setTask n t).nextId = s.nextId := rfl
@[simp] theorem State.setTask_fabric (n : Nat) (t : Task) : (s.setTask n t).fabric = s.fabric := rfl
@[simp] theorem State.setTask_edge (n : Nat) (t : Task) : (s.setTask n t).edge = s.edge := rfl
@[simp] theorem State.setTask_cores (n : Nat) (t : Task) : (s.setTask n t).cores = s.cores := rfl
@[simp] theorem State.setTask_mem (n : Nat) (t : Task) : (s.setTask n t).mem = s.mem := rfl
@[simp] theorem State.setTask_side (n : Nat) (t : Task) : (s.setTask n t).side = s.side := rfl
@[simp] theorem State.setTask_past (n : Nat) (t : Task) : (s.setTask n t).past = s.past := rfl
@[simp] theorem State.setTask_views (n : Nat) (t : Task) : (s.setTask n t).views = s.views := rfl
@[simp] theorem State.setTask_aliases (n : Nat) (t : Task) : (s.setTask n t).aliases = s.aliases := rfl
@[simp] theorem State.setTask_tlb (n : Nat) (t : Task) : (s.setTask n t).tlb = s.tlb := rfl
@[simp] theorem State.setTask_coh (n : Nat) (t : Task) : (s.setTask n t).coh = s.coh := rfl
@[simp] theorem State.setTask_ctxs (n : Nat) (t : Task) : (s.setTask n t).ctxs = s.ctxs := rfl
@[simp] theorem State.setTask_queues (n : Nat) (t : Task) : (s.setTask n t).queues = s.queues := rfl
@[simp] theorem State.setTask_saves (n : Nat) (t : Task) : (s.setTask n t).saves = s.saves := rfl
@[simp] theorem State.setTask_die0 (n : Nat) (t : Task) : (s.setTask n t).die0 = s.die0 := rfl
@[simp] theorem State.setTask_die1 (n : Nat) (t : Task) : (s.setTask n t).die1 = s.die1 := rfl
@[simp] theorem State.setTask_die2 (n : Nat) (t : Task) : (s.setTask n t).die2 = s.die2 := rfl
@[simp] theorem State.setTask_die3 (n : Nat) (t : Task) : (s.setTask n t).die3 = s.die3 := rfl
@[simp] theorem State.setTask_mgmt (n : Nat) (t : Task) : (s.setTask n t).mgmt = s.mgmt := rfl
@[simp] theorem State.setTask_rcv (n : Nat) (t : Task) : (s.setTask n t).rcv = s.rcv := rfl
@[simp] theorem State.setTask_power (n : Nat) (t : Task) : (s.setTask n t).power = s.power := rfl
@[simp] theorem State.setTask_fab (n : Nat) (t : Task) : (s.setTask n t).fab = s.fab := rfl

@[simp] theorem State.setDir_cur (l : Nat) (d : Dir) : (s.setDir l d).cur = s.cur := rfl
@[simp] theorem State.setDir_schedule (l : Nat) (d : Dir) : (s.setDir l d).schedule = s.schedule := rfl
@[simp] theorem State.setDir_turns (l : Nat) (d : Dir) : (s.setDir l d).turns = s.turns := rfl
@[simp] theorem State.setDir_nextId (l : Nat) (d : Dir) : (s.setDir l d).nextId = s.nextId := rfl
@[simp] theorem State.setDir_fabric (l : Nat) (d : Dir) : (s.setDir l d).fabric = s.fabric := rfl
@[simp] theorem State.setDir_edge (l : Nat) (d : Dir) : (s.setDir l d).edge = s.edge := rfl
@[simp] theorem State.setDir_cores (l : Nat) (d : Dir) : (s.setDir l d).cores = s.cores := rfl
@[simp] theorem State.setDir_mem (l : Nat) (d : Dir) : (s.setDir l d).mem = s.mem := rfl
@[simp] theorem State.setDir_side (l : Nat) (d : Dir) : (s.setDir l d).side = s.side := rfl
@[simp] theorem State.setDir_past (l : Nat) (d : Dir) : (s.setDir l d).past = s.past := rfl
@[simp] theorem State.setDir_views (l : Nat) (d : Dir) : (s.setDir l d).views = s.views := rfl
@[simp] theorem State.setDir_aliases (l : Nat) (d : Dir) : (s.setDir l d).aliases = s.aliases := rfl
@[simp] theorem State.setDir_tlb (l : Nat) (d : Dir) : (s.setDir l d).tlb = s.tlb := rfl
@[simp] theorem State.setDir_ctxs (l : Nat) (d : Dir) : (s.setDir l d).ctxs = s.ctxs := rfl
@[simp] theorem State.setDir_queues (l : Nat) (d : Dir) : (s.setDir l d).queues = s.queues := rfl
@[simp] theorem State.setDir_tasks (l : Nat) (d : Dir) : (s.setDir l d).tasks = s.tasks := rfl
@[simp] theorem State.setDir_saves (l : Nat) (d : Dir) : (s.setDir l d).saves = s.saves := rfl
@[simp] theorem State.setDir_die0 (l : Nat) (d : Dir) : (s.setDir l d).die0 = s.die0 := rfl
@[simp] theorem State.setDir_die1 (l : Nat) (d : Dir) : (s.setDir l d).die1 = s.die1 := rfl
@[simp] theorem State.setDir_die2 (l : Nat) (d : Dir) : (s.setDir l d).die2 = s.die2 := rfl
@[simp] theorem State.setDir_die3 (l : Nat) (d : Dir) : (s.setDir l d).die3 = s.die3 := rfl
@[simp] theorem State.setDir_mgmt (l : Nat) (d : Dir) : (s.setDir l d).mgmt = s.mgmt := rfl
@[simp] theorem State.setDir_rcv (l : Nat) (d : Dir) : (s.setDir l d).rcv = s.rcv := rfl
@[simp] theorem State.setDir_power (l : Nat) (d : Dir) : (s.setDir l d).power = s.power := rfl
@[simp] theorem State.setDir_fab (l : Nat) (d : Dir) : (s.setDir l d).fab = s.fab := rfl

@[simp] theorem State.modDir_cur (l : Nat) (f : Dir → Dir) : (s.modDir l f).cur = s.cur := rfl
@[simp] theorem State.modDir_schedule (l : Nat) (f : Dir → Dir) : (s.modDir l f).schedule = s.schedule := rfl
@[simp] theorem State.modDir_turns (l : Nat) (f : Dir → Dir) : (s.modDir l f).turns = s.turns := rfl
@[simp] theorem State.modDir_nextId (l : Nat) (f : Dir → Dir) : (s.modDir l f).nextId = s.nextId := rfl
@[simp] theorem State.modDir_fabric (l : Nat) (f : Dir → Dir) : (s.modDir l f).fabric = s.fabric := rfl
@[simp] theorem State.modDir_edge (l : Nat) (f : Dir → Dir) : (s.modDir l f).edge = s.edge := rfl
@[simp] theorem State.modDir_cores (l : Nat) (f : Dir → Dir) : (s.modDir l f).cores = s.cores := rfl
@[simp] theorem State.modDir_mem (l : Nat) (f : Dir → Dir) : (s.modDir l f).mem = s.mem := rfl
@[simp] theorem State.modDir_side (l : Nat) (f : Dir → Dir) : (s.modDir l f).side = s.side := rfl
@[simp] theorem State.modDir_past (l : Nat) (f : Dir → Dir) : (s.modDir l f).past = s.past := rfl
@[simp] theorem State.modDir_views (l : Nat) (f : Dir → Dir) : (s.modDir l f).views = s.views := rfl
@[simp] theorem State.modDir_aliases (l : Nat) (f : Dir → Dir) : (s.modDir l f).aliases = s.aliases := rfl
@[simp] theorem State.modDir_tlb (l : Nat) (f : Dir → Dir) : (s.modDir l f).tlb = s.tlb := rfl
@[simp] theorem State.modDir_ctxs (l : Nat) (f : Dir → Dir) : (s.modDir l f).ctxs = s.ctxs := rfl
@[simp] theorem State.modDir_queues (l : Nat) (f : Dir → Dir) : (s.modDir l f).queues = s.queues := rfl
@[simp] theorem State.modDir_tasks (l : Nat) (f : Dir → Dir) : (s.modDir l f).tasks = s.tasks := rfl
@[simp] theorem State.modDir_saves (l : Nat) (f : Dir → Dir) : (s.modDir l f).saves = s.saves := rfl
@[simp] theorem State.modDir_die0 (l : Nat) (f : Dir → Dir) : (s.modDir l f).die0 = s.die0 := rfl
@[simp] theorem State.modDir_die1 (l : Nat) (f : Dir → Dir) : (s.modDir l f).die1 = s.die1 := rfl
@[simp] theorem State.modDir_die2 (l : Nat) (f : Dir → Dir) : (s.modDir l f).die2 = s.die2 := rfl
@[simp] theorem State.modDir_die3 (l : Nat) (f : Dir → Dir) : (s.modDir l f).die3 = s.die3 := rfl
@[simp] theorem State.modDir_mgmt (l : Nat) (f : Dir → Dir) : (s.modDir l f).mgmt = s.mgmt := rfl
@[simp] theorem State.modDir_rcv (l : Nat) (f : Dir → Dir) : (s.modDir l f).rcv = s.rcv := rfl
@[simp] theorem State.modDir_power (l : Nat) (f : Dir → Dir) : (s.modDir l f).power = s.power := rfl
@[simp] theorem State.modDir_fab (l : Nat) (f : Dir → Dir) : (s.modDir l f).fab = s.fab := rfl

@[simp] theorem State.setEng_cur (e : Engine) (x : Eng) : (s.setEng e x).cur = s.cur := rfl
@[simp] theorem State.setEng_schedule (e : Engine) (x : Eng) : (s.setEng e x).schedule = s.schedule := rfl
@[simp] theorem State.setEng_turns (e : Engine) (x : Eng) : (s.setEng e x).turns = s.turns := rfl
@[simp] theorem State.setEng_nextId (e : Engine) (x : Eng) : (s.setEng e x).nextId = s.nextId := rfl
@[simp] theorem State.setEng_fabric (e : Engine) (x : Eng) : (s.setEng e x).fabric = s.fabric := rfl
@[simp] theorem State.setEng_edge (e : Engine) (x : Eng) : (s.setEng e x).edge = s.edge := rfl
@[simp] theorem State.setEng_mem (e : Engine) (x : Eng) : (s.setEng e x).mem = s.mem := rfl
@[simp] theorem State.setEng_side (e : Engine) (x : Eng) : (s.setEng e x).side = s.side := rfl
@[simp] theorem State.setEng_past (e : Engine) (x : Eng) : (s.setEng e x).past = s.past := rfl
@[simp] theorem State.setEng_views (e : Engine) (x : Eng) : (s.setEng e x).views = s.views := rfl
@[simp] theorem State.setEng_aliases (e : Engine) (x : Eng) : (s.setEng e x).aliases = s.aliases := rfl
@[simp] theorem State.setEng_tlb (e : Engine) (x : Eng) : (s.setEng e x).tlb = s.tlb := rfl
@[simp] theorem State.setEng_coh (e : Engine) (x : Eng) : (s.setEng e x).coh = s.coh := rfl
@[simp] theorem State.setEng_ctxs (e : Engine) (x : Eng) : (s.setEng e x).ctxs = s.ctxs := rfl
@[simp] theorem State.setEng_queues (e : Engine) (x : Eng) : (s.setEng e x).queues = s.queues := rfl
@[simp] theorem State.setEng_tasks (e : Engine) (x : Eng) : (s.setEng e x).tasks = s.tasks := rfl
@[simp] theorem State.setEng_saves (e : Engine) (x : Eng) : (s.setEng e x).saves = s.saves := rfl
@[simp] theorem State.setEng_die0 (e : Engine) (x : Eng) : (s.setEng e x).die0 = s.die0 := rfl
@[simp] theorem State.setEng_die1 (e : Engine) (x : Eng) : (s.setEng e x).die1 = s.die1 := rfl
@[simp] theorem State.setEng_die2 (e : Engine) (x : Eng) : (s.setEng e x).die2 = s.die2 := rfl
@[simp] theorem State.setEng_die3 (e : Engine) (x : Eng) : (s.setEng e x).die3 = s.die3 := rfl
@[simp] theorem State.setEng_mgmt (e : Engine) (x : Eng) : (s.setEng e x).mgmt = s.mgmt := rfl
@[simp] theorem State.setEng_rcv (e : Engine) (x : Eng) : (s.setEng e x).rcv = s.rcv := rfl
@[simp] theorem State.setEng_power (e : Engine) (x : Eng) : (s.setEng e x).power = s.power := rfl
@[simp] theorem State.setEng_fab (e : Engine) (x : Eng) : (s.setEng e x).fab = s.fab := rfl

@[simp] theorem State.modEng_cur (e : Engine) (f : Eng → Eng) : (s.modEng e f).cur = s.cur := rfl
@[simp] theorem State.modEng_schedule (e : Engine) (f : Eng → Eng) : (s.modEng e f).schedule = s.schedule := rfl
@[simp] theorem State.modEng_turns (e : Engine) (f : Eng → Eng) : (s.modEng e f).turns = s.turns := rfl
@[simp] theorem State.modEng_nextId (e : Engine) (f : Eng → Eng) : (s.modEng e f).nextId = s.nextId := rfl
@[simp] theorem State.modEng_fabric (e : Engine) (f : Eng → Eng) : (s.modEng e f).fabric = s.fabric := rfl
@[simp] theorem State.modEng_edge (e : Engine) (f : Eng → Eng) : (s.modEng e f).edge = s.edge := rfl
@[simp] theorem State.modEng_mem (e : Engine) (f : Eng → Eng) : (s.modEng e f).mem = s.mem := rfl
@[simp] theorem State.modEng_side (e : Engine) (f : Eng → Eng) : (s.modEng e f).side = s.side := rfl
@[simp] theorem State.modEng_past (e : Engine) (f : Eng → Eng) : (s.modEng e f).past = s.past := rfl
@[simp] theorem State.modEng_views (e : Engine) (f : Eng → Eng) : (s.modEng e f).views = s.views := rfl
@[simp] theorem State.modEng_aliases (e : Engine) (f : Eng → Eng) : (s.modEng e f).aliases = s.aliases := rfl
@[simp] theorem State.modEng_tlb (e : Engine) (f : Eng → Eng) : (s.modEng e f).tlb = s.tlb := rfl
@[simp] theorem State.modEng_coh (e : Engine) (f : Eng → Eng) : (s.modEng e f).coh = s.coh := rfl
@[simp] theorem State.modEng_ctxs (e : Engine) (f : Eng → Eng) : (s.modEng e f).ctxs = s.ctxs := rfl
@[simp] theorem State.modEng_queues (e : Engine) (f : Eng → Eng) : (s.modEng e f).queues = s.queues := rfl
@[simp] theorem State.modEng_tasks (e : Engine) (f : Eng → Eng) : (s.modEng e f).tasks = s.tasks := rfl
@[simp] theorem State.modEng_saves (e : Engine) (f : Eng → Eng) : (s.modEng e f).saves = s.saves := rfl
@[simp] theorem State.modEng_die0 (e : Engine) (f : Eng → Eng) : (s.modEng e f).die0 = s.die0 := rfl
@[simp] theorem State.modEng_die1 (e : Engine) (f : Eng → Eng) : (s.modEng e f).die1 = s.die1 := rfl
@[simp] theorem State.modEng_die2 (e : Engine) (f : Eng → Eng) : (s.modEng e f).die2 = s.die2 := rfl
@[simp] theorem State.modEng_die3 (e : Engine) (f : Eng → Eng) : (s.modEng e f).die3 = s.die3 := rfl
@[simp] theorem State.modEng_mgmt (e : Engine) (f : Eng → Eng) : (s.modEng e f).mgmt = s.mgmt := rfl
@[simp] theorem State.modEng_rcv (e : Engine) (f : Eng → Eng) : (s.modEng e f).rcv = s.rcv := rfl
@[simp] theorem State.modEng_power (e : Engine) (f : Eng → Eng) : (s.modEng e f).power = s.power := rfl
@[simp] theorem State.modEng_fab (e : Engine) (f : Eng → Eng) : (s.modEng e f).fab = s.fab := rfl

@[simp] theorem State.modCore_cur (f : Core → Core) : (s.modCore f).cur = s.cur := rfl
@[simp] theorem State.modCore_schedule (f : Core → Core) : (s.modCore f).schedule = s.schedule := rfl
@[simp] theorem State.modCore_turns (f : Core → Core) : (s.modCore f).turns = s.turns := rfl
@[simp] theorem State.modCore_nextId (f : Core → Core) : (s.modCore f).nextId = s.nextId := rfl
@[simp] theorem State.modCore_fabric (f : Core → Core) : (s.modCore f).fabric = s.fabric := rfl
@[simp] theorem State.modCore_edge (f : Core → Core) : (s.modCore f).edge = s.edge := rfl
@[simp] theorem State.modCore_mem (f : Core → Core) : (s.modCore f).mem = s.mem := rfl
@[simp] theorem State.modCore_side (f : Core → Core) : (s.modCore f).side = s.side := rfl
@[simp] theorem State.modCore_past (f : Core → Core) : (s.modCore f).past = s.past := rfl
@[simp] theorem State.modCore_views (f : Core → Core) : (s.modCore f).views = s.views := rfl
@[simp] theorem State.modCore_aliases (f : Core → Core) : (s.modCore f).aliases = s.aliases := rfl
@[simp] theorem State.modCore_tlb (f : Core → Core) : (s.modCore f).tlb = s.tlb := rfl
@[simp] theorem State.modCore_coh (f : Core → Core) : (s.modCore f).coh = s.coh := rfl
@[simp] theorem State.modCore_ctxs (f : Core → Core) : (s.modCore f).ctxs = s.ctxs := rfl
@[simp] theorem State.modCore_queues (f : Core → Core) : (s.modCore f).queues = s.queues := rfl
@[simp] theorem State.modCore_tasks (f : Core → Core) : (s.modCore f).tasks = s.tasks := rfl
@[simp] theorem State.modCore_saves (f : Core → Core) : (s.modCore f).saves = s.saves := rfl
@[simp] theorem State.modCore_die0 (f : Core → Core) : (s.modCore f).die0 = s.die0 := rfl
@[simp] theorem State.modCore_die1 (f : Core → Core) : (s.modCore f).die1 = s.die1 := rfl
@[simp] theorem State.modCore_die2 (f : Core → Core) : (s.modCore f).die2 = s.die2 := rfl
@[simp] theorem State.modCore_die3 (f : Core → Core) : (s.modCore f).die3 = s.die3 := rfl
@[simp] theorem State.modCore_mgmt (f : Core → Core) : (s.modCore f).mgmt = s.mgmt := rfl
@[simp] theorem State.modCore_rcv (f : Core → Core) : (s.modCore f).rcv = s.rcv := rfl
@[simp] theorem State.modCore_power (f : Core → Core) : (s.modCore f).power = s.power := rfl
@[simp] theorem State.modCore_fab (f : Core → Core) : (s.modCore f).fab = s.fab := rfl

@[simp] theorem State.modCoreAt_cur (n : Nat) (f : Core → Core) : (s.modCoreAt n f).cur = s.cur := rfl
@[simp] theorem State.modCoreAt_schedule (n : Nat) (f : Core → Core) : (s.modCoreAt n f).schedule = s.schedule := rfl
@[simp] theorem State.modCoreAt_turns (n : Nat) (f : Core → Core) : (s.modCoreAt n f).turns = s.turns := rfl
@[simp] theorem State.modCoreAt_nextId (n : Nat) (f : Core → Core) : (s.modCoreAt n f).nextId = s.nextId := rfl
@[simp] theorem State.modCoreAt_fabric (n : Nat) (f : Core → Core) : (s.modCoreAt n f).fabric = s.fabric := rfl
@[simp] theorem State.modCoreAt_edge (n : Nat) (f : Core → Core) : (s.modCoreAt n f).edge = s.edge := rfl
@[simp] theorem State.modCoreAt_mem (n : Nat) (f : Core → Core) : (s.modCoreAt n f).mem = s.mem := rfl
@[simp] theorem State.modCoreAt_side (n : Nat) (f : Core → Core) : (s.modCoreAt n f).side = s.side := rfl
@[simp] theorem State.modCoreAt_past (n : Nat) (f : Core → Core) : (s.modCoreAt n f).past = s.past := rfl
@[simp] theorem State.modCoreAt_views (n : Nat) (f : Core → Core) : (s.modCoreAt n f).views = s.views := rfl
@[simp] theorem State.modCoreAt_aliases (n : Nat) (f : Core → Core) : (s.modCoreAt n f).aliases = s.aliases := rfl
@[simp] theorem State.modCoreAt_tlb (n : Nat) (f : Core → Core) : (s.modCoreAt n f).tlb = s.tlb := rfl
@[simp] theorem State.modCoreAt_coh (n : Nat) (f : Core → Core) : (s.modCoreAt n f).coh = s.coh := rfl
@[simp] theorem State.modCoreAt_ctxs (n : Nat) (f : Core → Core) : (s.modCoreAt n f).ctxs = s.ctxs := rfl
@[simp] theorem State.modCoreAt_queues (n : Nat) (f : Core → Core) : (s.modCoreAt n f).queues = s.queues := rfl
@[simp] theorem State.modCoreAt_tasks (n : Nat) (f : Core → Core) : (s.modCoreAt n f).tasks = s.tasks := rfl
@[simp] theorem State.modCoreAt_saves (n : Nat) (f : Core → Core) : (s.modCoreAt n f).saves = s.saves := rfl
@[simp] theorem State.modCoreAt_die0 (n : Nat) (f : Core → Core) : (s.modCoreAt n f).die0 = s.die0 := rfl
@[simp] theorem State.modCoreAt_die1 (n : Nat) (f : Core → Core) : (s.modCoreAt n f).die1 = s.die1 := rfl
@[simp] theorem State.modCoreAt_die2 (n : Nat) (f : Core → Core) : (s.modCoreAt n f).die2 = s.die2 := rfl
@[simp] theorem State.modCoreAt_die3 (n : Nat) (f : Core → Core) : (s.modCoreAt n f).die3 = s.die3 := rfl
@[simp] theorem State.modCoreAt_mgmt (n : Nat) (f : Core → Core) : (s.modCoreAt n f).mgmt = s.mgmt := rfl
@[simp] theorem State.modCoreAt_rcv (n : Nat) (f : Core → Core) : (s.modCoreAt n f).rcv = s.rcv := rfl
@[simp] theorem State.modCoreAt_power (n : Nat) (f : Core → Core) : (s.modCoreAt n f).power = s.power := rfl
@[simp] theorem State.modCoreAt_fab (n : Nat) (f : Core → Core) : (s.modCoreAt n f).fab = s.fab := rfl

@[simp] theorem State.modMgmt_cur (f : Mgmt → Mgmt) : (s.modMgmt f).cur = s.cur := rfl
@[simp] theorem State.modMgmt_schedule (f : Mgmt → Mgmt) : (s.modMgmt f).schedule = s.schedule := rfl
@[simp] theorem State.modMgmt_turns (f : Mgmt → Mgmt) : (s.modMgmt f).turns = s.turns := rfl
@[simp] theorem State.modMgmt_nextId (f : Mgmt → Mgmt) : (s.modMgmt f).nextId = s.nextId := rfl
@[simp] theorem State.modMgmt_fabric (f : Mgmt → Mgmt) : (s.modMgmt f).fabric = s.fabric := rfl
@[simp] theorem State.modMgmt_edge (f : Mgmt → Mgmt) : (s.modMgmt f).edge = s.edge := rfl
@[simp] theorem State.modMgmt_cores (f : Mgmt → Mgmt) : (s.modMgmt f).cores = s.cores := rfl
@[simp] theorem State.modMgmt_mem (f : Mgmt → Mgmt) : (s.modMgmt f).mem = s.mem := rfl
@[simp] theorem State.modMgmt_side (f : Mgmt → Mgmt) : (s.modMgmt f).side = s.side := rfl
@[simp] theorem State.modMgmt_past (f : Mgmt → Mgmt) : (s.modMgmt f).past = s.past := rfl
@[simp] theorem State.modMgmt_views (f : Mgmt → Mgmt) : (s.modMgmt f).views = s.views := rfl
@[simp] theorem State.modMgmt_aliases (f : Mgmt → Mgmt) : (s.modMgmt f).aliases = s.aliases := rfl
@[simp] theorem State.modMgmt_tlb (f : Mgmt → Mgmt) : (s.modMgmt f).tlb = s.tlb := rfl
@[simp] theorem State.modMgmt_coh (f : Mgmt → Mgmt) : (s.modMgmt f).coh = s.coh := rfl
@[simp] theorem State.modMgmt_ctxs (f : Mgmt → Mgmt) : (s.modMgmt f).ctxs = s.ctxs := rfl
@[simp] theorem State.modMgmt_queues (f : Mgmt → Mgmt) : (s.modMgmt f).queues = s.queues := rfl
@[simp] theorem State.modMgmt_tasks (f : Mgmt → Mgmt) : (s.modMgmt f).tasks = s.tasks := rfl
@[simp] theorem State.modMgmt_saves (f : Mgmt → Mgmt) : (s.modMgmt f).saves = s.saves := rfl
@[simp] theorem State.modMgmt_die0 (f : Mgmt → Mgmt) : (s.modMgmt f).die0 = s.die0 := rfl
@[simp] theorem State.modMgmt_die1 (f : Mgmt → Mgmt) : (s.modMgmt f).die1 = s.die1 := rfl
@[simp] theorem State.modMgmt_die2 (f : Mgmt → Mgmt) : (s.modMgmt f).die2 = s.die2 := rfl
@[simp] theorem State.modMgmt_die3 (f : Mgmt → Mgmt) : (s.modMgmt f).die3 = s.die3 := rfl
@[simp] theorem State.modMgmt_rcv (f : Mgmt → Mgmt) : (s.modMgmt f).rcv = s.rcv := rfl
@[simp] theorem State.modMgmt_power (f : Mgmt → Mgmt) : (s.modMgmt f).power = s.power := rfl
@[simp] theorem State.modMgmt_fab (f : Mgmt → Mgmt) : (s.modMgmt f).fab = s.fab := rfl

@[simp] theorem State.setIsland_cur (n : Nat) (x : Island) : (s.setIsland n x).cur = s.cur := rfl
@[simp] theorem State.setIsland_schedule (n : Nat) (x : Island) : (s.setIsland n x).schedule = s.schedule := rfl
@[simp] theorem State.setIsland_turns (n : Nat) (x : Island) : (s.setIsland n x).turns = s.turns := rfl
@[simp] theorem State.setIsland_nextId (n : Nat) (x : Island) : (s.setIsland n x).nextId = s.nextId := rfl
@[simp] theorem State.setIsland_fabric (n : Nat) (x : Island) : (s.setIsland n x).fabric = s.fabric := rfl
@[simp] theorem State.setIsland_edge (n : Nat) (x : Island) : (s.setIsland n x).edge = s.edge := rfl
@[simp] theorem State.setIsland_cores (n : Nat) (x : Island) : (s.setIsland n x).cores = s.cores := rfl
@[simp] theorem State.setIsland_mem (n : Nat) (x : Island) : (s.setIsland n x).mem = s.mem := rfl
@[simp] theorem State.setIsland_side (n : Nat) (x : Island) : (s.setIsland n x).side = s.side := rfl
@[simp] theorem State.setIsland_past (n : Nat) (x : Island) : (s.setIsland n x).past = s.past := rfl
@[simp] theorem State.setIsland_views (n : Nat) (x : Island) : (s.setIsland n x).views = s.views := rfl
@[simp] theorem State.setIsland_aliases (n : Nat) (x : Island) : (s.setIsland n x).aliases = s.aliases := rfl
@[simp] theorem State.setIsland_tlb (n : Nat) (x : Island) : (s.setIsland n x).tlb = s.tlb := rfl
@[simp] theorem State.setIsland_coh (n : Nat) (x : Island) : (s.setIsland n x).coh = s.coh := rfl
@[simp] theorem State.setIsland_ctxs (n : Nat) (x : Island) : (s.setIsland n x).ctxs = s.ctxs := rfl
@[simp] theorem State.setIsland_queues (n : Nat) (x : Island) : (s.setIsland n x).queues = s.queues := rfl
@[simp] theorem State.setIsland_tasks (n : Nat) (x : Island) : (s.setIsland n x).tasks = s.tasks := rfl
@[simp] theorem State.setIsland_saves (n : Nat) (x : Island) : (s.setIsland n x).saves = s.saves := rfl
@[simp] theorem State.setIsland_die0 (n : Nat) (x : Island) : (s.setIsland n x).die0 = s.die0 := rfl
@[simp] theorem State.setIsland_die1 (n : Nat) (x : Island) : (s.setIsland n x).die1 = s.die1 := rfl
@[simp] theorem State.setIsland_die2 (n : Nat) (x : Island) : (s.setIsland n x).die2 = s.die2 := rfl
@[simp] theorem State.setIsland_die3 (n : Nat) (x : Island) : (s.setIsland n x).die3 = s.die3 := rfl
@[simp] theorem State.setIsland_mgmt (n : Nat) (x : Island) : (s.setIsland n x).mgmt = s.mgmt := rfl
@[simp] theorem State.setIsland_rcv (n : Nat) (x : Island) : (s.setIsland n x).rcv = s.rcv := rfl
@[simp] theorem State.setIsland_fab (n : Nat) (x : Island) : (s.setIsland n x).fab = s.fab := rfl

@[simp] theorem State.fresh_cur : s.fresh.2.cur = s.cur := rfl
@[simp] theorem State.fresh_schedule : s.fresh.2.schedule = s.schedule := rfl
@[simp] theorem State.fresh_turns : s.fresh.2.turns = s.turns := rfl
@[simp] theorem State.fresh_fabric : s.fresh.2.fabric = s.fabric := rfl
@[simp] theorem State.fresh_edge : s.fresh.2.edge = s.edge := rfl
@[simp] theorem State.fresh_cores : s.fresh.2.cores = s.cores := rfl
@[simp] theorem State.fresh_mem : s.fresh.2.mem = s.mem := rfl
@[simp] theorem State.fresh_side : s.fresh.2.side = s.side := rfl
@[simp] theorem State.fresh_past : s.fresh.2.past = s.past := rfl
@[simp] theorem State.fresh_views : s.fresh.2.views = s.views := rfl
@[simp] theorem State.fresh_aliases : s.fresh.2.aliases = s.aliases := rfl
@[simp] theorem State.fresh_tlb : s.fresh.2.tlb = s.tlb := rfl
@[simp] theorem State.fresh_coh : s.fresh.2.coh = s.coh := rfl
@[simp] theorem State.fresh_ctxs : s.fresh.2.ctxs = s.ctxs := rfl
@[simp] theorem State.fresh_queues : s.fresh.2.queues = s.queues := rfl
@[simp] theorem State.fresh_tasks : s.fresh.2.tasks = s.tasks := rfl
@[simp] theorem State.fresh_saves : s.fresh.2.saves = s.saves := rfl
@[simp] theorem State.fresh_die0 : s.fresh.2.die0 = s.die0 := rfl
@[simp] theorem State.fresh_die1 : s.fresh.2.die1 = s.die1 := rfl
@[simp] theorem State.fresh_die2 : s.fresh.2.die2 = s.die2 := rfl
@[simp] theorem State.fresh_die3 : s.fresh.2.die3 = s.die3 := rfl
@[simp] theorem State.fresh_mgmt : s.fresh.2.mgmt = s.mgmt := rfl
@[simp] theorem State.fresh_rcv : s.fresh.2.rcv = s.rcv := rfl
@[simp] theorem State.fresh_power : s.fresh.2.power = s.power := rfl
@[simp] theorem State.fresh_fab : s.fresh.2.fab = s.fab := rfl
@[simp] theorem State.fresh_nextId : s.fresh.2.nextId = s.nextId + 1 := rfl

@[simp] theorem State.setDie_cur (n : Nat) (d : Die) : (s.setDie n d).cur = s.cur := by
  unfold State.setDie; split <;> rfl
@[simp] theorem State.setDie_schedule (n : Nat) (d : Die) : (s.setDie n d).schedule = s.schedule := by
  unfold State.setDie; split <;> rfl
@[simp] theorem State.setDie_turns (n : Nat) (d : Die) : (s.setDie n d).turns = s.turns := by
  unfold State.setDie; split <;> rfl
@[simp] theorem State.setDie_nextId (n : Nat) (d : Die) : (s.setDie n d).nextId = s.nextId := by
  unfold State.setDie; split <;> rfl
@[simp] theorem State.setDie_fabric (n : Nat) (d : Die) : (s.setDie n d).fabric = s.fabric := by
  unfold State.setDie; split <;> rfl
@[simp] theorem State.setDie_edge (n : Nat) (d : Die) : (s.setDie n d).edge = s.edge := by
  unfold State.setDie; split <;> rfl
@[simp] theorem State.setDie_cores (n : Nat) (d : Die) : (s.setDie n d).cores = s.cores := by
  unfold State.setDie; split <;> rfl
@[simp] theorem State.setDie_mem (n : Nat) (d : Die) : (s.setDie n d).mem = s.mem := by
  unfold State.setDie; split <;> rfl
@[simp] theorem State.setDie_side (n : Nat) (d : Die) : (s.setDie n d).side = s.side := by
  unfold State.setDie; split <;> rfl
@[simp] theorem State.setDie_past (n : Nat) (d : Die) : (s.setDie n d).past = s.past := by
  unfold State.setDie; split <;> rfl
@[simp] theorem State.setDie_views (n : Nat) (d : Die) : (s.setDie n d).views = s.views := by
  unfold State.setDie; split <;> rfl
@[simp] theorem State.setDie_aliases (n : Nat) (d : Die) : (s.setDie n d).aliases = s.aliases := by
  unfold State.setDie; split <;> rfl
@[simp] theorem State.setDie_tlb (n : Nat) (d : Die) : (s.setDie n d).tlb = s.tlb := by
  unfold State.setDie; split <;> rfl
@[simp] theorem State.setDie_coh (n : Nat) (d : Die) : (s.setDie n d).coh = s.coh := by
  unfold State.setDie; split <;> rfl
@[simp] theorem State.setDie_ctxs (n : Nat) (d : Die) : (s.setDie n d).ctxs = s.ctxs := by
  unfold State.setDie; split <;> rfl
@[simp] theorem State.setDie_queues (n : Nat) (d : Die) : (s.setDie n d).queues = s.queues := by
  unfold State.setDie; split <;> rfl
@[simp] theorem State.setDie_tasks (n : Nat) (d : Die) : (s.setDie n d).tasks = s.tasks := by
  unfold State.setDie; split <;> rfl
@[simp] theorem State.setDie_saves (n : Nat) (d : Die) : (s.setDie n d).saves = s.saves := by
  unfold State.setDie; split <;> rfl
@[simp] theorem State.setDie_mgmt (n : Nat) (d : Die) : (s.setDie n d).mgmt = s.mgmt := by
  unfold State.setDie; split <;> rfl
@[simp] theorem State.setDie_rcv (n : Nat) (d : Die) : (s.setDie n d).rcv = s.rcv := by
  unfold State.setDie; split <;> rfl
@[simp] theorem State.setDie_power (n : Nat) (d : Die) : (s.setDie n d).power = s.power := by
  unfold State.setDie; split <;> rfl
@[simp] theorem State.setDie_fab (n : Nat) (d : Die) : (s.setDie n d).fab = s.fab := by
  unfold State.setDie; split <;> rfl

/-! ### What an update writes -/

@[simp] theorem State.setCoreAt_coreAt (n : Nat) (c : Core) : (s.setCoreAt n c).coreAt n = c := Laws.get_put_self _ _ _ _
theorem State.setCoreAt_coreAt_other (n k : Nat) (c : Core) (h : k ≠ n) : (s.setCoreAt n c).coreAt k = s.coreAt k :=
  Laws.get_put_other _ _ _ _ _ h
@[simp] theorem State.setCore_core (c : Core) : (s.setCore c).core = c := Laws.get_put_self _ _ _ _
@[simp] theorem State.modCore_core (f : Core → Core) : (s.modCore f).core = f s.core := State.setCore_core ..
@[simp] theorem State.setCtx_ctxOf (n : Nat) (c : Ctx) : (s.setCtx n c).ctxOf n = c := Laws.get_put_self _ _ _ _
@[simp] theorem State.setQueue_queueOf (n : Nat) (q : Queue) : (s.setQueue n q).queueOf n = q := Laws.get_put_self _ _ _ _
@[simp] theorem State.setCore_coreAt_other (k : Nat) (c : Core) (h : k ≠ s.cur) : (s.setCore c).coreAt k = s.coreAt k :=
  Laws.get_put_other _ _ _ _ _ h
@[simp] theorem State.setCore_setCore (c d : Core) : (s.setCore c).setCore d = s.setCore d := by
  simp only [State.setCore, State.setCoreAt, Laws.put_put]
@[simp] theorem Core.setEng_eng (c : Core) (e : Engine) (x : Eng) : (c.setEng e x).eng e = x := by cases e <;> rfl
theorem Core.setEng_eng_other (c : Core) (e f : Engine) (x : Eng) (h : f ≠ e) : (c.setEng e x).eng f = c.eng f := by
  cases e <;> cases f <;> first | rfl | exact absurd rfl h
@[simp] theorem State.setEng_eng (e : Engine) (x : Eng) : (s.setEng e x).eng e = x := by
  simp [State.eng, State.setEng]
@[simp] theorem State.modEng_eng (e : Engine) (f : Eng → Eng) : (s.modEng e f).eng e = f (s.eng e) := by
  simp [State.modEng]

@[simp] theorem State.setEng_core (e : Engine) (x : Eng) : (s.setEng e x).core = s.core.setEng e x := by
  simp [State.setEng]
@[simp] theorem State.modEng_core (e : Engine) (f : Eng → Eng) : (s.modEng e f).core = s.core.setEng e (f (s.eng e)) := by
  simp [State.modEng]

@[simp] theorem Core.setEng_task (c : Core) (e : Engine) (x : Eng) : (c.setEng e x).task = c.task := by cases e <;> rfl
@[simp] theorem Core.setEng_gangPos (c : Core) (e : Engine) (x : Eng) : (c.setEng e x).gangPos = c.gangPos := by cases e <;> rfl
@[simp] theorem Core.setEng_started (c : Core) (e : Engine) (x : Eng) : (c.setEng e x).started = c.started := by cases e <;> rfl
@[simp] theorem Core.setEng_lastCtx (c : Core) (e : Engine) (x : Eng) : (c.setEng e x).lastCtx = c.lastCtx := by cases e <;> rfl
@[simp] theorem Core.setEng_part (c : Core) (e : Engine) (x : Eng) : (c.setEng e x).part = c.part := by cases e <;> rfl
@[simp] theorem Core.setEng_s (c : Core) (e : Engine) (x : Eng) : (c.setEng e x).s = c.s := by cases e <;> rfl
@[simp] theorem Core.setEng_p (c : Core) (e : Engine) (x : Eng) : (c.setEng e x).p = c.p := by cases e <;> rfl
@[simp] theorem Core.setEng_m (c : Core) (e : Engine) (x : Eng) : (c.setEng e x).m = c.m := by cases e <;> rfl
@[simp] theorem Core.setEng_queues (c : Core) (e : Engine) (x : Eng) : (c.setEng e x).queues = c.queues := by cases e <;> rfl
@[simp] theorem Core.setEng_handles (c : Core) (e : Engine) (x : Eng) : (c.setEng e x).handles = c.handles := by cases e <;> rfl
@[simp] theorem Core.setEng_vshape (c : Core) (e : Engine) (x : Eng) : (c.setEng e x).vshape = c.vshape := by cases e <;> rfl
@[simp] theorem Core.setEng_mshape (c : Core) (e : Engine) (x : Eng) : (c.setEng e x).mshape = c.mshape := by cases e <;> rfl
@[simp] theorem Core.setEng_tiles (c : Core) (e : Engine) (x : Eng) : (c.setEng e x).tiles = c.tiles := by cases e <;> rfl
@[simp] theorem Core.setEng_data (c : Core) (e : Engine) (x : Eng) : (c.setEng e x).data = c.data := by cases e <;> rfl
@[simp] theorem Core.setEng_wbuf (c : Core) (e : Engine) (x : Eng) : (c.setEng e x).wbuf = c.wbuf := by cases e <;> rfl
@[simp] theorem Core.setEng_wlay (c : Core) (e : Engine) (x : Eng) : (c.setEng e x).wlay = c.wlay := by cases e <;> rfl
@[simp] theorem Core.setEng_acc (c : Core) (e : Engine) (x : Eng) : (c.setEng e x).acc = c.acc := by cases e <;> rfl
@[simp] theorem Core.setEng_accRec (c : Core) (e : Engine) (x : Eng) : (c.setEng e x).accRec = c.accRec := by cases e <;> rfl
@[simp] theorem Core.setEng_fullTiles (c : Core) (e : Engine) (x : Eng) : (c.setEng e x).fullTiles = c.fullTiles := by cases e <;> rfl
@[simp] theorem Core.setEng_tileClocks (c : Core) (e : Engine) (x : Eng) : (c.setEng e x).tileClocks = c.tileClocks := by cases e <;> rfl
@[simp] theorem Core.setEng_fills (c : Core) (e : Engine) (x : Eng) : (c.setEng e x).fills = c.fills := by cases e <;> rfl
@[simp] theorem Core.setEng_trap (c : Core) (e : Engine) (x : Eng) : (c.setEng e x).trap = c.trap := by cases e <;> rfl
@[simp] theorem Core.setEng_trapRing (c : Core) (e : Engine) (x : Eng) : (c.setEng e x).trapRing = c.trapRing := by cases e <;> rfl
@[simp] theorem Core.setEng_obj (c : Core) (e : Engine) (x : Eng) : (c.setEng e x).obj = c.obj := by cases e <;> rfl
@[simp] theorem Core.setEng_ranges (c : Core) (e : Engine) (x : Eng) : (c.setEng e x).ranges = c.ranges := by cases e <;> rfl
@[simp] theorem Core.setEng_l1 (c : Core) (e : Engine) (x : Eng) : (c.setEng e x).l1 = c.l1 := by cases e <;> rfl
@[simp] theorem Core.setEng_flights (c : Core) (e : Engine) (x : Eng) : (c.setEng e x).flights = c.flights := by cases e <;> rfl
@[simp] theorem Core.setEng_faults (c : Core) (e : Engine) (x : Eng) : (c.setEng e x).faults = c.faults := by cases e <;> rfl
@[simp] theorem Core.setEng_journal (c : Core) (e : Engine) (x : Eng) : (c.setEng e x).journal = c.journal := by cases e <;> rfl
@[simp] theorem Core.setEng_stopped (c : Core) (e : Engine) (x : Eng) : (c.setEng e x).stopped = c.stopped := by cases e <;> rfl
@[simp] theorem Core.setEng_stats (c : Core) (e : Engine) (x : Eng) : (c.setEng e x).stats = c.stats := by cases e <;> rfl
@[simp] theorem Core.setEng_versions (c : Core) (e : Engine) (x : Eng) : (c.setEng e x).versions = c.versions := by cases e <;> rfl
@[simp] theorem Core.setEng_tmrCache (c : Core) (e : Engine) (x : Eng) : (c.setEng e x).tmrCache = c.tmrCache := by cases e <;> rfl
@[simp] theorem Core.setEng_unit (c : Core) (e : Engine) (x : Eng) : (c.setEng e x).unit = c.unit := by cases e <;> rfl
@[simp] theorem Core.setEng_preempt (c : Core) (e : Engine) (x : Eng) : (c.setEng e x).preempt = c.preempt := by cases e <;> rfl
@[simp] theorem Core.setEng_preemptGroup (c : Core) (e : Engine) (x : Eng) : (c.setEng e x).preemptGroup = c.preemptGroup := by cases e <;> rfl
@[simp] theorem Core.setEng_phase (c : Core) (e : Engine) (x : Eng) : (c.setEng e x).phase = c.phase := by cases e <;> rfl
@[simp] theorem Core.setEng_budget (c : Core) (e : Engine) (x : Eng) : (c.setEng e x).budget = c.budget := by cases e <;> rfl
@[simp] theorem Core.setEng_budgetTaken (c : Core) (e : Engine) (x : Eng) : (c.setEng e x).budgetTaken = c.budgetTaken := by cases e <;> rfl
@[simp] theorem Core.setEng_blockedSince (c : Core) (e : Engine) (x : Eng) : (c.setEng e x).blockedSince = c.blockedSince := by cases e <;> rfl
@[simp] theorem Core.setEng_checker (c : Core) (e : Engine) (x : Eng) : (c.setEng e x).checker = c.checker := by cases e <;> rfl
@[simp] theorem Core.setEng_l1Names (c : Core) (e : Engine) (x : Eng) : (c.setEng e x).l1Names = c.l1Names := by cases e <;> rfl
@[simp] theorem Core.setEng_l1Since (c : Core) (e : Engine) (x : Eng) : (c.setEng e x).l1Since = c.l1Since := by cases e <;> rfl
@[simp] theorem Core.setEng_feeds (c : Core) (e : Engine) (x : Eng) : (c.setEng e x).feeds = c.feeds := by cases e <;> rfl
@[simp] theorem Core.setEng_clocks (c : Core) (e : Engine) (x : Eng) : (c.setEng e x).clocks = c.clocks := by cases e <;> rfl
@[simp] theorem Core.setEng_sample (c : Core) (e : Engine) (x : Eng) : (c.setEng e x).sample = c.sample := by cases e <;> rfl
@[simp] theorem Core.setEng_lwait (c : Core) (e : Engine) (x : Eng) : (c.setEng e x).lwait = c.lwait := by cases e <;> rfl
@[simp] theorem Core.setEng_upsets (c : Core) (e : Engine) (x : Eng) : (c.setEng e x).upsets = c.upsets := by cases e <;> rfl
@[simp] theorem Core.setEng_wupsets (c : Core) (e : Engine) (x : Eng) : (c.setEng e x).wupsets = c.wupsets := by cases e <;> rfl
@[simp] theorem Core.setEng_soft (c : Core) (e : Engine) (x : Eng) : (c.setEng e x).soft = c.soft := by cases e <;> rfl

@[simp] theorem Core.writeS_task (c : Core) (r : Fin 32) (v : Word64) : (c.writeS r v).task = c.task := by
  unfold Core.writeS; split <;> rfl
@[simp] theorem Core.writeS_gangPos (c : Core) (r : Fin 32) (v : Word64) : (c.writeS r v).gangPos = c.gangPos := by
  unfold Core.writeS; split <;> rfl
@[simp] theorem Core.writeS_started (c : Core) (r : Fin 32) (v : Word64) : (c.writeS r v).started = c.started := by
  unfold Core.writeS; split <;> rfl
@[simp] theorem Core.writeS_lastCtx (c : Core) (r : Fin 32) (v : Word64) : (c.writeS r v).lastCtx = c.lastCtx := by
  unfold Core.writeS; split <;> rfl
@[simp] theorem Core.writeS_part (c : Core) (r : Fin 32) (v : Word64) : (c.writeS r v).part = c.part := by
  unfold Core.writeS; split <;> rfl
@[simp] theorem Core.writeS_p (c : Core) (r : Fin 32) (v : Word64) : (c.writeS r v).p = c.p := by
  unfold Core.writeS; split <;> rfl
@[simp] theorem Core.writeS_m (c : Core) (r : Fin 32) (v : Word64) : (c.writeS r v).m = c.m := by
  unfold Core.writeS; split <;> rfl
@[simp] theorem Core.writeS_queues (c : Core) (r : Fin 32) (v : Word64) : (c.writeS r v).queues = c.queues := by
  unfold Core.writeS; split <;> rfl
@[simp] theorem Core.writeS_handles (c : Core) (r : Fin 32) (v : Word64) : (c.writeS r v).handles = c.handles := by
  unfold Core.writeS; split <;> rfl
@[simp] theorem Core.writeS_vshape (c : Core) (r : Fin 32) (v : Word64) : (c.writeS r v).vshape = c.vshape := by
  unfold Core.writeS; split <;> rfl
@[simp] theorem Core.writeS_mshape (c : Core) (r : Fin 32) (v : Word64) : (c.writeS r v).mshape = c.mshape := by
  unfold Core.writeS; split <;> rfl
@[simp] theorem Core.writeS_tiles (c : Core) (r : Fin 32) (v : Word64) : (c.writeS r v).tiles = c.tiles := by
  unfold Core.writeS; split <;> rfl
@[simp] theorem Core.writeS_data (c : Core) (r : Fin 32) (v : Word64) : (c.writeS r v).data = c.data := by
  unfold Core.writeS; split <;> rfl
@[simp] theorem Core.writeS_wbuf (c : Core) (r : Fin 32) (v : Word64) : (c.writeS r v).wbuf = c.wbuf := by
  unfold Core.writeS; split <;> rfl
@[simp] theorem Core.writeS_wlay (c : Core) (r : Fin 32) (v : Word64) : (c.writeS r v).wlay = c.wlay := by
  unfold Core.writeS; split <;> rfl
@[simp] theorem Core.writeS_acc (c : Core) (r : Fin 32) (v : Word64) : (c.writeS r v).acc = c.acc := by
  unfold Core.writeS; split <;> rfl
@[simp] theorem Core.writeS_accRec (c : Core) (r : Fin 32) (v : Word64) : (c.writeS r v).accRec = c.accRec := by
  unfold Core.writeS; split <;> rfl
@[simp] theorem Core.writeS_fullTiles (c : Core) (r : Fin 32) (v : Word64) : (c.writeS r v).fullTiles = c.fullTiles := by
  unfold Core.writeS; split <;> rfl
@[simp] theorem Core.writeS_tileClocks (c : Core) (r : Fin 32) (v : Word64) : (c.writeS r v).tileClocks = c.tileClocks := by
  unfold Core.writeS; split <;> rfl
@[simp] theorem Core.writeS_fills (c : Core) (r : Fin 32) (v : Word64) : (c.writeS r v).fills = c.fills := by
  unfold Core.writeS; split <;> rfl
@[simp] theorem Core.writeS_trap (c : Core) (r : Fin 32) (v : Word64) : (c.writeS r v).trap = c.trap := by
  unfold Core.writeS; split <;> rfl
@[simp] theorem Core.writeS_trapRing (c : Core) (r : Fin 32) (v : Word64) : (c.writeS r v).trapRing = c.trapRing := by
  unfold Core.writeS; split <;> rfl
@[simp] theorem Core.writeS_obj (c : Core) (r : Fin 32) (v : Word64) : (c.writeS r v).obj = c.obj := by
  unfold Core.writeS; split <;> rfl
@[simp] theorem Core.writeS_ranges (c : Core) (r : Fin 32) (v : Word64) : (c.writeS r v).ranges = c.ranges := by
  unfold Core.writeS; split <;> rfl
@[simp] theorem Core.writeS_l1 (c : Core) (r : Fin 32) (v : Word64) : (c.writeS r v).l1 = c.l1 := by
  unfold Core.writeS; split <;> rfl
@[simp] theorem Core.writeS_flights (c : Core) (r : Fin 32) (v : Word64) : (c.writeS r v).flights = c.flights := by
  unfold Core.writeS; split <;> rfl
@[simp] theorem Core.writeS_faults (c : Core) (r : Fin 32) (v : Word64) : (c.writeS r v).faults = c.faults := by
  unfold Core.writeS; split <;> rfl
@[simp] theorem Core.writeS_journal (c : Core) (r : Fin 32) (v : Word64) : (c.writeS r v).journal = c.journal := by
  unfold Core.writeS; split <;> rfl
@[simp] theorem Core.writeS_stopped (c : Core) (r : Fin 32) (v : Word64) : (c.writeS r v).stopped = c.stopped := by
  unfold Core.writeS; split <;> rfl
@[simp] theorem Core.writeS_stats (c : Core) (r : Fin 32) (v : Word64) : (c.writeS r v).stats = c.stats := by
  unfold Core.writeS; split <;> rfl
@[simp] theorem Core.writeS_versions (c : Core) (r : Fin 32) (v : Word64) : (c.writeS r v).versions = c.versions := by
  unfold Core.writeS; split <;> rfl
@[simp] theorem Core.writeS_tmrCache (c : Core) (r : Fin 32) (v : Word64) : (c.writeS r v).tmrCache = c.tmrCache := by
  unfold Core.writeS; split <;> rfl
@[simp] theorem Core.writeS_unit (c : Core) (r : Fin 32) (v : Word64) : (c.writeS r v).unit = c.unit := by
  unfold Core.writeS; split <;> rfl
@[simp] theorem Core.writeS_preempt (c : Core) (r : Fin 32) (v : Word64) : (c.writeS r v).preempt = c.preempt := by
  unfold Core.writeS; split <;> rfl
@[simp] theorem Core.writeS_preemptGroup (c : Core) (r : Fin 32) (v : Word64) : (c.writeS r v).preemptGroup = c.preemptGroup := by
  unfold Core.writeS; split <;> rfl
@[simp] theorem Core.writeS_phase (c : Core) (r : Fin 32) (v : Word64) : (c.writeS r v).phase = c.phase := by
  unfold Core.writeS; split <;> rfl
@[simp] theorem Core.writeS_budget (c : Core) (r : Fin 32) (v : Word64) : (c.writeS r v).budget = c.budget := by
  unfold Core.writeS; split <;> rfl
@[simp] theorem Core.writeS_budgetTaken (c : Core) (r : Fin 32) (v : Word64) : (c.writeS r v).budgetTaken = c.budgetTaken := by
  unfold Core.writeS; split <;> rfl
@[simp] theorem Core.writeS_blockedSince (c : Core) (r : Fin 32) (v : Word64) : (c.writeS r v).blockedSince = c.blockedSince := by
  unfold Core.writeS; split <;> rfl
@[simp] theorem Core.writeS_checker (c : Core) (r : Fin 32) (v : Word64) : (c.writeS r v).checker = c.checker := by
  unfold Core.writeS; split <;> rfl
@[simp] theorem Core.writeS_l1Names (c : Core) (r : Fin 32) (v : Word64) : (c.writeS r v).l1Names = c.l1Names := by
  unfold Core.writeS; split <;> rfl
@[simp] theorem Core.writeS_l1Since (c : Core) (r : Fin 32) (v : Word64) : (c.writeS r v).l1Since = c.l1Since := by
  unfold Core.writeS; split <;> rfl
@[simp] theorem Core.writeS_feeds (c : Core) (r : Fin 32) (v : Word64) : (c.writeS r v).feeds = c.feeds := by
  unfold Core.writeS; split <;> rfl
@[simp] theorem Core.writeS_clocks (c : Core) (r : Fin 32) (v : Word64) : (c.writeS r v).clocks = c.clocks := by
  unfold Core.writeS; split <;> rfl
@[simp] theorem Core.writeS_sample (c : Core) (r : Fin 32) (v : Word64) : (c.writeS r v).sample = c.sample := by
  unfold Core.writeS; split <;> rfl
@[simp] theorem Core.writeS_lwait (c : Core) (r : Fin 32) (v : Word64) : (c.writeS r v).lwait = c.lwait := by
  unfold Core.writeS; split <;> rfl
@[simp] theorem Core.writeS_upsets (c : Core) (r : Fin 32) (v : Word64) : (c.writeS r v).upsets = c.upsets := by
  unfold Core.writeS; split <;> rfl
@[simp] theorem Core.writeS_wupsets (c : Core) (r : Fin 32) (v : Word64) : (c.writeS r v).wupsets = c.wupsets := by
  unfold Core.writeS; split <;> rfl
@[simp] theorem Core.writeS_soft (c : Core) (r : Fin 32) (v : Word64) : (c.writeS r v).soft = c.soft := by
  unfold Core.writeS; split <;> rfl

theorem Core.writeS_zero (c : Core) (v : Word64) : c.writeS 0 v = c := rfl
theorem Core.readS_writeS_self (c : Core) (r : Fin 32) (v : Word64) (h : r ≠ 0) : (c.writeS r v).readS r = v := by
  simp [Core.writeS, Core.readS, h]
theorem Core.readS_writeS_other (c : Core) (r q : Fin 32) (v : Word64) (h : q ≠ r) : (c.writeS r v).readS q = c.readS q := by
  unfold Core.writeS Core.readS
  split
  · rfl
  · split
    · rfl
    · simp [Fin.val_inj, Ne.symm h]

end Sys2Proof.Machine
end

