-- ==== Sys2Proof/Laws/Issue.lean ====
section
/-! SUPPORT. What the issue of a word can do, case by case, and what a trap does. -/

namespace Sys2Proof.Machine

variable {s t : State} {e : Engine} {h : Hdr} {n : Names} {b : Bool} {eff : State → Res}

theorem issue_illegal {x : TrapInfo} (hf : (s.eng e).taken = false) (hx : s.illegal? e h n = some x) :
    s.issue e h n b eff = s.takeTrap e (s.eng e).pc x := by
  simp [State.issue, hf, hx]

/-- A word that waits changes nothing. -/
theorem issue_waits (hf : (s.eng e).taken = false) (hl : s.illegal? e h n = none) (hw : s.core.waitOk h.wait = false) :
    s.issue e h n b eff = s := by
  simp [State.issue, hf, hl, hw]

theorem begin_fresh (hf : (s.eng e).taken = false) : s.begin e h = Begun s h := by simp [State.begin, Begun, hf]

/-- A guard that fails leaves the WAIT and SIGNAL bytes alone to act, whatever registers are still to be written (R47). -/
theorem issue_guard (hf : (s.eng .S).taken = false) (hl : s.illegal? .S h n = none) (hw : s.core.waitOk h.wait = true)
    (hb : (n.branch && (s.eng .S).endsLoop) = false) (hg : s.core.readP h.guard = h.neg) :
    s.issue .S h n b eff = Done s .S h (Begun s h) := by
  simp only [State.issue, hf, hl, hw, hg, hb, begin_fresh hf]
  simp [Done]

theorem Begun_core : (Begun s h).core = { s.core.takeWait h.wait with blockedSince := none } := by simp [Begun]

/-! ### What the taking of a WAIT byte leaves alone -/

/-- A WAIT byte changes nothing but queues, what their engine has learnt, and the cycle's sample. -/
theorem Core.takeWait_eq (c : Core) (w : Wait) :
    ∃ q k m, c.takeWait w = { c with queues := q, clocks := k, sample := m } := by
  cases w with
  | pop n q =>
    simp only [Core.takeWait, Core.popTokens, Core.learnPop, Core.learn, Core.setQueue]
    split <;> exact ⟨_, _, _, rfl⟩
  | _ => exact ⟨c.queues, c.clocks, c.sample, rfl⟩

@[simp] theorem Core.takeWait_task (c : Core) (w : Wait) : (c.takeWait w).task = c.task := by
  obtain ⟨_, _, _, h⟩ := c.takeWait_eq w; rw [h]
@[simp] theorem Core.takeWait_gangPos (c : Core) (w : Wait) : (c.takeWait w).gangPos = c.gangPos := by
  obtain ⟨_, _, _, h⟩ := c.takeWait_eq w; rw [h]
@[simp] theorem Core.takeWait_started (c : Core) (w : Wait) : (c.takeWait w).started = c.started := by
  obtain ⟨_, _, _, h⟩ := c.takeWait_eq w; rw [h]
@[simp] theorem Core.takeWait_lastCtx (c : Core) (w : Wait) : (c.takeWait w).lastCtx = c.lastCtx := by
  obtain ⟨_, _, _, h⟩ := c.takeWait_eq w; rw [h]
@[simp] theorem Core.takeWait_part (c : Core) (w : Wait) : (c.takeWait w).part = c.part := by
  obtain ⟨_, _, _, h⟩ := c.takeWait_eq w; rw [h]
@[simp] theorem Core.takeWait_engS (c : Core) (w : Wait) : (c.takeWait w).engS = c.engS := by
  obtain ⟨_, _, _, h⟩ := c.takeWait_eq w; rw [h]
@[simp] theorem Core.takeWait_engV (c : Core) (w : Wait) : (c.takeWait w).engV = c.engV := by
  obtain ⟨_, _, _, h⟩ := c.takeWait_eq w; rw [h]
@[simp] theorem Core.takeWait_engM (c : Core) (w : Wait) : (c.takeWait w).engM = c.engM := by
  obtain ⟨_, _, _, h⟩ := c.takeWait_eq w; rw [h]
@[simp] theorem Core.takeWait_engC (c : Core) (w : Wait) : (c.takeWait w).engC = c.engC := by
  obtain ⟨_, _, _, h⟩ := c.takeWait_eq w; rw [h]
@[simp] theorem Core.takeWait_s (c : Core) (w : Wait) : (c.takeWait w).s = c.s := by
  obtain ⟨_, _, _, h⟩ := c.takeWait_eq w; rw [h]
@[simp] theorem Core.takeWait_p (c : Core) (w : Wait) : (c.takeWait w).p = c.p := by
  obtain ⟨_, _, _, h⟩ := c.takeWait_eq w; rw [h]
@[simp] theorem Core.takeWait_m (c : Core) (w : Wait) : (c.takeWait w).m = c.m := by
  obtain ⟨_, _, _, h⟩ := c.takeWait_eq w; rw [h]
@[simp] theorem Core.takeWait_handles (c : Core) (w : Wait) : (c.takeWait w).handles = c.handles := by
  obtain ⟨_, _, _, h⟩ := c.takeWait_eq w; rw [h]
@[simp] theorem Core.takeWait_vshape (c : Core) (w : Wait) : (c.takeWait w).vshape = c.vshape := by
  obtain ⟨_, _, _, h⟩ := c.takeWait_eq w; rw [h]
@[simp] theorem Core.takeWait_mshape (c : Core) (w : Wait) : (c.takeWait w).mshape = c.mshape := by
  obtain ⟨_, _, _, h⟩ := c.takeWait_eq w; rw [h]
@[simp] theorem Core.takeWait_tiles (c : Core) (w : Wait) : (c.takeWait w).tiles = c.tiles := by
  obtain ⟨_, _, _, h⟩ := c.takeWait_eq w; rw [h]
@[simp] theorem Core.takeWait_data (c : Core) (w : Wait) : (c.takeWait w).data = c.data := by
  obtain ⟨_, _, _, h⟩ := c.takeWait_eq w; rw [h]
@[simp] theorem Core.takeWait_wbuf (c : Core) (w : Wait) : (c.takeWait w).wbuf = c.wbuf := by
  obtain ⟨_, _, _, h⟩ := c.takeWait_eq w; rw [h]
@[simp] theorem Core.takeWait_wlay (c : Core) (w : Wait) : (c.takeWait w).wlay = c.wlay := by
  obtain ⟨_, _, _, h⟩ := c.takeWait_eq w; rw [h]
@[simp] theorem Core.takeWait_acc (c : Core) (w : Wait) : (c.takeWait w).acc = c.acc := by
  obtain ⟨_, _, _, h⟩ := c.takeWait_eq w; rw [h]
@[simp] theorem Core.takeWait_accRec (c : Core) (w : Wait) : (c.takeWait w).accRec = c.accRec := by
  obtain ⟨_, _, _, h⟩ := c.takeWait_eq w; rw [h]
@[simp] theorem Core.takeWait_fullTiles (c : Core) (w : Wait) : (c.takeWait w).fullTiles = c.fullTiles := by
  obtain ⟨_, _, _, h⟩ := c.takeWait_eq w; rw [h]
@[simp] theorem Core.takeWait_tileClocks (c : Core) (w : Wait) : (c.takeWait w).tileClocks = c.tileClocks := by
  obtain ⟨_, _, _, h⟩ := c.takeWait_eq w; rw [h]
@[simp] theorem Core.takeWait_fills (c : Core) (w : Wait) : (c.takeWait w).fills = c.fills := by
  obtain ⟨_, _, _, h⟩ := c.takeWait_eq w; rw [h]
@[simp] theorem Core.takeWait_trap (c : Core) (w : Wait) : (c.takeWait w).trap = c.trap := by
  obtain ⟨_, _, _, h⟩ := c.takeWait_eq w; rw [h]
@[simp] theorem Core.takeWait_trapRing (c : Core) (w : Wait) : (c.takeWait w).trapRing = c.trapRing := by
  obtain ⟨_, _, _, h⟩ := c.takeWait_eq w; rw [h]
@[simp] theorem Core.takeWait_obj (c : Core) (w : Wait) : (c.takeWait w).obj = c.obj := by
  obtain ⟨_, _, _, h⟩ := c.takeWait_eq w; rw [h]
@[simp] theorem Core.takeWait_ranges (c : Core) (w : Wait) : (c.takeWait w).ranges = c.ranges := by
  obtain ⟨_, _, _, h⟩ := c.takeWait_eq w; rw [h]
@[simp] theorem Core.takeWait_l1 (c : Core) (w : Wait) : (c.takeWait w).l1 = c.l1 := by
  obtain ⟨_, _, _, h⟩ := c.takeWait_eq w; rw [h]
@[simp] theorem Core.takeWait_l1Names (c : Core) (w : Wait) : (c.takeWait w).l1Names = c.l1Names := by
  obtain ⟨_, _, _, h⟩ := c.takeWait_eq w; rw [h]
@[simp] theorem Core.takeWait_l1Since (c : Core) (w : Wait) : (c.takeWait w).l1Since = c.l1Since := by
  obtain ⟨_, _, _, h⟩ := c.takeWait_eq w; rw [h]
@[simp] theorem Core.takeWait_flights (c : Core) (w : Wait) : (c.takeWait w).flights = c.flights := by
  obtain ⟨_, _, _, h⟩ := c.takeWait_eq w; rw [h]
@[simp] theorem Core.takeWait_faults (c : Core) (w : Wait) : (c.takeWait w).faults = c.faults := by
  obtain ⟨_, _, _, h⟩ := c.takeWait_eq w; rw [h]
@[simp] theorem Core.takeWait_journal (c : Core) (w : Wait) : (c.takeWait w).journal = c.journal := by
  obtain ⟨_, _, _, h⟩ := c.takeWait_eq w; rw [h]
@[simp] theorem Core.takeWait_stopped (c : Core) (w : Wait) : (c.takeWait w).stopped = c.stopped := by
  obtain ⟨_, _, _, h⟩ := c.takeWait_eq w; rw [h]
@[simp] theorem Core.takeWait_stats (c : Core) (w : Wait) : (c.takeWait w).stats = c.stats := by
  obtain ⟨_, _, _, h⟩ := c.takeWait_eq w; rw [h]
@[simp] theorem Core.takeWait_versions (c : Core) (w : Wait) : (c.takeWait w).versions = c.versions := by
  obtain ⟨_, _, _, h⟩ := c.takeWait_eq w; rw [h]
@[simp] theorem Core.takeWait_tmrCache (c : Core) (w : Wait) : (c.takeWait w).tmrCache = c.tmrCache := by
  obtain ⟨_, _, _, h⟩ := c.takeWait_eq w; rw [h]
@[simp] theorem Core.takeWait_unit (c : Core) (w : Wait) : (c.takeWait w).unit = c.unit := by
  obtain ⟨_, _, _, h⟩ := c.takeWait_eq w; rw [h]
@[simp] theorem Core.takeWait_preempt (c : Core) (w : Wait) : (c.takeWait w).preempt = c.preempt := by
  obtain ⟨_, _, _, h⟩ := c.takeWait_eq w; rw [h]
@[simp] theorem Core.takeWait_preemptGroup (c : Core) (w : Wait) : (c.takeWait w).preemptGroup = c.preemptGroup := by
  obtain ⟨_, _, _, h⟩ := c.takeWait_eq w; rw [h]
@[simp] theorem Core.takeWait_phase (c : Core) (w : Wait) : (c.takeWait w).phase = c.phase := by
  obtain ⟨_, _, _, h⟩ := c.takeWait_eq w; rw [h]
@[simp] theorem Core.takeWait_budget (c : Core) (w : Wait) : (c.takeWait w).budget = c.budget := by
  obtain ⟨_, _, _, h⟩ := c.takeWait_eq w; rw [h]
@[simp] theorem Core.takeWait_budgetTaken (c : Core) (w : Wait) : (c.takeWait w).budgetTaken = c.budgetTaken := by
  obtain ⟨_, _, _, h⟩ := c.takeWait_eq w; rw [h]
@[simp] theorem Core.takeWait_blockedSince (c : Core) (w : Wait) : (c.takeWait w).blockedSince = c.blockedSince := by
  obtain ⟨_, _, _, h⟩ := c.takeWait_eq w; rw [h]
@[simp] theorem Core.takeWait_checker (c : Core) (w : Wait) : (c.takeWait w).checker = c.checker := by
  obtain ⟨_, _, _, h⟩ := c.takeWait_eq w; rw [h]
@[simp] theorem Core.takeWait_feeds (c : Core) (w : Wait) : (c.takeWait w).feeds = c.feeds := by
  obtain ⟨_, _, _, h⟩ := c.takeWait_eq w; rw [h]
@[simp] theorem Core.takeWait_lwait (c : Core) (w : Wait) : (c.takeWait w).lwait = c.lwait := by
  obtain ⟨_, _, _, h⟩ := c.takeWait_eq w; rw [h]
@[simp] theorem Core.takeWait_upsets (c : Core) (w : Wait) : (c.takeWait w).upsets = c.upsets := by
  obtain ⟨_, _, _, h⟩ := c.takeWait_eq w; rw [h]
@[simp] theorem Core.takeWait_wupsets (c : Core) (w : Wait) : (c.takeWait w).wupsets = c.wupsets := by
  obtain ⟨_, _, _, h⟩ := c.takeWait_eq w; rw [h]
@[simp] theorem Core.takeWait_soft (c : Core) (w : Wait) : (c.takeWait w).soft = c.soft := by
  obtain ⟨_, _, _, h⟩ := c.takeWait_eq w; rw [h]
@[simp] theorem Core.takeWait_eng (c : Core) (w : Wait) : (c.takeWait w).eng e = c.eng e := by cases e <;> simp [Core.eng]

@[simp] theorem Begun_cur : (Begun s h).cur = s.cur := rfl
@[simp] theorem Begun_schedule : (Begun s h).schedule = s.schedule := rfl
@[simp] theorem Begun_turns : (Begun s h).turns = s.turns := rfl
@[simp] theorem Begun_nextId : (Begun s h).nextId = s.nextId := rfl
@[simp] theorem Begun_fabric : (Begun s h).fabric = s.fabric := rfl
@[simp] theorem Begun_edge : (Begun s h).edge = s.edge := rfl
@[simp] theorem Begun_mem : (Begun s h).mem = s.mem := rfl
@[simp] theorem Begun_side : (Begun s h).side = s.side := rfl
@[simp] theorem Begun_past : (Begun s h).past = s.past := rfl
@[simp] theorem Begun_views : (Begun s h).views = s.views := rfl
@[simp] theorem Begun_aliases : (Begun s h).aliases = s.aliases := rfl
@[simp] theorem Begun_tlb : (Begun s h).tlb = s.tlb := rfl
@[simp] theorem Begun_coh : (Begun s h).coh = s.coh := rfl
@[simp] theorem Begun_ctxs : (Begun s h).ctxs = s.ctxs := rfl
@[simp] theorem Begun_queues : (Begun s h).queues = s.queues := rfl
@[simp] theorem Begun_tasks : (Begun s h).tasks = s.tasks := rfl
@[simp] theorem Begun_saves : (Begun s h).saves = s.saves := rfl
@[simp] theorem Begun_die0 : (Begun s h).die0 = s.die0 := rfl
@[simp] theorem Begun_die1 : (Begun s h).die1 = s.die1 := rfl
@[simp] theorem Begun_die2 : (Begun s h).die2 = s.die2 := rfl
@[simp] theorem Begun_die3 : (Begun s h).die3 = s.die3 := rfl
@[simp] theorem Begun_mgmt : (Begun s h).mgmt = s.mgmt := rfl
@[simp] theorem Begun_rcv : (Begun s h).rcv = s.rcv := rfl
@[simp] theorem Begun_power : (Begun s h).power = s.power := rfl
@[simp] theorem Begun_fab : (Begun s h).fab = s.fab := rfl
@[simp] theorem Begun_eng : (Begun s h).eng e = s.eng e := by
  simp only [State.eng, Begun_core, ← Core.takeWait_eng s.core h.wait (e := e)]
  cases e <;> rfl
@[simp] theorem Begun_core_task : (Begun s h).core.task = s.core.task := by simp [Begun_core]
@[simp] theorem Begun_core_gangPos : (Begun s h).core.gangPos = s.core.gangPos := by simp [Begun_core]
@[simp] theorem Begun_core_started : (Begun s h).core.started = s.core.started := by simp [Begun_core]
@[simp] theorem Begun_core_lastCtx : (Begun s h).core.lastCtx = s.core.lastCtx := by simp [Begun_core]
@[simp] theorem Begun_core_part : (Begun s h).core.part = s.core.part := by simp [Begun_core]
@[simp] theorem Begun_core_engS : (Begun s h).core.engS = s.core.engS := by simp [Begun_core]
@[simp] theorem Begun_core_engV : (Begun s h).core.engV = s.core.engV := by simp [Begun_core]
@[simp] theorem Begun_core_engM : (Begun s h).core.engM = s.core.engM := by simp [Begun_core]
@[simp] theorem Begun_core_engC : (Begun s h).core.engC = s.core.engC := by simp [Begun_core]
@[simp] theorem Begun_core_s : (Begun s h).core.s = s.core.s := by simp [Begun_core]
@[simp] theorem Begun_core_p : (Begun s h).core.p = s.core.p := by simp [Begun_core]
@[simp] theorem Begun_core_m : (Begun s h).core.m = s.core.m := by simp [Begun_core]
@[simp] theorem Begun_core_handles : (Begun s h).core.handles = s.core.handles := by simp [Begun_core]
@[simp] theorem Begun_core_vshape : (Begun s h).core.vshape = s.core.vshape := by simp [Begun_core]
@[simp] theorem Begun_core_mshape : (Begun s h).core.mshape = s.core.mshape := by simp [Begun_core]
@[simp] theorem Begun_core_tiles : (Begun s h).core.tiles = s.core.tiles := by simp [Begun_core]
@[simp] theorem Begun_core_data : (Begun s h).core.data = s.core.data := by simp [Begun_core]
@[simp] theorem Begun_core_wbuf : (Begun s h).core.wbuf = s.core.wbuf := by simp [Begun_core]
@[simp] theorem Begun_core_wlay : (Begun s h).core.wlay = s.core.wlay := by simp [Begun_core]
@[simp] theorem Begun_core_acc : (Begun s h).core.acc = s.core.acc := by simp [Begun_core]
@[simp] theorem Begun_core_accRec : (Begun s h).core.accRec = s.core.accRec := by simp [Begun_core]
@[simp] theorem Begun_core_fullTiles : (Begun s h).core.fullTiles = s.core.fullTiles := by simp [Begun_core]
@[simp] theorem Begun_core_tileClocks : (Begun s h).core.tileClocks = s.core.tileClocks := by simp [Begun_core]
@[simp] theorem Begun_core_fills : (Begun s h).core.fills = s.core.fills := by simp [Begun_core]
@[simp] theorem Begun_core_trap : (Begun s h).core.trap = s.core.trap := by simp [Begun_core]
@[simp] theorem Begun_core_trapRing : (Begun s h).core.trapRing = s.core.trapRing := by simp [Begun_core]
@[simp] theorem Begun_core_obj : (Begun s h).core.obj = s.core.obj := by simp [Begun_core]
@[simp] theorem Begun_core_ranges : (Begun s h).core.ranges = s.core.ranges := by simp [Begun_core]
@[simp] theorem Begun_core_l1 : (Begun s h).core.l1 = s.core.l1 := by simp [Begun_core]
@[simp] theorem Begun_core_flights : (Begun s h).core.flights = s.core.flights := by simp [Begun_core]
@[simp] theorem Begun_core_faults : (Begun s h).core.faults = s.core.faults := by simp [Begun_core]
@[simp] theorem Begun_core_journal : (Begun s h).core.journal = s.core.journal := by simp [Begun_core]
@[simp] theorem Begun_core_stopped : (Begun s h).core.stopped = s.core.stopped := by simp [Begun_core]
@[simp] theorem Begun_core_stats : (Begun s h).core.stats = s.core.stats := by simp [Begun_core]
@[simp] theorem Begun_core_versions : (Begun s h).core.versions = s.core.versions := by simp [Begun_core]
@[simp] theorem Begun_core_tmrCache : (Begun s h).core.tmrCache = s.core.tmrCache := by simp [Begun_core]
@[simp] theorem Begun_core_unit : (Begun s h).core.unit = s.core.unit := by simp [Begun_core]
@[simp] theorem Begun_core_preempt : (Begun s h).core.preempt = s.core.preempt := by simp [Begun_core]
@[simp] theorem Begun_core_preemptGroup : (Begun s h).core.preemptGroup = s.core.preemptGroup := by simp [Begun_core]
@[simp] theorem Begun_core_phase : (Begun s h).core.phase = s.core.phase := by simp [Begun_core]
@[simp] theorem Begun_core_budget : (Begun s h).core.budget = s.core.budget := by simp [Begun_core]
@[simp] theorem Begun_core_budgetTaken : (Begun s h).core.budgetTaken = s.core.budgetTaken := by simp [Begun_core]
@[simp] theorem Begun_core_checker : (Begun s h).core.checker = s.core.checker := by simp [Begun_core]
@[simp] theorem Begun_core_l1Names : (Begun s h).core.l1Names = s.core.l1Names := by simp [Begun_core]
@[simp] theorem Begun_core_l1Since : (Begun s h).core.l1Since = s.core.l1Since := by simp [Begun_core]
@[simp] theorem Begun_core_feeds : (Begun s h).core.feeds = s.core.feeds := by simp [Begun_core]
@[simp] theorem Begun_core_lwait : (Begun s h).core.lwait = s.core.lwait := by simp [Begun_core]
@[simp] theorem Begun_core_upsets : (Begun s h).core.upsets = s.core.upsets := by simp [Begun_core]
@[simp] theorem Begun_core_wupsets : (Begun s h).core.wupsets = s.core.wupsets := by simp [Begun_core]
@[simp] theorem Begun_core_soft : (Begun s h).core.soft = s.core.soft := by simp [Begun_core]
@[simp] theorem Begun_readS (r : Fin 32) : (Begun s h).core.readS r = s.core.readS r := by simp [Core.readS]
@[simp] theorem Begun_readP (r : Fin 8) : (Begun s h).core.readP r = s.core.readP r := by simp [Core.readP]
@[simp] theorem Begun_readM (r : Fin 8) : (Begun s h).core.readM r = s.core.readM r := by simp [Core.readM]
@[simp] theorem Begun_core_eng : (Begun s h).core.eng e = s.core.eng e := Begun_eng
@[simp] theorem Begun_readK (r : Fin 16) : (Begun s h).core.readK e r = s.core.readK e r := by simp [Core.readK]
@[simp] theorem Begun_readR (r : Fin 32) : (Begun s h).core.readR e r = s.core.readR e r := by simp [Core.readR]

section
variable {rs : List Reg} (hi : Issues s e h n rs)
include hi

/-- A word that issues is its effect's result. -/
theorem issue_eff : s.issue e h n (s.core.busyFor rs) eff =
    match eff (Begun s h) with
    | .done t => Done s e h t
    | .goto t p => Jumped s e h t p
    | .resume t => t.signal e 0 true (s.eng e).pc h.sig
    | .pend t i => Pending s e h t i
    | .stall f => f s
    | .hold t => Holding e t
    | .trap f x => (f s).takeTrap e (s.eng e).pc x
    | .doneThen t a => DoneThen s e h t a
    | .stop t => (t.modEng e (fun x => { x with ended := true, loops := [], taken := false })).signal e 0 true (s.eng e).pc h.sig := by
  have hg : ¬ (e = .S ∧ (s.core.readP h.guard == h.neg) = true) := fun hg => hi.guard hg.1 (by simpa using hg.2)
  simp only [State.issue, hi.fresh, hi.legal, hi.waits, hi.idle, hi.body, begin_fresh hi.fresh]
  simp only [Bool.not_true, Bool.or_true, Bool.false_eq_true, if_false, hg]
  rfl

theorem issue_done (he : eff (Begun s h) = .done t) : s.issue e h n (s.core.busyFor rs) eff = Done s e h t := by
  rw [issue_eff hi, he]
theorem issue_hold (he : eff (Begun s h) = .hold t) : s.issue e h n (s.core.busyFor rs) eff = Holding e t := by
  rw [issue_eff hi, he]
theorem issue_doneThen {a : After} (he : eff (Begun s h) = .doneThen t a) :
    s.issue e h n (s.core.busyFor rs) eff = DoneThen s e h t a := by
  rw [issue_eff hi, he]
theorem issue_goto {p : Nat} (he : eff (Begun s h) = .goto t p) : s.issue e h n (s.core.busyFor rs) eff = Jumped s e h t p := by
  rw [issue_eff hi, he]
theorem issue_pend {i : Nat} (he : eff (Begun s h) = .pend t i) : s.issue e h n (s.core.busyFor rs) eff = Pending s e h t i := by
  rw [issue_eff hi, he]
end

/-- A word that issues or goes on is its effect's result. -/
theorem works_eff {b : State} {rs : List Reg} (hw : Works s e h n rs b) : s.issue e h n (s.core.busyFor rs) eff =
    match eff b with
    | .done t => Done s e h t
    | .goto t p => Jumped s e h t p
    | .resume t => t.signal e 0 true (s.eng e).pc h.sig
    | .pend t i => Pending s e h t i
    | .stall f => f s
    | .hold t => Holding e t
    | .trap f x => (f s).takeTrap e (s.eng e).pc x
    | .doneThen t a => DoneThen s e h t a
    | .stop t => (t.modEng e (fun x => { x with ended := true, loops := [], taken := false })).signal e 0 true (s.eng e).pc h.sig := by
  obtain ⟨hi, rfl⟩ | ⟨hr, rfl⟩ := hw
  · exact issue_eff hi
  · have hg : ¬ (e = .S ∧ (b.core.readP h.guard == h.neg) = true) := fun hg => hr.guard hg.1 (by simpa using hg.2)
    simp only [State.issue, State.begin, hr.taken, hr.idle, hr.body]
    simp only [Bool.true_or, Bool.not_true, if_true, Bool.false_eq_true, if_false, hg]
    rfl
theorem works_done {b : State} {rs : List Reg} (hw : Works s e h n rs b) (he : eff b = .done t) :
    s.issue e h n (s.core.busyFor rs) eff = Done s e h t := by rw [works_eff hw, he]
theorem works_hold {b : State} {rs : List Reg} (hw : Works s e h n rs b) (he : eff b = .hold t) :
    s.issue e h n (s.core.busyFor rs) eff = Holding e t := by rw [works_eff hw, he]

@[simp] theorem busyFor_nil (c : Core) : c.busyFor [] = false := by
  simp only [Core.busyFor, List.any_eq_false]
  intro f _
  cases f.dest <;> simp

/-- Words that name no register in flight. -/
theorem issue_done_nil (hi : Issues s e h n []) (he : eff (Begun s h) = .done t) : s.issue e h n false eff = Done s e h t := by
  rw [← busyFor_nil s.core]; exact issue_done hi he
theorem issue_goto_nil {p : Nat} (hi : Issues s e h n []) (he : eff (Begun s h) = .goto t p) :
    s.issue e h n false eff = Jumped s e h t p := by
  rw [← busyFor_nil s.core]; exact issue_goto hi he

/-- Flags that raise nothing leave the core as it is. -/
@[simp] theorem addFlags_zero (c : Core) (e : Engine) : c.addFlags e 0#6 = c := by
  cases e <;> simp [Core.addFlags, Core.setEng, Core.eng]

/-- A V word that issues with its shared tiles ready and no soft error in what it reads. -/
theorem vissue_done {reads writes : List (Fin 256)} {index : Option (Fin 256)} (hi : Issues s .V h n ((reads ++ writes).map .t))
    (hr : (Begun s h).core.sharedReady (reads.map (·.val)) (writes.map (·.val)) = true)
    (hs : (Begun s h).core.softIn .tile ((Begun s h).core.readRuns index reads) = false) (he : eff (Begun s h) = .done t) :
    s.vissue h n reads writes eff index = .next (Done s .V h (t.written writes)) := by
  refine congrArg _ (issue_done hi ?_)
  simp [hr, hs, he, State.onPool]

/-- A V word on tiles alone. -/
theorem vcore_done {ok : VShape → Bool} {reads writes : List (Fin 256)} {f : Core → Core} (hok : ok s.core.vshape = true)
    (hi : Issues s .V h { regs := (reads.reverse ++ writes).map (fun t => (false, t.val)) } ((reads ++ writes).map .t))
    (hr : (Begun s h).core.sharedReady (reads.map (·.val)) (writes.map (·.val)) = true)
    (hsoft : (Begun s h).core.softIn .tile ((Begun s h).core.readRuns none reads) = false) :
    s.vcore h ok reads writes f = .next (Done s .V h (((Begun s h).modCore f).written writes)) := by
  have hs : s.core.shapeOk ok = none := by simp [Core.shapeOk, hok]
  rw [State.vcore, hs]
  exact vissue_done (eff := fun s => .done (s.setCore (f s.core))) hi hr hsoft rfl
/-- A V word whose effect is a function of the core, whatever it names. -/
theorem vissue_modCore {reads writes : List (Fin 256)} {f : Core → Core} (hi : Issues s .V h n ((reads ++ writes).map .t))
    (hr : (Begun s h).core.sharedReady (reads.map (·.val)) (writes.map (·.val)) = true)
    {index : Option (Fin 256)} (hsoft : (Begun s h).core.softIn .tile ((Begun s h).core.readRuns index reads) = false) :
    s.vissue h n reads writes (fun s => .done (s.modCore f)) index =
      .next (Done s .V h (((Begun s h).modCore f).written writes)) :=
  vissue_done (eff := fun s => .done (s.modCore f)) hi hr hsoft rfl
/-! ### Traps -/

/-- Outside trap mode a trap enters it; where no handler stands the sluice is told (R405, R413). -/
theorem takeTrap_enters {pc : Nat} {x : TrapInfo} (hm : s.core.trap.mode = false) :
    s.takeTrap e pc x =
      (let t := s.setCore ((s.core.trapEntry e pc x).learnAll (Clock.all s.nextId))
       if t.core.trap.hostHeld then t.postTrapEvent s.cur false false else t) := by
  simp [State.takeTrap, hm]
/-- In trap mode a condition on another engine is held (R405). -/
theorem takeTrap_held {pc : Nat} {x : TrapInfo} (hm : s.core.trap.mode = true) (he : e ≠ .S) :
    s.takeTrap e pc x = s.modEng e (fun y => { y with held := some (y.held.getD (pc, x)) }) := by
  simp [State.takeTrap, hm, he]
/-- In trap mode a condition on S is a double trap (R412). -/
theorem takeTrap_double {pc : Nat} {x : TrapInfo} (hm : s.core.trap.mode = true) :
    s.takeTrap .S pc x = (s.setCore (s.core.doubleTrap pc x)).abandon s.cur true := by
  simp [State.takeTrap, hm]

/-- With nothing queued and no signal, nothing is performed. -/
theorem signal_none {id pc : Nat} {r : Bool} (hs : (s.eng e).sigs = []) :
    s.signal e id r pc .none = s.modEng e (fun x => { x with sigs := [] }) := by
  simp [State.signal, hs, State.flushSigs]

/-- What going past a word leaves of an engine. -/
@[simp] theorem advance_sigs (x : Eng) : x.advance.sigs = x.sigs := rfl
@[simp] theorem advance_link (x : Eng) : x.advance.link = x.link := rfl
@[simp] theorem advance_k (x : Eng) : x.advance.k = x.k := rfl
@[simp] theorem advance_flags (x : Eng) : x.advance.flags = x.flags := rfl

/-- A word with no signal, and none queued before it, leaves only its PC and its loops. -/
theorem retire_none {pc : Nat} (hs : (s.eng e).sigs = []) (hg : h.sig = .none) :
    s.retire e h pc = (s.modEng e Eng.advance).modEng e (fun x => { x with sigs := [] }) := by
  rw [State.retire, hg, signal_none]
  simpa using hs

/-- An access that reaches its address is what is done there. -/
theorem withAccess_reaches {va k a : Nat} {w : Bool} {f : Nat → State → Res} (hr : Reaches s e va k w a t) :
    s.withAccess e va k w f = f a t := by
  simp [State.withAccess, hr.room, hr.go]

theorem foldl_dropL1_s (l : List (Nat × Word32 × BitVec 4)) (c : Core) : (l.foldl (fun c w => c.dropL1 w.1) c).s = c.s := by
  induction l generalizing c with
  | nil => rfl
  | cons w l ih => rw [List.foldl_cons, ih]; rfl

theorem addReq_core (r : Req) : (s.addReq r).core = s.core := rfl

/-- What a request sent leaves. -/
theorem sendReq_sends (pc since a k va data : Nat) (kind : ReqKind) (pol : Policy) (inv half : Bool) (q : Option (Nat × Nat)) :
    Sends s (s.sendReq e pc since kind pol inv a k va data q half).2 e kind a k data where
  request := ⟨_, rfl, rfl, rfl, rfl, rfl, rfl, rfl, rfl, rfl⟩
  regs := by
    simp only [State.sendReq, State.fresh]
    rw [addReq_core, State.modCore, State.setCore_core, foldl_dropL1_s]
    rfl
  mem := rfl
theorem sendReq_id (pc since a k va data : Nat) (kind : ReqKind) (pol : Policy) (inv half : Bool) (q : Option (Nat × Nat)) :
    (s.sendReq e pc since kind pol inv a k va data q half).1 = s.nextId := rfl

end Sys2Proof.Machine
end

