-- ==== Sys2Proof/Laws/Memory.lean ====
section
/-! SUPPORT. The shared operations over memory keep its canonical form, and so does the issue of a word whose effect does. -/

namespace Sys2Proof

open Machine

/-- What is noted of words about to be written changes nothing else. -/
theorem noteWrite_eq (s : State) (ks : List Nat) : ∃ p v, s.noteWrite ks = { s with past := p, views := v } := by
  unfold State.noteWrite
  induction ks generalizing s with
  | nil => exact ⟨_, _, rfl⟩
  | cons k ks ih =>
    rw [List.foldl_cons]
    obtain ⟨p, v, h⟩ := ih ((s.notePast k (s.rawWord k)).noteView k)
    exact ⟨p, v, h⟩
theorem noteUnitWrite_eq (s : State) (ks : List Nat) : ∃ p v, s.noteUnitWrite ks = { s with past := p, views := v } := by
  unfold State.noteUnitWrite
  induction ks generalizing s with
  | nil => exact ⟨_, _, rfl⟩
  | cons k ks ih =>
    rw [List.foldl_cons]
    obtain ⟨p, v, h⟩ := ih { s.notePast k (s.rawWord k) with
      views := (s.notePast k (s.rawWord k)).views.filter (fun e => paOf (4 * e.1) != paOf (4 * k)) }
    exact ⟨p, v, h⟩

/-- What touches neither the memory nor the sideband keeps their form. -/
theorem memoryOk_of_eq {s t : State} (hm : t.mem = s.mem) (hs : t.side = s.side) (h : MemoryOk s) : MemoryOk t := by
  unfold MemoryOk at *; rw [hm, hs]; exact h

/-- A fold of steps that keep a property keeps it. -/
theorem foldl_keeps {α β : Type} {P : α → Prop} {f : α → β → α} (h : ∀ s x, P s → P (f s x)) (l : List β) (s : α) (hs : P s) :
    P (l.foldl f s) := by
  induction l generalizing s with
  | nil => exact hs
  | cons x l ih => exact ih _ (h s x hs)

section
variable {s : State} (h : MemoryOk s)
include h

theorem MemoryOk.setCoreAt (n : Nat) (c : Core) : MemoryOk (s.setCoreAt n c) := memoryOk_of_eq rfl rfl h
theorem MemoryOk.setCore (c : Core) : MemoryOk (s.setCore c) := memoryOk_of_eq rfl rfl h
theorem MemoryOk.modCoreAt (n : Nat) (f : Core → Core) : MemoryOk (s.modCoreAt n f) := memoryOk_of_eq rfl rfl h
theorem MemoryOk.modEng (e : Engine) (f : Eng → Eng) : MemoryOk (s.modEng e f) := memoryOk_of_eq rfl rfl h
theorem MemoryOk.setDir (l : Nat) (d : Dir) : MemoryOk (s.setDir l d) := memoryOk_of_eq rfl rfl h
theorem MemoryOk.modDir (l : Nat) (f : Dir → Dir) : MemoryOk (s.modDir l f) := memoryOk_of_eq rfl rfl h
theorem MemoryOk.setQueue (n : Nat) (q : Queue) : MemoryOk (s.setQueue n q) := memoryOk_of_eq rfl rfl h
theorem MemoryOk.setDie (n : Nat) (d : Die) : MemoryOk (s.setDie n d) := memoryOk_of_eq (by simp) (by simp) h

theorem MemoryOk.recode (line : Nat) (tag : BitVec 4) (p : Bool) : MemoryOk (s.recode line tag p) := by
  unfold State.recode
  split <;> exact ⟨h.1, Laws.wf_set _ _ _ _ h.2⟩

theorem MemoryOk.withMem (m : Memory) (hm : Memory.wf m = true) : MemoryOk { s with mem := m } := ⟨hm, h.2⟩

theorem MemoryOk.logError (die : Nat) (r : ErrorRecord) : MemoryOk (s.logError die r) := by
  unfold State.logError
  dsimp only
  split
  · exact h.setDie _ _
  · exact h
theorem MemoryOk.noteWrite (ks : List Nat) : MemoryOk (s.noteWrite ks) := by
  obtain ⟨_, _, h'⟩ := noteWrite_eq s ks; rw [h']; exact h
theorem MemoryOk.noteUnitWrite (ks : List Nat) : MemoryOk (s.noteUnitWrite ks) := by
  obtain ⟨_, _, h'⟩ := noteUnitWrite_eq s ks; rw [h']; exact h
theorem MemoryOk.dropSaves (id : Nat) : MemoryOk (s.dropSaves id) := by
  unfold State.dropSaves
  split
  · exact h
  · exact h

/-- A controller's read of a line keeps memory's form. -/
theorem MemoryOk.readDecode (line : Nat) : MemoryOk (s.readDecode line) := by
  unfold State.readDecode
  split
  · exact h
  · dsimp only
    split
    · exact h
    · exact h
    · refine MemoryOk.logError ?_ _ _
      refine memoryOk_of_eq (s := s.correctLine line _ _) rfl rfl ?_
      unfold State.correctLine
      dsimp only
      split
      · exact MemoryOk.recode (h.withMem _ (Laws.Memory.wf_write _ _ _ h.1)) _ _ _
      · exact h.recode _ _ _
    · exact (h.recode _ _ _).logError _ _

theorem MemoryOk.writeLine (a : Nat) (bs : List Byte) (tag : BitVec 4) : MemoryOk (s.writeLine a bs tag) := by
  have h' : MemoryOk (if decide (64 ≤ bs.length) then s else s.readDecode (lineOf a)) := by
    split
    · exact h
    · exact h.readDecode _
  have h'' := h'.noteUnitWrite ((List.range ((a % 4 + bs.length + 3) / 4)).map (a / 4 + ·))
  exact (h''.withMem _ (Laws.Memory.wf_writeN _ _ _ h''.1)).recode _ _ _

theorem MemoryOk.putWords (line : Nat) (ws : List (Nat × Word32 × BitVec 4)) (tag : BitVec 4) :
    MemoryOk (s.putWords line ws tag) := by
  unfold State.putWords
  dsimp only
  split
  · exact h
  · have h' : MemoryOk (if (ws.length == 16 && ws.all (fun w => w.2.2 == 15)) then s else s.readDecode line) := by
      split
      · exact h
      · exact h.readDecode _
    have h'' := h'.noteWrite (ws.map (·.1))
    exact MemoryOk.recode (h''.withMem _ (foldl_keeps (P := fun m => Memory.wf m = true)
      (fun m w hm => Laws.Memory.wf_writeN m _ _ hm) _ _ h''.1)) _ _ _

theorem MemoryOk.recallWord (k : Nat) : MemoryOk (s.recallWord k) := by
  unfold State.recallWord
  split
  · exact ((h.putWords _ _ _).modCoreAt _ _).modDir _ _
  · exact h

theorem MemoryOk.invalidateCluster (cl line : Nat) (spare : Option Nat) : MemoryOk (s.invalidateCluster cl line spare) :=
  foldl_keeps (P := MemoryOk) (fun s n hs => by split <;> exact hs) _ _ h

theorem MemoryOk.dropCopies (line : Nat) : MemoryOk (s.dropCopies line) := by
  unfold State.dropCopies
  exact (foldl_keeps (P := MemoryOk) (fun s c hs => hs.invalidateCluster _ _ _) _ _ h).modDir _ _

theorem MemoryOk.recallNow (line : Nat) (words : BitVec 16) : MemoryOk (s.recallNow line words) := by
  unfold State.recallNow
  split
  · exact h
  · exact (foldl_keeps (P := MemoryOk) (fun s j hs => by split <;> first | exact hs | exact hs.recallWord _) _ _
      h).dropCopies _

theorem MemoryOk.applyLine (a : Nat) (bs : List Byte) (tag : BitVec 4) : MemoryOk (s.applyLine a bs tag) := by
  unfold State.applyLine
  exact foldl_keeps (P := MemoryOk) (fun s l hs => hs.dropCopies l) _ _
    ((foldl_keeps (P := MemoryOk) (fun s l hs => hs.recallNow l _) _ _ h).writeLine _ _ _)

theorem MemoryOk.writeNowLine (a : Nat) (bs : List Byte) (tag : BitVec 4) : MemoryOk (s.writeNowLine a bs tag) := by
  unfold State.writeNowLine
  split
  · exact h.applyLine _ _ _
  · exact memoryOk_of_eq rfl rfl h

omit h in
theorem MemoryOk.writeNow {s : State} (h : MemoryOk s) (a : Nat) (bs : List Byte) (tag : BitVec 4) (fuel : Nat) :
    MemoryOk (s.writeNow a bs tag fuel) := by
  induction fuel generalizing s a bs with
  | zero => exact h
  | succ n ih =>
    unfold State.writeNow
    split
    · exact h
    · exact ih (h.writeNowLine _ _ _) _ _

theorem MemoryOk.postEvent (q kind reason scope seq info : Nat) : MemoryOk (s.postEvent q kind reason scope seq info) := by
  unfold State.postEvent
  dsimp only
  split
  · exact h.setQueue _ _
  · split
    · exact h.setQueue _ _
    · exact (h.writeNow _ _ _ _).setQueue _ _

theorem MemoryOk.postTrapEvent (core : Nat) (a d : Bool) : MemoryOk (s.postTrapEvent core a d) := by
  unfold State.postTrapEvent
  dsimp only
  split
  · exact h
  · split
    · exact h
    · exact h.postEvent _ _ _ _ _ _

theorem MemoryOk.abandon (core : Nat) (d : Bool) : MemoryOk (s.abandon core d) := by
  unfold State.abandon
  refine foldl_keeps (P := MemoryOk) (fun s n hs => hs.modCoreAt _ _) _ _ ?_
  split
  · exact (h.postTrapEvent _ _ _).dropSaves _
  · exact h.postTrapEvent _ _ _

/-- TAKING A TRAP keeps memory's form. -/
theorem MemoryOk.takeTrap (e : Engine) (pc : Nat) (t : TrapInfo) : MemoryOk (s.takeTrap e pc t) := by
  unfold State.takeTrap
  split
  · split
    · exact (h.setCore _).abandon _ _
    · exact h.modEng _ _
  · dsimp only
    split
    · exact (h.setCore _).postTrapEvent _ _ _
    · exact h.setCore _

theorem MemoryOk.lateTrap (e : Engine) (b : Bool) (pc : Nat) (t : TrapInfo) : MemoryOk (s.lateTrap e b pc t) := by
  unfold State.lateTrap
  split
  · exact h.modEng _ _
  · exact h.takeTrap _ _ _

theorem MemoryOk.modCore (f : Core → Core) : MemoryOk (s.modCore f) := h.setCore _
theorem MemoryOk.teach (e : Engine) (g : Signal) : MemoryOk (s.teach e g) := by cases g <;> exact h
theorem MemoryOk.follow (e : Engine) (g : SigEntry) : MemoryOk (s.follow e g) := by
  unfold State.follow
  split
  · exact h
  · exact h.lateTrap _ _ _ _
  · exact h.modEng _ _
  · split
    · exact h.abandon _ _
    · exact h

omit h in
theorem MemoryOk.flushSigs {s : State} (h : MemoryOk s) (e : Engine) (gs : List SigEntry) : MemoryOk (s.flushSigs e gs) := by
  induction gs generalizing s with
  | nil => exact h.modEng _ _
  | cons g gs ih =>
    unfold State.flushSigs
    split
    · exact h.modEng _ _
    · split
      · exact h.modEng _ _
      · split
        · exact ih ((h.setCore _).teach _ _)
        · exact (((h.setCore _).teach _ _).modEng _ _).follow _ _
      · exact ((h.setCore _).modEng _ _).lateTrap _ _ _ _

theorem MemoryOk.signal (e : Engine) (id : Nat) (r : Bool) (pc : Nat) (g : Signal) : MemoryOk (s.signal e id r pc g) := by
  unfold State.signal
  split <;> exact h.flushSigs _ _

theorem MemoryOk.retire (e : Engine) (hd : Hdr) (pc : Nat) : MemoryOk (s.retire e hd pc) := (h.modEng _ _).signal _ _ _ _ _
theorem MemoryOk.retireThen (e : Engine) (hd : Hdr) (pc : Nat) (a : After) : MemoryOk (s.retireThen e hd pc a) := by
  have h' := h.modEng e Eng.advance
  unfold State.retireThen
  dsimp only
  split
  · exact (h'.flushSigs _ _).follow _ _
  · exact h'.flushSigs _ _
theorem MemoryOk.begin (e : Engine) (hd : Hdr) : MemoryOk (s.begin e hd) := by
  unfold State.begin; split
  · exact h
  · exact h.setCore _

end

/-- What a result of a word's effect must keep for the word to keep memory's form. -/
def Machine.Res.Keeps : Res → State → Prop
  | .done s, _ | .goto s _, _ | .resume s, _ | .pend s _, _ | .hold s, _ | .doneThen s _, _ | .stop s, _ => MemoryOk s
  | .stall f, s | .trap f _, s => MemoryOk (f s)

/-- THE ISSUE OF A WORD keeps memory's form where its effect does. -/
theorem MemoryOk.issue {s : State} (h : MemoryOk s) (e : Engine) (hd : Hdr) (n : Names) (b : Bool) (eff : State → Res)
    (he : ∀ t, MemoryOk t → (eff t).Keeps s) : MemoryOk (s.issue e hd n b eff) := by
  unfold State.issue
  dsimp only
  split
  · exact h.takeTrap _ _ _
  · split
    · exact h
    · split
      · exact h.takeTrap _ _ _
      · split
        · exact (h.begin _ _).retire _ _ _
        · split
          · exact h
          · have hk := he _ (h.begin e hd)
            revert hk
            generalize eff _ = r
            intro hk
            cases r with
            | done s2 => exact MemoryOk.retire hk _ _ _
            | goto s2 t => exact MemoryOk.signal (MemoryOk.modEng hk _ _) _ _ _ _ _
            | resume s2 => exact MemoryOk.signal hk _ _ _ _ _
            | pend s2 i => exact MemoryOk.signal (MemoryOk.modEng hk _ _) _ _ _ _ _
            | stall f => exact hk
            | hold s2 => exact MemoryOk.modEng hk _ _
            | trap f t => exact MemoryOk.takeTrap hk _ _ _
            | doneThen s2 a => exact MemoryOk.retireThen hk _ _ _ _
            | stop s2 => exact MemoryOk.signal (MemoryOk.modEng hk _ _) _ _ _ _ _

end Sys2Proof
end

