-- ==== Sys2Proof/Laws/Frame.lean ====
section
/-! SUPPORT. What traps, signals and the issue of a word leave of the registers, of memory and of other cores. -/

namespace Sys2Proof

open Machine

/-- A view of every core, and the core with the turn, as before. -/
structure Same {α : Type} (g : Core → α) (s t : State) : Prop where
  cur : t.cur = s.cur
  view : ∀ n, g (t.coreAt n) = g (s.coreAt n)

/-- A view that the caches do not enter. -/
def CacheFree {α : Type} (g : Core → α) : Prop := ∀ c l m, g { c with l1 := l, tmrCache := m } = g c

section
variable {α : Type} {g : Core → α}

theorem Same.rfl {s : State} : Same g s s := ⟨.refl _, fun _ => .refl _⟩
theorem Same.core {s t : State} (h : Same g s t) : g t.core = g s.core := by
  rw [State.core, h.cur]; exact h.view _
theorem Same.trans {s t u : State} (h : Same g s t) (h' : Same g t u) : Same g s u :=
  ⟨h'.cur.trans h.cur, fun n => (h'.view n).trans (h.view n)⟩
theorem Same.of_cores {s t : State} (hc : t.cur = s.cur) (h : t.cores = s.cores) : Same g s t :=
  ⟨hc, fun n => by simp only [State.coreAt, h]⟩
theorem Same.modCoreAt (s : State) (n : Nat) (f : Core → Core) (hf : ∀ c, g (f c) = g c) : Same g s (s.modCoreAt n f) := by
  refine ⟨.refl _, fun k => ?_⟩
  by_cases h : k = n
  · subst h; simp [State.modCoreAt, hf]
  · rw [State.modCoreAt, State.setCoreAt_coreAt_other _ _ _ _ h]
theorem Same.setCore (s : State) (c : Core) (hc : g c = g s.core) : Same g s (s.setCore c) := by
  refine ⟨.refl _, fun k => ?_⟩
  by_cases h : k = s.cur
  · subst h; exact (congrArg g (State.setCore_core s c)).trans hc
  · rw [State.setCore_coreAt_other _ _ _ h]
theorem Same.recode (s : State) (l : Nat) (tag : BitVec 4) (b : Bool) : Same g s (s.recode l tag b) := by
  unfold State.recode; split <;> exact .of_cores (.refl _) (.refl _)
theorem Same.logError (s : State) (die : Nat) (r : ErrorRecord) : Same g s (s.logError die r) := by
  unfold State.logError
  dsimp only
  split
  · refine .of_cores ?_ ?_ <;> simp
  · exact .rfl
theorem Same.noteWrite (s : State) (ks : List Nat) : Same g s (s.noteWrite ks) := by
  obtain ⟨_, _, h⟩ := noteWrite_eq s ks; rw [h]; exact .of_cores (.refl _) (.refl _)
theorem Same.noteUnitWrite (s : State) (ks : List Nat) : Same g s (s.noteUnitWrite ks) := by
  obtain ⟨_, _, h⟩ := noteUnitWrite_eq s ks; rw [h]; exact .of_cores (.refl _) (.refl _)
theorem Same.dropSaves (s : State) (id : Nat) : Same g s (s.dropSaves id) := by
  unfold State.dropSaves
  split
  · exact .of_cores (.refl _) (.refl _)
  · exact .rfl
theorem Same.correctLine (s : State) (l i : Nat) (v : Byte) : Same g s (s.correctLine l i v) := by
  unfold State.correctLine
  dsimp only
  split
  · refine Same.trans ?_ (Same.recode _ _ _ _)
    exact .of_cores (.refl _) (.refl _)
  · exact Same.recode _ _ _ _
/-- A controller's read of a line changes no core. -/
theorem Same.readDecode (s : State) (l : Nat) : Same g s (s.readDecode l) := by
  unfold State.readDecode
  split
  · exact .rfl
  · dsimp only
    split
    · exact .rfl
    · exact .rfl
    · refine Same.trans ?_ (Same.logError _ _ _)
      exact (Same.correctLine s l _ _).trans (.of_cores (.refl _) (.refl _))
    · exact (Same.recode _ _ _ _).trans (Same.logError _ _ _)
theorem Same.putWords (s : State) (l : Nat) (ws : List (Nat × Word32 × BitVec 4)) (tag : BitVec 4) :
    Same g s (s.putWords l ws tag) := by
  unfold State.putWords
  dsimp only
  split
  · exact .rfl
  · have h : Same g s (if (ws.length == 16 && ws.all (fun w => w.2.2 == 15)) then s else s.readDecode l) := by
      split
      · exact .rfl
      · exact Same.readDecode s l
    refine ((h.trans (.noteWrite _ (ws.map (·.1)))).trans ?_).trans (Same.recode _ _ _ _)
    exact .of_cores (.refl _) (.refl _)
theorem Same.foldl {β : Type} {f : State → β → State} (hf : ∀ s x, Same g s (f s x)) (xs : List β) (s : State) :
    Same g s (xs.foldl f s) :=
  foldl_keeps (P := Same g s) (fun t x h => h.trans (hf t x)) xs s .rfl
theorem Same.writeLine (s : State) (a : Nat) (bs : List Byte) (tag : BitVec 4) : Same g s (s.writeLine a bs tag) := by
  have h : Same g s (if decide (64 ≤ bs.length) then s else s.readDecode (lineOf a)) := by
    split
    · exact .rfl
    · exact Same.readDecode s _
  refine ((h.trans (.noteUnitWrite _ ((List.range ((a % 4 + bs.length + 3) / 4)).map (a / 4 + ·)))).trans ?_).trans (Same.recode _ _ _ _)
  exact .of_cores (.refl _) (.refl _)

variable (hg : CacheFree g)
include hg

theorem Same.invalidateCluster (s : State) (cl l : Nat) (sp : Option Nat) : Same g s (s.invalidateCluster cl l sp) :=
  .foldl (fun s n => by split; exacts [.modCoreAt _ _ _ (fun c => hg c _ _), .rfl]) _ _
theorem Same.dropCopies (s : State) (l : Nat) : Same g s (s.dropCopies l) :=
  (Same.foldl (fun s _ => .invalidateCluster hg s _ _ _) _ _).trans (.of_cores (.refl _) (.refl _))
theorem Same.recallWord (s : State) (w : Nat) : Same g s (s.recallWord w) := by
  unfold State.recallWord
  split
  · exact ((Same.putWords s _ _ _).trans (.modCoreAt _ _ _ (fun c => hg c _ _))).trans (.of_cores (.refl _) (.refl _))
  · exact .rfl
theorem Same.recallNow (s : State) (l : Nat) (w : BitVec 16) : Same g s (s.recallNow l w) := by
  unfold State.recallNow
  split
  · exact .rfl
  · exact (Same.foldl (fun s _ => by split; exacts [.recallWord hg s _, .rfl]) _ _).trans (.dropCopies hg _ _)
theorem Same.applyLine (s : State) (a : Nat) (bs : List Byte) (tag : BitVec 4) : Same g s (s.applyLine a bs tag) :=
  ((Same.foldl (fun s _ => .recallNow hg s _ _) _ _).trans (.writeLine _ _ _ _)).trans (.foldl (fun s _ => .dropCopies hg s _) _ _)
theorem Same.writeNowLine (s : State) (a : Nat) (bs : List Byte) (tag : BitVec 4) : Same g s (s.writeNowLine a bs tag) := by
  unfold State.writeNowLine
  split
  · exact .applyLine hg _ _ _ _
  · exact .of_cores (.refl _) (.refl _)
theorem Same.writeNow (s : State) (a : Nat) (bs : List Byte) (tag : BitVec 4) (fuel : Nat) :
    Same g s (s.writeNow a bs tag fuel) := by
  induction fuel generalizing s a bs with
  | zero => exact .rfl
  | succ n ih =>
    unfold State.writeNow
    split
    · exact .rfl
    · exact (Same.writeNowLine hg s _ _ _).trans (ih _ _ _)
theorem Same.postEvent (s : State) (q kind reason scope seq info : Nat) :
    Same g s (s.postEvent q kind reason scope seq info) := by
  unfold State.postEvent
  dsimp only
  split
  · exact .of_cores (.refl _) (.refl _)
  · split
    · exact .of_cores (.refl _) (.refl _)
    · exact (Same.writeNow hg s _ _ _ _).trans (.of_cores (.refl _) (.refl _))
theorem Same.postTrapEvent (s : State) (core : Nat) (a d : Bool) : Same g s (s.postTrapEvent core a d) := by
  unfold State.postTrapEvent
  dsimp only
  split
  · exact .rfl
  · split
    · exact .rfl
    · exact .postEvent hg _ _ _ _ _ _ _
theorem Same.abandon (hs : ∀ c, g c.stopAll = g c) (s : State) (core : Nat) (d : Bool) : Same g s (s.abandon core d) :=
  ((Same.postTrapEvent hg s _ _ _).trans (by
    change Same g _ (match (State.coreAt _ _).task with | some id => _ | none => _)
    split
    · exact .dropSaves _ _
    · exact .rfl)).trans (.foldl (fun s n => .modCoreAt s n _ hs) _ _)
end

/-! ### The registers -/

theorem cacheFree_regs : CacheFree regsOf := fun _ _ _ => .refl _
theorem cacheFree_trap : CacheFree Core.trap := fun _ _ _ => .refl _

/-- The registers of every core, and the core with the turn, as before. -/
abbrev SameRegs (s t : State) : Prop := Same regsOf s t

theorem regsOf_setEng (c : Core) (e : Engine) (x : Eng) (hk : x.k = (c.eng e).k) : regsOf (c.setEng e x) = regsOf c := by
  simp only [regsOf, Core.setEng_s, Core.setEng_p, Core.setEng_m, Core.setEng_vshape, Core.setEng_mshape, Core.setEng_tiles,
    Core.setEng_data, Core.setEng_wbuf, Core.setEng_wlay, Core.setEng_acc, Core.setEng_accRec]
  congr 1
  funext f
  by_cases h : f = e
  · subst h; simp [hk]
  · rw [Core.setEng_eng_other _ _ _ _ h]
theorem SameRegs.modEng (s : State) (e : Engine) (f : Eng → Eng) (hk : (f (s.eng e)).k = (s.eng e).k) :
    SameRegs s (s.modEng e f) := Same.setCore s _ (regsOf_setEng _ _ _ hk)

theorem regsOf_stopAll (c : Core) : regsOf c.stopAll = regsOf c := by
  simp only [regsOf, Core.stopAll]
  congr 1
  funext e
  cases e <;> rfl
/-- TAKING A TRAP changes no register. -/
theorem SameRegs.takeTrap (s : State) (e : Engine) (pc : Nat) (x : TrapInfo) : SameRegs s (s.takeTrap e pc x) := by
  unfold State.takeTrap
  split
  · split
    · exact (Same.setCore s (s.core.doubleTrap pc x) (.refl _)).trans (.abandon cacheFree_regs regsOf_stopAll _ _ _)
    · exact SameRegs.modEng _ _ _ (.refl _)
  · have h : SameRegs s (s.setCore ((s.core.trapEntry e pc x).learnAll (Clock.all s.nextId))) := .setCore _ _ (by
      simp only [regsOf, Core.learnAll, Core.trapEntry]; congr 1; funext e; cases e <;> rfl)
    dsimp only
    split
    · exact h.trans (.postTrapEvent cacheFree_regs _ _ _ _)
    · exact h

/-! ### Signals -/

theorem regsOf_setHandle (c : Core) (h : Fin 64) (x : Handle) : regsOf (c.setHandle h x) = regsOf c := .refl _
theorem regsOf_setQueue (c : Core) (q : Fin 16) (l : List Word32) : regsOf (c.setQueue q l) = regsOf c := by
  unfold Core.setQueue; split <;> rfl
theorem SameRegs.abandon (s : State) (core : Nat) (d : Bool) : SameRegs s (s.abandon core d) :=
  Same.abandon cacheFree_regs regsOf_stopAll _ _ _
theorem regsOf_teach (c : Core) (q : Fin 16) (k : Clock) : regsOf (c.teachPush q k) = regsOf c := by
  unfold Core.teachPush; split <;> rfl
theorem regsOf_pushTokens (c : Core) (q : Fin 16) (ts : List Word32) : regsOf (c.pushTokens q ts) = regsOf c :=
  regsOf_setQueue c q _
theorem regsOf_takeWait (c : Core) (w : Wait) : regsOf (c.takeWait w) = regsOf c := by
  obtain ⟨_, _, _, h⟩ := c.takeWait_eq w; rw [h]; rfl
theorem regsOf_perform {c c' : Core} {g : Signal} {t : Option TrapInfo} (h : c.perform g = some (c', t)) : regsOf c' = regsOf c := by
  cases g <;> simp only [Core.perform] at h
  · cases h; rfl
  · split at h <;> cases h; exact regsOf_pushTokens _ _ _
  · split at h <;> cases h <;> rfl
  · split at h <;> cases h <;> rfl
/-- The sample's note of a handle signal changes nothing else. -/
theorem noteSig_eq (c d : Core) (e : Engine) (g : SigEntry) : ∃ m, c.noteSig e g d = { c with sample := m } := by
  unfold Core.noteSig
  split <;> exact ⟨_, rfl⟩
theorem regsOf_noteSig (c d : Core) (e : Engine) (g : SigEntry) : regsOf (c.noteSig e g d) = regsOf c := by
  obtain ⟨_, h⟩ := noteSig_eq c d e g; rw [h]; rfl
theorem trap_noteSig (c d : Core) (e : Engine) (g : SigEntry) : (c.noteSig e g d).trap = c.trap := by
  obtain ⟨_, h⟩ := noteSig_eq c d e g; rw [h]
theorem trap_perform {c c' : Core} {g : Signal} {t : Option TrapInfo} (h : c.perform g = some (c', t)) : c'.trap = c.trap := by
  cases g <;> simp only [Core.perform] at h
  · cases h; rfl
  · split at h <;> cases h; simp only [Core.pushTokens]; unfold Core.setQueue; split <;> rfl
  · split at h <;> cases h <;> rfl
  · split at h <;> cases h <;> rfl

theorem SameRegs.lateTrap (s : State) (e : Engine) (b : Bool) (pc : Nat) (x : TrapInfo) : SameRegs s (s.lateTrap e b pc x) := by
  unfold State.lateTrap
  split
  · exact SameRegs.modEng _ _ _ (.refl _)
  · exact SameRegs.takeTrap _ _ _ _
theorem SameRegs.teach (s : State) (e : Engine) (g : Signal) : SameRegs s (s.teach e g) := by
  cases g with
  | none => exact .rfl
  | arm _ => exact .rfl
  | push _ q => exact Same.setCore s _ (regsOf_teach s.core q _)
  | release _ => exact Same.setCore s _ (.refl _)
theorem SameRegs.follow (s : State) (e : Engine) (g : SigEntry) : SameRegs s (s.follow e g) := by
  unfold State.follow
  split
  · exact .rfl
  · exact SameRegs.lateTrap _ _ _ _ _
  · exact SameRegs.modEng _ _ _ (.refl _)
  · split
    · exact SameRegs.abandon _ _ _
    · exact .rfl
theorem SameRegs.flushSigs (e : Engine) (gs : List SigEntry) (s : State) : SameRegs s (s.flushSigs e gs) := by
  induction gs generalizing s with
  | nil => exact SameRegs.modEng _ _ _ (.refl _)
  | cons g gs ih =>
    unfold State.flushSigs
    split
    · exact SameRegs.modEng _ _ _ (.refl _)
    · split
      · exact SameRegs.modEng _ _ _ (.refl _)
      · next c h =>
        have hc := (Same.setCore s _ ((regsOf_noteSig c s.core e g).trans (regsOf_perform h))).trans (SameRegs.teach _ e g.sig)
        dsimp only
        split
        · exact hc.trans (ih _)
        · exact (hc.trans (SameRegs.modEng _ _ _ (.refl _))).trans (SameRegs.follow _ _ _)
      · next h => exact ((Same.setCore s _ (regsOf_perform h)).trans (SameRegs.modEng _ _ _ (.refl _))).trans (SameRegs.lateTrap _ _ _ _ _)
theorem SameRegs.signal (s : State) (e : Engine) (id : Nat) (r : Bool) (pc : Nat) (g : Signal) :
    SameRegs s (s.signal e id r pc g) := by
  unfold State.signal; split <;> exact SameRegs.flushSigs _ _ _
theorem SameRegs.retire (s : State) (e : Engine) (h : Hdr) (pc : Nat) : SameRegs s (s.retire e h pc) :=
  (SameRegs.modEng s e _ (.refl _)).trans (SameRegs.signal _ _ _ _ _ _)
theorem SameRegs.begun (s : State) (h : Hdr) : SameRegs s (Begun s h) :=
  .setCore _ _ (regsOf_takeWait s.core h.wait)

/-! ### What lies outside the core -/

theorem SameOutside.rfl {s : State} : SameOutside s s := ⟨Eq.refl _, Eq.refl _, fun _ _ => Eq.refl _⟩
theorem SameOutside.trans {s t u : State} (h : SameOutside s t) (hc : t.cur = s.cur) (h' : SameOutside t u) : SameOutside s u :=
  ⟨h'.mem.trans h.mem, h'.side.trans h.side, fun n hn => (h'.cores n (hc ▸ hn)).trans (h.cores n hn)⟩
theorem SameOutside.setCore (s : State) (c : Core) : SameOutside s (s.setCore c) :=
  ⟨.refl _, .refl _, fun _ hn => State.setCore_coreAt_other _ _ _ hn⟩
theorem SameOutside.modEng (s : State) (e : Engine) (f : Eng → Eng) : SameOutside s (s.modEng e f) := .setCore _ _

/-- An abandoned core is out of trap mode, and a core that takes a trap outside it is in it. -/
theorem mode_abandon (s : State) (d : Bool) : (s.abandon s.cur d).core.trap.mode = false := by
  have h1 : ∀ (xs : List Nat) (s : State), s.core.trap.mode = false →
      (xs.foldl (fun s n => s.modCoreAt n Core.stopAll) s).core.trap.mode = false := by
    intro xs
    induction xs with
    | nil => exact fun _ h => h
    | cons x xs ih =>
      intro s h
      refine ih _ ?_
      by_cases hx : s.cur = x
      · subst hx
        change ((s.modCoreAt s.cur Core.stopAll).coreAt s.cur).trap.mode = false
        simp [State.modCoreAt, Core.stopAll]
      · change ((s.modCoreAt x Core.stopAll).coreAt s.cur).trap.mode = false
        rw [State.modCoreAt, State.setCoreAt_coreAt_other _ _ _ _ hx]
        exact h
  have h2 : ∀ t : State, t.cur = s.cur → (t.modCoreAt s.cur Core.stopAll).core.trap.mode = false := by
    intro t ht
    change ((t.modCoreAt s.cur Core.stopAll).coreAt t.cur).trap.mode = false
    rw [ht]; simp [State.modCoreAt, Core.stopAll]
  have hp : (s.postTrapEvent s.cur true d).cur = s.cur := (Same.postTrapEvent cacheFree_trap s _ _ _).cur
  unfold State.abandon
  dsimp only
  rw [List.eraseDups_cons, List.foldl_cons]
  refine h1 _ _ (h2 _ ?_)
  split
  · exact (Same.dropSaves (g := Core.trap) _ _).cur.trans hp
  · exact hp
theorem mode_takeTrap {s : State} {e : Engine} {pc : Nat} {x : TrapInfo} (hm : s.core.trap.mode = false) :
    (s.takeTrap e pc x).core.trap.mode = true := by
  rw [takeTrap_enters hm]
  dsimp only
  split
  · rw [(Same.postTrapEvent cacheFree_trap _ _ _ _).core, State.setCore_core]; rfl
  · rw [State.setCore_core]; rfl

/-- Where a trap leaves the trap mode as it was, it changed nothing outside the core. -/
theorem takeTrap_outside (s : State) (e : Engine) (pc : Nat) (x : TrapInfo)
    (h : (s.takeTrap e pc x).core.trap.mode = s.core.trap.mode) : SameOutside s (s.takeTrap e pc x) := by
  cases hm : s.core.trap.mode with
  | false => rw [mode_takeTrap hm, hm] at h; cases h
  | true =>
    by_cases he : e = .S
    · subst he
      rw [takeTrap_double hm] at h
      have := mode_abandon (s.setCore (s.core.doubleTrap pc x)) true
      rw [State.setCore_cur] at this
      rw [this, hm] at h; cases h
    · rw [takeTrap_held hm he]; exact .modEng _ _ _
theorem lateTrap_outside (s : State) (e : Engine) (b : Bool) (pc : Nat) (x : TrapInfo)
    (h : (s.lateTrap e b pc x).core.trap.mode = s.core.trap.mode) : SameOutside s (s.lateTrap e b pc x) := by
  unfold State.lateTrap at h ⊢
  split
  · exact .modEng _ _ _
  · next hc => rw [if_neg hc] at h; exact takeTrap_outside _ _ _ _ h
theorem teach_outside (s : State) (e : Engine) (g : Signal) : SameOutside s (s.teach e g) := by
  cases g with
  | none => exact .rfl
  | arm _ => exact .rfl
  | push _ _ => exact .setCore _ _
  | release _ => exact .setCore _ _
theorem teach_cur (s : State) (e : Engine) (g : Signal) : (s.teach e g).cur = s.cur := by cases g <;> rfl
theorem teach_trap (s : State) (e : Engine) (g : Signal) : (s.teach e g).core.trap = s.core.trap := by
  cases g with
  | none => rfl
  | arm _ => rfl
  | push _ q => simp only [State.teach, State.modCore, State.setCore_core, Core.teachPush]; split <;> rfl
  | release _ => simp [State.teach, State.modCore, Core.learnAll]
theorem follow_outside (s : State) (e : Engine) (g : SigEntry)
    (h : (s.follow e g).core.trap.mode = s.core.trap.mode) : SameOutside s (s.follow e g) := by
  unfold State.follow at h ⊢
  split
  · exact .rfl
  · next t hg => rw [hg] at h; exact lateTrap_outside _ _ _ _ _ h
  · exact .modEng _ _ _
  · next hg =>
    rw [hg] at h
    split
    · next hm => rw [if_pos hm, mode_abandon, hm] at h; cases h
    · exact .rfl
theorem flushSigs_outside (e : Engine) (gs : List SigEntry) (s : State)
    (h : (s.flushSigs e gs).core.trap.mode = s.core.trap.mode) : SameOutside s (s.flushSigs e gs) := by
  induction gs generalizing s with
  | nil => exact .modEng _ _ _
  | cons g gs ih =>
    unfold State.flushSigs at h ⊢
    split
    · exact .modEng _ _ _
    · next hr =>
      rw [if_neg hr] at h
      split
      · exact .modEng _ _ _
      · next c hp =>
        simp only [hp] at h
        have ho : SameOutside s ((s.setCore (c.noteSig e g s.core)).teach e g.sig) :=
          (SameOutside.setCore s _).trans (.refl _) (teach_outside _ _ _)
        have ht : ((s.setCore (c.noteSig e g s.core)).teach e g.sig).core.trap = s.core.trap := by
          rw [teach_trap, State.setCore_core, trap_noteSig, trap_perform hp]
        dsimp only
        split
        · next ha => rw [if_pos ha] at h; exact ho.trans (teach_cur _ _ _) (ih _ (by rw [h, ht]))
        · next ha =>
          rw [if_neg ha] at h
          refine (ho.trans (teach_cur _ _ _) (.modEng _ _ _)).trans (teach_cur _ _ _) (follow_outside _ _ _ ?_)
          rw [h]; simp [ht]
      · next c x hp =>
        rw [hp] at h
        refine ((SameOutside.setCore s c).trans (.refl _) (.modEng _ _ _)).trans (.refl _) (lateTrap_outside _ _ _ _ _ ?_)
        rw [h]; simp [trap_perform hp]
theorem signal_outside (s : State) (e : Engine) (id : Nat) (r : Bool) (pc : Nat) (g : Signal)
    (h : (s.signal e id r pc g).core.trap.mode = s.core.trap.mode) : SameOutside s (s.signal e id r pc g) := by
  unfold State.signal at h ⊢
  split
  · next hg => rw [if_pos hg] at h; exact flushSigs_outside _ _ _ h
  · next hg => rw [if_neg hg] at h; exact flushSigs_outside _ _ _ h
theorem retire_outside (s : State) (e : Engine) (h : Hdr) (pc : Nat)
    (ht : (s.retire e h pc).core.trap.mode = s.core.trap.mode) : SameOutside s (s.retire e h pc) :=
  (SameOutside.modEng s e Eng.advance).trans (.refl _) (signal_outside _ _ _ _ _ _ (by
    rw [State.retire] at ht; rw [ht]; simp))

end Sys2Proof
end

