-- ==== Sys2Proof/Tests/Slice0.lean ====
section
/-! SUPPORT. The model's own tests: what is not well formed is refused, the spec's words decode, one step of a few
instructions, and for every statement a state that meets its hypotheses. -/

namespace Sys2Proof.Tests

open Sys2Proof.Machine

set_option maxRecDepth 20000
set_option Elab.async false
set_option exponentiation.threshold 4096

/-! ### Small states -/

/-- A header with no coupling byte and no guard. -/
def h0 : Hdr := ⟨.none, .none, 0, false⟩
/-- A launch record of 128 zero bytes. -/
def rec0 : List Byte := List.replicate 128 0
/-- A task of context 2 in queue 5. -/
def task0 : Task :=
  { ctx := 2, queue := 5, seq := 0, record := rec0, st := .running, order := 1, seed := 0, det := 0, bindTime := 0, cores := [0],
    resumeAt := 0, budget := 0, budgetUsed := 0, loops := [], scopeGen := 0, deps := [], gangSize := 1 }
/-- A core that runs task 7, with a lease of two 64 KiB units from address 0. -/
def core0 : Core :=
  { task := some 7, started := true, s := ((Vector.replicate 32 0).set 1 0x40).set 2 7,
    ranges := (Vector.replicate 16 {}).set 0 { vbase := 0, units := 2, valid := true } }
/-- The machine with that core, its task, and context 2, whose page tables at 0x10000 map the lowest 2 MiB to 0x200000; the first
64 KiB page there has been reached before. -/
def w0 : State :=
  { State.reset with
    cores := [(0, core0)], tasks := [(7, task0)], ctxs := [(2, { valid := true, ptroot := 0x10000 })],
    queues := [(5, { ctx := 2, en := true, priv := true })],
    mem := [(0x10000, 1), (0x10002, 2), (0x20000, 1), (0x20002, 3), (0x30000, 0x27), (0x30002, 0x20)],
    side := [(0x10000, 5207950), (0x20000, 8945698), (0x30000, 6913335)],
    aliases := [(32, [(2, 0)])], tlb := [(2 ^ 37, 0x30000, 0x200027, true)] }
/-- The same machine with its core changed. -/
def on (f : Core → Core) : State := w0.modCore f

/-- The conditions of Issues as one Boolean. -/
def issuesB (s : State) (e : Engine) (h : Hdr) (n : Names) (rs : List Reg) : Bool :=
  !(s.eng e).taken && (s.illegal? e h n).isNone && s.core.waitOk h.wait && !s.core.busyFor rs && !(n.branch && (s.eng e).endsLoop)
    && (e != .S || s.core.readP h.guard != h.neg)
theorem issues_of {s : State} {e : Engine} {h : Hdr} {n : Names} {rs : List Reg} (hb : issuesB s e h n rs = true) :
    Issues s e h n rs := by
  simp only [issuesB, Bool.and_eq_true, Bool.or_eq_true, Bool.not_eq_true', bne_iff_ne, ne_eq, Option.isNone_iff_eq_none] at hb
  exact ⟨hb.1.1.1.1.1, hb.1.1.1.1.2, hb.1.1.1.2, by simpa using hb.1.1.2, by have hl := hb.1.2; revert hl; cases n.branch <;> cases (s.eng e).endsLoop <;> simp, fun he => hb.2.resolve_left (fun hn => hn he)⟩

/-- Where an access goes, and whether it leaves the machine as it was. -/
def accB (s : State) (e : Engine) (va n : Nat) (write : Bool) (a : Nat) : Bool :=
  !s.memStall e && (match s.access e va n write with | .go x t => x == a && decide (t = s) | _ => false) && s.free e s.nextId va n a
theorem reaches_of {s : State} {e : Engine} {va n a : Nat} {write : Bool} (hb : accB s e va n write a = true) :
    Reaches s e va n write a s := by
  simp only [accB, Bool.and_eq_true, Bool.not_eq_true'] at hb
  refine ⟨hb.1.1, ?_, hb.2⟩
  have h := hb.1.2
  revert h
  split
  · next x t hx =>
    intro h
    simp only [Bool.and_eq_true, beq_iff_eq, decide_eq_true_eq] at h
    rw [hx, h.1, h.2]
  · intro h; exact absurd h (by decide +kernel)
/-- The conditions of Resumes as one Boolean. -/
def resumesB (s : State) (e : Engine) (h : Hdr) (n : Names) (rs : List Reg) : Bool :=
  (s.eng e).taken && !s.core.busyFor rs && !(n.branch && (s.eng e).endsLoop) && (e != .S || s.core.readP h.guard != h.neg)
theorem resumes_of {s : State} {e : Engine} {h : Hdr} {n : Names} {rs : List Reg} (hb : resumesB s e h n rs = true) :
    Resumes s e h n rs := by
  simp only [resumesB, Bool.and_eq_true, Bool.or_eq_true, Bool.not_eq_true', bne_iff_ne, ne_eq] at hb
  exact ⟨hb.1.1.1, hb.1.1.2, hb.1.2, fun he => hb.2.resolve_left (fun hn => hn he)⟩
/-- An engine's word of S whose WAIT byte has been taken in an earlier turn. -/
def takenS (s : State) : State := s.modEng .S (fun x => { x with taken := true })

theorem ok_of {ε α : Type} {x : Except ε α} {a : α} (h : x.toOption = some a) : x = .ok a := by
  cases x with
  | error e => cases h
  | ok b => cases h; rfl

/-! ### What meets the hypotheses of the statements, one state or more for each -/

theorem witness_ScalarIntegerResults : Issues w0 .S h0 {} [.s 3, .s 1, .s 2] ∧ Issues w0 .S h0 {} [.s 31, .s 1]
    ∧ Issues w0 .S h0 {} [.s 31] := ⟨issues_of (by decide +kernel), issues_of (by decide +kernel), issues_of (by decide +kernel)⟩
theorem witness_ScalarDivision : Issues w0 .S h0 {} [.s 31, .s 1, .s 0] := issues_of (by decide +kernel)
theorem witness_ScalarBitResults : Issues w0 .S h0 {} [.s 0, .s 1] ∧ Issues w0 .S h0 {} [.s 0, .s 1, .s 2] :=
  ⟨issues_of (by decide +kernel), issues_of (by decide +kernel)⟩
theorem witness_PredicateResults : Issues w0 .S { h0 with guard := 1, neg := true } {} [.s 1, .s 2]
    ∧ Issues w0 .S h0 {} [.s 1] ∧ Issues w0 .S h0 {} [] :=
  ⟨issues_of (by decide +kernel), issues_of (by decide +kernel), issues_of (by decide +kernel)⟩
theorem witness_ScalarFloatResults : Issues w0 .S h0 {} [.s 3, .s 1, .s 2] ∧ Issues w0 .S h0 {} [.s 3, .s 1] :=
  ⟨issues_of (by decide +kernel), issues_of (by decide +kernel)⟩
theorem witness_IndexRegisterResults : (Engine.V ≠ .S ∧ Issues w0 .V h0 {} []) ∧ Issues w0 .S h0 {} [.s 3]
    ∧ (let s : State := { w0 with fabric := 7, power := { w0.power with islands := [(0, { op := 0, since := 4 })] } }
       let i := s.island (coreIsland s.cur)
       i.asleep = false ∧ i.since ≤ s.fabric ∧ i.op = 0 ∧ i.frac = 0) :=
  ⟨⟨by decide +kernel, issues_of (by decide +kernel)⟩, issues_of (by decide +kernel), by decide +kernel⟩
theorem witness_GuardedWords :
    let h : Hdr := { h0 with guard := 1 }
    (w0.eng .S).taken = false ∧ w0.illegal? .S h {} = none ∧ w0.core.waitOk h.wait = true ∧ w0.core.readP h.guard = h.neg
      ∧ w0.illegal? .S h { branch := true } = none ∧ (w0.eng .S).endsLoop = false := by decide +kernel

/-- The machine whose core may name the handles 3 and 63, handle 3 in a state. -/
def wH (x : Handle) : State := on (fun c => { c with obj := { handles := [3, 63] }, handles := c.handles.set 3 x })
theorem witness_ControlCompletes :
    (w0.core.budget = none ∧ w0.core.preempt = none ∧ w0.core.trap.mode = false ∧ Issues w0 .V h0 {} [])
    ∧ (((Begun (wH {}) h0).core.handle 3).st = .free ∧ (wH {}).core.stateOf 3 = .free ∧ Issues (wH {}) .V h0 { handles := [3] } [])
    ∧ ((wH { st := .full }).core.stateOf 3 = .full ∧ (wH { st := .full }).core.stateOf 3 ≠ .free ∧ Issues (wH { st := .full }) .V h0 { handles := [3] } [])
    ∧ Resumes (takenS (wH { st := .full })) .S h0 { handles := [3] } []
    ∧ ((((Begun (wH {}) h0).core.readR .S 1).toNat % 64 = 0)
      ∧ ((Begun (wH {}) h0).core.readR .S 1).toNat + ((Begun (wH {}) h0).core.readR .S 2).toNat ≤ Part.dataBytes (Begun (wH {}) h0).core.part
      ∧ Issues (wH {}) .S h0 { handles := [3] } [.s 1, .s 2]) :=
  ⟨⟨by decide +kernel, by decide +kernel, by decide +kernel, issues_of (by decide +kernel)⟩, ⟨by decide +kernel, by decide +kernel, issues_of (by decide +kernel)⟩,
    ⟨by decide +kernel, by decide +kernel, issues_of (by decide +kernel)⟩, resumes_of (by decide +kernel), by decide +kernel, by decide +kernel, issues_of (by decide +kernel)⟩

/-- The machine whose S and V streams are long, V's registers k1 = 40 and its link stack as given. -/
def wB (link : List Nat) : State := on (fun c => { c with
  engS := { c.engS with pc := 10, link, ring := { len := 64 } },
  engV := { c.engV with pc := 10, link, ring := { len := 64 }, k := c.engV.k.set 1 3 } })
theorem witness_TransfersAndLoops :
    ((Begun (wB []) h0).core.target? .S false (-3) = some 7 ∧ Issues (wB []) .S h0 { branch := true } [])
    ∧ ((Begun (wB []) h0).core.xbTaken .V .always = true ∧ (Begun (wB []) h0).core.target? .V true 63 = some 63
      ∧ Issues (wB []) .V h0 { branch := true } [] ∧ ((wB []).eng .V).link.length < 8)
    ∧ (Begun (wB []) h0).core.xbTaken .V (.zero 1) = false
    ∧ (((Begun (wB []) h0).core.readS 2).toNat = 7 ∧ 7 < (Begun (wB []) h0).core.streamLen .S
      ∧ Issues (wB []) .S h0 { branch := true } [.s 2])
    ∧ (((wB [5]).eng .V).link = [5] ∧ Issues (wB [5]) .V h0 { branch := true } [])
    ∧ (((Begun (wB []) h0).core.readR .S 0).toNat % 2 ^ 32 = 0 ∧ ((Begun (wB []) h0).core.readR .V 1).toNat % 2 ^ 32 = 3
      ∧ 10 + 53 < (Begun (wB []) h0).core.streamLen .V ∧ ((wB []).eng .V).loops.length < 4) := by
  refine ⟨⟨by decide +kernel, issues_of (by decide +kernel)⟩, ⟨by decide +kernel, by decide +kernel, issues_of (by decide +kernel), by decide +kernel⟩, by decide +kernel,
    ⟨by decide +kernel, by decide +kernel, issues_of (by decide +kernel)⟩, ⟨by decide +kernel, issues_of (by decide +kernel)⟩, by decide +kernel, by decide +kernel, by decide +kernel, by decide +kernel⟩

/-- The machine whose core's object gives it token queue `q`, with these tokens in it. -/
def wQ (q : Fin 12) (xs : List Word32) : State := on (fun c => { c with obj := { queues := [q.val] }, queues := c.queues.set q xs })
theorem witness_TokenMoves :
    ((Begun (wQ 3 [9, 8]) h0).core.queue 3 = [9, 8] ∧ 0 < (Begun (wQ 3 [9, 8]) h0).core.availOf 3
      ∧ (wQ 3 [9, 8]).core.sample = none ∧ Issues (wQ 3 [9, 8]) .S h0 { queues := [(3, false)] } [.s 3])
    ∧ (0 < (Begun (wQ 1 [9]) h0).core.roomOf 1 ∧ Issues (wQ 1 [9]) .S h0 { queues := [(1, true)] } [.s 3])
    ∧ ((Begun (wQ 3 []) h0).core.availOf 3 = 0 ∧ Issues (wQ 3 []) .S h0 { queues := [(3, false)] } [.s 3])
    ∧ ((takenS (wQ 3 [9])).core.queue 3 = [9] ∧ 0 < (takenS (wQ 3 [9])).core.availOf 3
      ∧ Resumes (takenS (wQ 3 [9])) .S h0 { queues := [(3, false)] } [.s 3]) :=
  ⟨⟨by decide +kernel, by decide +kernel, by decide +kernel, issues_of (by decide +kernel)⟩, ⟨by decide +kernel, issues_of (by decide +kernel)⟩, ⟨by decide +kernel, issues_of (by decide +kernel)⟩,
    by decide +kernel, by decide +kernel, resumes_of (by decide +kernel)⟩
theorem witness_SystemRegisterAccess :
    (w0.core.trap.mode = false ∧ Issues w0 .S h0 { sysreg := some 0x012 } [.s 3] ∧ Issues w0 .V h0 { sysreg := some 0x034 } [])
    ∧ ((on (fun c => { c with trap := { mode := true } })).core.trap.mode = true
      ∧ Issues (on (fun c => { c with trap := { mode := true } })) .S h0 { sysreg := some 0x032 } [.s 3]) :=
  ⟨⟨by decide +kernel, issues_of (by decide +kernel), issues_of (by decide +kernel)⟩, by decide +kernel, issues_of (by decide +kernel)⟩
theorem witness_PrivilegedWrites :
    (w0.task? = some task0 ∧ Issues w0 .S h0 { sysreg := some 0x102 } [.s 3])
    ∧ ((Begun w0 h0).aloneOnPackage = true ∧ Issues w0 .S h0 { sysreg := some 0x100 } [.s 3] ∧ Issues w0 .S h0 { sysreg := some 0x101 } [.s 3])
    ∧ ((Begun { w0 with tasks := w0.tasks ++ [(8, task0)] } h0).aloneOnPackage = false
      ∧ Issues { w0 with tasks := w0.tasks ++ [(8, task0)] } .S h0 { sysreg := some 0x100 } [.s 3]) :=
  ⟨⟨by decide +kernel, issues_of (by decide +kernel)⟩, ⟨by decide +kernel, issues_of (by decide +kernel), issues_of (by decide +kernel)⟩, by decide +kernel, issues_of (by decide +kernel)⟩
theorem witness_SoftwareTraps :
    let s := on (fun c => { c with obj := { trapLen := 4 } })
    Issues s .V h0 {} [] ∧ h0.sig = .none ∧ (s.eng .V).sigs = [] ∧ s.core.trap.mode = false ∧ s.core.obj.trapLen ≠ 0 :=
  ⟨issues_of (by decide +kernel), by decide +kernel, by decide +kernel, by decide +kernel, by decide +kernel⟩

/-- The L1 words of the line at 0x200040 that a load at 0x48 hits. -/
def wL1 : State := on (fun c => { c with l1 := [(0x80012, ⟨.registered, 5⟩), (0x80013, ⟨.registered, 6⟩)] })
/-- The word at 0x200048 and the one above it owned by core 0. -/
def wOwn : State := { wL1 with coh := { wL1.coh with dirs := [(0x200040, { owned := 0x000C, own0 := 0, v0 := true })] } }
/-- The machine whose core meets an uncorrectable soft error in the words of its L1 that a load hits, and in its data area. -/
def wSoft : State := on (fun c => { c with l1 := wL1.core.l1, soft := [(.l1, 0x40009)], upsets := [8] })
/-- The word at a load's address, as the part of an instruction in flight that is still to be sent. -/
def todo8 (store : Bool) (o v : Nat) : Todo := { store, pol := .wi, inv := false, va := 0x48 + o, n := 4, data := v }
def flight8 (store : Bool) : Flight :=
  { id := 0, eng := .S, pc := 0, kind := if store then .store else .load 3 8 false,
    parts := [⟨0, 0, none, some (todo8 store 0 7)⟩, ⟨0, 1, none, some (todo8 store 4 0)⟩] }
/-- A machine on which an instruction's identity is 1, and a load of S in flight that awaits its answer, or is still to be sent. -/
def wFlight (f : Flight) : State := { (on (fun c => { c with flights := [f] })) with nextId := 1 }
def loadFlight : Flight := { id := 0, eng := .S, pc := 0, kind := .load 9 8 false, parts := [⟨0, 0, none, none⟩] }
def lateLds : Flight := { id := 0, eng := .S, pc := 0, kind := .waiting (.lds 8 false 3 0x40), parts := [] }
theorem witness_ScalarLoads :
    (Issues w0 .S h0 {} [.s 3, .s 1] ∧ Reaches (Begun w0 h0) .S 0x48 8 false 0x200048 (Begun w0 h0)
      ∧ (Begun w0 h0).localValue .wi false 0x200048 8 = none ∧ (Begun w0 h0).poisoned 0x200040 = false
      ∧ ∃ u ps, State.sendParts { Begun w0 h0 with nextId := (Begun w0 h0).nextId + 1 } (flight8 false) (some 0x200048) = .ok (u, ps)
          ∧ ∃ q ∈ ps, q.got = none)
    ∧ (Issues wL1 .S h0 {} [.s 3, .s 1] ∧ Reaches (Begun wL1 h0) .S 0x48 8 false 0x200048 (Begun wL1 h0)
      ∧ (Begun wL1 h0).localValue .wi false 0x200048 8 = some 0x600000005 ∧ (Begun wL1 h0).l1Fault (wordKeys 0x200048 8) = none)
    ∧ (0x40 + 8 ≤ Part.dataBytes (Begun w0 h0).core.part ∧ 0x40 % 8 = 0 ∧ (Begun w0 h0).clear .S [(0x40, 8)] [] = true
      ∧ (Begun w0 h0).holdsBack .S (Begun w0 h0).nextId = false ∧ (Begun w0 h0).ordered .S (Begun w0 h0).nextId = false
      ∧ (Begun w0 h0).samePool (Begun w0 h0).nextId 0x40 8 = false)
    ∧ ((Begun (wFlight lateLds) h0).samePool 1 0x40 8 = true ∧ (Begun (wFlight lateLds) h0).holdsBack .S 1 = false
      ∧ Issues (wFlight lateLds) .S h0 {} [.s 9, .s 1])
    ∧ (w0.free .S 0 0x48 4 0x200048 = true ∧ w0.localValue .wi false 0x200048 4 = none ∧ w0.storeAt .wt 0x200048 4 0x48 7 = none
      ∧ (w0.coh.reqs.filter (fun r => r.core == w0.cur && !r.half)).length
          + (w0.coh.weir.filter (fun w => w.core == w0.cur)).length + (w0.core.faults.filter (fun f => f.req.isNone)).length
          + w0.core.feeds.length + w0.outstandingC < 4096)
    ∧ (((Begun wSoft h0).l1Fault (wordKeys 0x200048 8)).isSome = true ∧ ((Begun wSoft h0).dataFault .S [(0x40, 8)] []).isSome = true)
    ∧ (∃ u q, w0.sendAt .S 0 0 0x200048 ⟨0, 0, none, some (todo8 false 0 0)⟩ (todo8 false 0 0) = .ok u q) :=
  ⟨⟨issues_of (by decide +kernel), reaches_of (by decide +kernel), by decide +kernel, by decide +kernel, ⟨_, _, rfl, _, List.mem_cons_self, rfl⟩⟩,
    ⟨issues_of (by decide +kernel), reaches_of (by decide +kernel), by decide +kernel, by decide +kernel⟩, ⟨by decide +kernel, by decide +kernel, by decide +kernel, by decide +kernel, by decide +kernel, by decide +kernel⟩,
    ⟨by decide +kernel, by decide +kernel, issues_of (by decide +kernel)⟩, by decide +kernel, by decide +kernel, ⟨_, _, rfl⟩⟩
/-- A core whose S may meet VST on V, at word 7, which has written 8 bytes from 0x40 at a level of determinism, and an access of S
outstanding, or not. -/
def wBeside (level : Nat) (fs : List Flight) : State :=
  let s := on (fun c => { c with checker := [{ eng := 1, pc := 7, reads := [], writes := [(0x40, 8)] }], flights := fs })
  { s with tasks := [(7, { task0 with det := level })] }
theorem witness_ScalarStores :
    (Issues w0 .S h0 {} [.s 2, .s 1] ∧ Issues w0 .S h0 {} [.s 2, .s 1, .s 3]
      ∧ Reaches (Begun w0 h0) .S 0x48 8 true 0x200048 (Begun w0 h0))
    ∧ ((Begun w0 h0).storeAt .si 0x200048 8 0x48 7).isSome = true ∧ (Begun w0 h0).storeAt .wt 0x200048 8 0x48 7 = none
    ∧ (∃ u ps, State.sendParts { Begun w0 h0 with nextId := (Begun w0 h0).nextId + 1 } (flight8 true) (some 0x200048) = .ok (u, ps)
          ∧ ∃ q ∈ ps, q.got = none)
    ∧ (0x40 + 8 ≤ Part.dataBytes (Begun w0 h0).core.part ∧ 0x40 % 8 = 0 ∧ (Begun w0 h0).clear .S [] [(0x40, 8)] = true
      ∧ (Begun w0 h0).clear .S [(0x40, 8)] [(0x40, 8)] = true ∧ (Begun w0 h0).releaseReady .S .core (Begun w0 h0).nextId = true
      ∧ (Begun w0 h0).holdsBack .S (Begun w0 h0).nextId = false ∧ (Begun w0 h0).ordered .S (Begun w0 h0).nextId = false
      ∧ (Begun w0 h0).samePool (Begun w0 h0).nextId 0x40 8 = false)
    ∧ (Issues (wFlight lateLds) .S h0 {} [.s 2, .s 1] ∧ (Begun (wFlight lateLds) h0).samePool 1 0x40 8 = true)
    ∧ (Issues (wFlight loadFlight) .S h0 {} [.s 2, .s 1, .s 3] ∧ (Begun (wFlight loadFlight) h0).releaseReady .S .core 1 = false)
    ∧ (Issues (wBeside 1 []) .S h0 {} [.s 2, .s 1, .s 3] ∧ ((Begun (wBeside 1 []) h0).orderFault .S [(0x40, 8)] [(0x40, 8)]).isSome = true) :=
  ⟨⟨issues_of (by decide +kernel), issues_of (by decide +kernel), reaches_of (by decide +kernel)⟩, by decide +kernel, by decide +kernel, ⟨_, _, rfl, _, List.mem_cons_self, rfl⟩,
    ⟨by decide +kernel, by decide +kernel, by decide +kernel, by decide +kernel, by decide +kernel, by decide +kernel, by decide +kernel, by decide +kernel⟩, ⟨issues_of (by decide +kernel), by decide +kernel⟩,
    ⟨issues_of (by decide +kernel), by decide +kernel⟩, issues_of (by decide +kernel), by decide +kernel⟩
theorem witness_GlobalAtomics :
    (Issues w0 .S h0 {} [.s 3, .s 1, .s 2] ∧ Issues w0 .S h0 {} [.s 1, .s 2] ∧ Reaches (Begun w0 h0) .S 0x48 4 true 0x200048 (Begun w0 h0)
      ∧ (Begun w0 h0).sequence (.atomic (.add false)) 0x48 7 = none ∧ (Begun w0 h0).mayIndex (.atomic (.add false)) 0x48 = true
      ∧ Reaches ((Begun w0 h0).pushRelease .pkg) .S 0x48 4 true 0x200048 ((Begun w0 h0).pushRelease .pkg)
      ∧ ((Begun w0 h0).pushRelease .pkg).releaseReady .S .pkg ((Begun w0 h0).pushRelease .pkg).nextId = true
      ∧ (Begun w0 h0).ownsAll 0 (wordKeys 0x200048 4) = false ∧ (Begun w0 h0).poisoned 0x200040 = false)
    ∧ (Issues wOwn .S h0 {} [.s 3, .s 1, .s 2] ∧ Reaches (Begun wOwn h0) .S 0x48 4 true 0x200048 (Begun wOwn h0)
      ∧ (Begun wOwn h0).ownsAll 0 (wordKeys 0x200048 4) = true ∧ (Begun wOwn h0).sequence (.cas 5) 0x48 7 = none
      ∧ (Begun wOwn h0).l1Fault (wordKeys 0x200048 4) = none)
    ∧ (let s := wFlight loadFlight
       Issues s .S h0 {} [.s 3, .s 1, .s 2] ∧ Reaches (Begun s h0) .S 0x48 4 true 0x200048 (Begun s h0)
      ∧ ((Begun s h0).pushRelease .pkg).releaseReady .S .pkg ((Begun s h0).pushRelease .pkg).nextId = false) :=
  ⟨⟨issues_of (by decide +kernel), issues_of (by decide +kernel), reaches_of (by decide +kernel), by decide +kernel, by decide +kernel, reaches_of (by decide +kernel), by decide +kernel, by decide +kernel,
      by decide +kernel⟩,
    ⟨issues_of (by decide +kernel), reaches_of (by decide +kernel), by decide +kernel, by decide +kernel, by decide +kernel⟩, issues_of (by decide +kernel), reaches_of (by decide +kernel), by decide +kernel⟩
theorem witness_OrderingWords :
    ((Begun w0 h0).holdsBack .V (Begun w0 h0).nextId = false
      ∧ ((Begun w0 h0).pushRelease .sys).fenceReady .V .ar .sys ((Begun w0 h0).pushRelease .sys).nextId = true ∧ Issues w0 .V h0 {} [])
    ∧ (let s := wFlight loadFlight
       Issues s .S h0 {} [] ∧ (Begun s h0).holdsBack .S 1 = false ∧ (Begun s h0).fenceReady .S .acq .pkg 1 = false)
    ∧ (let f : Flight := { loadFlight with kind := .fence .ar .pkg }
       (wFlight f).core.flights.filter (fun f => f.eng == .S) = [f] ∧ (wFlight f).core.flights.find? (fun x => x.id == 0) = some f
        ∧ (((wFlight f).pushFlight f .pkg).core.flights.find? (fun x => x.id == 0)).isSome = true)
    ∧ (let f : Flight := { loadFlight with kind := .flush 0x200040 }
       (wFlight f).core.flights.find? (fun x => x.id == 0) = some f ∧ (wFlight f).lineFlushed 0x200040 0 = true)
    ∧ ((wFlight lateLds).core.flights.find? (fun x => x.id == 0) = some lateLds ∧ (match (wFlight lateLds).perform 0 0 true (.lds 8 false 3 0x40)
        with | .done _ => true | _ => false) = true)
    ∧ (Issues w0 .S h0 {} [.s 1] ∧ (Begun w0 h0).memStall .S = false ∧ (Begun w0 h0).ordered .S (Begun w0 h0).nextId = false
      ∧ (Begun w0 h0).sameWord (Begun w0 h0).nextId 0x40 64 0x200040 = false
      ∧ (Begun w0 h0).access .S 0x40 1 false = .go 0x200040 (Begun w0 h0)
      ∧ (Begun w0 h0).core.l1.any (fun x => inLine (lineOf 0x200040) x.1) = false ∧ (Begun w0 h0).renamed 0x40 0x200040 = false
      ∧ (Begun w0 h0).noRoom .S (sizeBytes .b8) = false)
    ∧ (Issues wL1 .S h0 {} [.s 1] ∧ (Begun wL1 h0).access .S 0x40 1 false = .go 0x200040 (Begun wL1 h0)
      ∧ (Begun wL1 h0).core.l1.any (fun x => inLine (lineOf 0x200040) x.1) = true
      ∧ ((Begun wL1 h0).evictLine 0 0x200040 true).lineFlushed 0x200040 ((Begun wL1 h0).evictLine 0 0x200040 true).nextId = true)
    ∧ (let f : Flight := { loadFlight with kind := .fence .ar .pkg, id := 0 }
       (wFlight f).ordered .S 1 = true) :=
  ⟨⟨by decide +kernel, by decide +kernel, issues_of (by decide +kernel)⟩, ⟨issues_of (by decide +kernel), by decide +kernel, by decide +kernel⟩, by decide +kernel, by decide +kernel, by decide +kernel,
    ⟨issues_of (by decide +kernel), by decide +kernel, by decide +kernel, by decide +kernel,
      (reaches_of (by decide +kernel : accB (Begun w0 h0) .S 0x40 1 false 0x200040 = true)).go, by decide +kernel, by decide +kernel, by decide +kernel⟩,
    ⟨issues_of (by decide +kernel), (reaches_of (by decide +kernel : accB (Begun wL1 h0) .S 0x40 1 false 0x200040 = true)).go, by decide +kernel, by decide +kernel⟩,
    by decide +kernel⟩

/-- Context 2 with scope 7 in a state. -/
def wS (x : FScope) : State := { w0 with ctxs := [(2, { w0.ctxOf 2 with scopes := [(7, x)] })] }
theorem witness_FinishScopeWords :
    (Issues w0 .S h0 {} [.s 3, .s 2] ∧ ((Begun w0 h0).core.readS 2).toNat % 256 = 7
      ∧ (((Begun w0 h0).ctxOf (Begun w0 h0).taskCtx).scope 7).st = .free
      ∧ ((Begun w0 h0).ctxOf (Begun w0 h0).taskCtx).accepts (Begun w0 h0).ownScope (some (Begun w0 h0).ownScope) = true)
    ∧ (Issues (wS { st := .complete }) .S h0 {} [.s 3, .s 2]
      ∧ (((Begun (wS { st := .complete }) h0).ctxOf 2).scope 7).st = .complete)
    ∧ (Issues (wS { st := .opened }) .S h0 {} [.s 3, .s 2] ∧ (((Begun (wS { st := .opened }) h0).ctxOf 2).scope 7).st = .opened
      ∧ scopeWithin ((Begun (wS { st := .opened }) h0).ctxOf 2) 7 256 (Begun (wS { st := .opened }) h0).ownScope = false)
    ∧ (((Begun (wS { st := .closing }) h0).ctxOf 2).scope 7).st = .closing
    ∧ (let s : State := { wS { st := .complete } with
          tasks := [(7, { task0 with record := List.replicate 0x34 0 ++ [9] ++ List.replicate 75 0 })] }
       (((Begun s h0).ctxOf 2).scope 7).st = .complete ∧ ((Begun s h0).ctxOf 2).accepts (Begun s h0).ownScope (some (Begun s h0).ownScope) = false) :=
  ⟨⟨issues_of (by decide +kernel), by decide +kernel, by decide +kernel, by decide +kernel⟩, ⟨issues_of (by decide +kernel), by decide +kernel⟩,
    ⟨issues_of (by decide +kernel), by decide +kernel, by decide +kernel⟩, by decide +kernel, by decide +kernel, by decide +kernel⟩

/-- A queue 7 of context 2 that the device feeds; s1 names the record at 0x80, s2 the queue. -/
def wQueue : State :=
  { on (fun c => { c with s := c.s.set 1 0x80 }) with
    queues := [(5, { ctx := 2, en := true, priv := true }), (7, { ctx := 2, en := true, devq := true, rlog := 4 })] }
theorem witness_LaunchEnqueues :
    let b := Begun wQueue h0
    Issues wQueue .S h0 {} [.s 3, .s 1, .s 2] ∧ (b.core.readS 1).toNat = 0x80 ∧ (b.core.readS 2).toNat % 1024 = 7
      ∧ (∃ l, b.core.lease 0x80 128 false = .ok l) ∧ b.mayRelease .S .pkg = true
      ∧ Reaches b .S 0x80 64 false 0x200080 b ∧ Reaches b .S 0xC0 64 false 0x2000C0 b
      ∧ (b.readable 0x200080 && b.readable 0x2000C0) = true ∧ b.poisoned 0x200080 = false ∧ b.poisoned 0x2000C0 = false
      ∧ (let w := (b.readDecode 0x200080).readDecode 0x2000C0
         let r := b.readNow 0x200080 64 ++ b.readNow 0x2000C0 64
         (w.queueOf 7).en = true ∧ (w.queueOf 7).devq = true ∧ (w.queueOf 7).ctx = w.taskCtx ∧ w.unbound 7 < (w.queueOf 7).records
          ∧ Rec.kind r = 0 ∧ w.refusal? 7 r (some w.ownScope) = none)
      ∧ Resumes (takenS wQueue) .S h0 {} [.s 3, .s 1, .s 2]
      ∧ (let s := (wQueue.modCore (fun c => { c with flights := [loadFlight] })).modEng .S (fun x => { x with taken := true })
         Resumes { s with nextId := 1 } .S h0 {} [.s 3, .s 1, .s 2] ∧ State.mayRelease { s with nextId := 1 } .S .pkg = false)
      ∧ (let s : State := { wQueue with coh := { wQueue.coh with dirs := [(0x2000C0, { busy := some 1 })] } }
         Issues s .S h0 {} [.s 3, .s 1, .s 2] ∧ ((Begun s h0).readable 0x200080 && (Begun s h0).readable 0x2000C0) = false
          ∧ Reaches (Begun s h0) .S 0x80 64 false 0x200080 (Begun s h0) ∧ Reaches (Begun s h0) .S 0xC0 64 false 0x2000C0 (Begun s h0)) :=
  ⟨issues_of (by decide +kernel), by decide +kernel, by decide +kernel, ⟨_, rfl⟩, by decide +kernel, reaches_of (by decide +kernel), reaches_of (by decide +kernel), by decide +kernel, by decide +kernel,
    by decide +kernel, ⟨by decide +kernel, by decide +kernel, by decide +kernel, by decide +kernel, by decide +kernel, by decide +kernel⟩, resumes_of (by decide +kernel), ⟨resumes_of (by decide +kernel), by decide +kernel⟩,
    issues_of (by decide +kernel), by decide +kernel, reaches_of (by decide +kernel), reaches_of (by decide +kernel)⟩
theorem witness_QueueControl :
    Issues { w0 with queues := [(5, { ctx := 2, en := true, priv := true }), (7, { ctx := 2 })] } .S h0 { qctl := true } [.s 3, .s 2, .s 1]
      ∧ ((Begun { w0 with queues := [(5, { ctx := 2, en := true, priv := true }), (7, { ctx := 2 })] } h0).queueOf 7).ctx = 2
      ∧ w0.taskCtx = 2 ∧ ((Begun w0 h0).core.readS 1).toNat % 4 ≠ 3
      ∧ ((Begun { w0 with queues := [(5, { ctx := 2, en := true, priv := true }), (7, { ctx := 2 })] } h0).queueOf 7).en = false
      ∧ (let s := { w0 with queues := [(5, { ctx := 2, en := true, priv := true }), (7, { ctx := 2, en := true })] }
         Issues s .S h0 { qctl := true } [.s 3, .s 2, .s 1] ∧ ((Begun s h0).queueOf 7).ctx = 2 ∧ ((Begun s h0).queueOf 7).en = true
          ∧ (Begun s h0).unbound 7 < ((Begun s h0).queueOf 7).records) :=
  ⟨issues_of (by decide +kernel), by decide +kernel, by decide +kernel, by decide +kernel, by decide +kernel, issues_of (by decide +kernel), by decide +kernel, by decide +kernel, by decide +kernel⟩

/-- A context whose layer table at 0x1000 describes layer 1, of one page of the host's. -/
def wLayer (x : Layer) : State :=
  { on (fun c => { c with s := c.s.set 1 1 }) with
    ctxs := [(2, { valid := true, ptroot := 0x10000, ltab := 0x1000, lcount := 2, layers := [(1, x)] })],
    mem := [(0x10000, 1), (0x10002, 2), (0x20000, 1), (0x20002, 3), (0x30000, 0x27), (0x30002, 0x20), (0x201028, 1), (0x20102D, 0x40)],
    side := [(0x10000, 5207950), (0x20000, 8945698), (0x30000, 6913335), (0x201000, 2413157)] }
theorem witness_LayerWords :
    let s := wLayer { st := .resident, pins := 1 }
    ((Begun s h0).layerEntry 2 1).isSome ∧ ((Begun s h0).core.readS 1).toNat % 1024 = 1 ∧ s.taskCtx = 2
      ∧ (let y := (Begun s h0).layerTouch 2 1
         (Begun s h0).layerReady 2 1 = true ∧ (y.layerEntry 2 1).isSome ∧ (y.seenLayer 2 1).st = .resident
          ∧ (y.seenLayer 2 1).pins ≠ 65535 ∧ (y.seenLayer 2 1).pins ≠ 0)
      ∧ ((Begun (wLayer { st := .failed, fail := 4 }) h0).seenLayer 2 1).st = .failed
      ∧ (let b := takenS (wLayer { st := .absent })
         b.layerReady 2 1 = true ∧ ((b.layerTouch 2 1).layerEntry 2 1).isSome ∧ ((b.layerTouch 2 1).seenLayer 2 1).st = .absent
          ∧ Resumes b .S h0 {} [.s 1])
      ∧ Issues s .S h0 {} [.s 1] ∧ Issues s .S h0 {} [.s 1, .s 3] :=
  ⟨by decide +kernel, by decide +kernel, by decide +kernel, by decide +kernel, by decide +kernel, ⟨by decide +kernel, by decide +kernel, by decide +kernel, resumes_of (by decide +kernel)⟩, issues_of (by decide +kernel),
    issues_of (by decide +kernel)⟩
/-- The same with the line of the table's entry under a recall. -/
theorem witness_LayerWords_waits :
    let s : State := { wLayer {} with coh := { (wLayer {}).coh with dirs := [(0x201000, { busy := some 1 })] } }
    (Begun s h0).layerReady 2 1 = false ∧ Issues s .S h0 {} [.s 1] ∧ Issues s .S h0 {} [.s 1, .s 3] :=
  ⟨by decide +kernel, issues_of (by decide +kernel), issues_of (by decide +kernel)⟩

/-- A context with a table of TMRs at 0x2000; s1 names TMR 1. -/
def wTmr : State :=
  { on (fun c => { c with s := c.s.set 1 1 }) with
    ctxs := [(2, { valid := true, ptroot := 0x10000, tmrcount := 4, tmrtab := 0x2000 })] }
theorem witness_GovernorWords :
    ((Begun wTmr h0).tmrReadable 2 1 = true ∧ (Begun wTmr h0).tmrReady 2 1 = true ∧ (Begun wTmr h0).tmrQueued 2 1 = false)
    ∧ (Resumes (takenS wTmr) .S h0 {} [.s 1] ∧ (takenS wTmr).tmrReadable 2 1 = true ∧ (takenS wTmr).tmrLoad 2 1 = .ok 0)
    ∧ (∃ t, (Begun wTmr h0).tmrLoad 2 1 = .ok t ∧ Tmr.held (Tmr.setSwhold t false) ≠ 3) ∧ wTmr.taskCtx = 2
      ∧ ((Begun wTmr h0).core.readS 1).toNat % 2 ^ 20 = 1
      ∧ ((Begun wTmr h0).core.stats.filter (fun x => x.rebound.isSome)).length < 8
      ∧ Issues wTmr .S h0 {} [.s 1, .s 3] ∧ Issues wTmr .S h0 {} [.s 1, .s 3, .s 2] ∧ Issues wTmr .S h0 {} [.s 1] :=
  ⟨by decide +kernel, ⟨resumes_of (by decide +kernel), by decide +kernel, ok_of (by decide +kernel)⟩, ⟨0, ok_of (by decide +kernel), by decide +kernel⟩, by decide +kernel, by decide +kernel, by decide +kernel, issues_of (by decide +kernel), issues_of (by decide +kernel), issues_of (by decide +kernel)⟩

/-- A core that drains for a PHASE to the word of its own rings. -/
def wPhase : State := on (fun c => { c with phase := some (h0, 0x84103333), s := c.s.set 1 0x84103333 })
theorem witness_PhaseInstalls :
    (Issues (on (fun c => { c with s := c.s.set 1 0x84103333 })) .S h0 {} [.s 1] ∧ Part.valid (Part.resolve 0x84103333) = true
      ∧ (Part.resolve 0x84103333).toNat % 2 ^ 16 = w0.core.part.toNat % 2 ^ 16)
    ∧ (wPhase.core.phase = some (h0, 0x84103333) ∧ (∀ f ∈ wPhase.core.flights, f.eng = .S) ∧ wPhase.core.journal = []
      ∧ (∀ k : Fin 64, (wPhase.core.handle k).st = .free
          ∨ (wPhase.core.handle k).base + (wPhase.core.handle k).expected ≤ Part.dataBytes 0x84103333)
      ∧ (∀ t ∈ wPhase.core.fullTiles, t < Part.tiles 0x84103333) ∧ 64 * wPhase.core.l1Lines.length ≤ Part.l1Bytes 0x84103333
      ∧ (∀ r ∈ wPhase.coh.reqs, r.core = 0 → r.kind ≠ .writeback)) :=
  ⟨⟨issues_of (by decide +kernel), by decide +kernel, by decide +kernel⟩, by decide +kernel, by decide +kernel, by decide +kernel, by decide +kernel, by decide +kernel, by decide +kernel, by decide +kernel⟩

/-- A core in trap mode for a TRAP on V, S's own task state saved. -/
def wTrap : State := on (fun c => { c with
  trap := { mode := true, engine := .V, cause := 0x0A, eng := 1, pc := 5, saved := some ⟨9, [], [], false, none, none, false⟩ } })
theorem witness_TrapEntry : w0.core.trap.mode = false := by decide +kernel
theorem witness_TrapsInTrapMode : wTrap.core.trap.mode = true ∧ Engine.V ≠ .S := ⟨by decide +kernel, by decide +kernel⟩
theorem witness_TrapReturn :
    wTrap.core.trap.mode = true ∧ Issues wTrap .S h0 {} []
      ∧ (Begun wTrap h0).core.flights.any (fun f => f.eng == .S && f.inTrap) = false
      ∧ (∀ c x, (Begun wTrap h0).core.perform h0.sig ≠ some (c, some x))
      ∧ (∃ v, (Begun wTrap h0).core.trap.saved = some v) ∧ (Begun wTrap h0).core.trap.cEntry = none
      ∧ (∀ e, ((Begun wTrap h0).core.eng e).held = none) ∧ (Begun wTrap h0).core.journal = [] :=
  ⟨by decide +kernel, issues_of (by decide +kernel), by decide +kernel, fun c x h => by simp [Core.perform, h0] at h, ⟨_, rfl⟩, by decide +kernel,
    fun e => by cases e <;> rfl, by decide +kernel⟩
theorem witness_PrivilegeTraps :
    let s := { w0 with queues := [(5, { ctx := 2, en := true })] }
    s.illegal? .S h0 {} = none ∧ s.privileged = false ∧ w0.illegal? .V h0 {} = none ∧ (0x104 : BitVec 12).toNat ≥ 0x104 :=
  ⟨by decide +kernel, by decide +kernel, by decide +kernel, by decide +kernel⟩
theorem witness_IntegerFrame : ∃ t, exec (.mulh h0 true 3 1 2) w0 = .next t := ⟨_, rfl⟩
theorem witness_FlagSettingFrame : ∃ t, exec (.div h0 false 3 1 0) w0 = .next t := ⟨_, rfl⟩
theorem witness_PredicateFrame : ∃ t, exec (.cmp h0 .lt 2 1 2) w0 = .next t := ⟨_, rfl⟩
theorem witness_GlobalAccessFrame :
    Issues w0 .S h0 {} [.s 3, .s 1] ∧ Reaches (Begun w0 h0) .S (w0.core.readS 1 + (8 : BitVec 18).signExtend 64).toNat (sizeBytes .b8) true
        0x200048 (Begun w0 h0) ∧ ∃ t, exec (.st h0 .si .pkg .b8 3 1 8) w0 = .next t :=
  ⟨issues_of (by decide +kernel), reaches_of (by decide +kernel), ⟨_, rfl⟩⟩
theorem witness_AccessFrame : ∃ a t, w0.access .S 0x48 8 false = .go a t ∧ MemoryOk w0 :=
  ⟨_, _, (reaches_of (by decide +kernel : accB w0 .S 0x48 8 false 0x200048 = true)).go, by decide +kernel, by decide +kernel⟩
theorem witness_DataAccessFrame : (∃ t, exec (.sts h0 .b8 3 1 0) w0 = .next t) ∧ (∃ t, exec (.lds h0 .b8 false 3 1 0) w0 = .next t)
    ∧ ∃ t, exec (.atoms h0 (.add false) .none 3 1 2 0) w0 = .next t := ⟨⟨_, rfl⟩, ⟨_, rfl⟩, ⟨_, rfl⟩⟩

/-- The machine whose V works in a shape of these rows, columns and type. -/
def wV (rows cols : Nat) (ty : ElemType) : State := on (fun c => { c with vshape := { rows, cols, ty, stride := 128 } })
theorem witness_VectorFloatResults :
    ((wV 8 32 .f32).core.vshape.ty = .f32 ∧ Issues (wV 8 32 .f32) .V h0 { regs := [(false, 3), (false, 2), (false, 1), (false, 0)] } [.t 1, .t 2, .t 3, .t 0]
      ∧ (Begun (wV 8 32 .f32) h0).core.sharedReady [1, 2, 3] [0] = true)
    ∧ ((wV 8 32 .bf16).core.vshape.ty = .bf16 ∧ Issues (wV 8 32 .bf16) .V h0 { regs := [(false, 1), (false, 0)] } [.t 1, .t 0]
      ∧ (Begun (wV 8 32 .bf16) h0).core.sharedReady [1] [0] = true) :=
  ⟨⟨by decide +kernel, issues_of (by decide +kernel), by decide +kernel⟩, by decide +kernel, issues_of (by decide +kernel), by decide +kernel⟩
theorem witness_VectorIntegerResults :
    intType (wV 8 32 .i16).core.vshape.ty = true
      ∧ Issues (wV 8 32 .i16) .V h0 { regs := [(false, 2), (false, 1), (false, 0)] } [.t 1, .t 2, .t 0]
      ∧ (Begun (wV 8 32 .i16) h0).core.sharedReady [1, 2] [0] = true := ⟨by decide +kernel, issues_of (by decide +kernel), by decide +kernel⟩
theorem witness_VectorShapeAndMasks :
    ((7 + 1) * (31 + 1) * elemBits .f32 ≤ 8192 ∧ Issues w0 .V h0 {} [])
    ∧ (Issues w0 .V h0 { regs := [(false, 2), (false, 1), (false, 0)] } [.t 1, .t 2, .t 0] ∧ (Begun w0 h0).core.sharedReady [1, 2] [0] = true)
    ∧ (Issues w0 .V h0 { regs := [(false, 1), (false, 0)] } [.t 1, .t 0] ∧ (Begun w0 h0).core.sharedReady [1] [0] = true)
    ∧ (Issues w0 .V h0 { regs := [(false, 0)] } [.t 0] ∧ (Begun w0 h0).core.sharedReady [] [0] = true)
    ∧ wideFloat w0.core.vshape.ty = true ∧ intType (wV 1 4 .i8).core.vshape.ty = true :=
  ⟨⟨by decide +kernel, issues_of (by decide +kernel)⟩, ⟨issues_of (by decide +kernel), by decide +kernel⟩, ⟨issues_of (by decide +kernel), by decide +kernel⟩,
    ⟨issues_of (by decide +kernel), by decide +kernel⟩, by decide +kernel, by decide +kernel⟩
theorem witness_VectorWholeTileResults :
    Issues w0 .V h0 { regs := [(false, 1), (false, 0)] } [.t 1, .t 0] ∧ Issues w0 .V h0 { regs := [(false, 1)] } [.t 1]
      ∧ Issues w0 .V h0 { regs := [(false, 2), (false, 1), (false, 0)] } [.t 1, .t 2, .t 0]
      ∧ Issues w0 .V h0 { regs := [(false, 0)] } [.t 0]
      ∧ (Begun w0 h0).core.sharedReady [1] [0] = true ∧ (Begun w0 h0).core.sharedReady [1, 2] [0] = true
      ∧ 8 * 32 * elemBits .f32 ≤ 8192 ∧ wideFloat w0.core.vshape.ty = true ∧ 8 ≤ elemBits w0.core.vshape.ty
      ∧ w0.core.vshape.cols ≤ 32 ∧ w0.core.vshape.ty ≠ .e8m0 ∧ w0.core.vshape.ty ≠ .e8f2 ∧ Rows.modeOk w0.core.vshape.ty .rdn = true :=
  ⟨issues_of (by decide +kernel), issues_of (by decide +kernel), issues_of (by decide +kernel), issues_of (by decide +kernel), by decide +kernel, by decide +kernel, by decide +kernel,
    by decide +kernel, by decide +kernel, by decide +kernel, by decide +kernel, by decide +kernel, by decide +kernel⟩
theorem witness_ElementwiseElements :
    SMap.wf (0 : Byte) w0.core.tiles = true ∧ w0.core.vshape.count * w0.core.vshape.w ≤ 8192 := ⟨by decide +kernel, by decide +kernel⟩
theorem witness_VectorFrame : ∃ t, exec (.vand h0 1 false 2 0 1) (wV 1 4 .i8) = .next t := ⟨_, rfl⟩

/-- The state whose handle 3 holds a written record of TMR 1 over 8 rows of 128 bytes, and whose k3 names TMR 1. -/
def wQuant : State :=
  { wTmr.modCore (fun c => { c with
      obj := { handles := [3] }, handles := c.handles.set 3 { st := .full, base := 0, expected := 1024, rcd := some (1, 0) },
      engV := { c.engV with k := c.engV.k.set 3 1 } }) with tasks := wTmr.tasks }
theorem witness_VectorRows :
    (Issues (wV 8 32 .f32) .V h0 { regs := [(false, 1)] } [.t 1]
      ∧ (Begun (wV 8 32 .f32) h0).core.runsFault 63 ((List.range 8).map (fun r => (r * 128, 128))) = none
      ∧ (Begun (wV 8 32 .f32) h0).clear .V [] ((List.range 8).map (fun r => (r * 128, 128))) = true
      ∧ (Begun (wV 8 32 .f32) h0).clear .V ((List.range 8).map (fun r => (r * 128, 128))) [] = true
      ∧ (Begun (wV 8 32 .f32) h0).ordered .V (Begun (wV 8 32 .f32) h0).nextId = false
      ∧ (Begun (wV 8 32 .f32) h0).core.rowStart .V 2 63 0 = 0 ∧ (Begun (wV 8 32 .f32) h0).core.sharedReady [1] [] = true
      ∧ (Begun (wV 8 32 .f32) h0).core.sharedReady [] [1] = true)
    ∧ (((Begun wQuant h0).core.handle 3).rcd = some (1, 0) ∧ (Begun wQuant h0).tmrReadable 2 1 = true
      ∧ (Begun wQuant h0).tmrLoad 2 1 = .ok 0 ∧ Tmr.holds 0 0 = true
      ∧ wideFloat wQuant.core.vshape.ty = true ∧ Issues wQuant .V h0 { regs := [(false, 1)], handles := [3] } [.t 1]
      ∧ (imageScale (Tmr.slot 0 0)).fmt ≠ 2
      ∧ (Begun wQuant h0).core.runsFault 3 ((List.range 8).map (fun r => (r * 128, (imageScale (Tmr.slot 0 0)).rowBytes 32))) = none)
    ∧ (bits ((Begun wQuant h0).core.quantDesc 2) 0 20 = 1
      ∧ (Begun wQuant h0).writeScale 1 0 = .ok (0, imageScale 0) ∧ (Begun wQuant h0).feedWaits 1 = false
      ∧ (Begun wQuant h0).policyReady 2 (Tmr.policy 0) = true ∧ (Begun wQuant h0).core.softIn .tile ((Begun wQuant h0).core.readRuns none [1]) = false
      ∧ (encodeRows (imageScale 0) (Tmr.base 0) .rne false ((Begun wQuant h0).core.tileRows 1)).2.2.ovf * 65536
          ≤ ((Begun wQuant h0).policy 2 (Tmr.policy 0)).faultLim * wQuant.core.vshape.count) :=
  ⟨⟨issues_of (by decide +kernel), by decide +kernel, by decide +kernel, by decide +kernel, by decide +kernel, by decide +kernel, by decide +kernel, by decide +kernel⟩,
    ⟨by decide +kernel, by decide +kernel, ok_of (by decide +kernel), by decide +kernel, by decide +kernel, issues_of (by decide +kernel), by decide +kernel, by decide +kernel⟩,
    by decide +kernel, ok_of (by decide +kernel), by decide +kernel, by decide +kernel, by decide +kernel, by decide +kernel⟩

/-- Two elements of 32 bits selected by m1; their index tile 2 is all zeros, k4 the base. -/
def wGath (base : Word64) : State := on (fun c => { c with
  vshape := { rows := 1, cols := 2, ty := .i32, stride := 128 }, m := c.m.set 1 1, engV := { c.engV with k := c.engV.k.set 4 base } })
/-- A result of an element access, as far as its addresses. -/
def reached (s : State) (as : List (Nat × Nat)) (write : Bool) (xs : List (Nat × Nat × Nat)) : Bool :=
  match s.reachElements as write with
  | .ok (ys, u) => ys == xs && decide (u = s) && !u.holdsBack .V u.nextId
  | .error _ => false
theorem reached_of {s : State} {as : List (Nat × Nat)} {write : Bool} {xs : List (Nat × Nat × Nat)}
    (hb : reached s as write xs = true) : s.reachElements as write = .ok (xs, s) ∧ s.holdsBack .V s.nextId = false := by
  simp only [reached] at hb
  revert hb
  split
  · next ys u hx =>
    simp only [Bool.and_eq_true, beq_iff_eq, decide_eq_true_eq, Bool.not_eq_true']
    rintro ⟨⟨rfl, rfl⟩, hs⟩
    exact ⟨hx, hs⟩
  · intro h; exact absurd h (by decide +kernel)
/-- A gather or scatter on V of one element, at the word 0x40. -/
def gathF (s : State) (store : Bool) : Flight :=
  { id := s.nextId, eng := .V, pc := 0, kind := if store then .scatter else .gather 1 4 [],
    parts := elementParts { store, pol := .wi, inv := false, va := 0, n := 4, data := 0 } [(if store then 0 else 0x400, 0x40, 7)] }
theorem witness_GathersAndScatters :
    let b := Begun (wGath 0x40) h0
    (8 ≤ elemBits b.core.vshape.ty ∧ b.core.vshape.rows * b.core.vshape.cols ≤ 256
      ∧ b.core.gatherAddrs 2 4 1 = [(0, 0x40)] ∧ 0x40 + 4 ≤ Part.dataBytes b.core.part
      ∧ b.clear .V [(0x40, 4)] [] = true ∧ b.clear .V [] [(0x40, 4)] = true ∧ b.ordered .V b.nextId = false)
    ∧ (Issues (wGath 0x40) .V h0 { regs := [(false, 2), (false, 1)] } [.t 2, .t 1]
      ∧ b.core.sharedReady [2] [1] = true ∧ b.core.sharedReady [2, 1] [] = true
      ∧ b.core.softIn .tile (b.core.readRuns (some 2) [2]) = false ∧ b.core.softIn .tile (b.core.readRuns (some 2) [2, 1]) = false)
    ∧ ((b.reachElements [(0, 0x40)] false = .ok ([(0, 0x40, 0x200040)], b) ∧ b.holdsBack .V b.nextId = false)
      ∧ b.poisoned 0x200040 = false
      ∧ ∃ w ps, State.sendParts { b with nextId := b.nextId + 1 } (gathF b false) = .ok (w, ps))
    ∧ (b.reachElements [(0, 0x40)] true = .ok ([(0, 0x40, 0x200040)], b) ∧ b.holdsBack .V b.nextId = false)
    ∧ ∃ w ps, State.sendParts { b with nextId := b.nextId + 1 } (gathF b true) = .ok (w, ps) :=
  ⟨by decide +kernel, ⟨issues_of (by decide +kernel), by decide +kernel, by decide +kernel, by decide +kernel, by decide +kernel⟩, ⟨reached_of (by decide +kernel), by decide +kernel, _, _, rfl⟩,
    reached_of (by decide +kernel), _, _, rfl⟩

/-- A small matrix shape: 8 rows, 16 columns, one group of K. -/
def wM : State := on (fun c => { c with mshape := { rows := 8, cols := 16 } })
theorem witness_AccumulatorWords :
    (Issues w0 .V h0 { regs := [(true, 1), (false, 0)] } [.t 0] ∧ Issues w0 .V h0 { regs := [(false, 0), (true, 1)] } [.t 0]
      ∧ (Begun w0 h0).core.sharedReady [] [0] = true ∧ (SMap.get {} (Begun w0 h0).core.accRec 1).cls = none
      ∧ (Begun w0 h0).core.softIn .acc ((Begun w0 h0).core.windowRuns 1 4) = false
      ∧ wideFloat w0.core.vshape.ty = true ∧ Rows.modeOk w0.core.vshape.ty .rup = true)
    ∧ (ElemType.e4m3 ≠ .e2m1 ∧ Issues wM .M h0 {} [] ∧ Issues wM .M h0 { regs := [(true, 1)] } []
      ∧ (Begun wM h0).core.runsFault 63 [(0, 64)] = none ∧ (Begun wM h0).clear .M [(0, 64)] [] = true
      ∧ (Begun wM h0).core.runsFault 63 [(0, 8 * 16 * 4)] = none ∧ (Begun wM h0).clear .M [] [(0, 8 * 16 * 4)] = true
      ∧ (Begun wM h0).ordered .M (Begun wM h0).nextId = false
      ∧ (Begun wM h0).core.softIn .acc ((List.range 8).map (fun r => (1 * 8192 + 256 * r, 4 * 16))) = false)
    ∧ ((∃ p, (Begun wM h0).core.scaleCheck 1 0 = .ok p) ∧ (Begun wM h0).core.layoutOk 0 = true ∧ (Begun wM h0).core.weightFault 0 = none
      ∧ wM.core.mshape.aBytes ≤ 1024
      ∧ Issues wM .M h0 { regs := [(false, 5), (true, 1)] } [] ∧ [].all (Begun wM h0).core.fullOf = true ∧ (Begun wM h0).core.softIn .tile [(5 * 1024, wM.core.mshape.aBytes)] = false
      ∧ (Begun wM h0).core.runsFault 63 [(0, wM.core.mshape.aBytes)] = none ∧ (Begun wM h0).clear .M [(0, wM.core.mshape.aBytes)] [] = true) :=
  ⟨⟨issues_of (by decide +kernel), issues_of (by decide +kernel), by decide +kernel, by decide +kernel, by decide +kernel, by decide +kernel, by decide +kernel⟩,
    ⟨by decide +kernel, issues_of (by decide +kernel), issues_of (by decide +kernel), by decide +kernel, by decide +kernel, by decide +kernel, by decide +kernel, by decide +kernel, by decide +kernel⟩,
    ⟨_, ok_of (by rfl)⟩, by decide +kernel, by decide +kernel, by decide +kernel, issues_of (by decide +kernel), by decide +kernel, by decide +kernel, by decide +kernel, by decide +kernel⟩
/-- That core with a product of M's under way on accumulator 1, V's word unordered with it, or V's mark there. -/
def wRace (e : Engine) : Core := { wM.core with
  acc := [(2048, 7)],
  checker := [{ eng := e.num, pc := 3, reads := [], writes := [], acc := some { z := 1, work := .load, elems := [0], before := [], after := [(0, 5)] } }] }
theorem witness_AccumulatorWords_races :
    ((wRace .V).accMarks .V 1 = [{ z := 1, work := .load, elems := [0], before := [], after := [(0, 5)] }]) ∧ (wRace .V).accMarks .M 1 = []
      ∧ (wRace .M).accMarks .V 1 = [] := by decide +kernel

/-- A core whose descriptor at 0 copies 16 bytes (or none) from data-area offset 0x40 to 0x80, handle 3 in a state. -/
def wC (n : Byte) (st : HState) : State := on (fun c => { c with
  data := [(0, 0x40), (8, 0x80)] ++ (if n = 0 then [] else [(0x10, n)]) ++ [(0x14, 1), (0x18, 1), (0x1C, 1)], obj := { handles := [3] },
  handles := c.handles.set 3 { st, base := 0, expected := 256 } })
/-- A plan, and that no check of the command's issue fails on it. -/
def planned (s : State) (c : CCmd) (n : Nat) (empty : Bool) (count : Nat) : Bool :=
  let d := s.descriptor 0 n
  match s.plan c d none with
  | .ok p => p.empty == empty && p.count == count && (s.commandFault c d 0 p).isNone && (s.core.recordClash c none).isNone
  | .error _ => false
theorem planned_of {s : State} {c : CCmd} {n : Nat} {empty : Bool} {count : Nat} (hb : planned s c n empty count = true) :
    ∃ p, s.plan c (s.descriptor 0 n) none = .ok p ∧ p.empty = empty ∧ p.count = count
      ∧ s.commandFault c (s.descriptor 0 n) 0 p = none ∧ s.core.recordClash c none = none := by
  simp only [planned] at hb
  revert hb
  split
  · next p hp =>
    simp only [Bool.and_eq_true, beq_iff_eq, Option.isNone_iff_eq_none]
    rintro ⟨⟨⟨h1, h2⟩, h3⟩, h4⟩
    exact ⟨p, hp, h1, h2, h3, h4⟩
  · intro h; exact absurd h (by decide +kernel)
theorem witness_CommandsEnterJournal :
    let b := Begun (wC 16 .filling) h0
    let c : CCmd := ⟨.copy, 3, .wt, .core, false⟩
    (Issues (wC 16 .filling) .C h0 { handles := [3] } [] ∧ b.core.journal.length < 64 ∧ b.core.descAt 1 0 = 0
      ∧ 0 + 64 ≤ Part.dataBytes b.core.part ∧ b.core.sramFault [(0, 64)] = none ∧ b.issueTmrReady c (b.descriptor 0 64) = true
      ∧ b.issuePair c (b.descriptor 0 64) = .ok none
      ∧ (∃ p, b.plan c (b.descriptor 0 64) none = .ok p ∧ p.empty = false ∧ p.count = 16
        ∧ b.commandFault c (b.descriptor 0 64) 0 p = none ∧ b.core.recordClash c none = none)
      ∧ b.ordered .C b.nextId = false ∧ (b.issueTmrTouch c (b.descriptor 0 64)).issueReleased .core = true)
    ∧ ((∃ p, (Begun (wC 0 .filling) h0).plan c ((Begun (wC 0 .filling) h0).descriptor 0 64) none = .ok p
        ∧ p.empty = true ∧ p.count = 0
        ∧ (Begun (wC 0 .filling) h0).commandFault c ((Begun (wC 0 .filling) h0).descriptor 0 64) 0 p = none
        ∧ (Begun (wC 0 .filling) h0).core.recordClash c none = none)
      ∧ (let z := ((Begun (wC 0 .filling) h0).issueTmrTouch c ((Begun (wC 0 .filling) h0).descriptor 0 64)).modCore (·.rewind 3)
         z.coh.invals = [] ∧ (z.core.handle 3).widest = 0 ∧ (z.core.handle 3).counted + 0 ≠ (z.core.handle 3).expected))
    ∧ (∃ p, (Begun (wC 16 .full) h0).plan ⟨.copy, 3, .wt, .core, true⟩ ((Begun (wC 16 .full) h0).descriptor 0 64) none = .ok p
        ∧ p.empty = false ∧ p.count = 16
        ∧ (Begun (wC 16 .full) h0).commandFault ⟨.copy, 3, .wt, .core, true⟩ ((Begun (wC 16 .full) h0).descriptor 0 64) 0 p = none
        ∧ (Begun (wC 16 .full) h0).core.recordClash ⟨.copy, 3, .wt, .core, true⟩ none = none)
    ∧ (∀ e ∈ (b.core.sample.map (·.sigs)).getD [], e.1 ≠ 3) :=
  ⟨⟨issues_of (by decide +kernel), by decide +kernel, by decide +kernel, by decide +kernel, by decide +kernel, by decide +kernel, ok_of (by decide +kernel), planned_of (by decide +kernel), by decide +kernel,
      by decide +kernel⟩,
    ⟨planned_of (by decide +kernel), by decide +kernel⟩, planned_of (by decide +kernel), by decide +kernel⟩

/-- The journal entry of such a copy, to a destination space: 0 the core's own, 1 the memory's. -/
def copyEntry (space : Byte) : JEntry :=
  { id := 40, pc := 6, cmd := ⟨.copy, 3, .wt, .core, false⟩,
    desc := [0x40] ++ List.replicate 7 0 ++ [0x80] ++ List.replicate 7 0 ++ [16, 0, 0, 0, 1, 0, 0, 0, 1, 0, 0, 0, 1, 0, 0, 0]
      ++ List.replicate 24 0 ++ [space * 4] ++ List.replicate 7 0,
    base := 0, count := 16, tmr := none, row := 0, cancelled := false, fault := none }
def wJ (space : Byte) (mode : Bool) : State := on (fun c => { c with
  obj := { handles := [3] }, handles := c.handles.set 3 { st := .filling, base := 0, expected := 16, pending := 16 },
  journal := [copyEntry space], trap := { mode },
  checker := [{ eng := 3, id := 40, pc := 6, reads := [(0x40, 16)], writes := if space = 0 then [(0x80, 16)] else [] }], ranges := Vector.replicate 16 {} })
/-- The machine as the turn of a transfer of core 0 finds it. -/
def at0 (s : State) : State := State.sampleCycle { s with cur := 0 }
/-- Whether a transfer would be performed or would fault. -/
def performs (s : State) (j : JEntry) : Bool :=
  match (s.before j).performEntry j [] with
  | .ok (_, _, offer) => (s.core.offerClash j offer).isNone && !s.owesRelease j offer
  | .error _ => false
def faults (s : State) (j : JEntry) : Bool := match s.performEntry j [] with | .error (.fault _ _ _) => true | _ => false
theorem performs_of {s : State} {j : JEntry} (hb : performs s j = true) :
    ∃ t fl offer, (s.before j).performEntry j [] = .ok (t, fl, offer) ∧ s.core.offerClash j offer = none ∧ s.owesRelease j offer = false := by
  simp only [performs] at hb
  revert hb
  split
  · next t fl offer h =>
    simp only [Bool.and_eq_true, Option.isNone_iff_eq_none, Bool.not_eq_true']
    exact fun hb => ⟨t, fl, offer, h, hb.1, hb.2⟩
  · intro h; exact absurd h (by decide +kernel)
theorem faults_of {s : State} {j : JEntry} (hb : faults s j = true) : ∃ f x made, s.performEntry j [] = .error (.fault f x made) := by
  simp only [faults] at hb
  revert hb
  split
  · next f x made h => exact fun _ => ⟨f, x, made, h⟩
  · intro h; exact absurd h (by decide +kernel)
/-- The copy's entry with its moves made, its task at a level of determinism; and a handle that owes a release at package scope. -/
def wM1 (level : Nat) : State :=
  { (wJ 0 false).modCore (fun c => { c with journal := [{ copyEntry 0 with moved := some (Flags.nx, none) }] }) with
    tasks := [(7, { task0 with det := level })] }
def clashEntry : JEntry := { copyEntry 0 with tmr := some (1, 5) }
def wClash : State := (wJ 0 false).modCore (fun c => { c with
  journal := [clashEntry], handles := c.handles.set 3 { st := .filling, rcd := some (1, 4) } })
def clashes (s : State) (j : JEntry) : Bool :=
  match (s.before j).performEntry j [] with | .ok (_, _, offer) => (s.core.offerClash j offer).isSome | .error _ => false
theorem clashes_of {s : State} {j : JEntry} (hb : clashes s j = true) :
    ∃ t fl offer x, (s.before j).performEntry j [] = .ok (t, fl, offer) ∧ s.core.offerClash j offer = some x := by
  simp only [clashes] at hb
  revert hb
  split
  · next t fl offer h => exact fun hb => (Option.isSome_iff_exists.mp hb).elim (fun x hx => ⟨t, fl, offer, x, h, hx⟩)
  · intro h; exact absurd h (by decide +kernel)
theorem piece_of {s : State} {j : JEntry} {k : Nat} (hb : (match s.performPiece j k with | .ok _ => true | .error _ => false) = true) :
    ∃ t fl v, s.performPiece j k = .ok (t, fl, v) := by
  revert hb
  split
  · next x hx => exact fun _ => ⟨x.1, x.2.1, x.2.2, hx⟩
  · intro h; exact absurd h (by decide +kernel)
def wOwe : State := (wJ 0 false).modCore (fun c => { c with
  handles := c.handles.set 3 { st := .filling, base := 0, expected := 16, pending := 16, widest := 1 },
  l1 := [(0x80012, ⟨.dirty 15 true, 5⟩)] })
/-- A core whose window ends before S's PC, its refill under way or not, and the object's words in memory. -/
def wFeed (feeds : List Engine) : State :=
  let s := on (fun c => { c with feeds, obj := { ctx := 2, addr := 0x8000, streams := [(0x100, 2049)] },
                                 engS := { c.engS with pc := 2048, ring := { base := 0, len := 2049 } } })
  { s with cur := 0 }
/-- What a refill has walked and asked for. -/
def fed (s : State) : State :=
  ((State.feedWalk s .S s.core.obj 0x100 2048 1).unitTouch 2 (0x8000 + 0x100 + 8 * 2048) 8).modCore (fun c => { c with feeds := c.feeds.erase .S })
theorem witness_TransfersEnd :
    ((at0 (wJ 0 false)).core.started = true ∧ (at0 (wJ 0 false)).core.transfersLeft = true
      ∧ (at0 (wJ 0 false)).core.journal.find? (fun k => k.id == 40) = some (copyEntry 0) ∧ (copyEntry 0).moved = none
      ∧ (at0 (wJ 0 false)).lingers (copyEntry 0) = true ∧ (at0 (wM1 1)).lingers (copyEntry 0) = false
      ∧ (∃ t fl offer, ((at0 (wJ 0 false)).before (copyEntry 0)).performEntry (copyEntry 0) [] = .ok (t, fl, offer)
          ∧ (at0 (wJ 0 false)).core.offerClash (copyEntry 0) offer = none ∧ (at0 (wJ 0 false)).owesRelease (copyEntry 0) offer = false)
      ∧ Box.dstSpace (copyEntry 0).desc = 0 ∧ (wJ 0 false).core.upsets = [] ∧ (copyEntry 0).made = [] ∧ Box.srcSpace (copyEntry 0).desc = 0
      ∧ Box.tagValid (copyEntry 0).desc = false ∧ ((wJ 0 false).core.handle 3).st = .filling)
    ∧ ((at0 (wM1 1)).core.journal.find? (fun k => k.id == 40) = some { copyEntry 0 with moved := some (Flags.nx, none) }
      ∧ (at0 (wM1 1)).core.offerClash { copyEntry 0 with moved := some (Flags.nx, none) } none = none
      ∧ ((at0 (wClash)).core.offerClash { copyEntry 0 with moved := some (Flags.nx, some (1, 5)) } (some (1, 5))).isSome = true
      ∧ (State.owesAcks (wJ 0 false) (copyEntry 0) || State.owesRelease (wJ 0 false) (copyEntry 0) none) = false
      ∧ (wOwe.owesRelease (copyEntry 0) none) = true)
    ∧ ((at0 wClash).core.journal.find? (fun k => k.id == 40) = some clashEntry
      ∧ ∃ t fl offer x, ((at0 wClash).before clashEntry).performEntry clashEntry [] = .ok (t, fl, offer)
          ∧ (at0 wClash).core.offerClash clashEntry offer = some x)
    ∧ ((∃ f x made, ((at0 (wJ 1 false)).before (copyEntry 1)).performEntry (copyEntry 1) [] = .error (.fault f x made))
      ∧ (wJ 1 false).core.trap.mode = false ∧ (wJ 1 true).core.trap.mode = true)
    ∧ ((copyEntry 0).made.contains 0 = false ∧ (at0 (wJ 0 false)).core.sramFault ((copyEntry 0).firstReads ((at0 (wJ 0 false)).pairScale none)) = none
      ∧ ∃ t fl v, ((at0 (wJ 0 false)).before (copyEntry 0)).performPiece (copyEntry 0) 0 = .ok (t, fl, v))
    ∧ (let s := wFeed []
       s.core.trap.mode = false ∧ s.core.engS.pc < s.core.engS.ring.len ∧ Part.ringWords s.core.part .S < s.core.engS.ring.len
        ∧ s.core.engS.ring.base + Part.ringWords s.core.part .S ≤ s.core.engS.pc ∧ s.core.feeds.contains .S = false ∧ s.noRoom .S 1 = false)
    ∧ ((wFeed [.S]).core.feeds.contains .S = true ∧ (wFeed [.S]).unitReady 2 (0x8000 + 0x100 + 8 * 2048) 8 = true
      ∧ ((fed (wFeed [.S])).unitBytes 2 (0x8000 + 0x100 + 8 * 2048) 8).isSome = true)
    ∧ (let s : State := { wFeed [.S] with coh := { w0.coh with dirs := [(lineOf (0x208000 + 0x100 + 8 * 2048), { busy := some 1 })] } }
       s.core.feeds.contains .S = true ∧ s.unitReady 2 (0x8000 + 0x100 + 8 * 2048) 8 = false) := by
  refine ⟨⟨by decide +kernel, by decide +kernel, by decide +kernel, by decide +kernel, by decide +kernel, by decide +kernel, performs_of (by decide +kernel), by decide +kernel, by decide +kernel, by decide +kernel, by decide +kernel,
    by decide +kernel, by decide +kernel⟩, ⟨by decide +kernel, by decide +kernel, by decide +kernel, by decide +kernel, by decide +kernel⟩,
    ⟨by decide +kernel, clashes_of (by decide +kernel)⟩, ⟨faults_of (by decide +kernel), by decide +kernel, by decide +kernel⟩, ⟨by decide +kernel, by decide +kernel, piece_of (by decide +kernel)⟩, by decide +kernel, by decide +kernel, by decide +kernel⟩

/-- A request of core 0 for the four bytes at 0x200048. -/
def req0 (kind : ReqKind) (pol : Policy) : Req :=
  { id := 50, core := 0, eng := .S, kind, pol, inv := false, addr := 0x200048, size := 4, va := 0x48, ctx := 2, ia := 0x48, data := 9,
    wb := [], seq := none, ncon := 0, stage := .sent }
def wR (r : Req) : State := { w0 with coh := { w0.coh with reqs := [r] } }
/-- What the home finds ready for a request. -/
def readies (s : State) (r : Req) (writes grants : List Nat) (self : Bool) (f : State → Bool) : Bool :=
  match s.prepare r writes grants self with | .ok t => f t | .error _ => false
theorem readies_of {s : State} {r : Req} {writes grants : List Nat} {self : Bool} {f : State → Bool}
    (hb : readies s r writes grants self f = true) : ∃ t, s.prepare r writes grants self = .ok t ∧ f t = true := by
  simp only [readies] at hb
  revert hb
  split
  · next t h => exact fun hb => ⟨t, h, hb⟩
  · intro h; exact absurd h (by decide +kernel)
/-- The same with the line poisoned. -/
def wPoison (r : Req) : State := { wR r with side := (wR r).side ++ [(0x200040, 0x010101)] }
/-- A write-back whose name leads nowhere. -/
def lostWb : Req := { req0 .writeback .wt with name := some (2, 2 ^ 40) }
def clear_ (t : State) : Bool := !(t.readDecode 0x200040).poisoned 0x200040
theorem witness_HomesServe :
    ((wR (req0 .load .wt)).req? 50 = some (req0 .load .wt) ∧ (req0 .load .wt).stage = .sent ∧ (req0 .load .wt).size ≠ 64)
    ∧ (∃ t, (wR (req0 .load .si)).prepare (req0 .load .si) [] [] false = .ok t ∧ clear_ t = true)
    ∧ (∃ t, (wR (req0 .load .own)).prepare (req0 .load .own) [] (wordKeys 0x200048 4) false = .ok t ∧ clear_ t = true)
    ∧ (∃ t, (wPoison (req0 .load .wi)).prepare (req0 .load .wi) [] [] false = .ok t ∧ (!clear_ t) = true)
    ∧ (∃ t, (wR (req0 .store .wt)).prepare (req0 .store .wt) (wordKeys 0x200048 4) [] false = .ok t ∧ clear_ t = true)
    ∧ (∃ t, (wR (req0 .store .own)).prepare (req0 .store .own) [] (wordKeys 0x200048 4) false = .ok t ∧ clear_ t = true)
    ∧ ((wR (req0 .writeback .wt)).wbTarget (req0 .writeback .wt) = .ok (wR (req0 .writeback .wt))
      ∧ (wR (req0 .writeback .wt)).held (req0 .writeback .wt) = false)
    ∧ ((wR lostWb).awaiting 50 = false ∧ (wR lostWb).translate 2 (State.taskCtx { wR lostWb with cur := 0 }) (2 ^ 40) true = .refused)
    ∧ (∃ t, (wPoison (req0 (.cas 5) .own)).prepare (req0 (.cas 5) .own) [] (wordKeys 0x200048 4) false = .ok t ∧ (!clear_ t) = true)
    ∧ (∃ t, (wR (req0 .writeback .wt)).prepare (req0 .writeback .wt) [] [] false = .ok t ∧ clear_ t = true)
    ∧ (∃ t, (wR (req0 (.cas 5) .wt)).prepare (req0 (.cas 5) .wt) (wordKeys 0x200048 4) [] false = .ok t ∧ clear_ t = true)
    ∧ (req0 (.cas 5) .wt).newValue 5 = some 9 ∧ (req0 (.cas 5) .wt).newValue 6 = none :=
  ⟨⟨by decide +kernel, by decide +kernel, by decide +kernel⟩, readies_of (by decide +kernel), readies_of (by decide +kernel), readies_of (by decide +kernel : readies (wPoison (req0 .load .wi)) (req0 .load .wi) [] [] false (fun t => !clear_ t) = true),
    readies_of (by decide +kernel), readies_of (by decide +kernel), ⟨rfl, by decide +kernel⟩, ⟨by decide +kernel, by decide +kernel⟩,
    readies_of (by decide +kernel : readies (wPoison (req0 (.cas 5) .own)) (req0 (.cas 5) .own) [] (wordKeys 0x200048 4) false (fun t => !clear_ t) = true),
    readies_of (by decide +kernel), readies_of (by decide +kernel), by decide +kernel, by decide +kernel⟩

/-- A load, or an atomic, in flight with its part as given. -/
def flight0 (kind : FlightKind) (got : Reply) : Flight := { id := 50, eng := .S, pc := 3, kind, parts := [⟨50, 0, some got, none⟩] }
def wF (f : Flight) : State := on (fun c => { c with flights := [f] })
/-- A contribution whose number is `c`. -/
def reqSeq (c : Nat) : Req := { req0 (.atomic .fadd) .wt with seq := some c, ncon := 4 }
/-- The machine with that request, context 2 declaring the lowest 64 KiB an object of four contributors in its table at 0x200000, a page
of host memory. -/
def wRo (r : Req) : State :=
  { w0 with
    coh := { w0.coh with reqs := [r] }, ctxs := [(2, { valid := true, ptroot := 0x10000, rotab := 0x200000 })],
    mem := w0.mem ++ [(0x30008, 0x2F), (0x3000A, 0x40), (hostBase + 0x40000A, 1), (hostBase + 0x40000C, 4), (hostBase + 0x40000D, 0x10)],
    side := [(0x10000, 5207950), (0x20000, 8945698), (0x30000, 9532167)] }
theorem walk_page (s : State) (ctx : Nat) {ia ib : Nat} (h : ia / 65536 = ib / 65536) : s.walk ctx ia = s.walk ctx ib := by
  have e (lo w : Nat) (hl : 16 ≤ lo) : bits ia lo w = bits ib lo w := by
    obtain ⟨k, rfl⟩ := Nat.exists_eq_add_of_le hl
    simp only [bits, Nat.pow_add, ← Nat.div_div_eq_div_mul]
    rw [show (2 : Nat) ^ 16 = 65536 from rfl, h]
  simp only [State.walk, e 47 5 (by decide +kernel), e 34 13 (by decide +kernel), e 21 13 (by decide +kernel), e 16 5 (by decide +kernel)]
theorem tlbKey_page (ctx : Nat) {ia ib : Nat} (h : ia / 65536 = ib / 65536) : tlbKey ctx ia = tlbKey ctx ib := by
  simp only [tlbKey, h]
theorem lookup_page (s : State) (ctx : Nat) {ia ib : Nat} (h : ia / 65536 = ib / 65536) : s.lookup ctx ia = s.lookup ctx ib := by
  unfold State.lookup
  simp only [walk_page s ctx h, tlbKey_page ctx h]
/-- An entry of a context's table by what the walk of its page finds. -/
def entryBy (s : State) (w : Walked) (ctx j : Nat) : Option RObject :=
  let ia := (s.ctxOf ctx).rotab + 16 * j
  match (match s.translateBy w ctx ia false with | .addr a => some (s.keyed ctx ia a) | _ => none) with
  | none => none
  | some a =>
    let bs := (s.readChecked a 16).getD ((List.range 16).map (fun i => Config.freeByte (ctx * 2 ^ 100 + 2 ^ 91 + ia + i)))
    let e := recordField bs 0 16
    let o : RObject := { base := bits e 0 52, size := bits e 64 32, ncon := bits e 96 12 }
    if bits e 108 1 = 1 ∧ o.base % 64 = 0 ∧ o.size % 64 = 0 ∧ 64 ≤ o.size ∧ 1 ≤ o.ncon then some o else none
theorem robject_of {s : State} {ctx ia : Nat} {w : Walked} {o : RObject} (hr : (s.ctxOf ctx).rotab = 0x200000)
    (hw : s.lookup ctx 0x200000 = w) (he : (List.range 64).filterMap (fun j => (entryBy s w ctx j).map (fun o => (j, o))) = [(0, o)])
    (hi : o.base ≤ ia ∧ ia < o.base + o.size) : s.robject ctx ia = some o := by
  have h (j : Nat) (hj : j < 64) : s.robjectEntry ctx j = entryBy s w ctx j := by
    have hl : s.lookup ctx ((s.ctxOf ctx).rotab + 16 * j) = w := (lookup_page s ctx (ib := 0x200000) (by rw [hr]; omega)).trans hw
    simp only [State.robjectEntry, entryBy, State.unitAddr, State.translate, hl] <;> rfl
  have hs : (List.range 64).filterMap (fun j => (s.robjectEntry ctx j).map (fun o => (j, o))) = [(0, o)] := by
    rw [← he]
    exact List.filterMap_congr (fun j hj => by rw [h j (List.mem_range.mp hj)])
  simp only [State.robject, hr, hs]
  simp [hi.1, hi.2]
/-- A contribution's line ready, the entries of its context's table as `object_of` asks, and the turn that its word is at. -/
def turnAt (t : State) (k : Nat) : Bool :=
  let x := t.readDecode 0x200040
  !x.poisoned 0x200040 && decide (t.seqNext 2 0x48 = k ∧ t.coh.weir = []) && (x.ctxOf 2).rotab == 0x200000
    && x.lookup 2 0x200000 == .page 0x30008 0x40002F true
    && (List.range 64).filterMap (fun j => (entryBy x (.page 0x30008 0x40002F true) 2 j).map (fun o => (j, o)))
      == [(0, { base := 0, size := 0x10000, ncon := 4 })]
theorem object_of {t : State} {k : Nat} (h : turnAt t k = true) :
    (t.readDecode 0x200040).robject 2 0x48 = some { base := 0, size := 0x10000, ncon := 4 } := by
  simp only [turnAt, Bool.and_eq_true, beq_iff_eq] at h
  exact robject_of h.1.1.2 h.1.2 h.2 (by decide +kernel)
/-- Whether every line of a context's table can be read, by what the walk of its page finds. -/
theorem rotab_of {s : State} {ctx : Nat} {w : Walked} (hr : (s.ctxOf ctx).rotab = 0x200000) (hw : s.lookup ctx 0x200000 = w)
    (h : (unitLines 0x200000 1024).all (fun x => x / 65536 == 0x20 && (match s.translateBy w ctx x false with
      | .addr a => s.readable (lineOf (s.keyed ctx x a)) | .locked => false | _ => true)) = true) : s.rotabReady ctx = true := by
  simp only [State.rotabReady, State.unitReady, hr, Bool.or_eq_true, List.all_eq_true, Bool.and_eq_true, beq_iff_eq] at h ⊢
  refine .inr (fun x hx => ?_)
  have hl : s.lookup ctx x = w := (lookup_page s ctx (ib := 0x200000) (by rw [(h x hx).1])).trans hw
  have h2 := (h x hx).2
  revert h2
  simp only [State.translate, hl]
  exact id
theorem declared_of {c : Nat}
    (h : readies (wRo (reqSeq c)) (reqSeq c) (wordKeys 0x200048 4) [] true (fun t => turnAt t 0) = true) :
    ∃ t, (wRo (reqSeq c)).prepare (reqSeq c) (wordKeys 0x200048 4) [] true = .ok t ∧ turnAt t 0 = true
      ∧ (t.readDecode 0x200040).robject 2 0x48 = some { base := 0, size := 0x10000, ncon := 4 } := by
  obtain ⟨t, ht, hb⟩ := readies_of h
  exact ⟨t, ht, hb, object_of hb⟩
theorem witness_AnswersArrive :
    ((wRo (reqSeq 0)).rotabReady 2 = true ∧ (wR (reqSeq 0)).rotabReady 2 = true
      ∧ (∃ t, (wR (reqSeq 0)).prepare (reqSeq 0) (wordKeys 0x200048 4) [] true = .ok t
          ∧ (!(t.readDecode 0x200040).poisoned 0x200040 && ((t.readDecode 0x200040).robject 2 0x48).isNone) = true)
      ∧ (let s := wR (reqSeq 0)
         State.rotabReady { s with ctxs := [(2, { valid := true, ptroot := 0x10000, rotab := 0x800 })],
                                   coh := { s.coh with dirs := [(0x200800, { busy := some 1 })] } } 2 = false))
    ∧ ((wRo (reqSeq 0)).heldBefore (reqSeq 0) = false
      ∧ (let s := (wRo (reqSeq 0)).modCore (fun c => { c with faults := [{ eng := .S, va := 0x40, req := some 49 }] })
         State.heldBefore { s with coh := { s.coh with reqs := [{ reqSeq 1 with id := 49 }, reqSeq 0] } } { reqSeq 0 with since := 1 } = true)
      ∧ (let w := (reqSeq 2).weirEntry ((wRo (reqSeq 2)).slice 0x200048) .fadd 2
         512 ≤ ((List.replicate 512 w).filter (fun x => x.slice == w.slice)).length ∧ (wRo (reqSeq 2)).seqNext 2 0x48 ≠ 2))
    ∧ ((∀ g ∈ (wF (flight0 (.load 3 4 false) (.poison 0x48))).core.flights, g.id = 50 → g = flight0 (.load 3 4 false) (.poison 0x48))
      ∧ (flight0 (.load 3 4 false) (.poison 0x48)).complete = true ∧ (flight0 (.load 3 4 false) (.poison 0x48)).poison = some 0x48)
    ∧ (flight0 (.load 3 4 false) (.value 9) ∈ (wF (flight0 (.load 3 4 false) (.value 9))).core.flights
      ∧ (flight0 (.load 3 4 false) (.value 9)).complete = true ∧ (flight0 (.load 3 4 false) (.value 9)).poison = none
      ∧ (flight0 (.load 3 4 false) (.value 9)).acq = none ∧ (flight0 (.load 3 4 false) (.value 9)).values = [(0, 9)]
      ∧ (flight0 (.atom 3) (.value 9)).values = [(0, 9)])
    ∧ (∃ t, (wRo (reqSeq 0)).prepare (reqSeq 0) (wordKeys 0x200048 4) [] true = .ok t ∧ turnAt t 0 = true
      ∧ (t.readDecode 0x200040).robject 2 0x48 = some { base := 0, size := 0x10000, ncon := 4 })
    ∧ (∃ t, (wRo (reqSeq 2)).prepare (reqSeq 2) (wordKeys 0x200048 4) [] true = .ok t ∧ turnAt t 0 = true
      ∧ (t.readDecode 0x200040).robject 2 0x48 = some { base := 0, size := 0x10000, ncon := 4 }) :=
  ⟨⟨rotab_of (w := .page 0x30008 0x40002F true) rfl (by decide +kernel) (by decide +kernel), by decide +kernel, readies_of (by decide +kernel), by decide +kernel⟩,
    ⟨by decide +kernel, by decide +kernel, by decide +kernel⟩, ⟨by decide +kernel, by decide +kernel, by decide +kernel⟩, ⟨by decide +kernel, by decide +kernel, by decide +kernel, by decide +kernel, by decide +kernel, by decide +kernel⟩,
    declared_of (by decide +kernel), declared_of (by decide +kernel)⟩

/-- One recall, two invalidations, a snoop, a dirty word and a full fault entry. -/
def wMsg : State :=
  { on (fun c => { c with l1 := [(0x80012, ⟨.dirty 15 true, 5⟩)], faults := [⟨.S, 0x48, none, false⟩] }) with
    coh := { w0.coh with
      recalls := [⟨0, 0x200040, 0x0004, 50⟩], snoops := [⟨hostBase, true, 51, false⟩],
      invals := [⟨0x200040, 1, false, none, false, some 50⟩, ⟨0x200080, 1, true, none, false, some 52⟩,
                 ⟨0x2000C0, 1, true, none, false, some 53⟩, ⟨0x2000C0, 2, false, none, false, some 53⟩],
      reqs := [{ req0 .store .wi with id := 52, stage := .acks, addr := 0x200080 }] } }
theorem witness_CoherenceMessages :
    wMsg.coh.recalls[0]? = some ⟨0, 0x200040, 0x0004, 50⟩
    ∧ wMsg.coh.invals[0]? = some ⟨0x200040, 1, false, none, false, some 50⟩
    ∧ (wMsg.coh.invals[1]? = some ⟨0x200080, 1, true, none, false, some 52⟩
      ∧ { wMsg with coh := { wMsg.coh with invals := wMsg.coh.invals.eraseIdx 1 } }.awaiting 52 = false
      ∧ (wMsg.req? 52).map (·.stage) = some .acks)
    ∧ (wMsg.coh.invals[2]? = some ⟨0x2000C0, 1, true, none, false, some 53⟩
      ∧ { wMsg with coh := { wMsg.coh with invals := wMsg.coh.invals.eraseIdx 2 } }.awaiting 53 = true)
    ∧ (wMsg.coreAt 0).dirtyWords (inLine 0x200040) ≠ []
    ∧ (wMsg.core.faults[0]? = some ⟨.S, 0x48, none, false⟩ ∧ wMsg.faultCleared ⟨.S, 0x48, none, false⟩ = true)
    ∧ (let s := { on (fun c => { c with faults := [⟨.S, 0x40, some 50, false⟩, ⟨.S, 0x48, some 51, false⟩] }) with
         coh := { w0.coh with reqs := [reqSeq 0] } }
       s.core.faults[1]? = some ⟨.S, 0x48, some 51, false⟩ ∧ (∃ g ∈ s.core.faults.take 1, g.req ≠ none ∧ g.wb = false))
    ∧ (let s := { on (fun c => { c with faults := [⟨.S, 0x48, some 50, false⟩] }) with coh := { w0.coh with reqs := [reqSeq 0] } }
       s.core.faults[0]? = some ⟨.S, 0x48, some 50, false⟩ ∧ s.req? 50 = some (reqSeq 0) ∧ s.faultCleared ⟨.S, 0x48, some 50, false⟩ = true)
    ∧ (wMsg.coh.snoops.find? (fun x => x.line == hostBase) = some ⟨hostBase, true, 51, false⟩ ∧ ([] : List Byte).length ≠ 64) :=
  ⟨by decide +kernel, by decide +kernel, ⟨by decide +kernel, by decide +kernel, by decide +kernel⟩, ⟨by decide +kernel, by decide +kernel⟩, by decide +kernel, ⟨by decide +kernel, by decide +kernel⟩, by decide +kernel, by decide +kernel, by decide +kernel⟩

/-- A RECV from package 9 with tag 4, in the journal. -/
def recvEntry : JEntry :=
  let desc : List Byte := List.replicate 12 0 ++ [9, 0, 0, 0, 4, 0, 0, 0] ++ List.replicate 12 0
  { id := 41, pc := 7, cmd := ⟨.recv, 63, .wt, .sys, false⟩, desc, base := 0, count := 0, tmr := none, row := 0, cancelled := false, fault := none }
/-- Port 2 up with package 9, whose message of tag 4 a RECV of the core awaits. -/
def wFab : State := { on (fun c => { c with journal := [recvEntry] }) with fab := { w0.fab with ports := [(2, 9)] } }
theorem witness_HostsAndFabric :
    (w0.ready = true ∧ w0.absent 0x200040 = false ∧ w0.hostMayGo 0x200040 = true ∧ w0.allows 64 0x200040 false = true
      ∧ w0.allows 64 0x200040 true = true ∧ (w0.readDecode 0x200040).poisoned 0x200040 = false)
    ∧ (w0.idle (hostBase + 64) = true ∧ w0.idle 0x200040 = true ∧ (List.replicate 64 (1 : Byte)).length = 64)
    ∧ ((w0.dirOf 0x200040).host = 0 ∧ w0.translate 2 (82 + SMap.get 0 w0.fab.domains 9 % 16) 0x48 true = .addr 0x200048
      ∧ w0.translate 2 (82 + SMap.get 0 w0.fab.domains 9 % 16) 0x48 false = .addr 0x200048 ∧ ((w0.walked 2 0x48 0).readDecode 0x200040).poisoned 0x200040 = false
      ∧ (w0.dirOf 0x200040).busy = none)
    ∧ (SMap.find? wFab.fab.ports 2 = some 9 ∧ wFab.ready = true ∧ wFab.portTakes 2 9 4 = true
      ∧ (decodeBlock [2, 1, 0, 0, 0, 0, 0, 0, 0]).isSome ∧ decodeBlock [7] = none)
    ∧ (w0.power.recov = false ∧ 6 ≤ w0.power.stage ∧ linkChannel 1 545 = true) := by
  refine ⟨⟨by decide +kernel, by decide +kernel, by decide +kernel, by decide +kernel, by decide +kernel, by decide +kernel⟩, ⟨by decide +kernel, by decide +kernel, by decide +kernel⟩,
    ⟨by decide +kernel, by decide +kernel, by decide +kernel, by decide +kernel, by decide +kernel⟩, ⟨by decide +kernel, by decide +kernel, by decide +kernel, by decide +kernel, by decide +kernel⟩, by decide +kernel, by decide +kernel, by decide +kernel⟩

/-! ### The sluice -/

/-- A code object of one END word per stream: how many zeros stand before each byte that is not zero, and that byte. -/
def object0 : List (Nat × Byte) :=
  [(0, 83), (0, 79), (0, 70), (1, 1), (1, 12), (9, 128), (0, 2), (46, 1), (4, 1), (2, 8), (3, 1), (3, 2), (3, 64),
   (0, 1), (2, 8), (3, 1), (3, 3), (3, 128), (0, 1), (2, 8), (3, 1), (3, 4), (3, 192), (0, 1), (2, 8), (3, 1), (3, 5),
   (15, 6), (4, 2), (2, 48), (3, 6), (3, 7), (15, 8), (15, 9), (15, 10), (3, 64), (0, 2), (2, 8), (3, 1), (3, 11),
   (15, 12), (20, 1), (63, 1), (63, 1), (63, 1), (122, 51), (0, 51), (0, 16), (0, 132)]
def unpack : List (Nat × Byte) → List Byte
  | [] => []
  | (k, b) :: r => List.replicate k 0 ++ b :: unpack r
def cellsFrom (a : Nat) : List (Nat × Byte) → List Host.Cell
  | [] => []
  | (k, b) :: r => (a + k, b) :: cellsFrom (a + k + 1) r
/-- The object's 640 bytes. -/
def fileBytes : List Byte := unpack object0 ++ List.replicate 60 0
def fileLine (i : Nat) : List Byte := (fileBytes.drop (64 * i)).take 64
/-- A task whose object stands at 0x4000. -/
def task1 (st : TaskState) (cores : List Nat) : Task :=
  { task0 with record := [0, 0x40] ++ List.replicate 126 0, st, cores }
/-- The object at 0x4000, in a page of host memory; task 7 enqueued and task 8 launching on core 0. -/
def wT : State :=
  { w0 with
    fabric := 100, tasks := [(7, task1 .enqueued []), (8, task1 .launching [0])], cores := [(0, { core0 with task := some 8 })],
    mem := [(0x10000, 1), (0x10002, 2), (0x20000, 1), (0x20002, 3), (0x30000, 0x2F), (0x30002, 0x20)]
      ++ cellsFrom (hostBase + 0x204000) object0,
    side := [(0x10000, 5207950), (0x20000, 8945698), (0x30000, 13052193)] }
theorem wT_walk : wT.walk 2 0x4000 = .page 0x30000 0x20002F true := by decide +kernel
/-- The task that the selection finds. -/
def tE : Task := task1 .enqueued []
theorem posted_none {s : State} (h : s.coh.posted = []) (a : Nat) (bs : List Byte) : s.withPosted a bs = bs := by
  simp [State.withPosted, h]
theorem readChecked_of {s : State} {a : Nat} {x : List Byte} (hp : s.lineState (lineOf a) = .clean) (hq : s.coh.posted = [])
    (hx : s.readNow a 64 = x) : s.readChecked a 64 = some x := by
  rw [State.readChecked, hp]
  simp only [posted_none hq, hx]
theorem launchLine_of {s : State} {t : Task} {ia p e a : Nat} {x : List Byte} (hw : s.walk t.ctx ia = .page p e true)
    (hb : bits e 7 1 = 0 ∧ bits e 6 1 = 0) (ha : s.translateBy (.page p e true) t.ctx ia false = .addr a) (hk : s.keyed t.ctx ia a = a)
    (hr : s.readable (lineOf a) = true) (hx : s.readChecked a 64 = some x) :
    s.launchLine t ia 64 = .ok x := by
  have h1 : ¬ (bits e 7 1 = 1 ∨ (bits e 3 2 = 1 ∧ bits e 6 1 = 1 ∧ (!t.isRemote t.ctx ia) = true)) := by omega
  rw [State.launchLine, hw]
  simp only [if_neg h1, ha, hk, hr, hx]
  rfl
/-- One line of the object as the launch path reads it. -/
theorem line_of {ia : Nat} {x : List Byte} (h : ia / 65536 = 0x4000 / 65536)
    (hk : wT.keyed 2 ia (hostBase + 0x200000 + ia) = hostBase + 0x200000 + ia)
    (hr : wT.readable (lineOf (hostBase + 0x200000 + ia)) = true)
    (ha : wT.translateBy (.page 0x30000 0x20002F true) 2 ia false = .addr (hostBase + 0x200000 + ia))
    (hp : wT.lineState (lineOf (hostBase + 0x200000 + ia)) = .clean) (hx : wT.readNow (hostBase + 0x200000 + ia) 64 = x) :
    wT.launchLine tE ia 64 = .ok x :=
  launchLine_of ((walk_page wT 2 h).trans wT_walk) (by decide +kernel) ha hk hr (readChecked_of hp rfl hx)
theorem line0 : wT.launchLine tE 0x4000 64 = .ok (fileLine 0) :=
  line_of (by decide +kernel) (by decide +kernel) (by decide +kernel) (by decide +kernel) (by decide +kernel) (by decide +kernel)
theorem line1 : wT.launchLine tE 0x4040 64 = .ok (fileLine 1) :=
  line_of (by decide +kernel) (by decide +kernel) (by decide +kernel) (by decide +kernel) (by decide +kernel) (by decide +kernel)
theorem line2 : wT.launchLine tE 0x4080 64 = .ok (fileLine 2) :=
  line_of (by decide +kernel) (by decide +kernel) (by decide +kernel) (by decide +kernel) (by decide +kernel) (by decide +kernel)
theorem line3 : wT.launchLine tE 0x40C0 64 = .ok (fileLine 3) :=
  line_of (by decide +kernel) (by decide +kernel) (by decide +kernel) (by decide +kernel) (by decide +kernel) (by decide +kernel)
theorem line4 : wT.launchLine tE 0x4100 64 = .ok (fileLine 4) :=
  line_of (by decide +kernel) (by decide +kernel) (by decide +kernel) (by decide +kernel) (by decide +kernel) (by decide +kernel)
theorem line5 : wT.launchLine tE 0x4140 64 = .ok (fileLine 5) :=
  line_of (by decide +kernel) (by decide +kernel) (by decide +kernel) (by decide +kernel) (by decide +kernel) (by decide +kernel)
theorem line6 : wT.launchLine tE 0x4180 64 = .ok (fileLine 6) :=
  line_of (by decide +kernel) (by decide +kernel) (by decide +kernel) (by decide +kernel) (by decide +kernel) (by decide +kernel)
theorem line7 : wT.launchLine tE 0x41C0 64 = .ok (fileLine 7) :=
  line_of (by decide +kernel) (by decide +kernel) (by decide +kernel) (by decide +kernel) (by decide +kernel) (by decide +kernel)
theorem line8 : wT.launchLine tE 0x4200 64 = .ok (fileLine 8) :=
  line_of (by decide +kernel) (by decide +kernel) (by decide +kernel) (by decide +kernel) (by decide +kernel) (by decide +kernel)
theorem line9 : wT.launchLine tE 0x4240 64 = .ok (fileLine 9) :=
  line_of (by decide +kernel) (by decide +kernel) (by decide +kernel) (by decide +kernel) (by decide +kernel) (by decide +kernel)
theorem launch_step {s : State} {t : Task} {ia n fuel m : Nat} {x r : List Byte} (hn : n ≠ 0) (hm : min n (lineOf ia + 64 - ia) = m)
    (h1 : s.launchLine t ia m = .ok x) (h2 : s.launchBytes t (ia + m) (n - m) fuel = .ok r) :
    s.launchBytes t ia n (fuel + 1) = .ok (x ++ r) := by
  simp only [State.launchBytes, if_neg hn, hm, h1, h2, Except.map]
theorem launch_end {s : State} {t : Task} {ia fuel : Nat} : s.launchBytes t ia 0 fuel = .ok [] := by
  cases fuel <;> simp [State.launchBytes]
theorem header : wT.launchGet tE 0x4000 256 = .ok (fileLine 0 ++ (fileLine 1 ++ (fileLine 2 ++ (fileLine 3 ++ [])))) :=
  launch_step (by decide +kernel) (by decide +kernel) line0 (launch_step (by decide +kernel) (by decide +kernel) line1
    (launch_step (by decide +kernel) (by decide +kernel) line2 (launch_step (by decide +kernel) (by decide +kernel) line3 launch_end)))
theorem header_length : recordField (fileLine 0 ++ (fileLine 1 ++ (fileLine 2 ++ (fileLine 3 ++ [])))) 16 8 = 640 := by decide +kernel
theorem whole : wT.launchGet tE 0x4000 640 = .ok (fileLine 0 ++ (fileLine 1 ++ (fileLine 2 ++ (fileLine 3 ++ (fileLine 4 ++ (fileLine 5
    ++ (fileLine 6 ++ (fileLine 7 ++ (fileLine 8 ++ (fileLine 9 ++ [])))))))))) :=
  launch_step (by decide +kernel) (by decide +kernel) line0 (launch_step (by decide +kernel) (by decide +kernel) line1
    (launch_step (by decide +kernel) (by decide +kernel) line2 (launch_step (by decide +kernel) (by decide +kernel) line3
    (launch_step (by decide +kernel) (by decide +kernel) line4 (launch_step (by decide +kernel) (by decide +kernel) line5
    (launch_step (by decide +kernel) (by decide +kernel) line6 (launch_step (by decide +kernel) (by decide +kernel) line7
    (launch_step (by decide +kernel) (by decide +kernel) line8 (launch_step (by decide +kernel) (by decide +kernel) line9 launch_end)))))))))
theorem whole_bytes : fileLine 0 ++ (fileLine 1 ++ (fileLine 2 ++ (fileLine 3 ++ (fileLine 4 ++ (fileLine 5
    ++ (fileLine 6 ++ (fileLine 7 ++ (fileLine 8 ++ (fileLine 9 ++ []))))))))) = fileBytes := by decide +kernel
/-- The object that these bytes are, as far as a selection asks. -/
def plainObject (o : Sof) : Bool := o.loops.isEmpty && o.leases.isEmpty && o.image.isEmpty
theorem parsed : ((Sof.parse fileBytes).map plainObject) = some true := by decide +kernel
theorem record_code : Rec.u (task1 .enqueued []).record 0 8 = 0x4000 ∧ Rec.u (task1 .enqueued []).record 8 8 = 0
    ∧ Rec.u (task1 .enqueued []).record 0x10 8 = 0 ∧ Rec.u (task1 .enqueued []).record 0x18 8 = 0 := by decide +kernel
/-- What a selection asks of a placement, one with no lease. -/
def fits (s : State) (id : Nat) (t : Task) (p : Placement) : Bool :=
  p.leases.isEmpty && (s.warmCore t p).isNone && (gangDies t.homeDie (dieCountOf p.loops)).all (fun d =>
    decide (shareOf p.loops + s.contended s.ranks id d ≤ (s.available s.ranks id d).length))
theorem room : (gangDies (task1 .enqueued []).homeDie (dieCountOf [])).all (fun d =>
    decide (shareOf [] + wT.contended wT.ranks 7 d ≤ (wT.available wT.ranks 7 d).length)) = true := by decide +kernel
theorem placement_of {s : State} {t : Task} {c n : Nat} {hd file : List Byte} {o : Sof} (h0 : Rec.u t.record 0 8 = c)
    (h1 : s.launchGet t c 256 = .ok hd) (h2 : recordField hd 16 8 = n) (h3 : s.launchGet t c n = .ok file)
    (h4 : Sof.parse file = some o) (h5 : s.loopsFor t o = .ok []) (h6 : s.leasesFor t o = .ok [])
    (h7 : Rec.u t.record 8 8 = 0) (h8 : o.image = []) :
    s.placement t = .ok { file, sof := o, loops := [], leases := [], part := o.part } := by
  simp only [State.placement, h0, h1, h2, h3, h4, h5, h6, h7, h8]
  simp [shareOf, gangOf, dieCountOf, State.layerBusy]
theorem fits_of {s : State} {id : Nat} {t : Task} {p : Placement} (h1 : p.leases = []) (h2 : t.issuer = none) (h3 : p.loops = [])
    (h4 : (gangDies t.homeDie (dieCountOf [])).all (fun d =>
      decide (shareOf [] + s.contended s.ranks id d ≤ (s.available s.ranks id d).length)) = true) : fits s id t p = true := by
  simp only [fits, State.warmCore, h1, h2, h3, h4, List.isEmpty_nil, Option.isNone_none, Bool.true_and]
theorem placed : ∃ p, wT.placement (task1 .enqueued []) = .ok p ∧ fits wT 7 (task1 .enqueued []) p = true := by
  obtain ⟨o, ho, hp⟩ := Option.map_eq_some_iff.mp parsed
  simp only [plainObject, Bool.and_eq_true, List.isEmpty_iff] at hp
  obtain ⟨⟨h1, h2⟩, h3⟩ := hp
  obtain ⟨r1, r2, r3, r4⟩ := record_code
  have hw := whole
  rw [whole_bytes] at hw
  have hl : wT.loopsFor (task1 .enqueued []) o = .ok [] := by simp only [State.loopsFor, r3, h1, if_true]
  have hs : wT.leasesFor (task1 .enqueued []) o = .ok [] := by simp only [State.leasesFor, r4, h2, if_true]
  exact ⟨_, placement_of r1 header header_length hw ho hl hs r2 h3, fits_of rfl rfl rfl room⟩
theorem launchLine_congr (s : State) {t u : Task} (h2 : t.ctx = u.ctx) (h3 : t.remote = u.remote) (ia n : Nat) :
    s.launchLine t ia n = s.launchLine u ia n := by
  unfold State.launchLine Task.isRemote
  rw [h2, h3]
theorem launchBytes_congr (s : State) {t u : Task} (h2 : t.ctx = u.ctx) (h3 : t.remote = u.remote) (k : Nat) :
    ∀ ia n, s.launchBytes t ia n k = s.launchBytes u ia n k := by
  induction k with
  | zero => intro ia n; rfl
  | succ k ih => intro ia n; simp only [State.launchBytes, launchLine_congr s h2 h3, ih]
theorem placement_congr (s : State) {t u : Task} (h1 : t.record = u.record) (h2 : t.ctx = u.ctx) (h3 : t.remote = u.remote) :
    s.placement t = s.placement u := by
  simp only [State.placement, State.loopsFor, State.leasesFor, State.launchGet, launchBytes_congr s h2 h3, h1, h2]
theorem logError_power (s : State) (d : Nat) (r : ErrorRecord) : (s.logError d r).power = s.power := by
  simp only [State.logError]
  split
  · exact State.setDie_power ..
  · rfl
theorem recode_power (s : State) (l : Nat) (g : BitVec 4) (b : Bool) : (s.recode l g b).power = s.power := by
  unfold State.recode
  split <;> rfl
theorem correctLine_power (s : State) (l i : Nat) (v : Byte) : (s.correctLine l i v).power = s.power := by
  simp only [State.correctLine, recode_power]
  split <;> rfl
theorem readDecode_power (s : State) (l : Nat) : (s.readDecode l).power = s.power := by
  simp only [State.readDecode]
  repeat' split
  all_goals simp only [logError_power, recode_power]
  exact correctLine_power ..
theorem noteWrite_power (s : State) (ks : List Nat) : (s.noteWrite ks).power = s.power := by
  simp only [State.noteWrite]
  induction ks generalizing s with
  | nil => rfl
  | cons k ks ih => rw [List.foldl_cons, ih]; rfl
theorem putWords_power (s : State) (l : Nat) (ws : List (Nat × Word32 × BitVec 4)) (g : BitVec 4) : (s.putWords l ws g).power = s.power := by
  simp only [State.putWords]
  split
  · rfl
  · simp only [recode_power, noteWrite_power]
    split
    · rfl
    · exact readDecode_power ..
theorem walked_power (s : State) (c i a : Nat) : (s.walked c i a).power = s.power := by
  simp only [State.walked]
  repeat' split
  all_goals simp [putWords_power, logError_power]
theorem walkAll_island (s : State) (ws : List (Nat × Nat)) (n : Nat) : (s.walkAll ws).island n = s.island n := by
  have h : (s.walkAll ws).power = s.power := by
    simp only [State.walkAll]
    induction ws generalizing s with
    | nil => rfl
    | cons w ws ih => rw [List.foldl_cons, ih, walked_power]
  simp only [State.island, h]
theorem ranges_of_empty (s : State) (t : Task) (p : Placement) (h : p.leases = []) :
    s.rangesFor t p = .ok (Vector.replicate 16 {}) := by simp [State.rangesFor, h]
/-- Why a launch of a task whose object stands at an address stops. -/
def stopsAt (a : List Byte) : Option LaunchStop :=
  match w0.placement { task1 .launching [0] with record := List.replicate (7 - a.length) 0 ++ a ++ List.replicate 121 0 } with
  | .error e => some e | .ok _ => none
theorem witness_SluiceBindsAndRetires_stops :
    stopsAt [] = some (.refuse none) ∧ stopsAt [1] = some (.pages [(2, 2 ^ 48)]) := by decide +kernel
theorem witness_SluiceBindsAndRetires :
    (wT.dropOldHolders = wT ∧ wT.hotReady (task1 .enqueued []) = true ∧ wT.inOrder wT.ranks 0 = [7] ∧ (task1 .enqueued []).waits = false ∧ (wT.die 0).lastSelect + 8 ≤ wT.fabric ∧ SMap.find? wT.tasks 7 = some (task1 .enqueued [])
      ∧ (∃ p, wT.placement (task1 .enqueued []) = .ok p ∧ fits wT 7 (task1 .enqueued []) p = true))
    ∧ ((∃ p r, wT.placement (task1 .launching [0]) = .ok p ∧ wT.rangesFor (task1 .launching [0]) p = .ok r)
      ∧ SMap.find? wT.tasks 8 = some (task1 .launching [0])
      ∧ ∀ ws, ∀ n ∈ (task1 .launching [0]).cores, ((wT.walkAll ws).island (coreIsland n)).asleep = false)
    ∧ (let e : Eng := { ended := true }
       let s := on (fun c => { c with engS := e, engV := e, engM := e, engC := e })
       (∀ n ∈ task0.cores, (s.coreAt n).allDone = true) ∧ (∀ n ∈ task0.cores, s.coreSettled n = true))
    ∧ (∃ n ∈ task0.cores, wMsg.coreSettled n = false) := by
  refine ⟨⟨rfl, by decide +kernel, by decide +kernel, by decide +kernel, by decide +kernel, rfl, placed⟩, ⟨?_, rfl, fun ws n hn => by rw [walkAll_island]; revert n; decide⟩,
    ⟨by decide +kernel, by decide +kernel⟩, by decide +kernel⟩
  obtain ⟨p, hp, hf⟩ := placed
  simp only [fits, Bool.and_eq_true, List.isEmpty_iff] at hf
  have h : wT.placement (task1 .launching [0]) = wT.placement (task1 .enqueued []) := placement_congr wT rfl rfl rfl
  rw [h, hp]
  exact ⟨p, _, rfl, ranges_of_empty _ _ p hf.1.1⟩

/-- A host-fed queue 6 of context 2, its ring of zero records at 0x300000. -/
def wRing : State := { w0 with queues := [(5, { ctx := 2, en := true }), (6, { ctx := 2, en := true, ring := 0x300000, rlog := 4, prod := 1 })] }
/-- The same with a packet of a kind as its first record, for scope 7 where it names one. -/
def wPacket (kind scope : Byte) (check : BitVec 32) (x : FScope) : State :=
  { wRing with
    mem := wRing.mem ++ (if scope = 0 then [] else [(0x300034, scope)]) ++ [(0x300036, kind)],
    side := wRing.side ++ [(0x300000, check)], ctxs := (wS x).ctxs }
/-- The first record of the queue, as far as its kind and the reason that refuses it. -/
def firstSlot (s : State) (kind : Nat) (reason : Option Nat) : Bool :=
  match s.ringSlot 6 with
  | (some r, t) => let t := t.setQueue 6 { s.queueOf 6 with cons := 1 }
                   Rec.kind r == kind && t.refusal? 6 r none == reason
  | (none, _) => false
theorem witness_QueueEvents :
    (let s := { wRing with mgmt := { wRing.mgmt with owner := 1 }, rcv := { wRing.rcv with image := { wRing.rcv.image with
                  functions := 8, queueFn := [(6, 3)] } } }
     s.mayManage (Master.ofNum 0) 0 = true ∧ s.mgmt.owner = Master.code (Master.ofNum 0) ∧ Master.ofNum 7 = .function 3
      ∧ s.assigned 3 6 true = true ∧ s.assigned 3 5 true = false ∧ Master.ofNum 0 ≠ .mgmt ∧ wRing.mgmt.owner ≠ Master.code (Master.ofNum 0))
    ∧ (wRing.ready = true ∧ (wRing.queueOf 6).devq = false ∧ (wRing.queueOf 6).en = true ∧ (wRing.queueOf 6).prod ≠ (wRing.queueOf 6).cons
      ∧ (wRing.queueOf 6).cons = 0)
    ∧ ((slotLines ((wRing.queueOf 6).slotAt 0)).all wRing.readable = true ∧ wRing.slotAbsent ((wRing.queueOf 6).slotAt 0) = false
      ∧ (slotLines 0x300000).all (State.readable { wRing with coh := { wRing.coh with dirs := [(0x300040, { busy := some 1 })] } }) = false)
    ∧ firstSlot wRing 0 none = true ∧ firstSlot (wPacket 0x20 7 249951 {}) 1 none = true
    ∧ firstSlot (wPacket 0x40 7 16581597 { st := .opened }) 2 none = true ∧ firstSlot (wPacket 0x60 0 16700290 {}) 3 none = true
    ∧ firstSlot (wPacket 0x80 0 12505829 {}) 4 none = true ∧ firstSlot (wPacket 0x20 7 249951 { st := .opened }) 1 (some 1) = true :=
  ⟨⟨by decide +kernel, by decide +kernel, by decide +kernel, by decide +kernel, by decide +kernel, by decide +kernel, by decide +kernel⟩, ⟨by decide +kernel, by decide +kernel, by decide +kernel, by decide +kernel, by decide +kernel⟩,
    ⟨by decide +kernel, by decide +kernel, by decide +kernel⟩, by decide +kernel, by decide +kernel, by decide +kernel, by decide +kernel, by decide +kernel, by decide +kernel⟩

/-- Task 9, saved, of a high priority: die 0 holds its one core's place for it, and task 7 runs there. -/
def task9 : Task :=
  { task0 with queue := 6, st := .preempted, cores := [], record := List.replicate 0x35 0 ++ [7] ++ List.replicate 74 0 }
def wRound : State :=
  { w0 with
    fabric := 10000, tasks := [(7, task0), (9, task9)], die0 := { w0.die0 with holder := some 9 },
    ctxs := [(2, { valid := true, ptroot := 0x10000, saveslots := 4 })],
    queues := [(5, { ctx := 2, en := true, priv := true }), (6, { ctx := 2, en := true, qprio := 7, preemptWait := 8 })] }
/-- A core asked for by a pre-emption, its engines ended or not. -/
def wVictim (ended started : Bool) (fabric : Nat) : State :=
  let e : Eng := { ended }
  let s := on (fun c => { c with engS := e, engV := e, engM := e, engC := e, preempt := some 0, started })
  { s with fabric }
/-- A deadline task whose budget is spent, its core's S held by a unit, or blocked on an empty queue. -/
def wBudget : State :=
  { w0 with tasks := [(7, { task0 with record := List.replicate 0x36 0 ++ [2] ++ List.replicate 73 0, budget := 5, resumeAt := 0 })],
            fabric := 4000000 }
def wBlocked (since : Option Nat) : State :=
  let s := on (fun c =>
    let word : Word64 := encode (.tok .S { h0 with wait := .pop 3 0 } true 3 1)
    { c with engS := { c.engS with ring := { len := 1, slots := [(0, word)] } }, engV := { c.engV with ended := true },
             engM := { c.engM with ended := true }, engC := { c.engC with ended := true }, obj := { queues := [3] }, blockedSince := since })
  { s with fabric := 4000000 }
theorem witness_PreemptionAndBudgets :
    (wRound.die0.holder = some 9 ∧ (wRound.queueOf 6).preemptWait = 8 ∧ wRound.die0.since + 8 < wRound.fabric ∧ wRound.die0.victims = []
      ∧ wRound.gangShape task9 = some ([0], 1) ∧ (wRound.victimOrder wRound.ranks (SMap.get 0 wRound.ranks 9) [0]).map (·.1) = [7]
      ∧ (wRound.ctxOf 2).slotsused + task0.gangSize ≤ (wRound.ctxOf 2).saveslots ∧ wRound.die0.reserved.length < 1
      ∧ 1 ≤ wRound.die0.reserved.length + task0.coresOn 0)
    ∧ ((wVictim true true 0).victimCore 0 = true ∧ ((wVictim true true 0).coreAt 0).collInFlight = false
      ∧ ((wVictim true true 0).coreAt 0).trap.mode = false ∧ ((wVictim true true 0).coreAt 0).quiesced = true)
    ∧ ((wVictim false true 4000000).victimCore 0 = true ∧ 0 + 2 ^ 20 ≤ (wVictim false true 4000000).cycleOf 0
      ∧ ((wVictim false true 4000000).coreAt 0).quiesced = false
      ∧ ((wVictim false false 4000000).coreAt 0).quiesced = false ∧ ((wVictim false false 4000000).coreAt 0).unit = none ∧ ((wVictim false false 4000000).coreAt 0).flights = [])
    ∧ (let b := { on (fun c => { c with started := false }) with saves := [⟨2, 0, 7, 0, core0, [], false⟩] }
       (b.coreAt 0).started = false ∧ b.saves.any (fun x => x.task == 7 && x.place == (b.coreAt 0).gangPos) = true
        ∧ task0.cores.filter (· != 0) = [])
    ∧ ((wBudget.tasks.map (fun e => (e.2.deadlineClass, wBudget.budgetLeft e.2))) = [(true, 0)])
    ∧ (let c := (wVictim false true 4000000).core
       0 + 2 ^ 20 ≤ (wVictim false true 4000000).cycleOf 0 ∧ c.started = true ∧ c.trap.mode = false ∧ c.engS.ended = false ∧ c.unit = none
        ∧ c.phase = none ∧ c.engS.pause = none)
    ∧ (((on (fun c => { c with unit := some ⟨60, .fswait h0 3 1, 3, 7, 0, some 5, none⟩ })).core.unit).bind (·.answer) = some 5)
    ∧ (let c := (wBlocked (some 0)).core
       c.started = true ∧ c.trap.mode = false ∧ c.phase = none ∧ c.preempt = none ∧ c.journal = [] ∧ c.flights = []
        ∧ (∀ e, (c.eng e).ended = true ∨ (c.blockOf e).isSome = true) ∧ Engine.all.find? (fun e => (c.blockOf e).isSome) = some .S
        ∧ 0 + 256 ≤ (wBlocked (some 0)).cycleOf 0) := by
  refine ⟨⟨by decide +kernel, by decide +kernel, by decide +kernel, by decide +kernel, by decide +kernel, by decide +kernel, by decide +kernel, by decide +kernel, by decide +kernel⟩,
    ⟨by decide +kernel, by decide +kernel, by decide +kernel, by decide +kernel⟩, ⟨by decide +kernel, by decide +kernel, by decide +kernel, by decide +kernel, by decide +kernel, by decide +kernel⟩, by decide +kernel, by decide +kernel,
    by decide +kernel, by decide +kernel, by decide +kernel, by decide +kernel, by decide +kernel, by decide +kernel, by decide +kernel, by decide +kernel, ?_, by decide +kernel, by decide +kernel⟩
  intro e
  cases e <;> decide

/-- A die with a question for its governor, and a core that waits for the answer. -/
def wAsk : State :=
  let s := wTmr.modCore (fun c => { c with unit := some ⟨60, .goveval h0 false 3 1, 3, 1, 0, none, none⟩ })
  { s with die0 := { s.die0 with asks := [(2, 1, 0)] } }
/-- TMR 1 pending: bit 21 of its first word. -/
def wPend : State :=
  { wTmr with mem := wTmr.mem ++ [(0x202102, 0x20)], side := wTmr.side ++ [(0x202100, 12946212)] }
/-- TMR 1 held by its BSP: bits 18 and 19. -/
def wHeld : State :=
  { wTmr with mem := wTmr.mem ++ [(0x202102, 0x0C)], side := wTmr.side ++ [(0x202100, 5050499)] }
/-- A residency region of two pages on the die that serves context 2, and layer 1 asked for or in a state. -/
def wRes (x : Layer) : State :=
  let s := wLayer x
  { s with mgmt := { s.mgmt with resbase := List.replicate 4 0x1000000, ressize := List.replicate 4 0x20000 } }
theorem witness_GovernorWords_held :
    ∃ t, (Begun wHeld h0).tmrLoad 2 1 = .ok t ∧ Tmr.held (Tmr.setSwhold t false) = 3 := ⟨0xC0000, ok_of (by decide +kernel), by decide +kernel⟩
theorem witness_ManagersAct :
    ((wAsk.die 0).asks = [(2, 1, 0)] ∧ firstAsk (wAsk.die 0).asks = some (2, 1, 0) ∧ wAsk.mayEvaluate 2 1 = true
      ∧ ((((((wAsk.setDie 0 { wAsk.die 0 with asks := [] }).modTmr 2 1 (fun t => Tmr.setPend t false)).evaluate 2 1).1.coreAt 0).unit).map
          (·.arg2)) = some 0)
    ∧ ((wPend.die 0).asks = [] ∧ wPend.pendingTmr 0 = some (2, 1) ∧ wPend.mayEvaluate 2 1 = true)
    ∧ (let s : State := { wPend with coh := { wPend.coh with dirs := [(0x202100, { busy := some 1 })] } }
       s.pendingTmr 0 = some (2, 1) ∧ s.mayEvaluate 2 1 = false)
    ∧ (let e : Eng := { ended := true }
       let s := on (fun c => { c with stats := [{ tmr := 1 }], engS := e, engV := e, engM := e, engC := e })
       (s.coreAt 0).allDone = true ∧ (s.coreAt 0).stats[0]? = some { tmr := 1 } ∧ (s.coreAt 0).stats.find? (fun y => y.tmr == 1) = some { tmr := 1 }
        ∧ (s.coreAt 0).task = some 7)
    ∧ (let s := ((wRes { req := true }).wanted 2).foldl (fun s x => s.layerTouch x.1 x.2.1) (wRes { req := true })
       ((wRes { req := true }).wanted 2).all (fun x => (wRes { req := true }).layerReady x.1 x.2.1) = true
        ∧ ((s.dieLayers 2).filter (fun x => x.2.2.st == .arriving)).length < 16 ∧ (s.requested 2).map (fun x => (x.1, x.2.1, x.2.2.size)) = [(2, 1, 1)]
        ∧ pageSize * 1 ≤ s.resSize 2 ∧ (s.requested 2).all (fun x => decide (1 + s.tablesLacked 2 x.2.2.ibase 1 ≤ (s.freePages 2).length)) = true)
    ∧ (let s := ((wLayer { req := true }).wanted 2).foldl (fun s x => s.layerTouch x.1 x.2.1) (wLayer { req := true })
       (s.requested 2).map (fun x => (x.1, x.2.1, x.2.2.size)) = [(2, 1, 1)] ∧ s.resSize 2 < pageSize * 1)
    ∧ (let s := wRes { st := .arriving, pages := [0x1000000] }
       (s.layer 2 1).st = .arriving ∧ (s.layer 2 1).met ≠ some s.fabric ∧ s.sourceFails 2 (s.layer 2 1) = none
      ∧ ({ s with side := s.side ++ [(hostBase, 1)] } : State).sourceFails 2 (s.layer 2 1) = some 1)
    ∧ (let s := wRes { st := .evicting, pages := [0x1000000] }
       (s.layer 2 1).st = .evicting ∧ (s.layer 2 1).chosen ≠ some s.fabric ∧ s.coh.reqs = []) :=
  ⟨⟨by decide +kernel, by decide +kernel, by decide +kernel, by decide +kernel⟩, ⟨by decide +kernel, by decide +kernel, by decide +kernel⟩,
    ⟨by decide +kernel, by decide +kernel⟩, ⟨by decide +kernel, by decide +kernel, by decide +kernel, by decide +kernel⟩,
    ⟨by decide +kernel, by decide +kernel, by decide +kernel, by decide +kernel, by decide +kernel⟩, ⟨by decide +kernel, by decide +kernel⟩, ⟨by decide +kernel, by decide +kernel, by decide +kernel, by decide +kernel⟩, by decide +kernel,
    by decide +kernel, by decide +kernel⟩

/-- The machine that the control host 1 owns, with its blocks' registers as given. -/
def wG (f : Mgmt → Mgmt) : State := { w0 with mgmt := f { w0.mgmt with owner := 1 } }
theorem witness_ManagementWrites :
    (∀ b, b < 8 → (wG id).mayManage .host0 b = true) ∧ (wG id).mgmt.owner = Master.code .host0
    ∧ (((wG id).ctxOf 3).valid = false ∧ ((wG id).ctxOf 2).valid = true)
    ∧ (let s := { wG id with tasks := [(7, { task0 with st := .retired })] }
       ∀ e ∈ s.tasks, e.2.ctx = 2 → e.2.st = .retired)
    ∧ ((wG id).mgmt.sdBusy = false ∧ ((wG (fun g => { g with mgCtx := 9 })).pageLock 9 0).isNone = true)
    ∧ (let s := wG (fun g => { g with mgCtx := 2, mgPage := 0x10000 })
       (s.pageLock 2 0x10000).map (·.held) = some false)
    ∧ (let s : State := { wG (fun g => { g with mgCtx := 2, mgPage := 0x10000 }) with
          mem := [(0x10000, 1), (0x10002, 2), (0x20000, 1), (0x20002, 3), (0x30000, 0xA7), (0x30002, 0x20)],
          side := [(0x10000, 5207950), (0x20000, 8945698), (0x30000, 5985354)] }
       (s.pageLock 2 0x10000).map (·.held) = some true)
    ∧ (let s := wG (fun g => { g with sdBusy := true })
       s.mgmt.sdBusy = true ∧ ∀ r ∈ s.coh.reqs, r.id ∈ s.mgmt.sdWaits → s.held r = true)
    ∧ ((wG (fun g => { g with owner := 0 })).mgmt.owner = 0 ∧ (wG id).mgmt.claimAt ≠ some (wG id).fabric
      ∧ (wG (fun g => { g with offer := 1 })).mgmt.offer = Master.code .host0)
    ∧ (let s := { wG id with fabric := 10 ^ 9 }
       s.mgmt.owner ≠ 0 ∧ s.mgmt.hblimit < s.hbAge)
    ∧ ({ wG id with cores := [(0, { core0 with trap := { mode := true, hostHeld := true } })] } : State).tcHeld 0 = true
    ∧ (((wG id).die 1).logCons ≤ 0 ∧ 0 ≤ ((wG id).die 1).logWr)
    ∧ (let d : Die := { (wG id).die0 with channels := [(566, { queue := [[1]] })] }
       (d.channel 566).queue = [[1]] ∧ (d.channel 566).last ≠ some 0 ∧ ∀ e ∈ d.channels, e.1 < 566 → e.2.queue = [])
    ∧ ((wG (fun g => { g with owner := 2 })).mgmt.owner ≠ Master.code .host0 ∧ Master.host0 ≠ .mgmt ∧ ∀ k, Master.host0 ≠ .function k)
    ∧ (let s := { w0 with rcv := { w0.rcv with image := { w0.rcv.image with functions := 8, queueFn := [(5, 3)] } } }
       s.assigned 3 (0x174 / 64) true = true ∧ 0x174 % 64 = 0x34 ∧ s.assigned 3 0 true = false) := by
  refine ⟨by decide +kernel, by decide +kernel, ⟨by decide +kernel, by decide +kernel⟩, by decide +kernel, ⟨by decide +kernel, by decide +kernel⟩, by decide +kernel, by decide +kernel, ⟨by decide +kernel, by decide +kernel⟩,
    ⟨by decide +kernel, by decide +kernel, by decide +kernel⟩, ⟨by decide +kernel, by decide +kernel⟩, by decide +kernel, ⟨by decide +kernel, by decide +kernel⟩, ⟨by decide +kernel, by decide +kernel, by decide +kernel⟩,
    ⟨by decide +kernel, by decide +kernel, fun k => by simp⟩, by decide +kernel, by decide +kernel, by decide +kernel⟩

theorem witness_PowerAndRecovery :
    (let s := { w0 with rcv := { w0.rcv with scrubH := 4, pprTh := 3, rowErrors := [(5, 3)] } }
     s.rcv.scrubH ≠ 0 ∧ s.ready = true ∧ s.rcv.pprTh ≠ 0 ∧ s.rcv.pprTh ≤ SMap.get 0 s.rcv.rowErrors (2 ^ 36 * 0 + 5)
      ∧ (∀ i, i < 64 → remapValid (s.remap (64 * 0 + i)) = true → remapRow (s.remap (64 * 0 + i)) ≠ 5 % 2 ^ 36)
      ∧ ((List.range 64).map (64 * 0 + ·)).find? (fun n => !remapValid (s.remap n)) = some 0
      ∧ (s.sparesUsed 0 5).contains 63 = false)
    ∧ ((wG id).mayManage .host0 0 = true ∧ (wG id).mgmt.owner = Master.code .host0)
    ∧ ((w0.island 0).asleep = false ∧ (w0.island 0).changing = none ∧ w0.islandBound 0 = true ∧ { w0.power with now := 2300 }.over = false
      ∧ { w0.power with now := 2300 }.under = false)
    ∧ (w0.islandBound 5 = false ∧ (∀ n ∈ islandCores 5, w0.coreSettled n = true))
    ∧ ((∀ at_, w0.power.stepped = some at_ → at_ + msCycles ≤ w0.fabric)
      ∧ ({ w0.power with stepped := some 4 } : Power).stepped = some 4 ∧ w0.fabric < 4 + msCycles
      ∧ w0.fabric < w0.power.passed + hourCycles ∧ w0.power.passed + hourCycles ≤ ({ w0 with fabric := 2 ^ 60 } : State).fabric)
    ∧ ((w0.setIsland 5 { changing := some 0 }).island 5).changing = some 0 ∧ ((w0.setIsland 5 { asleep := true }).island 5).asleep = true := by
  refine ⟨⟨by decide +kernel, by decide +kernel, by decide +kernel, by decide +kernel, ?_, by decide +kernel, by decide +kernel⟩, ⟨by decide +kernel, by decide +kernel⟩, by decide +kernel, ⟨by decide +kernel, by decide +kernel⟩,
    ⟨fun a h => by simp [w0, State.reset] at h, rfl, by decide +kernel, by decide +kernel, by decide +kernel⟩, by decide +kernel, by decide +kernel⟩
  decide
theorem witness_EncodingRoundTrip : (Instr.add h0 3 1 2).wellFormed = true ∧ (Instr.vadd h0 0 false .rne false 1 0 0).wellFormed = true
    ∧ (Instr.copy h0 5 2 0x10 .wt .pkg false).wellFormed = true := ⟨by decide +kernel, by decide +kernel, by decide +kernel⟩
/-- The turn of core 0's S, whose ring holds one word. -/
def wStep (w : Word64) (pc : Nat) : State :=
  { on (fun c => { c with engS := { c.engS with pc, ring := { len := 1, slots := [(0, w)] } } }) with schedule := [{ act := .engine 0 .S }] }
/-- Core 0's cycle as its turn finds it, and what the turn comes to. -/
def at1 (s : State) : State := State.sampleCycle { s with cur := 0, edge := s.edgeOf 0 }
def turned (s : State) : State := State.settle (at1 s.takeTurn.2.between) .S
theorem witness_StepRunsTheWord :
    ((wStep 0x0000101086000000 0).takeTurn.1.act = .engine 0 .S ∧ coreExists 0 = true
      ∧ (wStep 0x0000101086000000 0).takeTurn.2.between.edge ≤ (wStep 0x0000101086000000 0).takeTurn.2.between.edgeOf 0
      ∧ (at1 (wStep 0x0000101086000000 0).takeTurn.2.between).core.turnLeft .S = true
      ∧ (let c := (turned (wStep 0x0000101086000000 0)).core
         c.engS.pc = 0 ∧ c.engS.ring.base ≤ 0 ∧ 0 < c.engS.ring.base + Part.ringWords c.part .S
          ∧ SMap.get 0 c.engS.ring.slots (0 % Part.ringWords c.part .S) = 0x0000101086000000 ∧ c.ringFault .S = false)
      ∧ (turned (wStep 0x0000101086000000 0)).mayIssue .S = true ∧ 0 < (turned (wStep 0x0000101086000000 0)).core.streamLen .S
      ∧ decode .S 0x0000101086000000 = .ok (.add h0 2 2 3))
    ∧ (decode .S 0x0000260000000000 = .error .reservedOp ∧ (turned (wStep 0x0000260000000000 0)).mayIssue .S = true)
    ∧ (turned ((wStep 0 0).modCore (fun c => { c with soft := [(.ring .S, 0)] }))).core.ringFault .S = true
    ∧ (let s : State := { wStep 0 0 with edge := 10 ^ 6 }
       s.takeTurn.2.between.edgeOf 0 < s.takeTurn.2.between.edge)
    ∧ ((turned (wStep 0 1)).core.streamLen .S ≤ ((turned (wStep 0 1)).core.eng .S).pc)
    ∧ ((turned { on (fun c => { c with started := false }) with schedule := [{ act := .engine 0 .S }] }).mayIssue .S = false)
    ∧ (let s := { on (fun c => { c with sample := some { cycle := 0, avail := c.queues.map List.length, room := c.queues.map (16 - List.length ·), handles := c.handles.map (·.st), last := some 2 } }) with
          schedule := [{ act := .engine 0 .S }] }
       (at1 s.takeTurn.2.between).core.turnLeft .S = false)
    ∧ ({ w0 with schedule := [{ act := .engine 9999 .S }] } : State).takeTurn.1.act = .engine 9999 .S ∧ coreExists 9999 = false
    ∧ ({ w0 with schedule := [{ act := .event (.recall 0) }] } : State).takeTurn.1.act = .event (.recall 0)
    ∧ (Instr.recall 0).parts = none := by
  refine ⟨⟨by decide +kernel, by decide +kernel, by decide +kernel, by decide +kernel, by decide +kernel, by decide +kernel, by decide +kernel, by rfl⟩, ⟨by rfl, by decide +kernel⟩, by decide +kernel, by decide +kernel, by decide +kernel, by decide +kernel, by decide +kernel,
    by decide +kernel, by decide +kernel, by decide +kernel, by rfl⟩
theorem witness_StepKeepsMemoryOk : MemoryOk (wStep 0x0000101086000000 0) ∧ ∃ t, step (wStep 0x0000101086000000 0) = .next t :=
  ⟨⟨by decide +kernel, by decide +kernel⟩, _, rfl⟩

/-! ### What is not well formed (spec/02 R53 to R59, R68; 06 R148; 07 R172; 13 R287) -/

theorem test_guard_off_S_refused : (Instr.vadd { h0 with guard := 1 } 0 false .rne false 1 0 0).wellFormed = false := by decide +kernel
theorem test_control_guard_off_S_refused : (Instr.nop .M { h0 with neg := true }).wellFormed = false := by decide +kernel
theorem test_control_register_past_k15_refused : (Instr.tok .C h0 true 0 16).wellFormed = false := by decide +kernel
theorem test_srd_register_past_k15_refused : (Instr.srd .V h0 31 0x010).wellFormed = false := by decide +kernel
theorem test_hset_register_past_k15_refused : (Instr.hset .M h0 0 1 17).wellFormed = false := by decide +kernel
theorem test_loop_of_no_words_refused : (Instr.loop .S h0 0 (.imm 3)).wellFormed = false := by decide +kernel
theorem test_branch_on_k_by_S_refused : (Instr.brXb .S h0 .always false 1).wellFormed = false := by decide +kernel
theorem test_index_block_on_S_refused : (Instr.kli .S h0 1 0).wellFormed = false := by decide +kernel
theorem test_swr_of_flags_row_refused : (Instr.swr .S h0 1 0x022).wellFormed = false := by decide +kernel
theorem test_negated_guard_in_immediate_form_refused : (Instr.addi { h0 with guard := 1, neg := true } 1 1 0).wellFormed = false := by decide +kernel
theorem test_vcvt_mode_of_narrow_type_refused : (Instr.vcvt h0 0 false .rup false .e4m3 1 0).wellFormed = false := by decide +kernel
theorem test_vldq_without_handle_refused : (Instr.vldq h0 1 0 63 0).wellFormed = false := by decide +kernel
theorem test_vscat_inv_refused : (Instr.vscat h0 1 0 0 (.global .wi .pkg true) 0 false).wellFormed = false := by decide +kernel
theorem test_mshape_without_groups_refused : (Instr.mshape h0 .e4m3 .e4m3 .none false 0 0 0).wellFormed = false := by decide +kernel
theorem test_mshape_pair_refused : (Instr.mshape h0 .f16 .e4m3 .none false 0 0 1).wellFormed = false := by decide +kernel
theorem test_wld_of_no_units_refused : (Instr.wld h0 0 0 0 63 false 0).wellFormed = false := by decide +kernel
theorem test_win_without_handle_refused : (Instr.win h0 63 0 0 .wt .core).wellFormed = false := by decide +kernel
theorem test_event_has_no_word : (Instr.recall 0).wellFormed = false := by decide +kernel

/-! ### Words of the spec's examples and words written out from its formats -/

/-- R57, R130: ADDI s3, s3, 1 of an example: OP 0x30, D 3, A 3, imm 1. -/
theorem test_decode_addi : decode .S 0x0000_3018_C000_0001 = .ok (.addi h0 3 3 1) := by rfl
/-- An example's guarded TRAP. -/
theorem test_decode_trap : decode .S 0x0000_0A20_0000_0012 = .ok (.trap .S { h0 with guard := 1 } 0x12) := by rfl
/-- An example's load of eight bytes under .own. -/
theorem test_decode_ld : decode .S 0x0000_6029_3618_0010 = .ok (.ld h0 .own .pkg .b8 false 5 4 16) := by rfl
/-- An example's red atomic with an inverted guard. -/
theorem test_decode_red : decode .S 0x0000_6900_506A_9808 = .ok (.red { h0 with guard := 1, neg := true } (.maxs false) .wt .pkg false 1 8 8) := by
  rfl
/-- An example's fused multiply-add, which pops a queue and pushes another. -/
theorem test_decode_vfma : decode .V 0x4745_3303_0102_0300 =
    .ok (.vfma { h0 with wait := .pop 0 7, sig := .push 0 5 } 0 false .rne false 3 1 2 3) := by rfl
/-- An example's MMA. -/
theorem test_decode_mma : decode .M 0x4447_2200_0010_0000 = .ok (.mma { h0 with wait := .pop 0 4, sig := .push 0 7 } 0 0 1 0) := by rfl
/-- An example's SEND, which waits for its handle. -/
theorem test_decode_send : decode .C 0x8500_2A14_8008_0801 = .ok (.send { h0 with wait := .full 5 } 5 2 0x20 .si true) := by rfl
/-- R68: an opcode that S does not have. -/
theorem test_decode_reserved : decode .S 0x0000_2600_0000_0000 = .error .reservedOp := by rfl

/-! ### One step -/

/-- The state an instruction leaves. -/
def after (i : Instr) (s : State) : State := match exec i s with | .next t => t | _ => s
/-- The machine with s1 and s2 as given. -/
def w12 (x y : Word64) : State := on (fun c => { c with s := (c.s.set 1 x).set 2 y })

/-- R127: the sum wraps, and the word after is next. -/
theorem test_add_wraps : (after (.add h0 3 1 2) (w12 (BitVec.allOnes 64) 1)).core.readS 3 = 0
    ∧ (after (.add h0 3 1 2) (w12 (BitVec.allOnes 64) 1)).core.engS.pc = 1 := by decide +kernel
/-- R113: s0 reads 0 and a write to it is lost. -/
theorem test_s0_discards : (after (.add h0 0 1 2) (w12 5 6)).core.readS 0 = 0 := by decide +kernel
/-- R127: (-1)·(-1) has high half 0; the unsigned product of two all-ones words has high half 2^64 − 2. -/
theorem test_mulh_signs : (after (.mulh h0 false 3 1 2) (w12 (BitVec.allOnes 64) (BitVec.allOnes 64))).core.readS 3 = 0
    ∧ (after (.mulh h0 true 3 1 2) (w12 (BitVec.allOnes 64) (BitVec.allOnes 64))).core.readS 3 = 0xFFFFFFFFFFFFFFFE := by decide +kernel
/-- R127: −7 divided by 2 is −3, remainder −1; by 0, all ones and DZ. -/
theorem test_div_rounds_towards_zero : (after (.div h0 false 3 1 2) (w12 (-7) 2)).core.readS 3 = -3
    ∧ (after (.rem h0 false 3 1 2) (w12 (-7) 2)).core.readS 3 = -1 := by decide +kernel
theorem test_div_by_zero : (after (.div h0 false 3 1 2) (w12 9 0)).core.readS 3 = BitVec.allOnes 64
    ∧ (after (.div h0 false 3 1 2) (w12 9 0)).core.engS.flags = Flags.dz := by decide +kernel
/-- R129: the field of 4 bits at bit 4 of 0xA5 is 0xA, as a signed number −6. -/
theorem test_bfx_sign : (after (.bfx h0 false 3 1 2) (w12 0xA5 0x404)).core.readS 3 = -6 := by decide +kernel
/-- R133: a write of p0 is lost. -/
theorem test_p0_discards : (after (.cmp h0 .eq 0 1 2) (w12 5 5)).core.readP 0 = w0.core.readP 0 := by decide +kernel
/-- R135: 1.5 + 2.5 = 4 in FP32, no flag. -/
theorem test_fadd : (after (.fadd h0 .rne false 3 1 2) (w12 0x3FC00000 0x40200000)).core.readS 3 = 0x40800000
    ∧ (after (.fadd h0 .rne false 3 1 2) (w12 0x3FC00000 0x40200000)).core.engS.flags = 0 := by decide +kernel
/-- R135: 1 / 0 is infinity with DZ. -/
theorem test_fdiv_by_zero : (after (.fdiv h0 .rne false 3 1 2) (w12 0x3F800000 0)).core.readS 3 = 0x7F800000
    ∧ (after (.fdiv h0 .rne false 3 1 2) (w12 0x3F800000 0)).core.engS.flags = Flags.dz := by decide +kernel
/-- R120: a LOOP of 0 skips its body. -/
theorem test_loop_of_zero : (after (.loop .V h0 53 (.reg 2)) (wB [])).core.engV.pc = 64 := by decide +kernel
/-- R33, R122: a pop takes the oldest token. -/
theorem test_tok_pop : (after (.tok .S h0 true 3 4) (wQ 3 [9, 8])).core.readS 4 = 9
    ∧ (after (.tok .S h0 true 3 4) (wQ 3 [9, 8])).core.queue 3 = [8] := by decide +kernel
/-- R266: a store into the data area puts the low byte first; R258: a load of one byte extends its sign. -/
theorem test_sts_byte_order : SMap.get 0 (after (.sts h0 .b2 2 1 0) (w12 0x40 0x1234)).core.data 0x40 = 0x34
    ∧ SMap.get 0 (after (.sts h0 .b2 2 1 0) (w12 0x40 0x1234)).core.data 0x41 = 0x12 := by decide +kernel
theorem test_lds_sign :
    ((after (.lds h0 .b1 true 3 1 0) ((w12 0x40 0).modCore (fun c => { c with data := [(0x40, 0x80)] }))).core.readS 3) = -128 := by decide +kernel
/-- R405, R406: TRAP on V saves its offset and its code; S starts the handler. -/
theorem test_trap_entry :
    let t := after (.trap .V h0 0x12) (on (fun c => { c with obj := { trapLen := 4 }, engV := { c.engV with pc := 6 }, engS := { c.engS with pc := 9 } }))
    t.core.trap.cause = 0x0A ∧ t.core.trap.pc = 6 ∧ t.core.trap.info = 0x12 ∧ t.core.engS.pc = 0 := by decide +kernel
/-- R410: after a TRAP the engine goes on with the word after it. -/
theorem test_eret_resumes : (after (.eret h0) wTrap).core.engV.pc = 6 ∧ (after (.eret h0) wTrap).core.engS.pc = 9 := by decide +kernel
/-- R68: ERET outside trap mode. -/
theorem test_eret_outside : (after (.eret h0) (on (fun c => { c with obj := { trapLen := 4 } }))).core.trap.info = 1 := by decide +kernel
/-- R353: the word of a queue's control block: PRIV, EN and the context 2. -/
theorem test_qread : (after (.qctlQread h0 3 1 2) (on (fun c => { c with s := c.s.set 1 5 }))).core.readS 3 = 0xC20 := by decide +kernel
/-- R145, R153: one element, 1.5 + 1.5 = 3 in FP32. -/
theorem test_vadd :
    let s := (wV 1 1 .f32).modCore (fun c => { c with tiles := [(1026, 0xC0), (1027, 0x3F)], m := c.m.set 0 1 })
    ((after (.vadd h0 0 false .rne false 2 1 1) s).core.elem 2 32 0) = 0x40400000 := by decide +kernel
/-- R325: PROD may not pass the ring. -/
theorem test_prod_bound :
    let s := { wRing with mgmt := { wRing.mgmt with owner := 1 } }
    ((after (.prodWrite 6 1025) s).queueOf 6).prod = 1 ∧ ((after (.prodWrite 6 1024) s).queueOf 6).prod = 1024 := by decide +kernel
/-- R38: V pushes and M, later in the same cycle, does not see the token yet. -/
theorem test_cycle_sample :
    let c := (State.sampleCycle (wQ 4 [])).core.pushTokens 4 [7]
    c.queue 4 = [7] ∧ c.availOf 4 = 0 := by decide +kernel
/-- R275: an atomic add at the home answers the old value. -/
theorem test_home_atomic : ((after (.homeAtomic 50) (wR { req0 (.atomic (.add false)) .wt with data := 9 })).mem.read 0x200048) = 9 := by decide +kernel
/-- R312: the spec's block of 128 BF16 values whose exponent fields are 0x7E or 0x7F goes under 0x03 in 147 bytes, over 0x7E with one-bit
deltas, and comes back whole. -/
def twoExponents : List Byte := (List.replicate 63 [0x01, 0x3F, 0x85, 0xBF]).flatten ++ [0x02, 0x3F, 0x85, 0xBF]
theorem test_block_coding :
    (encodeBlock 1 twoExponents).length = 147 ∧ (encodeBlock 1 twoExponents).take 3 = [3, 0, 0x7E] := by decide +kernel
theorem test_block_round_trip : decodeBlock (encodeBlock 1 twoExponents) = some twoExponents := by decide +kernel
/-- R312: of several codings the smallest, a repeated word's. -/
theorem test_block_repeats : encodeBlock 1 (List.replicate 256 7) = [2, 7, 7, 7, 7, 7, 7, 7, 7] := by decide +kernel
/-- R419: a load of eight bytes that hold an uncorrectable soft error traps with their offset; a store of all eight repairs them. -/
theorem test_pool_error :
    let s := (w12 0x40 5).modCore (fun c => { c with upsets := [8], obj := { trapLen := 4 } })
    let t := after (.lds h0 .b4 false 3 1 4) s
    t.core.trap.cause = 0x0B ∧ t.core.trap.info = 3 ∧ t.core.trap.addr = 0x40 ∧ (t.die0.channel 160).count = 1
      ∧ (after (.sts h0 .b8 2 1 0) s).core.upsets = [] := by decide +kernel
/-- R431: 33 cycles at point 0 take as long as 16 at point 3. -/
theorem test_point_rates : (State.cycleOf { State.reset with fabric := 33 } 0) = 16
    ∧ (State.cycleOf { State.reset with fabric := 33, power := { islands := [(0, { op := 0 })] } } 0) = 33 := by decide +kernel
/-- R415, R416: an error in one symbol of a stored line is taken out by a read. -/
theorem test_symbol_corrected :
    let s := w0.upset (.memory 0x200048 3 0x55)
    s.mem.read 0x200043 = 0x55 ∧ (s.readDecode 0x200040).mem.read 0x200043 = w0.mem.read 0x200043 := by decide +kernel

end Sys2Proof.Tests
end

section
/-! PROOFS. The scalar engine (spec/05): what a word that writes one s register gives when it issues, and the results of division
and of the bit words. -/

namespace Sys2Proof.Machine

/-! ### Words that write one s register -/

section
variable {s : State} {i : Instr} {h : Hdr} {d : Fin 32} {rs : List (Fin 32)}

/-- A word built on `State.sop` writes its result to s[d] and raises its flags (R127, R135). -/
theorem gives_of_sop {f : Core → Word64 × Flags} {u : Core → Core} (hx : exec i s = s.sop h d rs f)
    (hu : ∀ c : Core, (c.writeS d (f c).1).addFlags .S (f c).2 = u c) : Gives i s .S h {} (sRegs (d :: rs)) u := by
  intro hi
  obtain rfl : (fun c : Core => (c.writeS d (f c).1).addFlags .S (f c).2) = u := funext hu
  exact hx.trans (congrArg Host.Outcome.next (issue_done hi rfl))

/-- One that raises no flag writes s[d] alone. -/
theorem gives_of_sop_noFlags {g : Core → Word64} (hx : exec i s = s.sop h d rs (fun c => (g c, 0))) :
    Gives i s .S h {} (sRegs (d :: rs)) (fun c => c.writeS d (g c)) :=
  gives_of_sop hx (fun c => addFlags_zero (c.writeS d (g c)) .S)

end

/-! ### Division (R128) -/

theorem divRem_zero (uns : Bool) (a : Word64) : divRem uns a 0 = (BitVec.allOnes 64, a, .dz) := rfl

/-- The model's remainder A − B × q is that of the division towards zero. -/
theorem divRem_of_ne_zero (uns : Bool) (a : Word64) {b : Word64} (hb : b ≠ 0) :
    divRem uns a b = (BitVec.ofInt 64 ((sg uns a).tdiv (sg uns b)), BitVec.ofInt 64 ((sg uns a).tmod (sg uns b)), 0) := by
  rw [divRem, if_neg hb, Int.tmod_def]

/-- What DIV and REM do to the core, `pick` taking the quotient or the remainder: DZ is raised by a zero divisor alone. -/
theorem writeS_addFlags_divRem (pick : Word64 × Word64 × Flags → Word64) (c : Core) (d : Fin 32) (uns : Bool) (a b : Word64) :
    (c.writeS d (pick (divRem uns a b))).addFlags .S (divRem uns a b).2.2 =
      if b = 0 then (c.writeS d (pick (BitVec.allOnes 64, a, .dz))).addFlags .S .dz
      else c.writeS d
        (pick (BitVec.ofInt 64 ((sg uns a).tdiv (sg uns b)), BitVec.ofInt 64 ((sg uns a).tmod (sg uns b)), 0)) := by
  by_cases hb : b = 0
  · rw [if_pos hb, hb, divRem_zero]
  · rw [if_neg hb, divRem_of_ne_zero uns a hb]
    exact addFlags_zero _ .S

theorem exec_div (h : Hdr) (uns : Bool) (d a b : Fin 32) (s : State) : exec (.div h uns d a b) s =
    s.sop h d [a, b] (fun c => ((divRem uns (c.readS a) (c.readS b)).1, (divRem uns (c.readS a) (c.readS b)).2.2)) := rfl
theorem exec_rem (h : Hdr) (uns : Bool) (d a b : Fin 32) (s : State) : exec (.rem h uns d a b) s =
    s.sop h d [a, b] (fun c => ((divRem uns (c.readS a) (c.readS b)).2.1, (divRem uns (c.readS a) (c.readS b)).2.2)) := rfl

/-! ### Bit words (R127, R129) -/

theorem ofNat_clz (a : Word64) :
    BitVec.ofNat 64 (clz a) = if a = 0 then 64 else BitVec.ofNat 64 (63 - a.toNat.log2) :=
  apply_ite (BitVec.ofNat 64) (a = 0) 64 (63 - a.toNat.log2)

theorem exec_clz (h : Hdr) (d a : Fin 32) (s : State) :
    exec (.clz h d a) s = s.sop h d [a] (fun c => (BitVec.ofNat 64 (clz (c.readS a)), 0)) := rfl
theorem exec_ctz (h : Hdr) (d a : Fin 32) (s : State) :
    exec (.ctz h d a) s = s.sop h d [a] (fun c => (BitVec.ofNat 64 (ctz (c.readS a)), 0)) := rfl
theorem exec_popc (h : Hdr) (d a : Fin 32) (s : State) :
    exec (.popc h d a) s = s.sop h d [a] (fun c => (BitVec.ofNat 64 (popc (c.readS a)), 0)) := rfl
theorem exec_sel (h : Hdr) (d a b : Fin 32) (p : Fin 8) (s : State) :
    exec (.sel h d a b p) s = s.sop h d [a, b] (fun c => (if c.readP p then c.readS a else c.readS b, 0)) := rfl
theorem exec_bfx (h : Hdr) (uns : Bool) (d a b : Fin 32) (s : State) :
    exec (.bfx h uns d a b) s = s.sop h d [a, b] (fun c => (bfx uns (c.readS a) (c.readS b), 0)) := rfl
theorem exec_bfi (h : Hdr) (d a b : Fin 32) (s : State) :
    exec (.bfi h d a b) s = s.sop h d [a, b] (fun c => (bfi (c.readS d) (c.readS a) (c.readS b), 0)) := rfl

end Sys2Proof.Machine

open Sys2Proof Sys2Proof.Machine

/-- Settles O2, by whether the divisor is zero. -/
theorem scalarDivision : Obligations.ScalarDivision := by
  unfold Obligations.ScalarDivision
  intro s h uns d a b v R
  exact ⟨gives_of_sop (exec_div h uns d a b s)
      (fun c => writeS_addFlags_divRem Prod.fst c d uns (c.readS a) (c.readS b)),
    gives_of_sop (exec_rem h uns d a b s)
      (fun c => writeS_addFlags_divRem (fun r => r.2.1) c d uns (c.readS a) (c.readS b))⟩

/-- Settles O3: the words raise no flag, and each writes what the model's own bit function gives. -/
theorem scalarBitResults : Obligations.ScalarBitResults := by
  unfold Obligations.ScalarBitResults
  intro s h d a b p R2 R3 bit
  simp only [← ofNat_clz]
  exact ⟨gives_of_sop_noFlags (exec_clz h d a s), gives_of_sop_noFlags (exec_ctz h d a s), gives_of_sop_noFlags (exec_popc h d a s),
    gives_of_sop_noFlags (exec_sel h d a b p s), fun uns => gives_of_sop_noFlags (exec_bfx h uns d a b s),
    gives_of_sop_noFlags (exec_bfi h d a b s)⟩

end

section
/-! PROOFS. The governor's words (spec/08 R214 to R218): what a read of a TMR's record and an update of it at its home leave alone, and
what GOVRD, GOVHOLD, GOVREL and GOVEVAL do on a record that can be read. -/

namespace Sys2Proof.Machine

/-! ### What leaves the tasks as they are -/

section
variable (s : State)

/-- What each step of a fold keeps of a state, the fold keeps. -/
theorem foldl_view {α β : Type} (v : State → α) {f : State → β → State} (hf : ∀ s x, v (f s x) = v s) (xs : List β) (s : State) :
    v (xs.foldl f s) = v s :=
  foldl_keeps (P := fun t => v t = v s) (fun t x h => (hf t x).trans h) xs s rfl

@[simp] theorem State.recode_tasks (l : Nat) (tag : BitVec 4) (b : Bool) : (s.recode l tag b).tasks = s.tasks := by
  unfold State.recode; split <;> rfl
@[simp] theorem State.logError_tasks (die : Nat) (r : ErrorRecord) : (s.logError die r).tasks = s.tasks := by
  unfold State.logError
  dsimp only
  split
  · exact State.setDie_tasks _ _ _
  · rfl
@[simp] theorem State.noteWrite_tasks (ks : List Nat) : (s.noteWrite ks).tasks = s.tasks := by
  obtain ⟨_, _, h⟩ := noteWrite_eq s ks; rw [h]
@[simp] theorem State.noteUnitWrite_tasks (ks : List Nat) : (s.noteUnitWrite ks).tasks = s.tasks := by
  obtain ⟨_, _, h⟩ := noteUnitWrite_eq s ks; rw [h]
@[simp] theorem State.correctLine_tasks (l i : Nat) (v : Byte) : (s.correctLine l i v).tasks = s.tasks := by
  unfold State.correctLine
  dsimp only
  split <;> exact State.recode_tasks _ _ _ _
@[simp] theorem State.readDecode_tasks (l : Nat) : (s.readDecode l).tasks = s.tasks := by
  unfold State.readDecode
  split
  · rfl
  · dsimp only
    split <;> simp [State.countRow]
@[simp] theorem State.putWords_tasks (l : Nat) (ws : List (Nat × Word32 × BitVec 4)) (tag : BitVec 4) :
    (s.putWords l ws tag).tasks = s.tasks := by
  simp only [State.putWords, apply_ite State.tasks, State.recode_tasks, State.noteWrite_tasks, State.readDecode_tasks, ite_self]
@[simp] theorem State.writeLine_tasks (a : Nat) (bs : List Byte) (tag : BitVec 4) : (s.writeLine a bs tag).tasks = s.tasks := by
  simp only [State.writeLine, apply_ite State.tasks, State.recode_tasks, State.noteUnitWrite_tasks, State.readDecode_tasks, ite_self]
@[simp] theorem State.dropCopies_tasks (l : Nat) : (s.dropCopies l).tasks = s.tasks :=
  foldl_view State.tasks (fun s _ => foldl_view State.tasks (fun s _ => by split <;> rfl) _ s) _ s
@[simp] theorem State.recallWord_tasks (k : Nat) : (s.recallWord k).tasks = s.tasks := by
  unfold State.recallWord
  split
  · exact State.putWords_tasks _ _ _ _
  · rfl
@[simp] theorem State.recallNow_tasks (l : Nat) (w : BitVec 16) : (s.recallNow l w).tasks = s.tasks := by
  unfold State.recallNow
  split
  · rfl
  · exact (State.dropCopies_tasks _ _).trans
      (foldl_view State.tasks (fun s _ => by split; exacts [State.recallWord_tasks s _, rfl]) _ s)
@[simp] theorem State.applyLine_tasks (a : Nat) (bs : List Byte) (tag : BitVec 4) : (s.applyLine a bs tag).tasks = s.tasks :=
  (foldl_view State.tasks State.dropCopies_tasks _ _).trans
    ((State.writeLine_tasks _ _ _ _).trans (foldl_view State.tasks (fun s _ => State.recallNow_tasks s _ _) _ s))
@[simp] theorem State.writeNowLine_tasks (a : Nat) (bs : List Byte) (tag : BitVec 4) : (s.writeNowLine a bs tag).tasks = s.tasks := by
  unfold State.writeNowLine
  split
  · exact State.applyLine_tasks _ _ _ _
  · rfl
@[simp] theorem State.writeNow_tasks (a : Nat) (bs : List Byte) (tag : BitVec 4) (fuel : Nat) :
    (s.writeNow a bs tag fuel).tasks = s.tasks := by
  induction fuel generalizing s a bs with
  | zero => rfl
  | succ n ih =>
    unfold State.writeNow
    split
    · rfl
    · exact (ih _ _ _).trans (State.writeNowLine_tasks _ _ _ _)
@[simp] theorem State.walked_tasks (ctx ia agent : Nat) : (s.walked ctx ia agent).tasks = s.tasks := by
  unfold State.walked
  split
  · simp only [apply_ite State.tasks, State.putWords_tasks, ite_self]
  · exact State.logError_tasks _ _ _
  · rfl

end

end Sys2Proof.Machine

namespace Sys2Proof

open Machine

/-! ### What a unit's access leaves of the cores -/

section
variable {α : Type} {g : Core → α}

/-- A unit's snoop of the host writes the directory and the list of snoops alone. -/
theorem sendSnoop_unit (s : State) (l : Nat) (w : Bool) :
    ∃ d x, s.sendSnoop l w 0 = { s with coh := { s.coh with dirs := d, snoops := x } } := ⟨_, _, rfl⟩
theorem snoopFor_eq (s : State) (l : Nat) (w : Bool) :
    ∃ d x, s.snoopFor l w = { s with coh := { s.coh with dirs := d, snoops := x } } := by
  rw [State.snoopFor]
  by_cases hc : s.idle l ∧ (if w then s.hostOf l ≠ 0 else s.hostOf l = 2)
  · rw [if_pos hc]; exact sendSnoop_unit _ _ _
  · rw [if_neg hc]; exact ⟨_, _, rfl⟩
theorem snoopFor_tasks (s : State) (l : Nat) (w : Bool) : (s.snoopFor l w).tasks = s.tasks := by
  obtain ⟨_, _, h⟩ := snoopFor_eq s l w; rw [h]
theorem snoopFor_tmrs (s : State) (l : Nat) (w : Bool) : (s.snoopFor l w).coh.tmrs = s.coh.tmrs := by
  obtain ⟨_, _, h⟩ := snoopFor_eq s l w; rw [h]
theorem Same.snoopFor (s : State) (l : Nat) (w : Bool) : Same g s (s.snoopFor l w) := by
  obtain ⟨_, _, h⟩ := snoopFor_eq s l w; rw [h]; exact .of_cores (.refl _) (.refl _)
theorem Same.modDir (s : State) (l : Nat) (f : Dir → Dir) : Same g s (s.modDir l f) := .of_cores (.refl _) (.refl _)
theorem Same.walked (s : State) (ctx ia agent : Nat) : Same g s (s.walked ctx ia agent) := by
  have cached : ∀ m, Same g s { s with tlb := m } := fun _ => .of_cores (.refl _) (.refl _)
  unfold State.walked
  split
  · split
    · exact .rfl
    · dsimp only
      split <;> split
      · exact .rfl
      · exact cached _
      · exact Same.putWords _ _ _ _
      · exact (cached _).trans (.putWords _ _ _ _)
  · exact Same.logError _ _ _
  · exact .rfl
theorem Same.unitTouch (s : State) (ctx ia n : Nat) : Same g s (s.unitTouch ctx ia n) :=
  (Same.foldl (fun s _ => .walked s _ _ _) _ s).trans (.foldl (fun s x => by
    split
    · split
      · exact .readDecode _ _
      · exact .snoopFor _ _ _
    · exact .rfl) _ _)
theorem Same.tmrTouch (s : State) (e : Engine) (ctx idx : Nat) : Same g s (s.tmrTouch e ctx idx) := by
  have touched := (Same.walked (g := g) s ctx (s.tmrIa ctx idx) (agentCore s.cur e)).trans
    (.unitTouch _ ctx (s.tmrIa ctx idx) 256)
  unfold State.tmrTouch
  split
  · exact .rfl
  · dsimp only
    split
    · split
      · exact touched.trans (.logError _ _ _)
      · exact touched
    · exact touched
theorem Same.tmrSnoop (s : State) (ctx idx : Nat) : Same g s (s.tmrSnoop ctx idx) := by
  unfold State.tmrSnoop
  split
  · exact .foldl (fun s _ => .snoopFor s _ _) _ _
  · exact .rfl

variable (hg : CacheFree g)
include hg

/-- A copy taken into a core's TMR cache changes nothing else of a core. -/
theorem Same.cacheTmr (s : State) (ctx idx : Nat) : Same g s (s.cacheTmr ctx idx) := by
  have touched := Same.tmrTouch (g := g) s .V ctx idx
  unfold State.cacheTmr
  dsimp only
  split
  · exact touched
  · split
    · exact .rfl
    · next a _ _ =>
      exact (touched.trans (.setCore _ _ (hg _ _ (a :: (s.tmrTouch .V ctx idx).core.tmrCache.take 7)))).trans
        (.foldl (fun s _ => .modDir s _ _) _ _)
end

theorem readS_cacheTmr (s : State) (ctx idx : Nat) (r : Fin 32) : (s.cacheTmr ctx idx).core.readS r = s.core.readS r := by
  simp only [Core.readS, (Same.cacheTmr (g := Core.s) (fun _ _ _ => .refl _) s ctx idx).core]

/-! ### What an update of a record leaves of the tasks (R210) -/

/-- Reading a store whose values have all been changed by `f`. -/
theorem get_map {α β : Type} (f : α → β) (d : α) (m : SMap α) (k : Nat) :
    SMap.get (f d) (m.map (fun e => (e.1, f e.2))) k = f (SMap.get d m k) := by
  induction m with
  | nil => rfl
  | cons e m ih => simp only [List.map_cons, SMap.get, ih, apply_ite f]

/-- A core whose copies of a page have moved with the page's name (R382). -/
def moveCore (p q : Nat) (c : Core) : Core :=
  { c with l1 := c.l1.rename (moveWord p q), l1Names := c.l1Names.rename (moveKey p q),
           l1Since := c.l1Since.rename (moveKey p q) }
theorem coreAt_movePage (s : State) (p q n : Nat) : (s.movePage p q).coreAt n = moveCore p q (s.coreAt n) :=
  get_map (moveCore p q) Core.reset s.cores n

theorem cacheFree_task : CacheFree Core.task := fun _ _ _ => .refl _

/-- The core with the turn, the task of every core, and the tasks, as before. -/
structure SameTask (s t : State) : Prop where
  cores : Same Core.task s t
  tasks : t.tasks = s.tasks

namespace SameTask

theorem taskCtx {s t : State} (h : SameTask s t) : t.taskCtx = s.taskCtx := by
  simp only [State.taskCtx, State.task?, h.cores.core, h.tasks]
theorem cur {s t : State} (h : SameTask s t) : t.cur = s.cur := h.cores.cur
theorem rfl {s : State} : SameTask s s := ⟨.rfl, .refl _⟩
theorem trans {s t u : State} (h : SameTask s t) (h' : SameTask t u) : SameTask s u :=
  ⟨h.cores.trans h'.cores, h'.tasks.trans h.tasks⟩
theorem of_cores {s t : State} (hc : t.cur = s.cur) (h : t.cores = s.cores) (ht : t.tasks = s.tasks) : SameTask s t :=
  ⟨.of_cores hc h, ht⟩
theorem foldl {β : Type} {f : State → β → State} (hf : ∀ s x, SameTask s (f s x)) (xs : List β) (s : State) :
    SameTask s (xs.foldl f s) :=
  ⟨.foldl (fun s x => (hf s x).cores) xs s, foldl_view State.tasks (fun s x => (hf s x).tasks) xs s⟩

variable (s : State) (ctx idx : Nat)

theorem movePage (p q : Nat) : SameTask s (s.movePage p q) :=
  ⟨⟨.refl _, fun n => by rw [coreAt_movePage]; exact .refl _⟩, .refl _⟩
theorem noteName (ia a : Nat) : SameTask s (s.noteName ctx ia a) := by
  have noted : ∀ (s : State) m, SameTask s { s with aliases := m } := fun _ _ => .of_cores (.refl _) (.refl _) (.refl _)
  unfold State.noteName
  dsimp only
  refine trans ?_ (.foldl (fun s (p : Nat × Nat) => (movePage s p.2 _).trans (noted _ _)) _ _)
  split
  · exact .rfl
  · exact noted _ _
/-- A unit's write, and so an update of a TMR, changes no core's task. -/
theorem unitWrite (ia : Nat) (bs : List Byte) : SameTask s (s.unitWrite ctx ia bs) := by
  have walked : SameTask s (s.walked ctx ia 0) := ⟨.walked _ _ _ _, State.walked_tasks _ _ _ _⟩
  unfold State.unitWrite
  dsimp only
  split
  · exact (walked.trans (noteName _ _ _ _)).trans ⟨.writeNow cacheFree_task _ _ _ _ _, State.writeNow_tasks _ _ _ _ _⟩
  · exact walked.trans (of_cores (.refl _) (.refl _) (.refl _))
  · exact walked
theorem setTmr (t : Nat) : SameTask s (s.setTmr ctx idx t) := unitWrite _ _ _ _
theorem modTmr (f : Nat → Nat) : SameTask s (s.modTmr ctx idx f) := by
  unfold State.modTmr
  split
  · exact setTmr _ _ _ _
  · exact .rfl
theorem settleTmr (left : Bool) : SameTask s (s.settleTmr ctx idx left) := by
  have counted : ∀ c [Decidable c], SameTask s (if c then { s with rcv := { s.rcv with retired := s.rcv.retired + 1 } } else s) := by
    intro c _
    split
    · exact of_cores (.refl _) (.refl _) (.refl _)
    · exact .rfl
  unfold State.settleTmr
  split
  · exact .rfl
  · extract_lets retire t1 u h t2
    split
    · exact counted _
    · exact (counted _).trans (setTmr _ _ _ _)
theorem coverUpdate (old : BitVec 4) (v : Nat) : SameTask s (s.coverUpdate old ctx idx v) := by
  unfold State.coverUpdate
  dsimp only
  split
  · exact .rfl
  · split
    · exact (setTmr _ _ _ _).trans (settleTmr _ _ _ _)
    · split
      · exact (setTmr _ _ _ _).trans (settleTmr _ _ _ _)
      · exact .rfl
theorem applyTmr (p : TmrTask) : SameTask s (s.applyTmr p) := by
  unfold State.applyTmr
  split
  case h_2 => exact coverUpdate _ _ _ _ _
  case h_7 => exact settleTmr _ _ _ _
  all_goals exact modTmr _ _ _ _
theorem tmrSnoop : SameTask s (s.tmrSnoop ctx idx) := by
  refine ⟨.tmrSnoop _ _ _, ?_⟩
  unfold State.tmrSnoop
  split
  · exact foldl_view State.tasks (fun s _ => snoopFor_tasks s _ _) _ _
  · exact .refl _
theorem updateTmr (act : TmrUpdate) : SameTask s (s.updateTmr ctx idx act) := by
  have queued : ∀ c, SameTask s { s with coh := c } := fun _ => .of_cores (.refl _) (.refl _) (.refl _)
  unfold State.updateTmr
  split
  · exact applyTmr _ _
  · exact (queued _).trans (tmrSnoop _ _ _)
theorem mergeSlot (core : Nat) : SameTask s (s.mergeSlot core idx) := by
  unfold State.mergeSlot
  dsimp only
  split
  · exact (updateTmr _ _ _ _).trans ⟨.modCoreAt _ _ _ (fun _ => .refl _), .refl _⟩
  · exact .rfl

end SameTask

/-! ### Updates of a record (R210, R214, R217) -/

section
variable {s : State} {ctx idx t : Nat}

theorem modTmr_of_load (f : Nat → Nat) (h : s.tmrLoad ctx idx = .ok t) : s.modTmr ctx idx f = s.setTmr ctx idx (f t) := by
  simp only [State.modTmr, h]
/-- A record that takes an update now, no earlier one of it waiting, is updated at once. -/
theorem updateTmr_of_ready (act : TmrUpdate) (h : (s.tmrReady ctx idx && !s.tmrQueued ctx idx) = true) :
    s.updateTmr ctx idx act = s.applyTmr { ctx, idx, act } := by
  simp only [State.updateTmr, h, if_true]

theorem tmrSnoop_tmrs (s : State) (ctx idx : Nat) : (s.tmrSnoop ctx idx).coh.tmrs = s.coh.tmrs := by
  unfold State.tmrSnoop
  split
  · exact foldl_view (fun s => s.coh.tmrs) (fun s _ => snoopFor_tmrs s _ _) _ s
  · rfl
/-- An update that the record does not take now waits in its turn. -/
theorem mem_tmrs_updateTmr (act : TmrUpdate) (h : (s.tmrReady ctx idx && !s.tmrQueued ctx idx) = false) :
    { ctx, idx, act } ∈ (s.updateTmr ctx idx act).coh.tmrs := by
  simp [State.updateTmr, h, tmrSnoop_tmrs]

end

/-! ### What GOVEVAL leaves (R205, R215) -/

/-- The die after a request by a core for a TMR's evaluation. -/
def Machine.Die.asked (d : Die) (ctx idx core : Nat) : Die := { d with asks := d.asks ++ [(ctx, idx, core)] }

theorem die_setDie (s : State) (n : Nat) (d : Die) : (s.setDie n d).die n = d := by
  match n with
  | 0 | 1 | 2 | n + 3 => rfl

/-- GOVEVAL's request to the TMR's governor, and its wait for the answer. -/
def Machine.State.askGovernor (s : State) (h : Hdr) (re : Bool) (d a : Fin 32) (idx : Nat) : State :=
  let die := s.fresh.2.tmrDie s.taskCtx idx
  (s.fresh.2.setDie die ((s.fresh.2.die die).asked s.taskCtx idx s.cur)).modCore (fun c =>
    { c with unit := some { id := s.nextId, cmd := .goveval h re d a, d, arg := idx, arg2 := re.toNat, answer := none, fault := none } })

section
variable (s : State) (h : Hdr) (re : Bool) (d a : Fin 32) (idx : Nat)

theorem askGovernor_nextId : (s.askGovernor h re d a idx).nextId = s.nextId + 1 := by
  simp [State.askGovernor, State.modCore]
theorem askGovernor_unit : (s.askGovernor h re d a idx).core.unit =
    some { id := s.nextId, cmd := .goveval h re d a, d, arg := idx, arg2 := re.toNat, answer := none, fault := none } := by
  simp [State.askGovernor]
theorem mem_asks_askGovernor : ∃ x, (s.taskCtx, idx, s.cur) ∈ ((s.askGovernor h re d a idx).die x).asks := by
  let die := s.fresh.2.tmrDie s.taskCtx idx
  refine ⟨die, ?_⟩
  have hd : (s.askGovernor h re d a idx).die die = (s.fresh.2.die die).asked s.taskCtx idx s.cur := die_setDie _ _ _
  simp [hd, Die.asked]
end

/-! ### A word's look at its record (R218, R219) -/

section
variable {s b : State} {h : Hdr} {d a : Fin 32} {rs : List (Fin 32)} {t : Nat} {eff : Nat → Nat → State → Res}

/-- The TMR that a register names. -/
def tmrIndex (s : State) (a : Fin 32) : Nat := (s.core.readS a).toNat % 2 ^ 20

theorem withTmr_ok {e : Engine} {idx : Nat} {f : Nat → Res} (hr : s.tmrReadable s.taskCtx idx = true)
    (hl : s.tmrLoad s.taskCtx idx = .ok t) : s.withTmr e idx f = f t := by
  simp [State.withTmr, hr, hl]

/-- Where the record can be read, a governor's word does what it does on the record. -/
theorem gov_of_readable (hw : Works s .S h {} (sRegs (a :: rs)) b) (hr : b.tmrReadable b.taskCtx (tmrIndex b a) = true)
    (hl : b.tmrLoad b.taskCtx (tmrIndex b a) = .ok t) :
    s.gov h a rs eff = .next (s.issue .S h {} (s.core.busyFor (sRegs (a :: rs))) (fun _ => eff (tmrIndex b a) t b)) := by
  have hx : b.withTmr .S (tmrIndex b a) (fun t => eff (tmrIndex b a) t b) = eff (tmrIndex b a) t b := withTmr_ok hr hl
  rw [State.gov, works_eff hw, works_eff hw, ← tmrIndex, hx]
theorem gov_done {u : State} (hw : Works s .S h {} (sRegs (a :: rs)) b) (hr : b.tmrReadable b.taskCtx (tmrIndex b a) = true)
    (hl : b.tmrLoad b.taskCtx (tmrIndex b a) = .ok t) (he : eff (tmrIndex b a) t b = .done u) :
    s.gov h a rs eff = .next (Done s .S h u) := by
  rw [gov_of_readable hw hr hl, works_done (eff := fun _ => eff (tmrIndex b a) t b) hw he]

end

/-! ### The governor's words -/

/-- The reserved bits 3 and 22 to 31 of a TMR's header read as zero (R10, R216). -/
theorem header_eq (t : Nat) : Tmr.header t = t % 2 ^ 3 + 2 ^ 4 * (t / 2 ^ 4 % 2 ^ 18) + 2 ^ 32 * (t / 2 ^ 32 % 2 ^ 32) := by
  simp only [Tmr.header, tput, tget, bits]
  omega

section
variable {s b : State} {h : Hdr} {d a k : Fin 32} {t : Nat}

/-- GOVEVAL merges its core's slot, asks for the record's update, and waits for the governor; only as a rebinding
with all eight slots bound to other TMRs would it be an illegal instruction (R215). -/
theorem exec_goveval (re : Bool) (hi : Issues s .S h {} (sRegs [a, d])) (hb : b = Begun s h)
    (hr : b.tmrReadable b.taskCtx (tmrIndex b a) = true) (hl : b.tmrLoad b.taskCtx (tmrIndex b a) = .ok t)
    (hp : re = false ∨ (b.core.stats.filter (fun x => x.rebound.isSome)).length < 8) :
    let v := (b.mergeSlot b.cur (tmrIndex b a)).updateTmr b.taskCtx (tmrIndex b a) .ask
    exec (.goveval h re d a) s = .next (Pending s .S h (v.askGovernor h re d a (tmrIndex b a)) v.nextId) := by
  have pinned : ¬ (re ∧ 8 ≤ (b.core.stats.filter (fun x => x.rebound.isSome)).length
      ∧ !(b.core.stats.filter (fun x => x.rebound.isSome)).any (fun x => x.tmr == tmrIndex b a)) := by
    rintro ⟨hre, hfull, _⟩
    obtain rfl | hfree := hp
    · cases hre
    · omega
  intro v
  change execGoveval h re d a s = _
  rw [execGoveval, gov_of_readable (.inl ⟨hi, hb⟩) hr hl]
  exact congrArg _ (issue_pend hi (if_neg pinned))

theorem exec_govrd_hdr : exec (.govrd h .hdr d a) s = s.gov h a [d] (fun idx t s => .done
    ((s.cacheTmr s.taskCtx idx).setCore ((s.cacheTmr s.taskCtx idx).core.writeS d (BitVec.ofNat 64 (Tmr.header t))))) := rfl
theorem exec_govrd_wslot : exec (.govrd h .wslot d a) s = s.gov h a [d] (fun idx t s =>
    let u := s.cacheTmr s.taskCtx idx
    let w := u.keepVersion idx (u.writeVersion idx t)
    .done (w.setCore (w.core.writeS d (BitVec.ofNat 64 (Tmr.slot t (u.writeVersion idx t)))))) := rfl
theorem exec_govrd_slot : exec (.govrd h (.slot k) d a) s = s.gov h a [d, k] (fun idx t s =>
    let u := s.cacheTmr s.taskCtx idx
    let v := (u.core.readS k).toNat % 2 ^ 16
    .done (u.setCore (u.core.writeS d (BitVec.ofNat 64
      (if Tmr.live t v ∧ imageSeq (Tmr.slot t v) = v then Tmr.slot t v else 2 ^ 64 - 1))))) := rfl

/-- An update is asked for once, at the word's issue, and the word holds its engine while it waits in the record's turn. -/
theorem gov_govUpdate {u : State} (act : State → TmrUpdate) (hw : Works s .S h {} (sRegs [a]) b)
    (hr : b.tmrReadable b.taskCtx (tmrIndex b a) = true) (hl : b.tmrLoad b.taskCtx (tmrIndex b a) = .ok t)
    (hu : (if (b.eng .S).taken then b else b.updateTmr b.taskCtx (tmrIndex b a) (act b)) = u) :
    s.gov h a [] (fun idx _ s => s.govUpdate idx (act s)) =
      .next (if u.coh.tmrs.contains { ctx := b.taskCtx, idx := tmrIndex b a, act := act b } then Holding .S u else Done s .S h u) := by
  have he : b.govUpdate (tmrIndex b a) (act b) =
      if u.coh.tmrs.contains { ctx := b.taskCtx, idx := tmrIndex b a, act := act b } then .hold u else .done u := by
    rw [← hu]; rfl
  rw [gov_of_readable hw hr hl, he]
  split
  · exact congrArg _ (works_hold (eff := fun _ => .hold u) hw (.refl _))
  · exact congrArg _ (works_done (eff := fun _ => .done u) hw (.refl _))

end

end Sys2Proof

open Sys2Proof Sys2Proof.Machine

/-- Settles O22: the words look at a record that can be read, GOVRD answers from it, and GOVEVAL, GOVHOLD and GOVREL update it at its home,
at once where its lines take the update and in its turn elsewhere. -/
theorem governorWords : Obligations.GovernorWords := by
  unfold Obligations.GovernorWords
  refine ⟨?_, ?_, ?_⟩
  · intro s h d r k t b idx c put hr hl
    refine ⟨fun hi => ⟨?_, ?_, ?_⟩, fun hi => ?_⟩
    · rw [exec_govrd_hdr, ← header_eq]
      exact gov_done (.inl ⟨hi, rfl⟩) hr hl rfl
    · rw [exec_govrd_wslot]
      exact gov_done (.inl ⟨hi, rfl⟩) hr hl rfl
    · intro re hp
      have asked : SameTask b ((b.mergeSlot b.cur idx).updateTmr c idx .ask) := (SameTask.mergeSlot _ _ _).trans (.updateTmr _ _ _ _)
      obtain ⟨x, hx⟩ := mem_asks_askGovernor ((b.mergeSlot b.cur idx).updateTmr c idx .ask) h re d r idx
      rw [asked.taskCtx, asked.cur] at hx
      refine ⟨_, x, ?_, ?_, hx⟩ <;> rw [askGovernor_nextId]
      · exact exec_goveval re hi rfl hr hl hp
      · exact askGovernor_unit _ _ _ _ _ _
    · intro v
      have hv : ((b.cacheTmr c idx).core.readS k).toNat % 2 ^ 16 = v := by rw [readS_cacheTmr]
      rw [exec_govrd_slot, ← hv]
      exact gov_done (.inl ⟨hi, rfl⟩) hr hl rfl
  · intro s b h r t hold idx i act p hr hl
    have hx : exec i s = s.gov h r [] (fun idx _ s => s.govUpdate idx (if hold then .hold s.cur else .release s.cur)) := by
      cases hold <;> rfl
    refine ⟨fun hi hb => ?_, fun hi hb => ?_⟩
    · have fresh : (b.eng .S).taken = false := by rw [hb, Begun_eng]; exact hi.fresh
      exact hx.trans (gov_govUpdate _ (.inl ⟨hi, hb⟩) hr hl (by rw [fresh]; rfl))
    · have taken : (b.eng .S).taken = true := by rw [hb]; exact hi.taken
      exact hx.trans (gov_govUpdate _ (.inr ⟨hi, hb⟩) hr hl (by rw [taken]; rfl))
  · intro b c idx t core hl off ready
    refine ⟨fun h => ⟨?_, ?_⟩, fun h act => mem_tmrs_updateTmr act h⟩
    · rw [updateTmr_of_ready _ h]
      exact modTmr_of_load _ hl
    · rw [updateTmr_of_ready _ h]
      exact modTmr_of_load _ hl

end

section
/-! PROOFS. The finish scope words (spec/15 R346 to R352): what FSOPEN, FSCLOSE, FSWAIT and FSTEST answer in each state of the scope
that they name, and what an FSWAIT that waits leaves. -/

namespace Sys2Proof.Machine

/-! ### The states of a scope (R346, R347) -/

theorem Ctx.openable_iff (c : Ctx) (n : Nat) :
    c.openable n = true ↔ n ≠ 0 ∧ ((c.scope n).st = .free ∨ (c.scope n).st = .complete) := by
  simp [Ctx.openable]

theorem Ctx.not_openable {c : Ctx} {n : Nat} (h : n = 0 ∨ (c.scope n).st ≠ .free ∧ (c.scope n).st ≠ .complete) :
    c.openable n = false := by
  rw [Bool.eq_false_iff, ne_eq, Ctx.openable_iff]
  tauto

/-- The scopes that an FSWAIT may not wait for: the root, the issuer's own, and those above it (R352). -/
theorem State.ownOrAbove_iff (s : State) (n : Nat) :
    s.ownOrAbove n = true ↔ n = 0 ∨ scopeWithin (s.ctxOf s.taskCtx) n 256 s.ownScope = true := by
  simp [State.ownOrAbove]

/-! ### What each word does with the scope (R350 to R352) -/

section
variable {s : State} {d : Fin 32} {n : Nat}

/-- An answer is the word's end, its status word in s[d]. -/
theorem State.answer_eq (w : Word64) : s.answer d w = .done (s.setCore (s.core.writeS d w)) := rfl

theorem fsopen_opens (ho : (s.ctxOf s.taskCtx).openable n = true)
    (ha : (s.ctxOf s.taskCtx).accepts s.ownScope (some s.ownScope) = true) :
    s.fsopen d n = (s.setCtx s.taskCtx ((s.ctxOf s.taskCtx).openScope n s.ownScope)).answer d
      (status 0 0 (((s.ctxOf s.taskCtx).openScope n s.ownScope).scope n).gen.toNat) := by
  simp [State.fsopen, ho, ha]
theorem fsopen_not_openable (ho : (s.ctxOf s.taskCtx).openable n = false) : s.fsopen d n = s.answer d (status 2 1 0) := by
  simp [State.fsopen, ho]
theorem fsopen_not_accepted (ho : (s.ctxOf s.taskCtx).openable n = true)
    (ha : (s.ctxOf s.taskCtx).accepts s.ownScope (some s.ownScope) = false) :
    s.fsopen d n = s.answer d (status 2 7 0) := by
  simp [State.fsopen, ho, ha]

theorem fsclose_refused (hx : n = 0 ∨ ((s.ctxOf s.taskCtx).scope n).st ≠ .opened) :
    s.fsclose d n = s.answer d (status 2 1 0) := if_pos hx
theorem fsclose_closes (hn : n ≠ 0) (hx : ((s.ctxOf s.taskCtx).scope n).st = .opened) :
    s.fsclose d n = (s.closeScope s.taskCtx n).answer d (status 0 0 ((s.ctxOf s.taskCtx).scope n).gen.toNat) :=
  if_neg (by simp [hn, hx])

theorem fstest_free (hx : ((s.ctxOf s.taskCtx).scope n).st = .free) :
    s.fstest d n = s.answer d (status 0 0 ((s.ctxOf s.taskCtx).scope n).gen.toNat) := by
  simp only [State.fstest, hx]
theorem fstest_complete (hx : ((s.ctxOf s.taskCtx).scope n).st = .complete) :
    s.fstest d n = (s.acquire .pkg).answer d (status 0 0 ((s.ctxOf s.taskCtx).scope n).gen.toNat) := by
  simp only [State.fstest, hx]
theorem fstest_live (hx : ((s.ctxOf s.taskCtx).scope n).st = .opened ∨ ((s.ctxOf s.taskCtx).scope n).st = .closing) :
    s.fstest d n = s.answer d (status 1 0 ((s.ctxOf s.taskCtx).scope n).gen.toNat) := by
  obtain hx | hx := hx <;> simp only [State.fstest, hx]

variable {h : Hdr} {a : Fin 32}

/-- The state of a core whose FSWAIT waits in the sluice for a generation of a scope. -/
def State.awaitScope (s : State) (h : Hdr) (d a : Fin 32) (n gen : Nat) : State :=
  s.fresh.2.modCore (fun c =>
    { c with unit := some { id := s.nextId, cmd := .fswait h d a, d, arg := n, arg2 := gen, answer := none, fault := none } })

theorem awaitScope_unit (gen : Nat) : (s.awaitScope h d a n gen).core.unit =
    some { id := s.nextId, cmd := .fswait h d a, d, arg := n, arg2 := gen, answer := none, fault := none } := by
  simp [State.awaitScope]
theorem awaitScope_mem (gen : Nat) : (s.awaitScope h d a n gen).mem = s.mem := by
  simp [State.awaitScope]
theorem awaitScope_s (gen : Nat) : (s.awaitScope h d a n gen).core.s = s.core.s := by
  have fresh : s.fresh.2.core = s.core := rfl
  simp [State.awaitScope, fresh]

theorem fswait_free (hx : ((s.ctxOf s.taskCtx).scope n).st = .free) :
    s.fswait h d a n = s.answer d (status 0 0 ((s.ctxOf s.taskCtx).scope n).gen.toNat) := by
  simp only [State.fswait, hx]
theorem fswait_complete (hx : ((s.ctxOf s.taskCtx).scope n).st = .complete) :
    s.fswait h d a n = (s.acquire .pkg).answer d (status 0 0 ((s.ctxOf s.taskCtx).scope n).gen.toNat) := by
  simp only [State.fswait, hx]
/-- FSWAIT waits for a generation that has not completed, unless its own task is within the scope. -/
theorem fswait_live (hx : ((s.ctxOf s.taskCtx).scope n).st = .opened ∨ ((s.ctxOf s.taskCtx).scope n).st = .closing) :
    s.fswait h d a n = if s.ownOrAbove n then s.answer d (status 2 2 0)
      else .pend (s.awaitScope h d a n ((s.ctxOf s.taskCtx).scope n).gen.toNat) s.nextId := by
  obtain hx | hx := hx <;> simp only [State.fswait, hx] <;> rfl

end

/-! ### The words at their issue (R348) -/

section
variable {s : State} {i : Instr} {h : Hdr} {rs : List (Fin 32)} {d : Fin 32} {eff : State → Res}

/-- A word of the sluice that issues and answers is done, its status word in s[d]. -/
theorem sluiceOp_done {t : State} {w : Word64} (hi : Issues s .S h {} (sRegs rs)) (he : eff (Begun s h) = t.answer d w) :
    s.sluiceOp h rs eff = .next (Done s .S h (t.setCore (t.core.writeS d w))) :=
  congrArg Host.Outcome.next (issue_done hi (he.trans (State.answer_eq w)))
theorem sluiceOp_pending {t : State} {id : Nat} (hi : Issues s .S h {} (sRegs rs)) (he : eff (Begun s h) = .pend t id) :
    s.sluiceOp h rs eff = .next (Pending s .S h t id) :=
  congrArg Host.Outcome.next (issue_pend hi he)

/-- The scope that a register names. -/
def scopeIndex (s : State) (a : Fin 32) : Nat := (s.core.readS a).toNat % 256

theorem exec_fsopen (h : Hdr) (d a : Fin 32) (s : State) :
    exec (.fsopen h d a) s = s.sluiceOp h [d, a] (fun s => s.fsopen d (scopeIndex s a)) := rfl
theorem exec_fsclose (h : Hdr) (d a : Fin 32) (s : State) :
    exec (.fsclose h d a) s = s.sluiceOp h [d, a] (fun s => s.fsclose d (scopeIndex s a)) := rfl
theorem exec_fswait (h : Hdr) (d a : Fin 32) (s : State) :
    exec (.fswait h d a) s = s.sluiceOp h [d, a] (fun s => s.fswait h d a (scopeIndex s a)) := rfl
theorem exec_fstest (h : Hdr) (d a : Fin 32) (s : State) :
    exec (.fstest h d a) s = s.sluiceOp h [d, a] (fun s => s.fstest d (scopeIndex s a)) := rfl

end

end Sys2Proof.Machine

open Sys2Proof Sys2Proof.Machine

/-- Settles O18, by the state of the scope that the word names at its issue. -/
theorem finishScopeWords : Obligations.FinishScopeWords := by
  unfold Obligations.FinishScopeWords
  intro s h d r hi b n c x status
  rw [exec_fsopen, exec_fsclose, exec_fswait, exec_fstest]
  refine ⟨fun hn hx ha => ?_, fun hx => ?_, fun hn hx ha => ?_, fun hx => ?_, fun hn hx => ?_, fun hx => ⟨?_, ?_⟩, fun hx => ⟨?_, ?_⟩,
    fun hx => ⟨?_, fun hw => ?_, fun hn hw => ?_⟩⟩
  · exact sluiceOp_done hi (fsopen_opens ((c.openable_iff n).mpr ⟨hn, hx⟩) ha)
  · exact sluiceOp_done hi (fsopen_not_openable (Ctx.not_openable hx))
  · exact sluiceOp_done hi (fsopen_not_accepted ((c.openable_iff n).mpr ⟨hn, hx⟩) ha)
  · exact sluiceOp_done hi (fsclose_refused hx)
  · exact sluiceOp_done hi (fsclose_closes hn hx)
  · exact sluiceOp_done hi (fswait_free hx)
  · exact sluiceOp_done hi (fstest_free hx)
  · exact sluiceOp_done hi (fswait_complete hx)
  · exact sluiceOp_done hi (fstest_complete hx)
  · exact sluiceOp_done hi (fstest_live hx)
  · exact sluiceOp_done hi ((fswait_live hx).trans (if_pos ((b.ownOrAbove_iff n).mpr hw)))
  · have waits : b.ownOrAbove n ≠ true := fun ho => by
      obtain h0 | hin := (b.ownOrAbove_iff n).mp ho
      · exact hn h0
      · exact Bool.false_ne_true (hw.symm.trans hin)
    exact ⟨_, sluiceOp_pending hi ((fswait_live hx).trans (if_neg waits)), awaitScope_unit _, awaitScope_mem _, awaitScope_s _⟩

end

section
/-! PROOFS. The scalar words that write a register or a predicate (spec/05 R127 to R138): the integer, immediate, compare and FP32 words, the
index-register block and TIME, and what a word whose guard fails does (R47). -/

namespace Sys2Proof.Machine

/-! ### Words that write a predicate (R131 to R133, R137) -/

section
variable {s : State} {i : Instr} {h : Hdr} {p : Fin 8} {rs : List (Fin 32)}

/-- A word built on `State.pop` writes its result to p[p] and raises its flags. -/
theorem gives_of_pop {f : Core → Bool × Flags} {u : Core → Core} (hx : exec i s = s.pop h p rs f)
    (hu : ∀ c : Core, (c.writeP p (f c).1).addFlags .S (f c).2 = u c) : Gives i s .S h {} (sRegs rs) u := by
  intro hi
  obtain rfl : (fun c : Core => (c.writeP p (f c).1).addFlags .S (f c).2) = u := funext hu
  exact hx.trans (congrArg Host.Outcome.next (issue_done hi rfl))

/-- One that raises no flag writes p[p] alone. -/
theorem gives_of_pop_noFlags {g : Core → Bool} (hx : exec i s = s.pop h p rs (fun c => (g c, 0))) :
    Gives i s .S h {} (sRegs rs) (fun c => c.writeP p (g c)) :=
  gives_of_pop hx (fun c => addFlags_zero (c.writeP p (g c)) .S)

end

/-- The ten conditions as comparisons of integers (R131). -/
theorem intCondHolds_eq (c : IntCond) (x y : Word64) : intCondHolds c x y =
    match c with
    | .eq => x == y | .ne => x != y
    | .lt => decide (x.toInt < y.toInt) | .ge => decide (y.toInt ≤ x.toInt)
    | .ltu => decide (x.toNat < y.toNat) | .geu => decide (y.toNat ≤ x.toNat)
    | .le => decide (x.toInt ≤ y.toInt) | .gt => decide (y.toInt < x.toInt)
    | .leu => decide (x.toNat ≤ y.toNat) | .gtu => decide (y.toNat < x.toNat) := by
  cases c <;>
    simp [intCondHolds, BitVec.slt, BitVec.sle, BitVec.ult, BitVec.ule, ← decide_not]

/-! ### Integer words (R127) -/

/-- The high word of an unsigned product. -/
theorem mulHigh_unsigned (x y : Word64) : mulHigh true x y = BitVec.ofNat 64 (x.toNat * y.toNat / 2 ^ 64) := by
  rw [← BitVec.ofInt_natCast]; rfl

theorem sg_le_unsigned (x y : Word64) : sg true x ≤ sg true y ↔ x.toNat ≤ y.toNat := Int.ofNat_le

/-! ### FP32 words (R135) -/

/-- A result with no flag of its own raises the rounding's. -/
theorem f32Result_exact (rm : Rounding) (sat : Bool) (v : Val) :
    f32Result rm sat v = (BitVec.ofNat 64 (Fmt.f32.quant rm sat v).1, (Fmt.f32.quant rm sat v).2) :=
  congrArg _ BitVec.or_zero

section
variable (h : Hdr) (rm : Rounding) (sat : Bool) (d a b : Fin 32) (s : State)

theorem exec_fadd : exec (.fadd h rm sat d a b) s =
    s.sop h d [a, b] (fun c => f32Result rm sat (Val.add rm (f32 (c.readS a)) (f32 (c.readS b)))) := rfl
theorem exec_fsub : exec (.fsub h rm sat d a b) s =
    s.sop h d [a, b] (fun c => f32Result rm sat (Val.sub rm (f32 (c.readS a)) (f32 (c.readS b)))) := rfl
theorem exec_fmul : exec (.fmul h rm sat d a b) s =
    s.sop h d [a, b] (fun c => f32Result rm sat (Val.mul (f32 (c.readS a)) (f32 (c.readS b)))) := rfl
theorem exec_ffma : exec (.ffma h rm sat d a b) s =
    s.sop h d [a, b] (fun c => f32Result rm sat (Val.fma rm (f32 (c.readS a)) (f32 (c.readS b)) (f32 (c.readS d)))) := rfl
theorem exec_fdiv : exec (.fdiv h rm sat d a b) s =
    s.sop h d [a, b] (fun c => f32Result rm sat (Val.div (f32 (c.readS a)) (f32 (c.readS b))).1
      (Val.div (f32 (c.readS a)) (f32 (c.readS b))).2) := rfl
theorem exec_fsqrt : exec (.fsqrt h rm sat d a) s =
    s.sop h d [a] (fun c => f32Result rm sat (Val.sqrt (f32 (c.readS a)))) := rfl
theorem exec_fmin : exec (.fmin h d a b) s = s.sop h d [a, b] (fun c =>
    let r := minMax .f32 false ((c.readS a).toNat % 2 ^ 32) ((c.readS b).toNat % 2 ^ 32)
    (BitVec.ofNat 64 r.1, r.2)) := rfl
theorem exec_fmax : exec (.fmax h d a b) s = s.sop h d [a, b] (fun c =>
    let r := minMax .f32 true ((c.readS a).toNat % 2 ^ 32) ((c.readS b).toNat % 2 ^ 32)
    (BitVec.ofNat 64 r.1, r.2)) := rfl
theorem exec_fcvt (c : Conv) : exec (.fcvt h rm sat c d a) s = s.sop h d [a] (fun k => fcvt c rm sat (k.readS a)) := rfl
theorem exec_fcmp (c : FpCond) (p : Fin 8) : exec (.fcmp h c p a b) s =
    s.pop h p [a, b] (fun k => fpCompare c (f32 (k.readS a)) (f32 (k.readS b))) := rfl

end

/-! ### The index-register block (R126) -/

/-- A word built on `State.kop` writes its result to k[d] of its engine. -/
theorem gives_of_kop {s : State} {i : Instr} {e : Engine} {h : Hdr} {d : Fin 16} (f : (Fin 16 → Word64) → Word64)
    (hx : exec i s = s.kop e h d f) : Gives i s e h {} [] (fun c => c.writeK e d (f (c.readK e))) :=
  fun hi => hx.trans (congrArg Host.Outcome.next (issue_done_nil hi rfl))

/-! ### TIME (R138) -/

/-- A rate divides the 3,696 parts of a fabric cycle, and no point runs faster than the fabric. -/
theorem pointRate_cases (op : Nat) : pointRate op ∈ [33, 28, 22, 16] := by
  unfold pointRate
  split <;> decide

/-- The edge of a core's present cycle stands at most three fabric cycles before now, and not after it. -/
theorem edgeOf_bounds (s : State) (n : Nat) (h : (s.island (coreIsland n)).since ≤ s.fabric) :
    s.edgeOf n ≤ s.fabric * 3696 ∧ (s.fabric - 3) * 3696 ≤ s.edgeOf n := by
  have hr := pointRate_cases (s.island (coreIsland n)).op
  simp only [State.edgeOf]
  simp only [List.mem_cons, List.not_mem_nil, or_false] at hr
  rcases hr with hr | hr | hr | hr <;> rw [hr] <;> omega

/-- At point 0 with no cycle begun, it stands at now. -/
theorem edgeOf_point0 (s : State) (n : Nat) (h : (s.island (coreIsland n)).since ≤ s.fabric)
    (hop : (s.island (coreIsland n)).op = 0) (hfrac : (s.island (coreIsland n)).frac = 0) : s.edgeOf n = s.fabric * 3696 := by
  simp only [State.edgeOf, hop, hfrac, pointRate]
  omega

theorem exec_time (h : Hdr) (d : Fin 32) (s : State) : exec (.time h d) s =
    .next (s.issue .S h {} (s.core.busyFor (sRegs [d])) (fun s =>
      .done (s.setCore (s.core.writeS d (BitVec.ofNat 64 (s.coreTime s.cur)))))) := rfl

theorem coreTime_awake {s : State} {n : Nat} (h : (s.island (coreIsland n)).asleep = false) :
    s.coreTime n = s.edgeOf n * 10 / (33 * 3696) := by
  simp [State.coreTime, h]

/-! ### Words whose guard fails (R47) -/

/-- A word built on `State.issue` whose guard fails goes past with its WAIT and SIGNAL bytes alone performed (R47). -/
theorem issue_guard_next {s : State} {h : Hdr} (hf : (s.eng .S).taken = false) (hw : s.core.waitOk h.wait = true)
    (hg : s.core.readP h.guard = h.neg) {n : Names} (hl : s.illegal? .S h n = none) (hb : (n.branch && (s.eng .S).endsLoop) = false)
    {busy : Bool} {eff : State → Res} : (.next (s.issue .S h n busy eff) : Out) = .next (Done s .S h (Begun s h)) :=
  congrArg _ (issue_guard hf hl hw hb hg)

end Sys2Proof.Machine

open Sys2Proof Sys2Proof.Machine

/-- Settles O1: each word is a function of its sources that raises no flag. -/
theorem scalarIntegerResults : Obligations.ScalarIntegerResults := by
  unfold Obligations.ScalarIntegerResults
  refine ⟨fun s h d a b => ?_, fun s h d a imm n long => ?_⟩
  · simp only [← mulHigh_unsigned, ← sg_le_unsigned]
    refine ⟨?_, ?_, ?_, ?_, ?_, ?_, ?_, ?_, ?_, ?_, ?_, ?_, ?_, ?_, ?_, ?_, ?_⟩ <;> exact gives_of_sop_noFlags (rs := [a, b]) rfl
  · refine ⟨?_, ?_, ?_, ?_, ?_, ?_, ?_, ?_, gives_of_sop_noFlags (rs := []) rfl, gives_of_sop_noFlags (rs := []) rfl⟩ <;>
      exact gives_of_sop_noFlags (rs := [a]) rfl

/-- Settles O4, by the comparison that each condition stands for. -/
theorem predicateResults : Obligations.PredicateResults := by
  unfold Obligations.PredicateResults
  intro s h c p q r a b imm f holds
  have hc : holds = intCondHolds c := funext fun x => funext fun y => (intCondHolds_eq c x y).symm
  rw [hc]
  exact ⟨gives_of_pop_noFlags (rs := [a, b]) rfl, gives_of_pop_noFlags (rs := [a]) rfl, gives_of_pop_noFlags (rs := []) rfl,
    gives_of_sop_noFlags (rs := []) rfl, gives_of_pop_noFlags (rs := [a]) rfl⟩

/-- Settles O5: each word rounds the exact result once, and no flag but the rounding's and the division's is raised. -/
theorem scalarFloatResults : Obligations.ScalarFloatResults := by
  unfold Obligations.ScalarFloatResults
  intro s h rm sat d a b p R x put round
  have hround (v : Val) (c : Core) : (c.writeS d (f32Result rm sat v).1).addFlags .S (f32Result rm sat v).2 = put c (round v) := by
    rw [f32Result_exact]
  have arith {i : Instr} {rs : List (Fin 32)} {f : Core → Val} (hx : exec i s = s.sop h d rs (fun c => f32Result rm sat (f c))) :
      Gives i s .S h {} (sRegs (d :: rs)) (fun c => put c (round (f c))) := gives_of_sop hx (fun c => hround (f c) c)
  refine ⟨arith (rs := [a, b]) (exec_fadd h rm sat d a b s), arith (rs := [a, b]) (exec_fsub h rm sat d a b s),
    arith (rs := [a, b]) (exec_fmul h rm sat d a b s), arith (rs := [a, b]) (exec_ffma h rm sat d a b s),
    gives_of_sop (exec_fdiv h rm sat d a b s) (fun _ => rfl), arith (rs := [a]) (exec_fsqrt h rm sat d a s),
    gives_of_sop (exec_fmin h d a b s) (fun _ => rfl), gives_of_sop (exec_fmax h d a b s) (fun _ => rfl),
    fun cv => gives_of_sop (exec_fcvt h rm sat d a s cv) (fun _ => rfl), fun k => gives_of_pop (exec_fcmp h a b s k p) (fun _ => rfl)⟩

/-- Settles O6: TIME stands at the edge of the core's present cycle, which the rates of the four points bound. -/
theorem indexRegisterResults : Obligations.IndexRegisterResults := by
  unfold Obligations.IndexRegisterResults
  intro s e h d a b r imm
  refine ⟨fun _ => ⟨gives_of_kop (fun _ => imm.signExtend 64) rfl, gives_of_kop (fun k => k a + imm.signExtend 64) rfl,
    gives_of_kop (fun k => k a + k b) rfl, gives_of_kop (fun k => k a - k b) rfl, gives_of_kop (fun k => k a * k b) rfl,
    gives_of_kop (fun k => k a <<< ((k b).toNat % 64)) rfl, gives_of_kop (fun k => k a >>> ((k b).toNat % 64)) rfl,
    gives_of_kop (fun k => k a &&& k b) rfl⟩, fun hi => (exec_time h r s).trans (congrArg Host.Outcome.next (issue_done hi rfl)), ?_⟩
  intro i hawake hsince
  obtain ⟨hle, hge⟩ := edgeOf_bounds s s.cur hsince
  rw [coreTime_awake hawake]
  refine ⟨by omega, by omega, fun hop hfrac => ?_⟩
  rw [edgeOf_point0 s s.cur hsince hop hfrac]
  omega

/-- Settles O7: each word of S is one issue under its names, and an issue whose guard fails does nothing else. -/
theorem guardedWords : Obligations.GuardedWords := by
  unfold Obligations.GuardedWords
  intro s h u re x tp d a b p q r hd n tq w len cnt g m16 num im23 im27 im32 off18 off9 tt rm sat cv ic fc pol sc sz op ord kind item
    i names hf hl hw hb hg N hmem
  have issued {n : Names} (hl : s.illegal? .S h n = none) (hb : (n.branch && (s.eng .S).endsLoop) = false) {busy : Bool} {eff : State → Res} :=
    issue_guard_next hf hw hg hl hb (busy := busy) (eff := eff)
  suffices key : ∀ w : Instr × Names, w ∈ _ → s.illegal? .S h w.2 = none → (w.2.branch && (s.eng .S).endsLoop) = false →
      exec w.1 s = .next (Done s .S h (Begun s h)) from key (i, names) hmem hl hb
  clear hmem
  simp only [List.map_cons, List.map_nil, List.forall_mem_append, List.forall_mem_cons, List.not_mem_nil, false_implies, implies_true, and_true]
  and_intros <;> intro hl hb
  -- LOOP and PMOV are one issue for each form of their operand.
  all_goals try exact issued hl hb
  · cases cnt <;> exact issued hl hb
  · cases u <;> exact issued hl hb

end

section
/-! PROOFS. Frames of words (spec/04 R113, spec/05): what retiring, signals and traps leave of every view of a core that they do not
write, what the issue of a word leaves, and the frames of the scalar words. -/

namespace Sys2Proof

open Machine

/-! ### Views that couplings and traps leave alone -/

/-- A view of a core that caches, couplings and traps do not enter, nor what an engine has besides its index registers and flags. -/
structure Steady {α : Type} (g : Core → α) : Prop where
  caches : CacheFree g
  couplings : ∀ c q h k m f b, g { c with queues := q, handles := h, clocks := k, sample := m, checker := f, blockedSince := b } = g c
  engine : ∀ c e x, x.k = (c.eng e).k → x.flags = (c.eng e).flags → g (c.setEng e x) = g c
  entry : ∀ c e pc x, g (c.trapEntry e pc x) = g c
  double : ∀ c pc x, g (c.doubleTrap pc x) = g c
  stop : ∀ c, g c.stopAll = g c

/-- The registers that instructions name, and every engine's flags. -/
def regsAndFlags (c : Core) : Regs × (Engine → Flags) := (regsOf c, fun e => (c.eng e).flags)

theorem steady_regsAndFlags : Steady regsAndFlags where
  caches _ _ _ := rfl
  couplings _ _ _ _ _ _ _ := rfl
  engine c e x hk hf := by
    refine Prod.ext (regsOf_setEng c e x hk) (funext fun f => ?_)
    by_cases h : f = e
    · subst h; simp [regsAndFlags, hf]
    · simp [regsAndFlags, Core.setEng_eng_other _ _ _ _ h]
  entry c e pc x := by simp only [regsAndFlags, regsOf, Core.trapEntry]; congr 2 <;> funext f <;> cases f <;> rfl
  double _ _ _ := rfl
  stop c := by simp only [regsAndFlags, regsOf, Core.stopAll]; congr 2 <;> funext f <;> cases f <;> rfl

section
variable {α : Type} {g : Core → α} (hg : Steady g)
include hg

theorem Steady.modEng (s : State) (e : Engine) (f : Eng → Eng) (hk : (f (s.eng e)).k = (s.eng e).k)
    (hf : (f (s.eng e)).flags = (s.eng e).flags) : Same g s (s.modEng e f) := Same.setCore s _ (hg.engine _ _ _ hk hf)
theorem Steady.learnAll (c : Core) (k : Clock) : g (c.learnAll k) = g c := hg.couplings c _ _ _ _ _ _
theorem Steady.setQueue (c : Core) (q : Fin 16) (l : List Word32) : g (c.setQueue q l) = g c := by
  unfold Core.setQueue
  split
  · exact hg.couplings c _ _ _ _ _ _
  · rfl
theorem Steady.teachPush (c : Core) (q : Fin 16) (k : Clock) : g (c.teachPush q k) = g c := by
  unfold Core.teachPush
  split
  · exact hg.couplings c _ _ _ _ _ _
  · rfl
theorem Steady.pushTokens (c : Core) (q : Fin 16) (ts : List Word32) : g (c.pushTokens q ts) = g c :=
  (hg.couplings (c.setQueue q (c.queue q ++ ts)) _ _ _ _ _ _).trans (hg.setQueue c q _)
theorem Steady.takeWait (c : Core) (w : Wait) : g (c.takeWait w) = g c := by
  obtain ⟨_, _, _, h⟩ := c.takeWait_eq w; rw [h]; exact hg.couplings c _ _ _ _ _ _
theorem Steady.perform {c c' : Core} {x : Signal} {t : Option TrapInfo} (h : c.perform x = some (c', t)) : g c' = g c := by
  cases x <;> simp only [Core.perform] at h
  case none => cases h; rfl
  case push => split at h <;> cases h; exact hg.pushTokens c _ _
  case release => split at h <;> cases h <;> first | rfl | exact hg.couplings c _ _ _ _ _ _
  case arm => split at h <;> cases h <;> first | rfl | exact hg.couplings c _ _ _ _ _ _
theorem Steady.noteSig (c d : Core) (e : Engine) (x : SigEntry) : g (c.noteSig e x d) = g c := by
  obtain ⟨_, h⟩ := noteSig_eq c d e x; rw [h]; exact hg.couplings c _ _ _ _ _ _

/-- TAKING A TRAP changes no such view. -/
theorem Steady.takeTrap (s : State) (e : Engine) (pc : Nat) (x : TrapInfo) : Same g s (s.takeTrap e pc x) := by
  unfold State.takeTrap
  split
  · split
    · exact (Same.setCore s _ (hg.double _ _ _)).trans (.abandon hg.caches hg.stop _ _ _)
    · exact hg.modEng _ _ _ rfl rfl
  · have h : Same g s (s.setCore ((s.core.trapEntry e pc x).learnAll (Clock.all s.nextId))) :=
      .setCore _ _ ((hg.learnAll _ _).trans (hg.entry _ _ _ _))
    dsimp only
    split
    · exact h.trans (.postTrapEvent hg.caches _ _ _ _)
    · exact h
theorem Steady.lateTrap (s : State) (e : Engine) (b : Bool) (pc : Nat) (x : TrapInfo) : Same g s (s.lateTrap e b pc x) := by
  unfold State.lateTrap
  split
  · exact hg.modEng _ _ _ rfl rfl
  · exact hg.takeTrap _ _ _ _
theorem Steady.teach (s : State) (e : Engine) (x : Signal) : Same g s (s.teach e x) := by
  cases x with
  | none => exact .rfl
  | arm _ => exact .rfl
  | push _ q => exact Same.setCore s _ ((hg.couplings _ _ _ _ _ _ _).trans (hg.teachPush s.core q _))
  | release _ => exact Same.setCore s _ ((hg.couplings _ _ _ _ _ _ _).trans (hg.learnAll s.core _))
theorem Steady.follow (s : State) (e : Engine) (x : SigEntry) : Same g s (s.follow e x) := by
  unfold State.follow
  split
  · exact .rfl
  · exact hg.lateTrap _ _ _ _ _
  · exact hg.modEng _ _ _ rfl rfl
  · split
    · exact .abandon hg.caches hg.stop _ _ _
    · exact .rfl
theorem Steady.flushSigs (e : Engine) (xs : List SigEntry) (s : State) : Same g s (s.flushSigs e xs) := by
  induction xs generalizing s with
  | nil => exact hg.modEng _ _ _ rfl rfl
  | cons x xs ih =>
    unfold State.flushSigs
    split
    · exact hg.modEng _ _ _ rfl rfl
    · split
      · exact hg.modEng _ _ _ rfl rfl
      · next c h =>
        have hc := (Same.setCore s _ ((hg.noteSig c s.core e x).trans (hg.perform h))).trans (hg.teach _ e x.sig)
        dsimp only
        split
        · exact hc.trans (ih _)
        · exact (hc.trans (hg.modEng _ _ _ rfl rfl)).trans (hg.follow _ _ _)
      · next h => exact ((Same.setCore s _ (hg.perform h)).trans (hg.modEng _ _ _ rfl rfl)).trans (hg.lateTrap _ _ _ _ _)
theorem Steady.signal (s : State) (e : Engine) (id : Nat) (r : Bool) (pc : Nat) (x : Signal) : Same g s (s.signal e id r pc x) := by
  unfold State.signal; split <;> exact hg.flushSigs _ _ _
theorem Steady.begin (s : State) (e : Engine) (h : Hdr) : Same g s (s.begin e h) := by
  unfold State.begin
  split
  · exact .rfl
  · exact .setCore _ _ ((hg.couplings _ _ _ _ _ _ _).trans (hg.takeWait s.core h.wait))

end

/-! ### What a word leaves that its effect does not touch -/

/-- What retiring, signals and traps make of a state: the registers, the flags and the core with the turn as they were, and nothing
outside the core changed unless trap mode was entered or left. -/
structure Leads (s t : State) : Prop where
  same : Same regsAndFlags s t
  quiet : t.core.trap.mode = s.core.trap.mode → SameOutside s t

theorem Leads.rfl {s : State} : Leads s s := ⟨.rfl, fun _ => .rfl⟩
theorem Leads.takeTrap (s : State) (e : Engine) (pc : Nat) (x : TrapInfo) : Leads s (s.takeTrap e pc x) :=
  ⟨steady_regsAndFlags.takeTrap _ _ _ _, takeTrap_outside _ _ _ _⟩
theorem Leads.modEng (s : State) (e : Engine) (f : Eng → Eng) (hk : (f (s.eng e)).k = (s.eng e).k)
    (hf : (f (s.eng e)).flags = (s.eng e).flags) : Leads s (s.modEng e f) :=
  ⟨steady_regsAndFlags.modEng _ _ _ hk hf, fun _ => .modEng _ _ _⟩
/-- An engine's own update before what leads on changes no trap mode. -/
theorem Leads.of_modEng {s t : State} {e : Engine} {f : Eng → Eng} (hk : (f (s.eng e)).k = (s.eng e).k)
    (hf : (f (s.eng e)).flags = (s.eng e).flags) (h : Leads (s.modEng e f) t) : Leads s t where
  same := (steady_regsAndFlags.modEng _ _ _ hk hf).trans h.same
  quiet hm := (SameOutside.modEng s e f).trans (Eq.refl _) (h.quiet (hm.trans (by simp)))
theorem Leads.signal (s : State) (e : Engine) (id : Nat) (r : Bool) (pc : Nat) (x : Signal) : Leads s (s.signal e id r pc x) :=
  ⟨steady_regsAndFlags.signal _ _ _ _ _ _, signal_outside _ _ _ _ _ _⟩
theorem Leads.retire (s : State) (e : Engine) (h : Hdr) (pc : Nat) : Leads s (s.retire e h pc) :=
  .of_modEng (advance_k _) (advance_flags _) (.signal _ _ _ _ _ _)

/-- The state that a result of a word's effect is about: for a stall or a trap the one before the word, with what its function does. -/
def Machine.Res.about (r : Res) (s : State) : State :=
  match r with
  | .done t | .goto t _ | .resume t | .pend t _ | .hold t | .doneThen t _ | .stop t => t
  | .stall f | .trap f _ => f s

/-- A word that goes on to nothing more than its own effect and its signal. -/
def Machine.Res.plain : Res → Bool
  | .doneThen _ _ => false
  | _ => true

/-- THE ISSUE OF A WORD leads on from the state before it, from its WAIT byte taken, or from what its effect is about. -/
theorem issue_leads (s : State) (e : Engine) (h : Hdr) (n : Names) (b : Bool) (eff : State → Res) (hp : (eff (s.begin e h)).plain = true) :
    Leads s (s.issue e h n b eff) ∨ Leads (s.begin e h) (s.issue e h n b eff)
      ∨ Leads ((eff (s.begin e h)).about s) (s.issue e h n b eff) := by
  unfold State.issue
  dsimp only
  split
  · exact .inl (.takeTrap _ _ _ _)
  · split
    · exact .inl .rfl
    · split
      · exact .inl (.takeTrap _ _ _ _)
      · split
        · exact .inr (.inl (.retire _ _ _ _))
        · split
          · exact .inl .rfl
          · refine .inr (.inr ?_)
            generalize eff _ = r at hp ⊢
            cases r with
            | done t => exact .retire _ _ _ _
            | goto t p => exact .of_modEng (Eq.refl _) (Eq.refl _) (.signal _ _ _ _ _ _)
            | resume t => exact .signal _ _ _ _ _ _
            | pend t i => exact .of_modEng (advance_k _) (advance_flags _) (.signal _ _ _ _ _ _)
            | stall f => exact .rfl
            | hold t => exact .modEng _ _ _ (Eq.refl _) (Eq.refl _)
            | trap f x => exact .takeTrap _ _ _ _
            | doneThen t a => cases hp
            | stop t => exact .of_modEng (Eq.refl _) (Eq.refl _) (.signal _ _ _ _ _ _)

theorem begin_trap (s : State) (e : Engine) (h : Hdr) : (s.begin e h).core.trap = s.core.trap := by
  unfold State.begin
  split
  · rfl
  · simp
theorem begin_outside (s : State) (e : Engine) (h : Hdr) : SameOutside s (s.begin e h) := by
  unfold State.begin
  split
  · exact .rfl
  · exact .setCore _ _
theorem begin_cur (s : State) (e : Engine) (h : Hdr) : (s.begin e h).cur = s.cur := (steady_regsAndFlags.begin s e h).cur
theorem begin_regsAndFlags (s : State) (e : Engine) (h : Hdr) : regsAndFlags (s.begin e h).core = regsAndFlags s.core :=
  (steady_regsAndFlags.begin s e h).core

/-- What a word leaves whose effect, where it goes on, puts another core in place: the registers and flags are those before it or those
that the effect leaves of a core that has them; nothing outside the core changed where no trap was met. -/
theorem frame_of_setCore {s t : State} {e : Engine} {h : Hdr} {n : Names} {b : Bool} {f : State → Core}
    (ht : t = s.issue e h n b (fun u => .done (u.setCore (f u)))) (hf : ∀ u, (f u).trap = u.core.trap) :
    (∃ u : State, regsAndFlags u.core = regsAndFlags s.core
      ∧ (regsAndFlags t.core = regsAndFlags u.core ∨ regsAndFlags t.core = regsAndFlags (f u))) ∧ QuietOutside s t := by
  subst ht
  obtain h1 | h1 | h1 := issue_leads s e h n b (fun u => .done (u.setCore (f u))) rfl
  · exact ⟨⟨s, .refl _, .inl h1.same.core⟩, fun hm => h1.quiet (congrArg _ hm)⟩
  · refine ⟨⟨_, begin_regsAndFlags s e h, .inl h1.same.core⟩, fun hm => ?_⟩
    exact (begin_outside s e h).trans (begin_cur s e h) (h1.quiet (congrArg _ (hm.trans (begin_trap s e h).symm)))
  · have hc : ((s.begin e h).setCore (f (s.begin e h))).core = f (s.begin e h) := State.setCore_core _ _
    refine ⟨⟨_, begin_regsAndFlags s e h, .inr (h1.same.core.trans (congrArg _ hc))⟩, fun hm => ?_⟩
    refine ((begin_outside s e h).trans (begin_cur s e h) (.setCore _ _)).trans (begin_cur s e h) (h1.quiet (congrArg _ ?_))
    exact hm.trans (((congrArg Core.trap hc).trans (hf _)).trans (begin_trap s e h)).symm

/-! ### Words that write one register or predicate -/

theorem regsOf_addFlags (c : Core) (e : Engine) (fl : Flags) : regsOf (c.addFlags e fl) = regsOf c := regsOf_setEng c e _ rfl
theorem addFlags_flags (c : Core) (e : Engine) (fl : Flags) : ((c.addFlags e fl).eng e).flags = (c.eng e).flags ||| fl := by
  simp [Core.addFlags]
theorem addFlags_flags_other (c : Core) {e f : Engine} (fl : Flags) (h : f ≠ e) : ((c.addFlags e fl).eng f).flags = (c.eng f).flags := by
  rw [Core.addFlags, Core.setEng_eng_other _ _ _ _ h]
theorem addFlags_trap (c : Core) (e : Engine) (fl : Flags) : (c.addFlags e fl).trap = c.trap := Core.setEng_trap _ _ _
theorem regsOf_writeS (c : Core) (d : Fin 32) (v : Word64) : regsOf (c.writeS d v) = { regsOf c with s := (c.writeS d v).s } := by
  unfold Core.writeS; split <;> rfl
theorem regsOf_writeP (c : Core) (p : Fin 8) (v : Bool) : regsOf (c.writeP p v) = { regsOf c with p := (c.writeP p v).p } := by
  unfold Core.writeP; split <;> rfl
theorem writeS_eng (c : Core) (d : Fin 32) (v : Word64) (e : Engine) : (c.writeS d v).eng e = c.eng e := by
  unfold Core.writeS; split <;> cases e <;> rfl
theorem writeP_eng (c : Core) (p : Fin 8) (v : Bool) (e : Engine) : (c.writeP p v).eng e = c.eng e := by
  unfold Core.writeP; split <;> cases e <;> rfl
theorem writeP_trap (c : Core) (p : Fin 8) (v : Bool) : (c.writeP p v).trap = c.trap := by unfold Core.writeP; split <;> rfl
theorem readP_writeP_other (c : Core) {p x : Fin 8} (v : Bool) (h : x ≠ p ∨ x = 0) : (c.writeP p v).readP x = c.readP x := by
  unfold Core.writeP
  split
  · rfl
  · obtain h | rfl := h
    · have hv : p.val ≠ x.val := fun e => h (Fin.ext e.symm)
      simp [Core.readP, Vector.getElem_set_ne _ _ hv]
    · rfl
theorem readS_of_regs {c d : Core} (h : regsOf c = regsOf d) (r : Fin 32) : c.readS r = d.readS r := by
  simp only [Core.readS]; rw [show c.s = d.s from congrArg Regs.s h]
theorem readP_of_regs {c d : Core} (h : regsOf c = regsOf d) (r : Fin 8) : c.readP r = d.readP r := by
  simp only [Core.readP]; rw [show c.p = d.p from congrArg Regs.p h]

/-- Flags that only grow clear none (R113). -/
theorem flags_kept (x y : Flags) : x &&& ~~~ (x ||| y) = 0 := by
  ext i hi
  simp
  intro h1 h2
  simp [h1] at h2

/-- What a word leaves of flags: S's with those that it raised added, the other engines' as they were. -/
structure Raises (s t : State) (fl : Flags) : Prop where
  own : t.core.engS.flags = s.core.engS.flags ||| fl
  others : ∀ e, e ≠ .S → (t.core.eng e).flags = (s.core.eng e).flags

theorem Raises.kept {s t : State} {fl : Flags} (h : Raises s t fl) : s.core.engS.flags &&& ~~~ t.core.engS.flags = 0 := by
  rw [h.own]; exact flags_kept _ _
theorem Raises.none {s t : State} (h : Raises s t 0) (e : Engine) : (t.core.eng e).flags = (s.core.eng e).flags := by
  by_cases he : e = .S
  · subst he; exact h.own.trans BitVec.or_zero
  · exact h.others e he
theorem raises_of_views {s t : State} {c : Core} {fl : Flags} (hc : regsAndFlags c = regsAndFlags s.core)
    (ht : regsAndFlags t.core = regsAndFlags c ∧ fl = 0 ∨ ∀ e, (t.core.eng e).flags = ((c.addFlags .S fl).eng e).flags) : Raises s t fl := by
  have hcf (e : Engine) : (c.eng e).flags = (s.core.eng e).flags := congrFun (congrArg Prod.snd hc) e
  obtain ⟨ht, rfl⟩ | ht := ht
  · have htf (e : Engine) : (t.core.eng e).flags = (c.eng e).flags := congrFun (congrArg Prod.snd ht) e
    exact ⟨((htf .S).trans (hcf .S)).trans BitVec.or_zero.symm, fun e _ => (htf e).trans (hcf e)⟩
  · refine ⟨(ht .S).trans ((addFlags_flags c .S fl).trans (congrArg (· ||| fl) (hcf .S))), fun e he => ?_⟩
    exact (ht e).trans ((addFlags_flags_other c fl he).trans (hcf e))

/-- A word of S whose effect writes `d` and raises one of some flags. -/
def PutsS (i : Instr) (s : State) (h : Hdr) (d : Fin 32) (raised : Flags → Prop) : Prop :=
  ∃ b, ∃ f : State → Word64 × Flags, (∀ u, raised (f u).2)
    ∧ exec i s = .next (s.issue .S h {} b (fun u => .done (u.setCore ((u.core.writeS d (f u).1).addFlags .S (f u).2))))
/-- The same for a predicate. -/
def PutsP (i : Instr) (s : State) (h : Hdr) (p : Fin 8) (raised : Flags → Prop) : Prop :=
  ∃ b, ∃ f : State → Bool × Flags, (∀ u, raised (f u).2)
    ∧ exec i s = .next (s.issue .S h {} b (fun u => .done (u.setCore ((u.core.writeP p (f u).1).addFlags .S (f u).2))))

theorem PutsS.frame {s t : State} {i : Instr} {h : Hdr} {d : Fin 32} {raised : Flags → Prop} (hi : PutsS i s h d raised)
    (h0 : raised 0) (ht : exec i s = .next t) :
    (∀ r, r ≠ d → t.core.readS r = s.core.readS r) ∧ { regsOf t.core with s := s.core.s } = regsOf s.core
      ∧ (∃ fl, raised fl ∧ Raises s t fl) ∧ QuietOutside s t := by
  obtain ⟨b, f, hr, hx⟩ := hi
  have he := (Host.Outcome.next.inj (hx.symm.trans ht)).symm
  obtain ⟨⟨u, hu, hv⟩, hq⟩ := frame_of_setCore he (fun u => (addFlags_trap _ _ _).trans (Core.writeS_trap _ _ _))
  have hru : regsOf u.core = regsOf s.core := congrArg Prod.fst hu
  obtain hv | hv := hv
  · have hrt : regsOf t.core = regsOf s.core := (congrArg Prod.fst hv).trans hru
    exact ⟨fun r _ => readS_of_regs hrt r, by rw [hrt]; rfl, ⟨0, h0, raises_of_views hu (.inl ⟨hv, rfl⟩)⟩, hq⟩
  · have hrt : regsOf t.core = regsOf (u.core.writeS d (f u).1) := (congrArg Prod.fst hv).trans (regsOf_addFlags _ _ _)
    refine ⟨fun r hd => ?_, ?_, ⟨_, hr u, raises_of_views hu (.inr fun e => ?_)⟩, hq⟩
    · rw [readS_of_regs hrt, Core.readS_writeS_other _ _ _ _ hd, readS_of_regs hru]
    · rw [hrt, regsOf_writeS, hru]; rfl
    · refine (congrFun (congrArg Prod.snd hv) e).trans ?_
      by_cases hE : e = .S
      · subst hE; simp only [regsAndFlags, addFlags_flags, writeS_eng]
      · simp only [regsAndFlags, addFlags_flags_other _ _ hE, writeS_eng]

theorem PutsP.frame {s t : State} {i : Instr} {h : Hdr} {p : Fin 8} {raised : Flags → Prop} (hi : PutsP i s h p raised)
    (h0 : raised 0) (ht : exec i s = .next t) :
    (∀ x, x ≠ p ∨ x = 0 → t.core.readP x = s.core.readP x) ∧ { regsOf t.core with p := s.core.p } = regsOf s.core
      ∧ (∃ fl, raised fl ∧ Raises s t fl) ∧ QuietOutside s t := by
  obtain ⟨b, f, hr, hx⟩ := hi
  have he := (Host.Outcome.next.inj (hx.symm.trans ht)).symm
  obtain ⟨⟨u, hu, hv⟩, hq⟩ := frame_of_setCore he (fun u => (addFlags_trap _ _ _).trans (writeP_trap _ _ _))
  have hru : regsOf u.core = regsOf s.core := congrArg Prod.fst hu
  obtain hv | hv := hv
  · have hrt : regsOf t.core = regsOf s.core := (congrArg Prod.fst hv).trans hru
    exact ⟨fun r _ => readP_of_regs hrt r, by rw [hrt]; rfl, ⟨0, h0, raises_of_views hu (.inl ⟨hv, rfl⟩)⟩, hq⟩
  · have hrt : regsOf t.core = regsOf (u.core.writeP p (f u).1) := (congrArg Prod.fst hv).trans (regsOf_addFlags _ _ _)
    refine ⟨fun x hp => ?_, ?_, ⟨_, hr u, raises_of_views hu (.inr fun e => ?_)⟩, hq⟩
    · rw [readP_of_regs hrt, readP_writeP_other _ _ hp, readP_of_regs hru]
    · rw [hrt, regsOf_writeP, hru]; rfl
    · refine (congrFun (congrArg Prod.snd hv) e).trans ?_
      by_cases hE : e = .S
      · subst hE; simp only [regsAndFlags, addFlags_flags, writeP_eng]
      · simp only [regsAndFlags, addFlags_flags_other _ _ hE, writeP_eng]

theorem putsS_time (s : State) (h : Hdr) (d : Fin 32) : PutsS (.time h d) s h d (· = 0) := by
  refine ⟨s.core.busyFor (sRegs [d]), fun u => (BitVec.ofNat 64 (u.coreTime u.cur), 0), fun _ => rfl, (exec_time h d s).trans ?_⟩
  congr 2
  funext u
  exact congrArg (fun c => Res.done (u.setCore c)) (addFlags_zero _ .S).symm

end Sys2Proof

open Sys2Proof Sys2Proof.Machine

/-- Settles O28: each word writes s[d] and raises no flag. -/
theorem integerFrame : Obligations.IntegerFrame := by
  unfold Obligations.IntegerFrame
  intro s t h uns d a b p imm n long i hmem ht
  have hi : PutsS i s h d (· = 0) := by
    clear ht
    revert i
    simp only [List.forall_mem_cons, List.not_mem_nil, false_implies, implies_true, and_true]
    refine ⟨?_, ?_, ?_, ?_, ?_, ?_, ?_, ?_, ?_, ?_, ?_, ?_, ?_, ?_, ?_, ?_, ?_, ?_, ?_, ?_, ?_, ?_, ?_, ?_, ?_, ?_, ?_, ?_, ?_, ?_, ?_,
      putsS_time s h d⟩ <;> exact ⟨_, fun _ => (_, 0), fun _ => rfl, rfl⟩
  obtain ⟨hs, hregs, ⟨fl, rfl, hfl⟩, hq⟩ := hi.frame rfl ht
  exact ⟨hs, hregs, hfl.none, hq⟩

/-- Settles O29: each word writes s[d] and raises flags of S. -/
theorem flagSettingFrame : Obligations.FlagSettingFrame := by
  unfold Obligations.FlagSettingFrame
  intro s t h uns sat rm c d a b i hmem ht
  have hi : PutsS i s h d (fun _ => True) := by
    clear ht
    revert i
    simp only [List.forall_mem_cons, List.not_mem_nil, false_implies, implies_true, and_true]
    and_intros <;> exact ⟨_, fun u => (fun c => _) u.core, fun _ => trivial, rfl⟩
  obtain ⟨hs, hregs, ⟨fl, -, hfl⟩, hq⟩ := hi.frame trivial ht
  exact ⟨hs, hregs, hfl.kept, hfl.others, hq⟩

/-- Settles O30: each word writes p[p], and FCMP alone raises flags. -/
theorem predicateFrame : Obligations.PredicateFrame := by
  unfold Obligations.PredicateFrame
  intro s t h c f p q r a b imm tt i hmem ht
  have hi : PutsP i s h p (fun fl => i ≠ .fcmp h f p a b → fl = 0) := by
    clear ht
    revert i
    simp only [List.forall_mem_cons, List.not_mem_nil, false_implies, implies_true, and_true]
    refine ⟨?_, ?_, ?_, ?_, ⟨_, fun u => fpCompare f (f32 (u.core.readS a)) (f32 (u.core.readS b)), fun _ hne => absurd rfl hne, rfl⟩⟩ <;>
      exact ⟨_, fun _ => (_, 0), fun _ _ => rfl, rfl⟩
  obtain ⟨hp, hregs, ⟨fl, hr, hfl⟩, hq⟩ := hi.frame (fun _ => rfl) ht
  refine ⟨hp, hregs, fun hne => ?_, hfl.kept, hq⟩
  obtain rfl := hr hne
  exact hfl.none

end

section
/-! PROOFS. The shared control words (spec/05 R118 to R126): branches, loops, tokens, handles, safe points, system registers. -/

namespace Sys2Proof.Machine

section
variable {s t : State} {e : Engine} {h : Hdr} {n : Names} {eff : State → Res}

/-- Words that name no register in flight, by what their effect comes to. -/
theorem issue_doneThen_nil {a : After} (hi : Issues s e h n []) (he : eff (Begun s h) = .doneThen t a) :
    s.issue e h n false eff = DoneThen s e h t a := by
  rw [← busyFor_nil s.core]; exact issue_doneThen hi he
theorem issue_pend_nil {i : Nat} (hi : Issues s e h n []) (he : eff (Begun s h) = .pend t i) :
    s.issue e h n false eff = Pending s e h t i := by
  rw [← busyFor_nil s.core]; exact issue_pend hi he
theorem issue_stop_nil (hi : Issues s e h n []) (he : eff (Begun s h) = .stop t) : s.issue e h n false eff =
    (t.modEng e (fun x => { x with ended := true, loops := [], taken := false })).signal e 0 true (s.eng e).pc h.sig := by
  have hx := issue_eff (eff := eff) hi
  rw [busyFor_nil, he] at hx
  exact hx
theorem works_done_nil {b : State} (hw : Works s e h n [] b) (he : eff b = .done t) : s.issue e h n false eff = Done s e h t := by
  rw [← busyFor_nil s.core]; exact works_done hw he
theorem works_hold_nil {b : State} (hw : Works s e h n [] b) (he : eff b = .hold t) : s.issue e h n false eff = Holding e t := by
  rw [← busyFor_nil s.core]; exact works_hold hw he

end

/-! ### Safe points and pauses (R118, R339, R369) -/

theorem safePoint_idle {s : State} (g m : Nat) (hb : s.core.budget = none) (hp : s.core.preempt = none) : s.safePoint g m = .done s := by
  simp [State.safePoint, hb, hp]
theorem safePoint_parks {s : State} (g m : Nat) (hm : s.core.trap.mode = false) (hb : s.core.budget = none)
    (hp : s.core.preempt.isSome = true) (hg : s.core.preemptGroup = none ∨ s.core.preemptGroup = some g) :
    s.safePoint g m = .doneThen (s.modCore (fun c => { c with preemptGroup := some g })) (.park g m) := by
  have hd : s.core.preemptGroup.getD g = g := by obtain hg | hg := hg <;> rw [hg] <;> rfl
  simp [State.safePoint, hm, hb, hp, hd, State.modCore]

/-! ### Handles (R123) -/

theorem hset_free {c : Core} {hd : Fin 64} {base count : Nat} (hf : c.stateOf hd = .free) (ha : base % 64 = 0)
    (hb : base + count ≤ Part.dataBytes c.part) : c.hset hd base count =
      (c.setHandle hd { c.handle hd with base, expected := count, counted := 0, pending := 0, rcd := none }, none) := by
  unfold Core.hset
  rw [if_neg (by simp [hf]), if_neg (by omega)]

/-! ### Branches and loops (R42, R120, R121) -/

theorem call_room {s : State} {e : Engine} {t : Nat} (hl : (s.eng e).link.length < 8) :
    s.call e (some t) = .goto (s.modEng e (fun x => { x with link := (x.pc + 1) :: x.link })) t := if_neg (by omega)
theorem ret_inside {s : State} {e : Engine} {t : Nat} {rest : List Nat} (hl : (s.eng e).link = t :: rest) (ht : t < s.core.streamLen e) :
    s.ret e = .goto (s.modEng e (fun x =>
      { x with loops := x.loops.filter (fun l => l.level != x.link.length), link := rest })) t := by
  simp only [State.ret, hl]; exact if_pos ht
theorem loop_skips {s : State} {e : Engine} {len : Nat} (h : (s.eng e).pc + len < s.core.streamLen e) :
    s.loop e len 0 = .goto s ((s.eng e).pc + len + 1) := by
  simp only [State.loop]; rw [if_neg (by omega)]; rfl
theorem loop_enters {s : State} {e : Engine} {len count : Nat} (h : (s.eng e).pc + len < s.core.streamLen e) (hc : count ≠ 0)
    (hl : (s.eng e).loops.length < 4)
    (hin : ∀ l ∈ (s.eng e).loops, l.level = (s.eng e).link.length → (s.eng e).pc + len ≤ l.last) :
    s.loop e len count = .done (s.modEng e (fun x => { x with loops :=
      { first := x.pc + 1, last := (s.eng e).pc + len, remaining := count, level := x.link.length } :: x.loops })) := by
  have ha : (s.eng e).loops.any (fun l => l.level == (s.eng e).link.length && decide (l.last < (s.eng e).pc + len)) = false := by
    rw [List.any_eq_false]
    intro l hm
    have := hin l hm
    simp only [Bool.and_eq_true, beq_iff_eq, decide_eq_true_eq, not_and]
    omega
  simp only [State.loop, ha]
  rw [if_neg (by omega), if_neg hc, if_neg (by omega), if_neg (by simp)]
/-- LOOP's effect is the same for a count in its word and one in a register. -/
theorem exec_loop (e : Engine) (h : Hdr) (len : BitVec 13) (count : LoopCount) (s : State) :
    exec (.loop e h len count) s = .next (s.issue e h { branch := true }
      (s.core.busyFor (match count with | .imm _ => [] | .reg r => if e = .S then [.s r] else [])) (fun s =>
        s.loop e len.toNat (match count with | .imm v => v.toNat | .reg r => (s.core.readR e r).toNat % 2 ^ 32))) := by
  cases count with
  | imm v => simp only [busyFor_nil]; rfl
  | reg r => rfl

/-! ### Tokens (R122) -/

theorem tokMove_pop {c : Core} {e : Engine} {q : Fin 16} {r : Fin 32} {x : Word32} {xs : List Word32} (hq : c.queue q = x :: xs)
    (ha : 0 < c.availOf q) : c.tokMove e true q r = some ((c.popTokens q 1).writeR e r (x.zeroExtend 64)) := by
  simp only [Core.tokMove, hq, if_true]; exact if_pos ha
theorem tokMove_push {c : Core} {e : Engine} {q : Fin 16} {r : Fin 32} (hr : 0 < c.roomOf q) :
    c.tokMove e false q r = some (c.pushTokens q [(c.readR e r).truncate 32]) := if_pos hr
theorem tokMove_none {c : Core} {e : Engine} {q : Fin 16} {r : Fin 32} {pop : Bool}
    (hn : (if pop then c.availOf q else c.roomOf q) = 0) : c.tokMove e pop q r = none := by
  cases pop with
  | false =>
    have h0 : ¬ 1 ≤ c.roomOf q := Nat.not_le.2 (Nat.lt_one_iff.2 hn)
    exact if_neg h0
  | true =>
    simp only [Core.tokMove, if_true]
    split
    · rfl
    · have h0 : ¬ 1 ≤ c.availOf q := Nat.not_le.2 (Nat.lt_one_iff.2 hn)
      exact if_neg h0

theorem setQueue_queue (c : Core) {q : Fin 16} (p : Fin 16) (l : List Word32) (hq : q.val < 12) :
    (c.setQueue q l).queue p = if p = q then l else c.queue p := by
  by_cases hp : p = q
  · subst hp; simp [Core.setQueue, Core.queue, hq]
  · have hv : q.val ≠ p.val := fun h => hp (Fin.ext h.symm)
    simp [Core.setQueue, Core.queue, hq, hp, Vector.getElem_set_ne _ _ hv]
theorem learnPop_queue (c : Core) (q p : Fin 16) : (c.learnPop q).queue p = c.queue p := by
  unfold Core.learnPop
  split <;> rfl
theorem popTokens_queue (c : Core) {q : Fin 16} (p : Fin 16) (n : Nat) (hq : q.val < 12) :
    (c.popTokens q n).queue p = if p = q then (c.queue q).drop n else c.queue p :=
  (learnPop_queue (c.setQueue q ((c.queue q).drop n)) q p).trans (setQueue_queue c p _ hq)
theorem pushTokens_queue (c : Core) {q : Fin 16} (p : Fin 16) (ts : List Word32) (hq : q.val < 12) :
    (c.pushTokens q ts).queue p = if p = q then c.queue q ++ ts else c.queue p := setQueue_queue c p _ hq
theorem regsOf_learnPop (c : Core) (q : Fin 16) : regsOf (c.learnPop q) = regsOf c := by
  unfold Core.learnPop
  split <;> rfl
theorem regsOf_popTokens (c : Core) (q : Fin 16) (n : Nat) : regsOf (c.popTokens q n) = regsOf c :=
  (regsOf_learnPop (c.setQueue q ((c.queue q).drop n)) q).trans (regsOf_setQueue c q _)

/-! ### System registers (R67, R125, R406) -/

/-- A word built on `State.swr` has its register's effect. -/
theorem makes_of_swr {s : State} {i : Instr} {e : Engine} {h : Hdr} {r : Fin 32} {num : Nat} {f : Word64 → State → State} {g : State → State}
    (hx : exec i s = .next (s.swr e h r num f)) (hg : f ((Begun s h).core.readR e r) (Begun s h) = g (Begun s h)) :
    Makes i s e h { sysreg := some num } (if e = .S then [.s r] else []) g :=
  fun hi => hx.trans (congrArg Host.Outcome.next (issue_done hi (congrArg Res.done hg)))
/-- The trap registers are written in trap mode alone (R406). -/
theorem trapWrite_outside {t : TrapState} (w : Fin 5) (v : Word64) (h : t.mode = false) : t.write w v = t := by
  simp [TrapState.write, h]
theorem trapWrite_inside {t : TrapState} (w : Fin 5) (v : Word64) (h : t.mode = true) : t.write w v =
    match w with
    | 0 => { t with cause := v.toNat % 2 ^ 8 }
    | 1 => { t with eng := v.toNat % 4 }
    | 2 => { t with pc := v.toNat % 2 ^ 13, pcWritten := true }
    | 3 => { t with addr := v }
    | 4 => { t with info := v } := by
  simp only [TrapState.write, h]; rfl

theorem writeHash_others (s : State) (ch : Bool) (v : Word64) (h : s.aloneOnPackage = false) : s.writeHash ch v = s := by
  simp [State.writeHash, h]
theorem writeHash_alone (s : State) (ch : Bool) (v : Word64) (h : s.aloneOnPackage = true) : s.writeHash ch v =
    (if ch then { s with mgmt := { s.mgmt with chHash := v &&& 0x7FFFFF } }
      else { s with mgmt := { s.mgmt with pcHash := v &&& 0x7FFFFF } }).scrambled := by
  simp [State.writeHash, h]
theorem writePreemptWait_task {s : State} {t : Task} (v : Word64) (h : s.task? = some t) : s.writePreemptWait v =
    s.setQueue t.queue { s.queueOf t.queue with preemptWait := v.toNat % 2 ^ 32 } := by
  simp [State.writePreemptWait, h]
@[simp] theorem Begun_task? (s : State) (h : Hdr) : (Begun s h).task? = s.task? := by simp [State.task?]

end Sys2Proof.Machine

open Sys2Proof Sys2Proof.Machine

/-- Settles O8, word by word. -/
theorem controlCompletes : Obligations.ControlCompletes := by
  unfold Obligations.ControlCompletes
  intro s e h hd r q g m n
  refine ⟨fun hi => congrArg Host.Outcome.next (issue_done_nil hi rfl), fun hb hp hi => congrArg Host.Outcome.next (issue_done_nil hi ?_),
    fun hm hb hp hg hi => congrArg Host.Outcome.next (issue_doneThen_nil hi ?_), fun hi => ?_, fun free b hw => ⟨fun hf => ?_, fun hf => ?_⟩,
    ?_, fun hi => ?_⟩
  · exact safePoint_idle _ _ (by simpa using hb) (by simpa using hp)
  · exact safePoint_parks _ _ (by simpa using hm) (by simpa using hb) (by simpa using hp) (by simpa using hg)
  · by_cases hc : e = .S ∧ s.core.trap.mode = true
    · rw [if_pos hc]
      exact congrArg Host.Outcome.next (issue_doneThen_nil hi (by simp [hc]))
    · rw [if_neg hc]
      refine congrArg Host.Outcome.next ?_
      refine issue_stop_nil hi (if_neg ?_)
      simpa using hc
  · exact congrArg Host.Outcome.next (works_done_nil hw (if_pos hf))
  · exact congrArg Host.Outcome.next (works_hold_nil hw (if_neg hf))
  · intro c base count hf ha hb hi
    refine congrArg Host.Outcome.next (issue_done hi ?_)
    rw [hset_free hf ha hb]
    rfl
  · by_cases hn : n = 0
    · subst hn
      exact congrArg Host.Outcome.next (issue_done_nil hi rfl)
    · rw [if_neg hn]
      refine congrArg Host.Outcome.next (issue_pend_nil hi ?_)
      exact if_neg (fun h0 => hn (BitVec.eq_of_toNat_eq h0))

/-- Settles O9: the branches by whether they are taken, LOOP by whether its count is 0. -/
theorem transfersAndLoops : Obligations.TransfersAndLoops := by
  unfold Obligations.TransfersAndLoops
  refine ⟨?_, ?_⟩
  · intro s e h abs off c a t b leave push to_
    refine ⟨?_, ?_, ?_, ?_, ?_⟩
    · rintro rfl ht
      refine ⟨fun hi => congrArg Host.Outcome.next (issue_goto_nil hi ?_), fun hl hi => congrArg Host.Outcome.next (issue_goto_nil hi ?_)⟩
      · exact congrArg (State.branch b .S) ht
      · exact (congrArg (State.call b .S) ht).trans (call_room (by simpa [b] using hl))
    · intro hc ht
      refine ⟨fun hi => congrArg Host.Outcome.next (issue_goto_nil hi ?_), fun hl hi => congrArg Host.Outcome.next (issue_goto_nil hi ?_)⟩
      · exact (if_pos hc).trans (congrArg (State.branch b e) ht)
      · exact ((if_pos hc).trans (congrArg (State.call b e) ht)).trans (call_room (by simpa [b] using hl))
    · intro hc
      have hn : ¬ b.core.xbTaken e c = true := by simp [hc]
      exact ⟨fun hi => congrArg Host.Outcome.next (issue_done_nil hi (if_neg hn)),
        fun hi => congrArg Host.Outcome.next (issue_done_nil hi (if_neg hn))⟩
    · rintro rfl rfl ht hi
      refine congrArg Host.Outcome.next (issue_goto hi ?_)
      exact congrArg (State.branch b .S) (if_pos ht)
    · intro rest hl ht hi
      exact congrArg Host.Outcome.next (issue_goto_nil hi (ret_inside (by simpa [b] using hl) ht))
  · intro s e h len count n b x last hn hi hlast
    have hx : b.eng e = x := by simp [b, x]
    refine ⟨fun h0 => ?_, fun h0 hl hin => ?_⟩ <;> rw [exec_loop]
    · refine congrArg Host.Outcome.next (issue_goto hi ?_)
      refine Eq.trans (congrArg (State.loop b e len.toNat) (hn.symm.trans h0)) ((loop_skips (by rw [hx]; exact hlast)).trans ?_)
      rw [hx]
    · refine congrArg Host.Outcome.next (issue_done hi ?_)
      refine Eq.trans (congrArg (State.loop b e len.toNat) hn.symm)
        ((loop_enters (by rw [hx]; exact hlast) h0 (by rw [hx]; exact hl) (by rw [hx]; exact hin)).trans ?_)
      rw [hx]

/-- Settles O10: TOK by its direction and by whether the move can be made. -/
theorem tokenMoves : Obligations.TokenMoves := by
  unfold Obligations.TokenMoves
  refine ⟨fun s e h q r pop b hw => ⟨?_, ?_, fun hn => ?_⟩, fun c q p n ts hq => ⟨popTokens_queue c p n hq, pushTokens_queue c p ts hq,
    regsOf_popTokens c q n, regsOf_pushTokens c q ts, fun hs => ⟨by simp [Core.availOf, hs], by simp [Core.roomOf, hs]⟩⟩⟩
  · rintro x xs rfl hq ha
    refine congrArg Host.Outcome.next (works_done hw ?_)
    rw [tokMove_pop hq ha]
    rfl
  · rintro rfl hr
    refine congrArg Host.Outcome.next (works_done hw ?_)
    rw [tokMove_push hr]
    rfl
  · refine congrArg Host.Outcome.next (works_hold hw ?_)
    rw [tokMove_none hn]

/-- Settles O11, register by register. -/
theorem systemRegisterAccess : Obligations.SystemRegisterAccess := by
  unfold Obligations.SystemRegisterAccess
  intro s e h r num w rs b v
  refine ⟨fun hi => congrArg Host.Outcome.next (issue_done hi rfl), makes_of_swr rfl rfl, makes_of_swr rfl rfl,
    fun hm => makes_of_swr rfl ?_, fun hm => makes_of_swr rfl ?_⟩
  · simp only [State.modCore]
    rw [trapWrite_outside w v (by simpa [b] using hm)]
  · simp only [State.modCore]
    rw [trapWrite_inside w v (by simpa [b] using hm)] <;> rfl

/-- Settles O12. -/
theorem privilegedWrites : Obligations.PrivilegedWrites := by
  unfold Obligations.PrivilegedWrites
  intro s e h r rs b v
  exact ⟨fun t ht => makes_of_swr rfl (writePreemptWait_task _ (by simpa using ht)),
    fun ha => ⟨makes_of_swr rfl (writeHash_others _ _ _ ha), makes_of_swr rfl (writeHash_others _ _ _ ha)⟩,
    fun ha => ⟨makes_of_swr rfl (writeHash_alone _ _ _ ha), makes_of_swr rfl (writeHash_alone _ _ _ ha)⟩⟩

end

section
/-! PROOFS. Traps (spec/20 R405 to R413): trap entry, traps in trap mode, TRAP and BRK, the return by ERET, and the words that the checks of
R68 refuse. -/

namespace Sys2Proof.Machine

/-! ### Trap entry (R405, R406) -/

/-- A core but for its caches. -/
def Core.cacheless (c : Core) : Core := { c with l1 := [], tmrCache := [] }
theorem cacheFree_cacheless : CacheFree Core.cacheless := fun _ _ _ => rfl

/-- A core that enters trap mode is its entry but for the caches, and exactly that where a handler stands. -/
theorem takeTrap_core {s : State} {e : Engine} {pc : Nat} {x : TrapInfo} (hm : s.core.trap.mode = false) :
    (s.takeTrap e pc x).core.cacheless = ((s.core.trapEntry e pc x).learnAll (Clock.all s.nextId)).cacheless := by
  rw [takeTrap_enters hm]
  dsimp only
  split
  · rw [(Same.postTrapEvent cacheFree_cacheless _ _ _ _).core, State.setCore_core]
  · rw [State.setCore_core]
theorem takeTrap_handled {s : State} {e : Engine} {pc : Nat} {x : TrapInfo} (hm : s.core.trap.mode = false) (ht : s.core.obj.trapLen ≠ 0) :
    s.takeTrap e pc x = s.setCore ((s.core.trapEntry e pc x).learnAll (Clock.all s.nextId)) := by
  rw [takeTrap_enters hm]
  dsimp only
  rw [State.setCore_core]
  exact if_neg (by simpa [Core.learnAll, Core.trapEntry] using ht)

/-! ### Cores stopped for good (R412) -/

/-- Every core of a list that is stopped in turn ends as a stopped core. -/
theorem foldl_stopAll {n : Nat} {xs : List Nat} (hn : n ∈ xs) (s : State) :
    ∃ c, (xs.foldl (fun s n => s.modCoreAt n Core.stopAll) s).coreAt n = Core.stopAll c := by
  induction xs generalizing s with
  | nil => cases hn
  | cons x xs ih =>
    rw [List.foldl_cons]
    by_cases hx : n ∈ xs
    · exact ih hx _
    · obtain rfl : n = x := (List.mem_cons.1 hn).resolve_right hx
      have hkeep : ∀ (ys : List Nat) (t : State), n ∉ ys → (ys.foldl (fun s n => s.modCoreAt n Core.stopAll) t).coreAt n = t.coreAt n := by
        intro ys
        induction ys with
        | nil => exact fun _ _ => rfl
        | cons y ys ihy =>
          intro t hy
          rw [List.mem_cons, not_or] at hy
          rw [List.foldl_cons, ihy _ hy.2, State.modCoreAt, State.setCoreAt_coreAt_other _ _ _ _ hy.1]
      exact ⟨s.coreAt n, by rw [hkeep xs _ hx, State.modCoreAt, State.setCoreAt_coreAt]⟩

theorem dropSaves_tasks (s : State) (id : Nat) : (s.dropSaves id).tasks = s.tasks := by
  unfold State.dropSaves
  split <;> rfl
theorem postEvent_tasks (s : State) (q kind reason scope seq info : Nat) : (s.postEvent q kind reason scope seq info).tasks = s.tasks := by
  unfold State.postEvent
  dsimp only
  split
  · rfl
  · split <;> simp
theorem postTrapEvent_tasks (s : State) (core : Nat) (a d : Bool) : (s.postTrapEvent core a d).tasks = s.tasks := by
  unfold State.postTrapEvent
  dsimp only
  split
  · rfl
  · split
    · rfl
    · exact postEvent_tasks _ _ _ _ _ _ _

/-- The cores that an abandonment stops: the core's own and its gang's. -/
def State.gang (s : State) (core : Nat) : List Nat :=
  core :: match (s.coreAt core).task.bind (SMap.find? s.tasks) with | some t => t.cores | none => []

theorem abandon_stops (s : State) (core : Nat) (d : Bool) {n : Nat} (hn : n ∈ s.gang core) :
    ∃ c, (s.abandon core d).coreAt n = Core.stopAll c := by
  refine foldl_stopAll ?_ _
  have ht : ((s.postTrapEvent core true d).coreAt core).task = (s.coreAt core).task :=
    (Same.postTrapEvent (g := Core.task) (fun _ _ _ => rfl) s core true d).view core
  rw [List.mem_eraseDups, ht, postTrapEvent_tasks]
  exact hn

/-- The trap registers (R406). -/
def TrapState.registers (t : TrapState) : Nat × Nat × Nat × Word64 × Word64 := (t.cause, t.eng, t.pc, t.addr, t.info)
theorem abandon_trapRegisters (s : State) (core : Nat) (d : Bool) :
    (s.abandon core d).core.trap.registers = s.core.trap.registers :=
  (Same.abandon (g := fun c => c.trap.registers) (fun _ _ _ => rfl) (fun _ => rfl) s core d).core

/-! ### The return from a trap (R139, R405, R409 to R411) -/

/-- Where the trapped engine resumes, by cause (R409). -/
theorem resumeAt_eq (t : TrapState) : t.resumeAt =
    if t.pcWritten then t.pc % 2 ^ 13
    else if t.cause % 256 = 1 ∧ t.sub07 = true ∨ t.cause % 256 ∈ [4, 5, 6, 0x0A, 0x0C] ∨ t.cause % 256 = 9 ∧ t.boundary = false then
      t.pc % 2 ^ 13 + 1
    else t.pc % 2 ^ 13 := by
  have hnext : t.next = true ↔
      t.cause % 256 = 1 ∧ t.sub07 = true ∨ t.cause % 256 ∈ [4, 5, 6, 0x0A, 0x0C] ∨ t.cause % 256 = 9 ∧ t.boundary = false := by
    unfold TrapState.next
    split <;> simp_all
  simp only [← hnext, TrapState.resumeAt]
  cases t.pcWritten <;> cases t.next <;> rfl

/-- A trapped engine that resumes at its own word is not ended. -/
theorem placed_ended (t : TrapState) (x : Eng) (h : t.pcWritten = true ∨ t.resumeAt = t.pc % 2 ^ 13) :
    (!t.pcWritten && t.next && x.ended) = false := by
  unfold TrapState.resumeAt at h
  cases hw : t.pcWritten <;> cases hn : t.next <;> simp_all

/-- What the return restores, by which engine trapped. -/
theorem leaveTrap_eng (k : Core) (hc : k.trap.cEntry = none) : (k.leaveTrap.eng k.trap.engine).pc = k.trap.resumeAt
    ∧ (k.trap.pcWritten = true ∨ k.trap.resumeAt = k.trap.pc % 2 ^ 13 → (k.leaveTrap.eng k.trap.engine).ended = false) := by
  simp only [Core.leaveTrap, hc, Core.setEng_eng]
  exact ⟨rfl, placed_ended k.trap _⟩
theorem leaveTrap_engS (k : Core) (v : SavedS) (hc : k.trap.cEntry = none) (hv : k.trap.saved = some v) :
    k.leaveTrap.engS.link = v.link ∧ k.leaveTrap.engS.loops = v.loops
      ∧ (k.trap.engine ≠ .S → k.leaveTrap.engS.pc = v.pc ∧ k.leaveTrap.engS.taken = v.taken) := by
  simp only [Core.leaveTrap, hc, hv]
  cases he : k.trap.engine <;> exact ⟨rfl, rfl, fun hS => by first | exact ⟨rfl, rfl⟩ | exact absurd rfl hS⟩
theorem leaveTrap_s (k : Core) (hc : k.trap.cEntry = none) : k.leaveTrap.s = k.s := by
  simp only [Core.leaveTrap, hc, Core.setEng_s]
  cases k.trap.saved <;> rfl
theorem leaveTrap_mode (k : Core) (hc : k.trap.cEntry = none) : k.leaveTrap.trap.mode = false := by
  simp only [Core.leaveTrap, hc, Core.setEng_trap]
  cases k.trap.saved <;> rfl
theorem learnAll_eng (k : Core) (c : Clock) (e : Engine) : (k.learnAll c).eng e = k.eng e := by cases e <;> rfl

/-- ERET past its two checks. -/
theorem eret_leaves {s : State} {h : Hdr} (hf : s.core.flights.any (fun f => f.eng == .S && f.inTrap) = false)
    (hp : ∀ c x, s.core.perform h.sig ≠ some (c, some x)) : s.eret h = .resume s.leaveTrapMode := by
  unfold State.eret
  rw [if_neg (by simp [hf])]
  split
  · next c x hx => exact absurd hx (hp c x)
  · rfl

theorem issue_resume_nil {s t : State} {e : Engine} {h : Hdr} {n : Names} {eff : State → Res} (hi : Issues s e h n [])
    (he : eff (Begun s h) = .resume t) : s.issue e h n false eff = t.signal e 0 true (s.eng e).pc h.sig := by
  have hx := issue_eff (eff := eff) hi
  rw [busyFor_nil, he] at hx
  exact hx

/-! ### TRAP and BRK (R124) -/

/-- A word with no signal, none queued before it, that a trap follows takes it past its own PC. -/
theorem retireThen_trap {s : State} {e : Engine} {h : Hdr} {pc : Nat} {x : TrapInfo} (hg : h.sig = .none) (hs : (s.eng e).sigs = [])
    (hm : s.core.trap.mode = false) : s.retireThen e h pc (.trap x) =
      ((s.modEng e Eng.advance).modEng e (fun y => { y with sigs := [] })).takeTrap e pc { x with late := true } := by
  simp [State.retireThen, hg, hs, State.flushSigs, State.follow, State.lateTrap, hm]

/-! ### The checks of R68 -/

/-- A word that names a system register, its header in order, fails its checks where the register is not assigned or not for it. -/
theorem illegal_sysreg {s : State} {e : Engine} {h : Hdr} {r : Nat} (hl : s.illegal? e h {} = none)
    (hr : sysregAssigned r = false ∨ 0x100 ≤ r ∧ s.privileged = false) : s.illegal? e h { sysreg := some r } =
      some { cause := 1, info := 0x08 + 256 * (r % 256) + 2 ^ 16 * (r / 256 % 16) } := by
  have hbad : (!sysregAssigned r || (decide (0x100 ≤ r) && !s.privileged)) = true := by
    obtain hr | ⟨hr, hp⟩ := hr
    · simp [hr]
    · simp [hr, hp]
  unfold State.illegal? at hl ⊢
  dsimp only at hl ⊢
  split at hl <;> simp_all
/-- QCTL is for a privileged task. -/
theorem illegal_qctl {s : State} {e : Engine} {h : Hdr} (hl : s.illegal? e h {} = none) (hp : s.privileged = false) :
    s.illegal? e h { qctl := true } = some { cause := 1, info := 0x11 } := by
  unfold State.illegal? at hl ⊢
  dsimp only at hl ⊢
  split at hl <;> simp_all [illegal]
theorem sysregAssigned_eq_false {n : Nat} : sysregAssigned n = false ↔
    (0x00E ≤ n ∧ n ≤ 0x00F) ∨ (0x016 ≤ n ∧ n ≤ 0x017) ∨ (0x01C ≤ n ∧ n ≤ 0x01F) ∨ (0x024 ≤ n ∧ n ≤ 0x02F) ∨ (0x035 ≤ n ∧ n ≤ 0x0FF)
      ∨ 0x104 ≤ n := by
  simp only [sysregAssigned, decide_eq_false_iff_not]
  omega

/-- With no fault held and none in the journal, leaving trap mode takes no trap. -/
theorem takeHeld_none {s : State} (hh : ∀ e, (s.core.eng e).held = none) (hj : s.core.journal = []) : s.takeHeld = s := by
  have hS : (s.eng .S).held = none := hh .S
  have hV : (s.eng .V).held = none := hh .V
  have hM : (s.eng .M).held = none := hh .M
  have hC : (s.eng .C).held = none := hh .C
  simp [State.takeHeld, hS, hV, hM, hC, hj]

theorem leaveTrap_held (k : Core) (e : Engine) (hc : k.trap.cEntry = none) : (k.leaveTrap.eng e).held = (k.eng e).held := by
  simp only [Core.leaveTrap, hc]
  by_cases he : e = k.trap.engine
  · subst he
    rw [Core.setEng_eng]
    cases k.trap.saved <;> cases k.trap.engine <;> rfl
  · rw [Core.setEng_eng_other _ _ _ _ he]
    cases k.trap.saved <;> cases e <;> rfl
theorem leaveTrap_journal (k : Core) (hc : k.trap.cEntry = none) : k.leaveTrap.journal = k.journal := by
  simp only [Core.leaveTrap, hc, Core.setEng_journal]
  cases k.trap.saved <;> rfl

/-- With no re-entered command, nothing held and an empty journal, the return is the core's own. -/
theorem leaveTrapMode_quiet {s : State} (hc : s.core.trap.cEntry = none) (hh : ∀ e, (s.core.eng e).held = none) (hj : s.core.journal = []) :
    s.leaveTrapMode = s.setCore (s.core.leaveTrap.learnAll (Clock.all s.nextId)) := by
  refine takeHeld_none (fun e => ?_) ?_
  · rw [State.setCore_core]
    refine Eq.trans ?_ ((leaveTrap_held s.core e hc).trans (hh e))
    cases e <;> rfl
  · rw [State.setCore_core]
    exact (leaveTrap_journal s.core hc).trans hj

end Sys2Proof.Machine

open Sys2Proof Sys2Proof.Machine

/-- Settles O24: every field but the caches is the trap entry's. -/
theorem trapEntry : Obligations.TrapEntry := by
  unfold Obligations.TrapEntry
  intro s e pc x hm t
  have hc : t.core.cacheless = ((s.core.trapEntry e pc x).learnAll (Clock.all s.nextId)).cacheless := takeTrap_core hm
  have field {α : Type} (g : Core → α) (hg : ∀ c, g c.cacheless = g c := by exact fun _ => rfl) :
      g t.core = g ((s.core.trapEntry e pc x).learnAll (Clock.all s.nextId)) := by rw [← hg, hc, hg]
  have htrap := field Core.trap
  have hS := field Core.engS
  refine ⟨by rw [htrap]; rfl, by rw [htrap]; rfl, by rw [htrap]; rfl, by rw [htrap]; rfl, by rw [htrap]; rfl, by rw [htrap]; rfl,
    by rw [htrap]; rfl, by rw [hS]; rfl, by rw [hS]; rfl, by rw [hS]; rfl, by rw [hS]; rfl, field Core.s, field Core.p, field Core.m,
    field Core.tiles, field Core.data, field Core.acc, by rw [hS]; rfl, by rw [hS]; rfl, field Core.engV, field Core.engM,
    field Core.engC, ?_, fun ht => ?_⟩
  · rw [htrap]
    exact beq_iff_eq
  · have ht : t = s.setCore _ := takeTrap_handled hm ht
    rw [ht]
    exact ⟨rfl, fun n hn => State.setCore_coreAt_other _ _ _ hn⟩

/-- Settles O25: a double trap abandons the task, which stops every core of the gang. -/
theorem trapsInTrapMode : Obligations.TrapsInTrapMode := by
  unfold Obligations.TrapsInTrapMode
  intro s e pc x hm
  refine ⟨takeTrap_held hm, ?_⟩
  intro t
  have ht : t = (s.setCore (s.core.doubleTrap pc x)).abandon s.cur true := takeTrap_double hm
  have hreg : t.core.trap.registers = (x.cause, 0, pc, BitVec.ofNat 64 x.addr, BitVec.ofNat 64 x.info) := by
    rw [ht, abandon_trapRegisters, State.setCore_core]; rfl
  simp only [TrapState.registers, Prod.mk.injEq] at hreg
  obtain ⟨hcause, heng, hpc, haddr, hinfo⟩ := hreg
  refine ⟨hcause, heng, hpc, haddr, hinfo, fun n hn => ?_⟩
  have hgang : n ∈ (s.setCore (s.core.doubleTrap pc x)).gang s.cur := by
    have htask : ((s.setCore (s.core.doubleTrap pc x)).coreAt s.cur).task = s.core.task := (congrArg Core.task (State.setCore_core s (s.core.doubleTrap pc x))).trans rfl
    unfold State.gang
    rw [htask]
    obtain rfl | ⟨id, k, hid, hk, hmem⟩ := hn
    · exact List.mem_cons_self
    · refine List.mem_cons_of_mem _ ?_
      rw [hid, State.setCore_tasks, Option.bind_some, hk]
      exact hmem
  obtain ⟨c, hc⟩ := abandon_stops _ _ true hgang
  have hs : (t.coreAt n).s = (s.coreAt n).s := by
    rw [ht]
    have h := ((Same.setCore s (s.core.doubleTrap pc x) rfl).trans (SameRegs.abandon _ s.cur true)).view n
    exact congrArg Regs.s h
  rw [← ht] at hc
  refine ⟨by rw [hc]; rfl, fun e => by rw [hc]; cases e <;> rfl, by rw [hc]; rfl, by rw [hc]; rfl, hs⟩

/-- Settles O13: a word with no signal takes its trap at once. -/
theorem softwareTraps : Obligations.SoftwareTraps := by
  unfold Obligations.SoftwareTraps
  refine ⟨fun s e h code hi => ⟨congrArg Host.Outcome.next (issue_doneThen_nil hi rfl),
    congrArg Host.Outcome.next (issue_doneThen_nil hi rfl)⟩, fun s e h code hi hg hs hm ht cause i hic => ?_⟩
  have hx : exec i s = .next (DoneThen s e h (Begun s h) (.trap { cause, info := code.toNat })) := by
    obtain ⟨rfl, rfl⟩ | ⟨rfl, rfl⟩ := hic <;> exact congrArg Host.Outcome.next (issue_doneThen_nil hi rfl)
  refine ⟨_, hx, ?_⟩
  rw [DoneThen, retireThen_trap hg (by simpa using hs) (by simpa using hm), takeTrap_handled (by simpa using hm) (by simpa using ht),
    State.setCore_core]
  refine ⟨rfl, ?_, rfl, rfl, rfl, rfl, rfl, BitVec.ofNat_toNat 64 code, rfl, rfl, rfl, ?_, ?_, rfl⟩
  · simpa [Core.learnAll, Core.trapEntry] using ht
  · simp [Core.learnAll, Core.trapEntry]
  · simp [Core.learnAll, Core.trapEntry]

/-- Settles O26: ERET's checks passed, the return restores what trap entry saved. -/
theorem trapReturn : Obligations.TrapReturn := by
  unfold Obligations.TrapReturn
  intro s h
  refine ⟨fun hm hf => congrArg Host.Outcome.next (issue_illegal hf (by simp only [State.illegal?, hm]; rfl)), ?_⟩
  intro hm hi b hfl hperf
  constructor
  · have hx : exec (.eret h) s = .next (s.issue .S h {} false (fun s => s.eret h)) := by
      refine congrArg Host.Outcome.next (congrArg (fun m => s.issue .S h { mode := m } false (fun s => s.eret h)) ?_)
      exact if_pos hm
    exact hx.trans (congrArg Host.Outcome.next (issue_resume_nil hi (eret_leaves hfl hperf)))
  · intro v hv hc hh hj t u at_
    have hu : u = b.setCore (b.core.leaveTrap.learnAll (Clock.all b.nextId)) := leaveTrapMode_quiet hc hh hj
    have hcore : u.core = b.core.leaveTrap.learnAll (Clock.all b.nextId) := by rw [hu, State.setCore_core]
    have hat : at_ = t.resumeAt := (resumeAt_eq t).symm
    obtain ⟨hpc, hended⟩ := leaveTrap_eng b.core hc
    obtain ⟨hlink, hloops, hS⟩ := leaveTrap_engS b.core v hc hv
    rw [hcore, hat, learnAll_eng]
    exact ⟨leaveTrap_mode b.core hc, hlink, hloops, leaveTrap_s b.core hc, hpc, hended, hS, by rw [hu]; rfl⟩

/-- Settles O27: the ranges of R67 that are not assigned, and the rows of a privileged task. -/
theorem privilegeTraps : Obligations.PrivilegeTraps := by
  unfold Obligations.PrivilegeTraps
  intro s e h r d q v num hl hf n sub08 traps
  have sysreg {k : Nat} (hk : k < 4096) (hr : sysregAssigned k = false ∨ 0x100 ≤ k ∧ s.privileged = false) {busy : Bool}
      {eff : State → Res} : (.next (s.issue e h { sysreg := some k } busy eff) : Out) = .next (s.takeTrap e (s.eng e).pc (sub08 k)) := by
    refine congrArg _ (issue_illegal hf ((illegal_sysreg hl hr).trans ?_))
    rw [Nat.mod_eq_of_lt (show k / 256 < 16 by omega)]
    rfl
  refine ⟨fun hn => ?_, fun hp => ⟨sysreg (by decide) (.inr ⟨by decide, hp⟩), sysreg (by decide) (.inr ⟨by decide, hp⟩),
    sysreg (by decide) (.inr ⟨by decide, hp⟩), ?_⟩⟩
  · have hr : sysregAssigned n = false ∨ 0x100 ≤ n ∧ s.privileged = false := by
      rw [sysregAssigned_eq_false]
      cases hp : s.privileged <;> simp only [hp, and_true, and_false, or_false, Bool.true_eq_false] at hn ⊢ <;> omega
    exact ⟨sysreg num.isLt hr, sysreg num.isLt hr⟩
  · rintro rfl
    have qctl {busy : Bool} {eff : State → Res} : (.next (s.issue .S h { qctl := true } busy eff) : Out) =
        .next (s.takeTrap .S (s.eng .S).pc { cause := 1, info := 0x11 }) := congrArg _ (issue_illegal hf (illegal_qctl hl hp))
    exact ⟨qctl, qctl, qctl, qctl⟩

end

section
/-! PROOFS. Reset, the decoder's examples and the step (spec/02, 20, 21). -/

namespace Sys2Proof.Machine

/-! ### The words of registers that a reset leaves (spec/15 R324, 16 R356, 19 R393, 20 R425) -/

theorem Queue.word_reset (i : Nat) : ({} : Queue).word i = 0 := by
  unfold Queue.word
  split <;> rfl

theorem Ctx.word_reset (i : Nat) : ({} : Ctx).word i = 0 := by
  unfold Ctx.word
  split <;> rfl

theorem Mgmt.word4_reset (off : Nat) : ({} : Mgmt).word4 off = 0 := by
  simp [Mgmt.word4]

theorem Die.word6_reset (off : Nat) : ({} : Die).word6 off = 0 := by
  unfold Die.word6
  split
  · rfl
  split
  · rfl
  split
  · rfl
  split
  · rw [show SMap.get [] ({} : Die).slots ((off - 0x2000) / 32) = [] from rfl, List.drop_nil, List.take_nil]
    rfl
  · rfl

theorem State.die_reset (d : Nat) : State.reset.die d = {} := by
  unfold State.die
  split <;> rfl

theorem Recovery.word7_reset {off : Nat} (h : 0x100 ≤ off) : ({} : Recovery).word7 off = 0 := by
  unfold Recovery.word7
  rw [if_neg (by omega)]
  split <;> rfl

/-- The island of every core has run no cycle at reset. -/
theorem State.cycleOf_reset (n : Nat) : State.reset.cycleOf n = 0 := by
  have hi : State.reset.island (coreIsland n) = {} := rfl
  simp [State.cycleOf, State.islandCycles, hi, show State.reset.fabric = 0 from rfl]

/-! ### A step is its turn's act (R38) -/

/-- What the turn's act does once time's effects are done. -/
def State.runAct (t : State) : Act → Out
  | .engine n e => if coreExists n then stepEngine { t with cur := n } e else .fault .noSuchCore
  | .event i => stepEvent t i
  | .upset u => .next (t.upset u)
  | .evict x => .next (t.evict x)
  | .piece core entry k => .next (if coreExists core then t.makePiece core entry k else t)
  | .read m off => .next (t.readMgmt m off)

theorem step_act {s : State} {a : Act} (h : s.takeTurn.1.act = a) : step s = s.takeTurn.2.between.runAct a := by
  subst h
  rfl

theorem step_engine {s : State} {n : Nat} {e : Engine} (h : s.takeTurn.1.act = .engine n e) (hn : coreExists n = true) :
    step s = stepEngine { s.takeTurn.2.between with cur := n } e := (step_act h).trans (if_pos hn)

theorem stepEvent_event {s : State} {i : Instr} (h : i.parts = none) : stepEvent s i = exec i s := by
  rw [stepEvent, h]

theorem stepEvent_word {s : State} {i : Instr} (h : i.parts ≠ none) : stepEvent s i = .next s := by
  obtain ⟨x, hx⟩ := Option.ne_none_iff_exists'.1 h
  rw [stepEvent, hx]

/-- What a turn of an engine of the core `cur` does whose cycle is not past, from its own samples `b` and what it settles `u`. -/
theorem stepEngine_due {s b : State} {e : Engine} (h : s.edge ≤ s.edgeOf s.cur)
    (hb : b = State.sampleCycle { s with edge := s.edgeOf s.cur }) :
    (b.core.turnLeft e = false → stepEngine s e = .next b)
      ∧ (b.core.turnLeft e = true → (b.settle e).mayIssue e = false → stepEngine s e = .next (b.settle e)) := by
  subst hb
  refine ⟨fun ht => ?_, fun ht hm => ?_⟩
  · simp only [stepEngine, if_neg (Nat.not_lt.2 h), ht, Bool.not_false, if_true]
  · simp only [stepEngine, if_neg (Nat.not_lt.2 h), ht, hm, Bool.not_true, Bool.not_false, if_true, Bool.false_eq_true, if_false]

/-- What an engine that may issue does with what it fetches. -/
def State.runFetched (u : State) (e : Engine) : Out :=
  match u.core.fetch e with
  | .outside => .next (u.takeTrap e (u.eng e).pc (illegal 0x09))
  | .absent => .next u
  | .word w =>
    if u.core.ringFault e then .next ((u.logSram e u.softTrap).takeTrap e (u.eng e).pc u.softTrap)
    else
      match decode e w with
      | .error x => .next (u.takeTrap e (u.eng e).pc (trapOfIllegal x))
      | .ok i => exec i (u.noteUses e i)

theorem stepEngine_issues {s b : State} {e : Engine} (h : s.edge ≤ s.edgeOf s.cur)
    (hb : b = State.sampleCycle { s with edge := s.edgeOf s.cur }) (ht : b.core.turnLeft e = true) (hm : (b.settle e).mayIssue e = true) :
    stepEngine s e = (b.settle e).runFetched e := by
  subst hb
  simp only [stepEngine, if_neg (Nat.not_lt.2 h), ht, hm, Bool.not_true, Bool.false_eq_true, if_false]
  rfl

theorem runFetched_outside {u : State} {e : Engine} (h : u.core.fetch e = .outside) :
    u.runFetched e = .next (u.takeTrap e (u.eng e).pc (illegal 0x09)) := by
  rw [State.runFetched, h]

theorem runFetched_absent {u : State} {e : Engine} (h : u.core.fetch e = .absent) : u.runFetched e = .next u := by
  rw [State.runFetched, h]

theorem runFetched_fault {u : State} {e : Engine} {w : Word64} (h : u.core.fetch e = .word w) (hf : u.core.ringFault e = true) :
    u.runFetched e = .next ((u.logSram e u.softTrap).takeTrap e (u.eng e).pc u.softTrap) := by
  simp only [State.runFetched, h, hf, if_true]

theorem runFetched_word {u : State} {e : Engine} {w : Word64} {i : Instr} (h : u.core.fetch e = .word w) (hf : u.core.ringFault e = false)
    (hd : decode e w = .ok i) : u.runFetched e = exec i (u.noteUses e i) := by
  simp only [State.runFetched, h, hf, hd, Bool.false_eq_true, if_false]

theorem runFetched_illegal {u : State} {e : Engine} {w : Word64} {x : Illegal} (h : u.core.fetch e = .word w)
    (hf : u.core.ringFault e = false) (hd : decode e w = .error x) :
    u.runFetched e = .next (u.takeTrap e (u.eng e).pc (trapOfIllegal x)) := by
  simp only [State.runFetched, h, hf, hd, Bool.false_eq_true, if_false]

/-! ### What a fetch finds (R41 to R43, R407) -/

theorem fetchRing_eq (c : Core) (e : Engine) :
    c.fetchRing e = (if e = .S ∧ c.trap.mode = true then c.trapRing else (c.eng e).ring,
      if e = .S ∧ c.trap.mode = true then 256 else Part.ringWords c.part e) := by
  unfold Core.fetchRing
  split <;> rfl

theorem fetch_outside {c : Core} {e : Engine} (h : c.streamLen e ≤ (c.eng e).pc) : c.fetch e = .outside := if_pos h

theorem fetch_absent {c : Core} {e : Engine} {r : Ring} {n : Nat} (hr : c.fetchRing e = (r, n)) (h : (c.eng e).pc < c.streamLen e)
    (hn : (c.eng e).pc < r.base ∨ r.base + n ≤ (c.eng e).pc) : c.fetch e = .absent := by
  simp only [Core.fetch, hr, if_neg (Nat.not_le.2 h)]
  exact if_neg (by omega)

theorem fetch_word {c : Core} {e : Engine} {r : Ring} {n : Nat} (hr : c.fetchRing e = (r, n)) (h : (c.eng e).pc < c.streamLen e)
    (hb : r.base ≤ (c.eng e).pc) (hn : (c.eng e).pc < r.base + n) :
    c.fetch e = .word (SMap.get 0 r.slots ((c.eng e).pc % n)) := by
  simp only [Core.fetch, hr, if_neg (Nat.not_le.2 h)]
  exact if_pos ⟨hb, hn⟩

end Sys2Proof.Machine

open Sys2Proof Sys2Proof.Machine

/-- Settles O59: memory and its sideband list nothing at reset. -/
theorem resetMemoryOk : Obligations.ResetMemoryOk := ⟨rfl, rfl⟩

/-- Settles O58. -/
theorem resetState : Obligations.ResetState :=
  ⟨fun _ => Queue.word_reset, fun _ => Ctx.word_reset, Mgmt.word4_reset, rfl, fun d off => State.die_reset d ▸ Die.word6_reset off,
    fun _ => Recovery.word7_reset, rfl, rfl, rfl, rfl, fun _ => rfl, fun _ => rfl,
    fun n => ⟨State.cycleOf_reset n, rfl, rfl, rfl, rfl, rfl⟩⟩

set_option maxRecDepth 10000 in
/-- Settles O55: each word is decoded. -/
theorem specWordsDecode : Obligations.SpecWordsDecode := by
  unfold Obligations.SpecWordsDecode
  and_intros <;> rfl

/-- Settles O57: the step by cases of the turn. -/
theorem stepRunsTheWord : Obligations.StepRunsTheWord := by
  unfold Obligations.StepRunsTheWord
  intro s n e i t a b u g r slots w traps
  refine ⟨fun h => ⟨fun hp => ?_, fun hp => ?_⟩, fun x h => step_act h, fun x h => step_act h, fun k p h => step_act h,
    fun m off h => step_act h, fun h hn => (step_act h).trans (if_neg (by rw [hn]; decide)),
    fun h hn hlt => (step_engine h hn).trans (if_pos hlt), fun h hn hle => ?_⟩
  · exact (step_act h).trans (stepEvent_event hp)
  · exact (step_act h).trans (stepEvent_word hp)
  · obtain ⟨idle, stalls⟩ := stepEngine_due (s := { t with cur := n }) (b := b) (e := e) hle rfl
    have hstep := step_engine h hn
    refine ⟨fun ht => hstep.trans (idle ht), fun ht hm => hstep.trans (stalls ht hm), fun ht hm => ?_⟩
    have hrun : step s = u.runFetched e := hstep.trans (stepEngine_issues (s := { t with cur := n }) (b := b) hle rfl ht hm)
    have hr : u.core.fetchRing e = (r, slots) := fetchRing_eq u.core e
    refine ⟨fun hl => hrun.trans (runFetched_outside (fetch_outside hl)), fun hl =>
      ⟨fun ha => hrun.trans (runFetched_absent (fetch_absent hr hl ha)), fun hb hs => ?_⟩⟩
    have hw := fetch_word hr hl hb hs
    have illegal {x : Illegal} (hf : u.core.ringFault e = false) (hd : decode e w = .error x) : traps (trapOfIllegal x) :=
      hrun.trans (runFetched_illegal hw hf hd)
    exact ⟨fun hf => hrun.trans (runFetched_fault hw hf), fun hf => ⟨fun hd => hrun.trans (runFetched_word hw hf hd),
      illegal hf, fun _ => illegal hf, fun _ => illegal hf⟩⟩
end

section
/-! PROOFS. The vector words on tiles and masks (spec/06). -/

namespace Sys2Proof.Machine

section
variable {s : State} {i : Instr} {x : Out} {h : Hdr} {m : Fin 8} {z : Bool} {d a b e : Fin 256}

@[simp] theorem Begun_vshape (s : State) (h : Hdr) : (Begun s h).core.vshape = s.core.vshape := by
  have hw := congrArg (fun x => x.1.vshape) (steady_regsAndFlags.takeWait s.core h.wait)
  rw [Begun, State.setCore_core]
  exact hw

/-- A V word whose effect is a function of the core gives it, also as another function says it under the present shape. -/
theorem vgives_vcore {ok : VShape → Bool} {reads writes : List (Fin 256)} {f g : Core → Core}
    (hi : exec i s = x) (hx : x = s.vcore h ok reads writes f) (hok : ok s.core.vshape = true) (hfg : ∀ c, c.vshape = s.core.vshape → f c = g c) :
    VGives i s h { regs := (reads.reverse ++ writes).map (fun t => (false, t.val)) } reads writes g := by
  intro issues hr hs
  rw [hi, hx, vcore_done hok issues hr hs, State.modCore, State.modCore, hfg _ (Begun_vshape s h)]

theorem vgives_v1 {ok : ElemType → Bool} {f : ElemType → Nat → Nat × Flags}
    (hi : exec i s = x) (hx : x = s.v1 h m z ok d a f) (hok : ok s.core.vshape.ty = true) :
    VGives i s h { regs := [(false, a.val), (false, d.val)] } [a] [d]
      (fun c => Elementwise c d m z (fun i => f s.core.vshape.ty (c.elem a (elemBits s.core.vshape.ty) i))) :=
  vgives_vcore hi hx hok (fun c hc => by simp only [Elementwise, VShape.w, hc])

theorem vgives_v2 {ok : ElemType → Bool} {f : ElemType → Nat → Nat → Nat × Flags}
    (hi : exec i s = x) (hx : x = s.v2 h m z ok d a b f) (hok : ok s.core.vshape.ty = true) :
    VGives i s h { regs := [(false, b.val), (false, a.val), (false, d.val)] } [a, b] [d]
      (fun c => Elementwise c d m z (fun i => f s.core.vshape.ty (c.elem a (elemBits s.core.vshape.ty) i) (c.elem b (elemBits s.core.vshape.ty) i))) :=
  vgives_vcore hi hx hok (fun c hc => by simp only [Elementwise, VShape.w, hc])

theorem vgives_v3 {ok : ElemType → Bool} {f : ElemType → Nat → Nat → Nat → Nat × Flags}
    (hi : exec i s = x) (hx : x = s.v3 h m z ok d a b e f) (hok : ok s.core.vshape.ty = true) :
    VGives i s h { regs := [(false, e.val), (false, b.val), (false, a.val), (false, d.val)] } [a, b, e] [d]
      (fun c => Elementwise c d m z (fun i => f s.core.vshape.ty (c.elem a (elemBits s.core.vshape.ty) i) (c.elem b (elemBits s.core.vshape.ty) i)
        (c.elem e (elemBits s.core.vshape.ty) i))) :=
  vgives_vcore hi hx hok (fun c hc => by simp only [Elementwise, VShape.w, hc])

/-- The same effect said in another way. -/
theorem vgives_of_eq {n : Names} {reads writes : List (Fin 256)} {f g : Core → Core} (hv : VGives i s h n reads writes f) (hfg : f = g) :
    VGives i s h n reads writes g := hfg ▸ hv

end

/-- One rounding raises what the rounding itself raises. -/
theorem vround_exact (ty : ElemType) (rm : Rounding) (sat : Bool) (v : Val) : vround ty rm sat (v, 0) = quant1 ty rm sat v :=
  Prod.ext rfl (BitVec.or_zero)

/-- The functions of Trans.lean on an element's code (R154). -/
def transElem (sat : Bool) (f : Trans.Fn) (ty : ElemType) (x : Nat) : Nat × Flags := Trans.apply ty sat f (decodeVal ty x)

/-- An exact integer function of two elements' codes, wrapped or limited (R157). -/
def intElem (sat : Bool) (f : Int → Int → Int) (ty : ElemType) (x y : Nat) : Nat × Flags :=
  wrapOrLimit (elemBits ty) (intSigned ty) sat
    (f (intOf (elemBits ty) (intSigned ty) x) (intOf (elemBits ty) (intSigned ty) y))

/-! ### The shape (R142) -/

/-- The shape that VSHAPE sets. -/
def shapeOf (rows : Fin 32) (cols : Fin 256) (ty : ElemType) (src : StrideSrc) (c : Core) : VShape :=
  { rows := rows.val + 1, cols := cols.val + 1, ty,
    stride := match src with | .imm x => x.toNat * 16 | .reg k => bits (c.readK .V k).toNat 4 20 * 16 }

theorem vgives_vshape {s : State} {h : Hdr} {rows : Fin 32} {cols : Fin 256} {ty : ElemType} (src : StrideSrc)
    (hl : (rows.val + 1) * (cols.val + 1) * elemBits ty ≤ 8192) :
    VGives (.vshape h rows cols ty src) s h {} [] [] (fun c => { c with vshape := shapeOf rows cols ty src c }) := by
  intro hi hr hs
  have hn : (if 8192 < (rows.val + 1) * (cols.val + 1) * elemBits ty then some 21 else none) = none := if_neg (Nat.not_lt.2 hl)
  refine Eq.trans (b := execVshape h rows cols ty src s) rfl ?_
  rw [execVshape, hn]
  exact vissue_done hi hr hs rfl

/-! ### Index generation (R164) -/

theorem vgives_viota {s : State} {h : Hdr} {m : Fin 8} {z sat : Bool} {rm : Rounding} {d : Fin 256} {k : Fin 16}
    (hm : Rows.modeOk s.core.vshape.ty rm = true) (h0 : s.core.vshape.ty ≠ .e8m0) (h2 : s.core.vshape.ty ≠ .e8f2) :
    VGives (.viota h m z rm sat d k) s h { regs := [(false, d.val)] } [] [d] (fun c =>
      Elementwise c d m z (fun i => quant1 c.vshape.ty rm sat (Val.ofInt ((c.readK .V k).toInt + i)))) := by
  intro hi hr hs
  have mode : s.core.modeFault rm = none := if_pos hm
  have shape : s.core.shapeOk (fun sh => sh.ty != .e8m0 && sh.ty != .e8f2) = none := if_pos (by simp [h0, h2])
  refine Eq.trans (b := execViota h m z rm sat d k s) rfl ?_
  rw [execViota, mode, shape]
  exact vissue_done hi hr hs rfl

/-- The random elements of R165 under a seed. -/
def randElems (seed : Word64) (m : Fin 8) (z unif : Bool) (d : Fin 256) (k l : Fin 16) (c : Core) : Core :=
  Elementwise c d m z (fun i =>
    (randElem c.vshape.ty unif (rand64 seed ((c.readK .V k).truncate 32) (c.readK .V l + BitVec.ofNat 64 i)), 0))

/-! ### Masks (R155, R156) -/

theorem zipIdx_map_range {α : Type} (g : Nat → α) (n : Nat) : ((List.range n).map g).zipIdx = (List.range n).map (fun i => (g i, i)) :=
  List.ext_getElem (by simp) (by simp)

/-- A list of options by a test is the list of those that meet it. -/
theorem filterMap_ite_map {α β : Type} (p : Nat → Bool) (f : Nat → α) (g : α → β) (l : List Nat) :
    (l.map (fun i => if p i then some (f i) else none)).filterMap (·.map g) = (l.filter p).map (fun i => g (f i)) := by
  induction l with
  | nil => rfl
  | cons i l ih =>
    cases hp : p i <;> simp [hp, ih]

theorem filterMap_ite {α : Type} (p : Nat → Bool) (f : Nat → α) (l : List Nat) :
    (l.map (fun i => if p i then some (f i) else none)).filterMap (fun x => x) = (l.filter p).map f := by
  simpa using filterMap_ite_map p f (fun x => x) l

/-- A comparison's mask and flags, index by index (R155). -/
theorem vcmp_eq (c : Core) (m : Fin 8) (z : Bool) (cond : VecCond) (p : Fin 8) (a b : Fin 256) : c.vcmp m z cond p a b =
    (let r (i : Nat) : Bool × Flags := vcompare c.vshape.ty cond (c.elem a c.vshape.w i) (c.elem b c.vshape.w i)
     let sel (i : Nat) : Bool := (c.readM m).getLsbD i
     let new : BitVec 2048 := (List.range c.vshape.count).foldl (fun x i =>
       let one : BitVec 2048 := 1#2048 <<< i
       if (if sel i then (r i).1 else !z && (c.readM p).getLsbD i) then x ||| one else x &&& ~~~ one) (c.readM p)
     (c.writeM p new).addFlags .V (((List.range c.vshape.count).filter sel).foldl (fun (x : Flags) i => x ||| (r i).2) (0 : Flags))) := by
  simp only [Core.vcmp, Core.selected, withBits, orFlags, filterMap_ite_map, zipIdx_map_range, List.map_map, List.foldl_map]
  congr 4
  funext x i
  simp only [Function.comp]
  by_cases hs : (c.readM m).getLsbD i = true <;> simp [hs]

end Sys2Proof.Machine

open Sys2Proof Sys2Proof.Machine

/-- Settles O34: each word is an elementwise one of its sources. -/
theorem vectorFloatResults : Obligations.VectorFloatResults := by
  unfold Obligations.VectorFloatResults
  intro s h m z sat rm d a b e ty w x put near N G1 G2 G3 hty
  have hok : wideFloat s.core.vshape.ty = true := by
    obtain h | h | h := hty <;> exact (congrArg wideFloat h).trans rfl
  have once (rm : Rounding) (v : Core → Nat → Val) :
      (fun c => put c (fun i => vround ty rm sat (v c i, 0))) = fun c => put c (fun i => quant1 ty rm sat (v c i)) := by
    simp only [vround_exact]
  refine ⟨vgives_of_eq (vgives_v2 (x := execVadd h m z rm sat d a b s) rfl rfl hok) (once _ _),
    vgives_of_eq (vgives_v2 (x := execVsub h m z rm sat d a b s) rfl rfl hok) (once _ _),
    vgives_of_eq (vgives_v2 (x := execVmul h m z rm sat d a b s) rfl rfl hok) (once _ _),
    vgives_of_eq (vgives_v3 (x := execVfma h m z rm sat d a b e s) rfl rfl hok) (once _ _),
    vgives_of_eq (vgives_v3 (x := execVfms h m z rm sat d a b e s) rfl rfl hok) (once _ _),
    vgives_of_eq (vgives_v3 (x := execVfnma h m z rm sat d a b e s) rfl rfl hok) (once _ _),
    vgives_of_eq (vgives_v2 (x := execVmin h m z d a b s) rfl rfl hok) rfl, vgives_of_eq (vgives_v2 (x := execVmax h m z d a b s) rfl rfl hok) rfl,
    vgives_of_eq (vgives_v1 (x := execVabs h m z d a s) rfl rfl hok) rfl, vgives_of_eq (vgives_v1 (x := execVneg h m z d a s) rfl rfl hok) rfl,
    vgives_of_eq (vgives_v2 (x := execVdiv h m z sat d a b s) rfl rfl hok) rfl,
    vgives_of_eq (vgives_v1 (x := execVsqrt h m z sat d a s) rfl rfl hok) (once _ _),
    vgives_of_eq (vgives_v1 (x := execVrcp h m z sat d a s) rfl rfl hok) rfl, vgives_of_eq (vgives_v1 (x := execVrsq h m z sat d a s) rfl rfl hok) rfl,
    vgives_of_eq (vgives_v1 (x := s.v1 h m z wideFloat d a (transElem sat .exp2)) rfl rfl hok) rfl, vgives_of_eq (vgives_v1 (x := s.v1 h m z wideFloat d a (transElem sat .exp)) rfl rfl hok) rfl,
    vgives_of_eq (vgives_v1 (x := s.v1 h m z wideFloat d a (transElem sat .log2)) rfl rfl hok) rfl,
    vgives_of_eq (vgives_v1 (x := s.v1 h m z wideFloat d a (transElem sat .sinpi)) rfl rfl hok) rfl,
    vgives_of_eq (vgives_v1 (x := s.v1 h m z wideFloat d a (transElem sat .cospi)) rfl rfl hok) rfl,
    vgives_of_eq (vgives_v1 (x := s.v1 h m z wideFloat d a (transElem sat .tanh)) rfl rfl hok) rfl⟩

/-- Settles O35: each word is an elementwise one of the codes' integers, in the type's sign. -/
theorem vectorIntegerResults : Obligations.VectorIntegerResults := by
  unfold Obligations.VectorIntegerResults
  intro s h m z sat d a b ty w sg v lo hi fit G hty
  have hsg : intSigned ty = sg := by
    simp only [sg]
    revert hty
    cases ty <;> simp [intType, intSigned]
  clear_value sg
  subst hsg
  exact ⟨vgives_of_eq (vgives_v2 (x := s.v2 h m z intType d a b (intElem sat (· + ·))) rfl rfl hty) rfl,
    vgives_of_eq (vgives_v2 (x := s.v2 h m z intType d a b (intElem sat (· - ·))) rfl rfl hty) rfl,
    vgives_of_eq (vgives_v2 (x := s.v2 h m z intType d a b (intElem sat (· * ·))) rfl rfl hty) rfl,
    vgives_of_eq (vgives_v2 (x := execVand h m z d a b s) rfl rfl hty) rfl, vgives_of_eq (vgives_v2 (x := execVor h m z d a b s) rfl rfl hty) rfl,
    vgives_of_eq (vgives_v2 (x := execVxor h m z d a b s) rfl rfl hty) rfl, vgives_of_eq (vgives_v2 (x := execVshl h m z d a b s) rfl rfl hty) rfl,
    vgives_of_eq (vgives_v2 (x := execVshr h m z d a b s) rfl rfl hty) rfl, vgives_of_eq (vgives_v2 (x := execVsar h m z d a b s) rfl rfl hty) rfl,
    vgives_of_eq (vgives_v2 (x := execVimin h m z d a b s) rfl rfl hty) rfl, vgives_of_eq (vgives_v2 (x := execVimax h m z d a b s) rfl rfl hty) rfl⟩

/-- Settles O36. -/
theorem vectorShapeAndMasks : Obligations.VectorShapeAndMasks := by
  unfold Obligations.VectorShapeAndMasks
  intro s h m z first rows cols nt imm k cond d a b p q r f ty w count t1
  refine ⟨fun hl => ?_, vgives_of_eq (vgives_v1 (x := execVmov h m z d a s) rfl rfl rfl) rfl,
    vgives_vcore (x := execVbcast h m z d k s) (reads := []) (writes := [d]) rfl rfl rfl (fun c hc => ?_),
    vgives_vcore (x := execVsel h m d a b s) (reads := [a, b]) (writes := [d]) rfl rfl rfl (fun c hc => ?_), fun ht => ?_,
    vgives_vcore (x := execMop h p q r f s) (reads := []) (writes := []) rfl rfl rfl (fun c hc => rfl),
    vgives_vcore (x := execMcnt h first k p s) (reads := []) (writes := []) rfl rfl rfl (fun c hc => ?_)⟩
  · exact ⟨vgives_of_eq (vgives_vshape (.imm imm) hl) rfl, vgives_of_eq (vgives_vshape (.reg k) hl) rfl⟩
  · simp only [Elementwise, VShape.w, hc]
    rfl
  · simp only [Elementwise, VShape.w, hc]
    rfl
  · have hok : (wideFloat ty || (intType ty && cond != .un && cond != .ord)) = true := by simpa [and_assoc] using ht
    refine vgives_vcore (x := execVcmp h m z cond p a b s) (reads := [a, b]) (writes := []) rfl rfl hok (fun c hc => ?_)
    rw [vcmp_eq, hc]
    rfl
  · simp only [VShape.count, hc]
    rfl

/-- Settles O37. -/
theorem vectorWholeTileResults : Obligations.VectorWholeTileResults := by
  unfold Obligations.VectorWholeTileResults
  intro s h m z sat divs col unif rm nt op d a b k l sh ty w count t1 G
  refine ⟨fun hn => ?_, fun hf => ⟨?_, ?_⟩, fun ht => ?_, fun hw => ⟨fun hc => ?_, ?_⟩, fun h0 h2 hm => ?_, fun hu => ?_⟩
  · refine vgives_vcore (x := execVcvt h m z rm sat nt d a s) (reads := [a]) (writes := [d]) rfl rfl (decide_eq_true hn) (fun c hc => ?_)
    simp only [VShape.w, hc]
    rfl
  · refine vgives_vcore (x := execVamax h m k a s) (reads := [a]) (writes := []) rfl rfl hf (fun c hc => ?_)
    simp only [Core.selected, filterMap_ite, hc]
    rfl
  · refine vgives_vcore (x := execVscale h m z rm sat divs d a k s) (reads := [a]) (writes := [d]) rfl rfl hf (fun c hc => ?_)
    simp only [Elementwise, VShape.w, hc]
    rfl
  · have hok : redTypes ty = true := by simpa [redTypes] using ht
    exact ⟨vgives_vcore (x := execVred h m z op col d a s) (reads := [a]) (writes := [d]) rfl rfl hok (fun _ _ => rfl),
      vgives_vcore (x := execVscan h m z op col d a s) (reads := [a]) (writes := [d]) rfl rfl hok (fun _ _ => rfl)⟩
  · have hok : (byteType ty && decide (sh.cols ≤ 32)) = true := by simp [byteType, hc]; exact hw
    refine vgives_vcore (x := execVxpose h m z d a s) (reads := [a]) (writes := [d]) rfl rfl hok (fun c hc => ?_)
    simp only [Elementwise, VShape.w, hc]
    rfl
  · refine vgives_vcore (x := execVperm h m z d a b s) (reads := [a, b]) (writes := [d]) rfl rfl (decide_eq_true hw) (fun c hc => ?_)
    simp only [Elementwise, VShape.w, hc]
    rfl
  · intro hi hr hs
    rw [vgives_viota hm h0 h2 hi hr hs, State.modCore, Begun_vshape]
    rfl
  · have hok : (!unif || wideFloat ty) = true := by simpa using hu
    refine vgives_vcore (x := s.vcore h (fun sh => !unif || wideFloat sh.ty) [] [d] (randElems s.seed m z unif d k l)) rfl rfl hok
      (fun c hc => ?_)
    simp only [randElems, hc]
    rfl
end

section
/-! PROOFS. The elements of tiles and the frame of elementwise words (spec/06 R141, R144 to R146). -/

namespace Sys2Proof.Machine

/-! ### Bytes of numbers (R7) -/

theorem toBytes_succ (n v : Nat) : toBytes (n + 1) v = BitVec.ofNat 8 v :: toBytes n (v / 256) := by
  simp only [toBytes, List.range_succ_eq_map, List.map_cons, List.map_map, Nat.pow_zero, Nat.div_one, List.cons.injEq, true_and]
  refine List.map_congr_left fun i _ => ?_
  rw [Function.comp, Nat.pow_succ', Nat.div_div_eq_div_mul]

@[simp] theorem toBytes_length (n v : Nat) : (toBytes n v).length = n := by simp [toBytes]

theorem ofBytes_toBytes (n v : Nat) : ofBytes (toBytes n v) = v % 256 ^ n := by
  induction n generalizing v with
  | zero => simp [toBytes, ofBytes, natOfBytes, Nat.mod_one]
  | succ n ih =>
    have h : natOfBytes (toBytes n (v / 256)) = v / 256 % 256 ^ n := ih _
    rw [toBytes_succ, ofBytes, natOfBytes, h, BitVec.toNat_ofNat, Nat.pow_succ' (m := 256), Nat.mod_mul (a := 256)]

theorem getRange_setRange_self (m : SMap Byte) (j : Nat) (xs : List Byte) (hm : SMap.wf 0 m = true) :
    SMap.getRange 0 (SMap.setRange 0 m j xs) j xs.length = xs :=
  List.ext_getElem (by simp [SMap.getRange]) fun i h _ => by
    have hi : i < xs.length := by simpa [SMap.getRange] using h
    simp only [SMap.getRange, List.getElem_map, List.getElem_range]
    rw [Laws.get_setRange_self _ _ _ _ _ hm hi]

theorem getRange_congr {m m' : SMap Byte} {j n : Nat} (h : ∀ x, j ≤ x → x < j + n → SMap.get 0 m x = SMap.get 0 m' x) :
    SMap.getRange 0 m j n = SMap.getRange 0 m' j n :=
  List.map_congr_left fun i hi => h _ (by omega) (by have := List.mem_range.1 hi; omega)

/-! ### One element (R141) -/

/-- The widths of elements: half a byte or whole bytes. -/
def WholeWidth (w : Nat) : Prop := w = 4 ∨ ∃ n, 0 < n ∧ w = 8 * n

theorem wholeWidth_elemBits (ty : ElemType) : WholeWidth (elemBits ty) := by
  have h : elemBits ty = 4 ∨ 0 < elemBits ty / 8 ∧ elemBits ty = 8 * (elemBits ty / 8) := by cases ty <;> simp [elemBits]
  exact h.imp_right fun h => ⟨_, h⟩

section
variable {c c' : Core} {t : Fin 256} {w i j v : Nat}

theorem elem_bytes {n : Nat} (hn : 0 < n) : c.elem t (8 * n) i = ofBytes (SMap.getRange 0 c.tiles (t.val * 1024 + i * n) n) := by
  rw [Core.elem, if_neg (by omega), Nat.mul_div_cancel_left n (by decide)]

theorem setElem_bytes {n : Nat} (hn : 0 < n) :
    (c.setElem t (8 * n) i v).tiles = SMap.setRange 0 c.tiles (t.val * 1024 + i * n) (toBytes n v) := by
  rw [Core.setElem, if_neg (by omega), Nat.mul_div_cancel_left n (by decide)]

theorem elem_half : c.elem t 4 i = (SMap.get 0 c.tiles (t.val * 1024 + i / 2)).toNat / 16 ^ (i % 2) % 16 := by
  rw [Core.elem, if_pos (by decide), show i * 4 / 8 = i / 2 by omega, show i * 4 % 8 = 4 * (i % 2) by omega, Nat.pow_mul, show 2 ^ 4 = 16 from rfl]

theorem setElem_half : (c.setElem t 4 i v).tiles = SMap.set 0 c.tiles (t.val * 1024 + i / 2) (BitVec.ofNat 8
    ((SMap.get 0 c.tiles (t.val * 1024 + i / 2)).toNat
      - (SMap.get 0 c.tiles (t.val * 1024 + i / 2)).toNat / 16 ^ (i % 2) % 16 * 16 ^ (i % 2) + v % 16 * 16 ^ (i % 2))) := by
  rw [Core.setElem, if_pos (by decide), show i * 4 / 8 = i / 2 by omega, show i * 4 % 8 = 4 * (i % 2) by omega, Nat.pow_mul, show 2 ^ 4 = 16 from rfl]

theorem setElem_wf (h : SMap.wf (0 : Byte) c.tiles = true) : SMap.wf (0 : Byte) (c.setElem t w i v).tiles = true := by
  unfold Core.setElem
  split
  · exact Laws.wf_set _ _ _ _ h
  · exact Laws.wf_setRange _ _ _ _ h

/-- An element is its own bytes. -/
theorem elem_congr (hw : WholeWidth w) (h : ∀ x, t.val * 1024 + i * w / 8 ≤ x → x < t.val * 1024 + (i * w + w + 7) / 8 →
    SMap.get 0 c.tiles x = SMap.get 0 c'.tiles x) : c.elem t w i = c'.elem t w i := by
  obtain rfl | ⟨n, hn, rfl⟩ := hw
  · rw [elem_half, elem_half, h _ (by omega) (by omega)]
  · have e : i * (8 * n) = 8 * (i * n) := Nat.mul_left_comm _ _ _
    have hr : SMap.getRange 0 c.tiles (t.val * 1024 + i * n) n = SMap.getRange 0 c'.tiles (t.val * 1024 + i * n) n :=
      getRange_congr fun x h1 h2 => by
        have hend : (i * (8 * n) + 8 * n + 7) / 8 = i * n + n := by omega
        exact h x (by omega) (by rw [hend, ← Nat.add_assoc]; exact h2)
    rw [elem_bytes hn, elem_bytes hn, hr]

/-- Writing an element leaves every byte outside it. -/
theorem setElem_outside (hw : WholeWidth w) {x : Nat} (h : x < t.val * 1024 + i * w / 8 ∨ t.val * 1024 + (i * w + w + 7) / 8 ≤ x) :
    SMap.get 0 (c.setElem t w i v).tiles x = SMap.get 0 c.tiles x := by
  obtain rfl | ⟨n, hn, rfl⟩ := hw
  · rw [setElem_half, Laws.get_set_other _ _ _ _ _ (by omega)]
  · have e : i * (8 * n) = 8 * (i * n) := Nat.mul_left_comm _ _ _
    rw [setElem_bytes hn, Laws.get_setRange_other _ _ _ _ _ (by rw [toBytes_length]; omega)]

theorem elem_setElem_self (hw : WholeWidth w) (hc : SMap.wf (0 : Byte) c.tiles = true) : (c.setElem t w i v).elem t w i = v % 2 ^ w := by
  obtain rfl | ⟨n, hn, rfl⟩ := hw
  · rw [elem_half, setElem_half, Laws.get_set_self _ _ _ _ hc, BitVec.toNat_ofNat]
    generalize hb : (SMap.get 0 c.tiles (t.val * 1024 + i / 2)).toNat = b
    have hlt : b < 256 := hb ▸ BitVec.isLt _
    obtain h | h : i % 2 = 0 ∨ i % 2 = 1 := by omega
    all_goals
      simp only [h, Nat.pow_zero, Nat.pow_one, Nat.div_one, Nat.mul_one, Nat.reducePow]
      omega
  · have hr := getRange_setRange_self c.tiles (t.val * 1024 + i * n) (toBytes n v) hc
    rw [toBytes_length] at hr
    rw [elem_bytes hn, setElem_bytes hn, hr, ofBytes_toBytes, Nat.pow_mul]

theorem elem_setElem_other (hw : WholeWidth w) (hc : SMap.wf (0 : Byte) c.tiles = true) (hij : i ≠ j) :
    (c.setElem t w i v).elem t w j = c.elem t w j := by
  obtain rfl | ⟨n, hn, rfl⟩ := hw
  · rw [elem_half, elem_half, setElem_half]
    by_cases hb : j / 2 = i / 2
    · rw [hb, Laws.get_set_self _ _ _ _ hc, BitVec.toNat_ofNat]
      generalize hb : (SMap.get 0 c.tiles (t.val * 1024 + i / 2)).toNat = b
      have hlt : b < 256 := hb ▸ BitVec.isLt _
      obtain h | h : i % 2 = 0 ∧ j % 2 = 1 ∨ i % 2 = 1 ∧ j % 2 = 0 := by omega
      all_goals
        simp only [h, Nat.pow_zero, Nat.pow_one, Nat.div_one, Nat.mul_one]
        omega
    · rw [Laws.get_set_other _ _ _ _ _ (by omega)]
  · refine elem_congr (.inr ⟨n, hn, rfl⟩) fun x h1 h2 => setElem_outside (.inr ⟨n, hn, rfl⟩) ?_
    have ei : i * (8 * n) = 8 * (i * n) := Nat.mul_left_comm _ _ _
    have ej : j * (8 * n) = 8 * (j * n) := Nat.mul_left_comm _ _ _
    obtain h | h := Nat.lt_or_gt_of_ne hij
    · have : (i + 1) * n ≤ j * n := Nat.mul_le_mul_right n h
      rw [Nat.succ_mul] at this
      omega
    · have : (j + 1) * n ≤ i * n := Nat.mul_le_mul_right n h
      rw [Nat.succ_mul] at this
      omega

end

/-! ### Elements written in a row (R145, R146) -/

/-- One element of a row of results. -/
def putElem (d : Fin 256) (w : Nat) (z : Bool) (g : Nat → Option Nat) (c : Core) (i : Nat) : Core :=
  match g i with
  | some x => c.setElem d w i x
  | none => if z then c.setElem d w i 0 else c

theorem writeElems_range (c : Core) (d : Fin 256) (w : Nat) (z : Bool) (n : Nat) (g : Nat → Option Nat) :
    c.writeElems d w z ((List.range n).map g) = (List.range n).foldl (putElem d w z g) c := by
  rw [Core.writeElems, zipIdx_map_range, List.foldl_map]
  rfl

/-- What an element holds after its result is put. -/
def putValue (z : Bool) (r : Option Nat) (w old : Nat) : Nat :=
  match r with
  | some x => x % 2 ^ w
  | none => if z then 0 else old

section
variable {c : Core} {d : Fin 256} {w : Nat} {z : Bool} {g : Nat → Option Nat} {i : Nat}

/-- Putting a result writes its element, or leaves the core as it is. -/
theorem putElem_cases : (∃ v, putElem d w z g c i = c.setElem d w i v ∧ ∀ old, v % 2 ^ w = putValue z (g i) w old)
    ∨ (putElem d w z g c i = c ∧ ∀ old, putValue z (g i) w old = old) := by
  unfold putElem putValue
  cases g i with
  | some x => exact .inl ⟨x, rfl, fun _ => rfl⟩
  | none =>
    cases z with
    | true => exact .inl ⟨0, rfl, fun _ => Nat.zero_mod _⟩
    | false => exact .inr ⟨rfl, fun _ => rfl⟩

theorem putElem_wf (hc : SMap.wf (0 : Byte) c.tiles = true) : SMap.wf (0 : Byte) (putElem d w z g c i).tiles = true := by
  obtain ⟨v, h, -⟩ | ⟨h, -⟩ := putElem_cases (c := c) (d := d) (w := w) (z := z) (g := g) (i := i)
  · rw [h]; exact setElem_wf hc
  · rw [h]; exact hc

theorem putElem_outside (hw : WholeWidth w) {x : Nat} (h : x < d.val * 1024 + i * w / 8 ∨ d.val * 1024 + (i * w + w + 7) / 8 ≤ x) :
    SMap.get 0 (putElem d w z g c i).tiles x = SMap.get 0 c.tiles x := by
  obtain ⟨v, hv, -⟩ | ⟨hv, -⟩ := putElem_cases (c := c) (d := d) (w := w) (z := z) (g := g) (i := i)
  · rw [hv, setElem_outside hw h]
  · rw [hv]

theorem elem_putElem_self (hw : WholeWidth w) (hc : SMap.wf (0 : Byte) c.tiles = true) :
    (putElem d w z g c i).elem d w i = putValue z (g i) w (c.elem d w i) := by
  obtain ⟨v, hv, hr⟩ | ⟨hv, hr⟩ := putElem_cases (c := c) (d := d) (w := w) (z := z) (g := g) (i := i)
  · rw [hv, elem_setElem_self hw hc, hr]
  · rw [hv, hr]

theorem elem_putElem_other (hw : WholeWidth w) (hc : SMap.wf (0 : Byte) c.tiles = true) {j : Nat} (hij : i ≠ j) :
    (putElem d w z g c i).elem d w j = c.elem d w j := by
  obtain ⟨v, hv, -⟩ | ⟨hv, -⟩ := putElem_cases (c := c) (d := d) (w := w) (z := z) (g := g) (i := i)
  · rw [hv, elem_setElem_other hw hc hij]
  · rw [hv]

/-- The first `n` results written, the elements from `n` on as before. -/
theorem elem_putElems (hw : WholeWidth w) (hc : SMap.wf (0 : Byte) c.tiles = true) (n : Nat) :
    SMap.wf (0 : Byte) ((List.range n).foldl (putElem d w z g) c).tiles = true
      ∧ ∀ j, ((List.range n).foldl (putElem d w z g) c).elem d w j
        = if j < n then putValue z (g j) w (c.elem d w j) else c.elem d w j := by
  induction n with
  | zero => exact ⟨hc, fun _ => rfl⟩
  | succ n ih =>
    obtain ⟨hwf, he⟩ := ih
    simp only [List.range_succ, List.foldl_append, List.foldl_cons, List.foldl_nil]
    refine ⟨putElem_wf hwf, fun j => ?_⟩
    by_cases hj : n = j
    · subst hj
      rw [elem_putElem_self hw hwf, he, if_neg (by omega), if_pos (by omega)]
    · rw [elem_putElem_other hw hwf hj, he]
      by_cases hl : j < n
      · rw [if_pos hl, if_pos (by omega)]
      · rw [if_neg hl, if_neg (by omega)]

/-- Only the bytes of the first `n` elements change. -/
theorem putElems_outside (hw : WholeWidth w) (n : Nat) {x : Nat} (h : x < d.val * 1024 ∨ d.val * 1024 + (n * w + 7) / 8 ≤ x) :
    SMap.get 0 ((List.range n).foldl (putElem d w z g) c).tiles x = SMap.get 0 c.tiles x := by
  induction n with
  | zero => rfl
  | succ n ih =>
    rw [Nat.succ_mul] at h
    simp only [List.range_succ, List.foldl_append, List.foldl_cons, List.foldl_nil]
    have hi : x < d.val * 1024 ∨ d.val * 1024 + (n * w + 7) / 8 ≤ x := h.imp_right (by omega)
    have hx : x < d.val * 1024 + n * w / 8 ∨ d.val * 1024 + (n * w + w + 7) / 8 ≤ x := h.imp_left (by omega)
    rw [putElem_outside hw hx, ih hi]

end

/-! ### Elementwise results -/

section
variable (c : Core) (d : Fin 256) (w : Nat) (m : Fin 8) (z : Bool) (n : Nat) (f : Nat → Nat × Flags)

/-- The result of each index under a mask. -/
def maskedResult (i : Nat) : Option Nat := if (c.readM m).getLsbD i then some (f i).1 else none

theorem mapElems_eq : ∃ fl, c.mapElems d w m z n f = ((List.range n).foldl (putElem d w z (maskedResult c m f)) c).addFlags .V fl := by
  refine ⟨orFlags ((c.selected m n f).filterMap (·.map (·.2))), ?_⟩
  rw [Core.mapElems, ← writeElems_range, Core.selected, List.map_map]
  congr 2
  refine List.map_congr_left fun i _ => ?_
  rw [Function.comp, maskedResult]
  split <;> rfl

@[simp] theorem addFlags_tiles (e : Engine) (fl : Flags) : (c.addFlags e fl).tiles = c.tiles := by cases e <;> rfl

theorem mapElems_tiles : (c.mapElems d w m z n f).tiles = ((List.range n).foldl (putElem d w z (maskedResult c m f)) c).tiles := by
  obtain ⟨fl, h⟩ := mapElems_eq c d w m z n f
  rw [h, addFlags_tiles]

theorem elem_of_tiles {c c' : Core} (h : c.tiles = c'.tiles) (t : Fin 256) (w i : Nat) : c.elem t w i = c'.elem t w i := by
  rw [Core.elem, Core.elem, h]

theorem regsOf_setElem (d : Fin 256) (w i v : Nat) : regsOf (c.setElem d w i v) = { regsOf c with tiles := (c.setElem d w i v).tiles } := by
  unfold Core.setElem
  split <;> rfl

theorem setElem_engV (d : Fin 256) (w i v : Nat) : (c.setElem d w i v).engV = c.engV ∧ (c.setElem d w i v).trap = c.trap := by
  unfold Core.setElem
  split <;> exact ⟨rfl, rfl⟩

/-- What writing results leaves of a core besides its tiles. -/
structure TilesOnly (c c' : Core) : Prop where
  regs : regsOf c' = { regsOf c with tiles := c'.tiles }
  engV : c'.engV = c.engV
  trap : c'.trap = c.trap

theorem tilesOnly_putElem (g : Nat → Option Nat) (i : Nat) : TilesOnly c (putElem d w z g c i) := by
  obtain ⟨v, hv, -⟩ | ⟨hv, -⟩ := putElem_cases (c := c) (d := d) (w := w) (z := z) (g := g) (i := i)
  · rw [hv]
    exact ⟨regsOf_setElem c d w i v, (setElem_engV c d w i v).1, (setElem_engV c d w i v).2⟩
  · rw [hv]
    exact ⟨rfl, rfl, rfl⟩

theorem tilesOnly_putElems (g : Nat → Option Nat) : TilesOnly c ((List.range n).foldl (putElem d w z g) c) := by
  induction n with
  | zero => exact ⟨rfl, rfl, rfl⟩
  | succ n ih =>
    simp only [List.range_succ, List.foldl_append, List.foldl_cons, List.foldl_nil]
    have h := tilesOnly_putElem ((List.range n).foldl (putElem d w z g) c) d w z g n
    exact ⟨by rw [h.regs, ih.regs], h.engV.trans ih.engV, h.trap.trans ih.trap⟩

end

end Sys2Proof.Machine

namespace Sys2Proof

open Machine

/-! ### What a word leaves whose effect stays in its core -/

/-- A state reached within the core with the turn, no trap register changed. -/
structure Within (s u : State) : Prop where
  cur : u.cur = s.cur
  trap : u.core.trap = s.core.trap
  outside : SameOutside s u

theorem Within.rfl {s : State} : Within s s := ⟨Eq.refl _, Eq.refl _, .rfl⟩
theorem Within.trans {s t u : State} (h : Within s t) (h' : Within t u) : Within s u :=
  ⟨h'.cur.trans h.cur, h'.trap.trans h.trap, h.outside.trans h.cur h'.outside⟩
theorem Within.modCore (s : State) (f : Core → Core) (h : (f s.core).trap = s.core.trap) : Within s (s.modCore f) :=
  ⟨Eq.refl _, by rw [State.modCore, State.setCore_core, h], .setCore _ _⟩
theorem logError_mem (s : State) (die : Nat) (r : ErrorRecord) : (s.logError die r).mem = s.mem := by
  unfold State.logError
  dsimp only
  split <;> simp
theorem logError_side (s : State) (die : Nat) (r : ErrorRecord) : (s.logError die r).side = s.side := by
  unfold State.logError
  dsimp only
  split <;> simp
theorem logSram_regsAndFlags (s : State) (e : Engine) (x : TrapInfo) : regsAndFlags (s.logSram e x).core = regsAndFlags s.core := by
  unfold State.logSram
  split
  · exact (Same.logError _ _ _).core
  · rfl
theorem Within.logSram (s : State) (e : Engine) (x : TrapInfo) : Within s (s.logSram e x) := by
  unfold State.logSram
  split
  · have h : Same id s (s.logError (coreDie s.cur) { time := s.time, channel := coreChannel s.cur, type := 7, agent := agentCore s.cur e }) :=
      .logError _ _ _
    exact ⟨h.cur, congrArg Core.trap h.core, logError_mem _ _ _, logError_side _ _ _, fun n _ => h.view n⟩
  · exact .rfl
theorem Within.begin (s : State) (e : Engine) (h : Hdr) : Within s (s.begin e h) :=
  ⟨begin_cur s e h, begin_trap s e h, begin_outside s e h⟩

/-- What a word leaves whose effect stays within its core: its registers and flags are those before it or those of the state its effect
is about, and nothing outside the core changed where no trap was met. -/
theorem issue_within {s : State} {e : Engine} {h : Hdr} {n : Names} {b : Bool} {eff : State → Res}
    (hp : (eff (s.begin e h)).plain = true) (hw : Within s ((eff (s.begin e h)).about s)) :
    (regsAndFlags (s.issue e h n b eff).core = regsAndFlags s.core
        ∨ regsAndFlags (s.issue e h n b eff).core = regsAndFlags ((eff (s.begin e h)).about s).core)
      ∧ QuietOutside s (s.issue e h n b eff) := by
  have quiet {u : State} (hu : Within s u) (hl : Leads u (s.issue e h n b eff)) : QuietOutside s (s.issue e h n b eff) :=
    fun hm => hu.outside.trans hu.cur (hl.quiet (congrArg _ (hm.trans hu.trap.symm)))
  obtain hl | hl | hl := issue_leads s e h n b eff hp
  · exact ⟨.inl hl.same.core, quiet .rfl hl⟩
  · exact ⟨.inl (hl.same.core.trans (begin_regsAndFlags s e h)), quiet (.begin s e h) hl⟩
  · exact ⟨.inr hl.same.core, quiet hw hl⟩

/-! ### Elementwise words (R145, R148) -/

/-- A word that writes its results over the elements of a tile. -/
def WritesElements (i : Instr) (s : State) (h : Hdr) (d : Fin 256) : Prop :=
  ∃ ok reads m z, ∃ f : Core → Nat → Nat × Flags, exec i s = s.vcore h ok reads [d] (fun c => Elementwise c d m z (f c))

section
variable {s : State} {i : Instr} {x : Out} {h : Hdr} {m : Fin 8} {z : Bool} {d a b e : Fin 256}

theorem writesElements_vcore {ok : VShape → Bool} {reads : List (Fin 256)} {f : Core → Nat → Nat × Flags} (hi : exec i s = x)
    (hx : x = s.vcore h ok reads [d] (fun c => Elementwise c d m z (f c))) : WritesElements i s h d := ⟨_, _, _, _, _, hi.trans hx⟩
theorem writesElements_v1 {ok : ElemType → Bool} {f : ElemType → Nat → Nat × Flags} (hi : exec i s = x) (hx : x = s.v1 h m z ok d a f) :
    WritesElements i s h d := ⟨_, _, _, _, _, hi.trans hx⟩
theorem writesElements_v2 {ok : ElemType → Bool} {f : ElemType → Nat → Nat → Nat × Flags} (hi : exec i s = x)
    (hx : x = s.v2 h m z ok d a b f) : WritesElements i s h d := ⟨_, _, _, _, _, hi.trans hx⟩
theorem writesElements_v3 {ok : ElemType → Bool} {f : ElemType → Nat → Nat → Nat → Nat × Flags} (hi : exec i s = x)
    (hx : x = s.v3 h m z ok d a b e f) : WritesElements i s h d := ⟨_, _, _, _, _, hi.trans hx⟩

end

/-- What an elementwise word leaves of the registers that a core has. -/
structure ElementFrame (s t : State) (d : Fin 256) : Prop where
  bytes : ∀ x, x < 1024 * d.val ∨ 1024 * d.val + (s.core.vshape.count * s.core.vshape.w + 7) / 8 ≤ x →
    SMap.get 0 t.core.tiles x = SMap.get 0 s.core.tiles x
  regs : { regsOf t.core with tiles := s.core.tiles } = regsOf s.core
  flags : s.core.engV.flags &&& ~~~ t.core.engV.flags = 0

/-- The effect of a V word on tiles alone. -/
def vcoreEff (reads writes : List (Fin 256)) (f : Core → Core) (s : State) : Res :=
  if !s.core.sharedReady (reads.map (·.val)) (writes.map (·.val)) then .stall id
  else s.onPool .V .tile (s.core.readRuns none reads) (fun s => .done ((s.setCore (f s.core)).written writes))

theorem vcore_issue (s : State) (h : Hdr) (ok : VShape → Bool) (reads writes : List (Fin 256)) (f : Core → Core) :
    s.vcore h ok reads writes f = .next (s.issue .V h { regs := tileRegs (reads.reverse ++ writes), shape := s.core.shapeOk ok }
      (s.core.busyFor ((reads ++ writes).map .t)) (vcoreEff reads writes f)) := rfl

/-- A V word stalls, traps on a soft error, or has its effect and its tiles written. -/
theorem vcoreEff_cases (reads writes : List (Fin 256)) (f : Core → Core) (s : State) :
    vcoreEff reads writes f s = .stall id ∨ vcoreEff reads writes f s = .trap (fun s => s.logSram .V s.softTrap) s.softTrap
      ∨ vcoreEff reads writes f s = .done ((s.setCore (f s.core)).written writes) := by
  unfold vcoreEff State.onPool
  split
  · exact .inl rfl
  · split
    · exact .inr (.inl rfl)
    · exact .inr (.inr rfl)

theorem written_regsAndFlags (s : State) (ts : List (Fin 256)) : regsAndFlags (s.written ts).core = regsAndFlags s.core := by
  simp only [State.written, State.filled, State.modCore, State.setCore_core]
  rfl
theorem Within.written (s : State) (ts : List (Fin 256)) : Within s (s.written ts) := by
  unfold State.written State.filled
  exact (Within.modCore _ _ (Eq.refl _)).trans (.modCore _ _ (Eq.refl _))

/-- A V WORD ON TILES ALONE leaves the registers and flags before it, or those that its function leaves of them. -/
theorem vcore_within {s t : State} {i : Instr} {h : Hdr} {ok : VShape → Bool} {reads writes : List (Fin 256)} {f : Core → Core}
    (hx : exec i s = s.vcore h ok reads writes f) (hf : ∀ c, (f c).trap = c.trap) (ht : exec i s = .next t) :
    (regsAndFlags t.core = regsAndFlags s.core
        ∨ ∃ c, regsAndFlags c = regsAndFlags s.core ∧ regsAndFlags t.core = regsAndFlags (f c)) ∧ QuietOutside s t := by
  rw [hx, vcore_issue] at ht
  obtain rfl := (Host.Outcome.next.inj ht).symm
  have hb := begin_regsAndFlags s .V h
  obtain he | he | he := vcoreEff_cases reads writes f (s.begin .V h)
  · obtain ⟨hr, hq⟩ := issue_within (eff := vcoreEff reads writes f) (by rw [he]; rfl) (by rw [he]; exact .rfl)
    exact ⟨.inl (by rw [he] at hr; exact or_self_iff.1 hr), hq⟩
  · obtain ⟨hr, hq⟩ := issue_within (eff := vcoreEff reads writes f) (by rw [he]; rfl) (by rw [he]; exact .logSram _ _ _)
    rw [he] at hr
    exact ⟨.inl (hr.elim id fun hr => hr.trans (logSram_regsAndFlags _ _ _)), hq⟩
  · obtain ⟨hr, hq⟩ := issue_within (eff := vcoreEff reads writes f) (by rw [he]; rfl)
      (by rw [he]; exact ((Within.begin s .V h).trans (.modCore _ _ (hf _))).trans (.written _ _))
    rw [he] at hr
    refine ⟨hr.imp_right fun hr => ⟨_, hb, ?_⟩, hq⟩
    rw [hr, Res.about, written_regsAndFlags, State.setCore_core]

/-- What elementwise results leave of a core besides the tiles. -/
theorem elementwise_leaves (c : Core) (d : Fin 256) (m : Fin 8) (z : Bool) (f : Nat → Nat × Flags) :
    regsOf (Elementwise c d m z f) = { regsOf c with tiles := (Elementwise c d m z f).tiles }
      ∧ (∃ fl, (Elementwise c d m z f).engV.flags = c.engV.flags ||| fl) ∧ (Elementwise c d m z f).trap = c.trap := by
  obtain ⟨fl, h⟩ := mapElems_eq c d c.vshape.w m z c.vshape.count f
  obtain ⟨hr, hv, ht⟩ := tilesOnly_putElems c d c.vshape.w z c.vshape.count (maskedResult c m f)
  rw [Elementwise, h, addFlags_tiles, regsOf_addFlags, addFlags_trap]
  exact ⟨hr, ⟨fl, (addFlags_flags _ .V fl).trans (congrArg (fun x => x.flags ||| fl) hv)⟩, ht⟩

theorem elementwise_outside (c : Core) (d : Fin 256) (m : Fin 8) (z : Bool) (f : Nat → Nat × Flags) {x : Nat}
    (h : x < 1024 * d.val ∨ 1024 * d.val + (c.vshape.count * c.vshape.w + 7) / 8 ≤ x) :
    SMap.get 0 (Elementwise c d m z f).tiles x = SMap.get 0 c.tiles x := by
  have hw : WholeWidth c.vshape.w := wholeWidth_elemBits _
  rw [Nat.mul_comm 1024] at h
  rw [Elementwise, mapElems_tiles, putElems_outside hw _ h]

theorem WritesElements.frame {s t : State} {i : Instr} {h : Hdr} {d : Fin 256} (hi : WritesElements i s h d) (ht : exec i s = .next t) :
    ElementFrame s t d ∧ QuietOutside s t := by
  obtain ⟨ok, reads, m, z, f, hx⟩ := hi
  obtain ⟨hr, hq⟩ := vcore_within hx (fun c => (elementwise_leaves c d m z (f c)).2.2) ht
  refine ⟨?_, hq⟩
  obtain hr | ⟨c, hc, hr⟩ := hr
  · have regs : regsOf t.core = regsOf s.core := congrArg Prod.fst hr
    have flags : t.core.engV.flags = s.core.engV.flags := congrFun (congrArg Prod.snd hr) .V
    refine ⟨fun x _ => congrArg (SMap.get 0 · x) (congrArg Regs.tiles regs), by rw [regs]; rfl, ?_⟩
    rw [flags, BitVec.and_not_self]
  · obtain ⟨regs', ⟨fl, flags'⟩, -⟩ := elementwise_leaves c d m z (f c)
    have regs : regsOf t.core = regsOf (Elementwise c d m z (f c)) := congrArg Prod.fst hr
    have flags : t.core.engV.flags = c.engV.flags ||| fl := (congrFun (congrArg Prod.snd hr) .V).trans flags'
    have cregs : regsOf c = regsOf s.core := congrArg Prod.fst hc
    have cflags : c.engV.flags = s.core.engV.flags := congrFun (congrArg Prod.snd hc) .V
    have shape : c.vshape = s.core.vshape := congrArg Regs.vshape cregs
    refine ⟨fun x hx => ?_, ?_, ?_⟩
    · refine (congrArg (SMap.get 0 · x) (congrArg Regs.tiles regs)).trans ?_
      rw [← shape] at hx
      exact (elementwise_outside c d m z (f c) hx).trans (congrArg (SMap.get 0 · x) (congrArg Regs.tiles cregs))
    · rw [regs, regs', cregs]
      rfl
    · rw [flags, cflags]
      exact flags_kept _ _

end Sys2Proof

open Sys2Proof Sys2Proof.Machine

/-- Settles O38: the elements are written one after another, each in its own bytes. -/
theorem elementwiseElements : Obligations.ElementwiseElements := by
  unfold Obligations.ElementwiseElements
  intro c d m z f hc hn u
  have hw : WholeWidth c.vshape.w := wholeWidth_elemBits _
  have ht : u.tiles = _ := mapElems_tiles c d c.vshape.w m z c.vshape.count f
  obtain ⟨hwf, he⟩ := elem_putElems (d := d) (z := z) (g := maskedResult c m f) hw hc c.vshape.count
  refine ⟨fun i hi => ?_, fun t htd i hi => ?_, ht ▸ hwf⟩
  · rw [elem_of_tiles ht, he, if_pos hi]
    by_cases hm : (c.readM m).getLsbD i = true <;> simp [maskedResult, putValue, hm]
  · have hlast : i * c.vshape.w + c.vshape.w ≤ c.vshape.count * c.vshape.w := by
      rw [← Nat.succ_mul]
      exact Nat.mul_le_mul_right _ hi
    have hne : t.val ≠ d.val := fun h => htd (Fin.ext h)
    refine elem_congr hw fun x h1 h2 => ?_
    have hx : x < d.val * 1024 ∨ d.val * 1024 + (c.vshape.count * c.vshape.w + 7) / 8 ≤ x := by omega
    rw [ht, putElems_outside hw _ hx]

/-- Settles O39: every one of these words writes elements of its destination alone. -/
theorem vectorFrame : Obligations.VectorFrame := by
  unfold Obligations.VectorFrame
  intro s t h m z sat rm d a b e k i hmem ht
  have hi : WritesElements i s h d := by
    clear ht
    revert i
    simp only [List.forall_mem_cons, List.not_mem_nil, false_implies, implies_true, and_true]
    exact ⟨writesElements_v1 (x := execVmov h m z d a s) rfl rfl, writesElements_vcore (x := execVbcast h m z d k s) rfl rfl,
      writesElements_vcore (x := execVsel h m d a b s) rfl rfl,
      writesElements_v2 (x := execVadd h m z rm sat d a b s) rfl rfl, writesElements_v2 (x := execVsub h m z rm sat d a b s) rfl rfl,
      writesElements_v2 (x := execVmul h m z rm sat d a b s) rfl rfl, writesElements_v3 (x := execVfma h m z rm sat d a b e s) rfl rfl,
      writesElements_v3 (x := execVfms h m z rm sat d a b e s) rfl rfl, writesElements_v3 (x := execVfnma h m z rm sat d a b e s) rfl rfl,
      writesElements_v2 (x := execVmin h m z d a b s) rfl rfl, writesElements_v2 (x := execVmax h m z d a b s) rfl rfl,
      writesElements_v1 (x := execVabs h m z d a s) rfl rfl, writesElements_v1 (x := execVneg h m z d a s) rfl rfl,
      writesElements_v2 (x := execVdiv h m z sat d a b s) rfl rfl, writesElements_v1 (x := execVsqrt h m z sat d a s) rfl rfl,
      writesElements_v1 (x := execVrcp h m z sat d a s) rfl rfl, writesElements_v1 (x := execVrsq h m z sat d a s) rfl rfl,
      writesElements_v1 (x := s.v1 h m z wideFloat d a (transElem sat .exp2)) rfl rfl,
      writesElements_v1 (x := s.v1 h m z wideFloat d a (transElem sat .exp)) rfl rfl,
      writesElements_v1 (x := s.v1 h m z wideFloat d a (transElem sat .log2)) rfl rfl,
      writesElements_v1 (x := s.v1 h m z wideFloat d a (transElem sat .sinpi)) rfl rfl,
      writesElements_v1 (x := s.v1 h m z wideFloat d a (transElem sat .cospi)) rfl rfl,
      writesElements_v1 (x := s.v1 h m z wideFloat d a (transElem sat .tanh)) rfl rfl,
      writesElements_v2 (x := s.v2 h m z intType d a b (intElem sat (· + ·))) rfl rfl,
      writesElements_v2 (x := s.v2 h m z intType d a b (intElem sat (· - ·))) rfl rfl,
      writesElements_v2 (x := s.v2 h m z intType d a b (intElem sat (· * ·))) rfl rfl,
      writesElements_v2 (x := execVand h m z d a b s) rfl rfl, writesElements_v2 (x := execVor h m z d a b s) rfl rfl,
      writesElements_v2 (x := execVxor h m z d a b s) rfl rfl, writesElements_v2 (x := execVshl h m z d a b s) rfl rfl,
      writesElements_v2 (x := execVshr h m z d a b s) rfl rfl, writesElements_v2 (x := execVsar h m z d a b s) rfl rfl,
      writesElements_v2 (x := execVimin h m z d a b s) rfl rfl, writesElements_v2 (x := execVimax h m z d a b s) rfl rfl,
      writesElements_vcore (x := execVxpose h m z d a s) rfl rfl, writesElements_vcore (x := execVperm h m z d a b s) rfl rfl⟩
  obtain ⟨hf, hq⟩ := hi.frame ht
  exact ⟨hf.bytes, hf.regs, hf.flags, hq⟩
end

section
/-! PROOFS. Encoding and decoding are inverse (spec/02 R32, R53 to R65): the rows of the opcode map and their fields. -/

namespace Sys2Proof

open Layout

/-! ### Codes (R33, R34, R49 to R52) -/

theorem Wait.code_lt (w : Wait) : w.code < 256 := by
  cases w <;> simp only [Wait.code] <;> omega
theorem Signal.code_lt (x : Signal) : x.code < 256 := by
  cases x <;> simp only [Signal.code] <;> omega

theorem fin_ofNat_eq {n : Nat} [NeZero n] {x : Fin n} {m : Nat} (h : m % n = x.val) : Fin.ofNat n m = x := Fin.ext h

theorem Wait.ofCode_code (w : Wait) : Wait.ofCode w.code = w := by
  cases w with
  | none => rfl
  | pop c q =>
    have hd : (0x40 + c.val * 16 + q.val) / 64 = 1 := by omega
    simp only [Wait.ofCode, Wait.code, hd]
    rw [fin_ofNat_eq (x := c) (by omega), fin_ofNat_eq (x := q) (by omega)]
  | full hd =>
    have h2 : (0x80 + hd.val) / 64 = 2 := by omega
    simp only [Wait.ofCode, Wait.code, h2]
    rw [fin_ofNat_eq (x := hd) (by omega)]
  | free hd =>
    have h3 : (0xC0 + hd.val) / 64 = 3 := by omega
    simp only [Wait.ofCode, Wait.code, h3]
    rw [fin_ofNat_eq (x := hd) (by omega)]
theorem Signal.ofCode_code (x : Signal) : Signal.ofCode x.code = x := by
  cases x with
  | none => rfl
  | push c q =>
    have hd : (0x40 + c.val * 16 + q.val) / 64 = 1 := by omega
    simp only [Signal.ofCode, Signal.code, hd]
    rw [fin_ofNat_eq (x := c) (by omega), fin_ofNat_eq (x := q) (by omega)]
  | release hd =>
    have h2 : (0x80 + hd.val) / 64 = 2 := by omega
    simp only [Signal.ofCode, Signal.code, h2]
    rw [fin_ofNat_eq (x := hd) (by omega)]
  | arm hd =>
    have h3 : (0xC0 + hd.val) / 64 = 3 := by omega
    simp only [Signal.ofCode, Signal.code, h3]
    rw [fin_ofNat_eq (x := hd) (by omega)]

theorem Wait.coupling (w : Wait) (pos : Nat) : couplingZeros pos w.code = [] := by
  unfold couplingZeros Wait.code
  cases w <;> simp <;> omega
theorem Signal.coupling (x : Signal) (pos : Nat) : couplingZeros pos x.code = [] := by
  unfold couplingZeros Signal.code
  cases x <;> simp <;> omega

@[simp] theorem Scope.ofCode_code (x : Scope) : Scope.ofCode x.code = x := by cases x <;> rfl
@[simp] theorem Policy.ofCode_code (x : Policy) : Policy.ofCode x.code = x := by cases x <;> rfl
@[simp] theorem Rounding.ofCode_code (x : Rounding) : Rounding.ofCode x.code = x := by cases x <;> rfl
@[simp] theorem IntCond.ofCode_code (x : IntCond) : IntCond.ofCode x.code = x := by cases x <;> rfl
@[simp] theorem FpCond.ofCode_code (x : FpCond) : FpCond.ofCode x.code = x := by cases x <;> rfl
@[simp] theorem VecCond.ofCode_code (x : VecCond) : VecCond.ofCode x.code = x := by cases x <;> rfl
@[simp] theorem Conv.ofCode_code (x : Conv) : Conv.ofCode x.code = x := by cases x <;> rfl
@[simp] theorem AtomOrder.ofCode_code (x : AtomOrder) : AtomOrder.ofCode x.code = x := by cases x <;> rfl
@[simp] theorem FenceKind.ofCode_code (x : FenceKind) : FenceKind.ofCode x.code = x := by cases x <;> rfl
@[simp] theorem Size.ofCode_code (x : Size) : Size.ofCode x.code = x := by cases x <;> rfl
@[simp] theorem BlkMode.ofCode_code (x : BlkMode) : BlkMode.ofCode x.code = x := by cases x <;> rfl
@[simp] theorem CollOp.ofCode_code (x : CollOp) : CollOp.ofCode x.code = x := by cases x <;> rfl
@[simp] theorem Aop.ofCode_code (x : Aop) : Aop.ofCode x.code = x := by
  cases x with
  | add w | and w | or w | xor w | mins w | maxs w | minu w | maxu w | xchg w => cases w <;> rfl
  | fadd | bfadd2 | fmin | fmax | fminnum | fmaxnum => rfl

theorem ElemType.ofCode?_code (ty : ElemType) : ElemType.ofCode? ty.code = some ty := by
  cases ty with
  | b8 p ext uns => revert p ext uns; decide
  | f32 | bf16 | f16 | e4m3 | e5m2 | e2m1 | i8 | n8 | i16 | n16 | i32 | n32 | i64 | n64 | i4 | e8m0 | e8f2 => rfl
@[simp] theorem ElemType.ofCode_code (ty : ElemType) : ElemType.ofCode ty.code = ty := by rw [ElemType.ofCode, ofCode?_code]; rfl
@[simp] theorem ElemType.codeOk_code (ty : ElemType) : ElemType.codeOk ty.code = true := by rw [ElemType.codeOk, ofCode?_code]; rfl

theorem Scope.code_lt (x : Scope) : x.code < 5 := by cases x <;> decide
theorem Policy.code_lt (x : Policy) : x.code < 4 := by cases x <;> decide
theorem Rounding.code_lt (x : Rounding) : x.code < 5 := by cases x <;> decide
theorem IntCond.code_lt (x : IntCond) : x.code < 10 := by cases x <;> decide
theorem FpCond.code_lt (x : FpCond) : x.code < 4 := by cases x <;> decide
theorem VecCond.code_lt (x : VecCond) : x.code < 8 := by cases x <;> decide
theorem Conv.code_lt (x : Conv) : x.code < 13 := by cases x <;> decide
theorem AtomOrder.code_lt (x : AtomOrder) : x.code < 4 := by cases x <;> decide
theorem FenceKind.code_lt (x : FenceKind) : x.code < 4 := by cases x <;> decide
theorem Size.code_lt (x : Size) : x.code < 4 := by cases x <;> decide
theorem BlkMode.code_lt (x : BlkMode) : x.code < 3 := by cases x <;> decide
theorem CollOp.code_lt (x : CollOp) : x.code < 3 := by cases x <;> decide
theorem Aop.code_lt (x : Aop) : x.code < 0x18 := by
  cases x with
  | add w | and w | or w | xor w | mins w | maxs w | minu w | maxu w | xchg w => cases w <;> decide
  | fadd | bfadd2 | fmin | fmax | fminnum | fmaxnum => decide
theorem ElemType.code_lt (ty : ElemType) : ty.code < 64 := by
  cases ty with
  | b8 p ext uns => revert p ext uns; decide
  | f32 | bf16 | f16 | e4m3 | e5m2 | e2m1 | i8 | n8 | i16 | n16 | i32 | n32 | i64 | n64 | i4 | e8m0 | e8f2 => decide

/-! ### Fields (R68) -/

/-- A value that a field takes: it fits, and it is zero or legal as the field says. -/
structure Fits (f : Field) (v : Nat) : Prop where
  width : v < 2 ^ f.width
  zero : f.zero = true → v = 0
  legal : f.zero = false → f.ok v = true

/-- Values that consecutive fields take. -/
def FieldsFit : List Field → List Nat → Prop
  | [], [] => True
  | f :: fs, v :: vs => Fits f v ∧ FieldsFit fs vs
  | _, _ => False

@[simp] theorem fieldsFit_nil : FieldsFit [] [] := trivial
@[simp] theorem fieldsFit_cons {f : Field} {fs : List Field} {v : Nat} {vs : List Nat} :
    FieldsFit (f :: fs) (v :: vs) ↔ Fits f v ∧ FieldsFit fs vs := .rfl

@[simp] theorem fits_any {w v : Nat} : Fits (any w) v ↔ v < 2 ^ w := ⟨fun h => h.width, fun h => ⟨h, nofun, fun _ => rfl⟩⟩
@[simp] theorem fits_zero (w : Nat) : Fits (zero w) 0 := ⟨Nat.two_pow_pos w, fun _ => rfl, nofun⟩
@[simp] theorem fits_coded {w v : Nat} {ok : Nat → Bool} : Fits (coded w ok) v ↔ v < 2 ^ w ∧ ok v = true :=
  ⟨fun h => ⟨h.width, h.legal rfl⟩, fun h => ⟨h.1, nofun, fun _ => h.2⟩⟩
@[simp] theorem fits_below {w v n : Nat} : Fits (below w n) v ↔ v < 2 ^ w ∧ v < n :=
  ⟨fun h => ⟨h.width, of_decide_eq_true (h.legal rfl)⟩, fun h => ⟨h.1, nofun, fun _ => decide_eq_true h.2⟩⟩

theorem zeroOffences_fit {fs : List Field} {vs : List Nat} (h : FieldsFit fs vs) (pos : Nat) : zeroOffences pos fs vs = [] := by
  induction fs generalizing vs pos with
  | nil => cases vs <;> rfl
  | cons f fs ih =>
    cases vs with
    | nil => rfl
    | cons v vs =>
      obtain ⟨hf, hs⟩ := h
      rw [zeroOffences, ih hs, List.append_nil]
      cases hz : f.zero with
      | false => rfl
      | true => rw [hf.zero hz]; rfl
theorem valueOffences_fit {fs : List Field} {vs : List Nat} (h : FieldsFit fs vs) (pos : Nat) : valueOffences pos fs vs = [] := by
  induction fs generalizing vs pos with
  | nil => cases vs <;> rfl
  | cons f fs ih =>
    cases vs with
    | nil => rfl
    | cons v vs =>
      obtain ⟨hf, hs⟩ := h
      rw [valueOffences, ih hs, List.append_nil]
      cases hz : f.zero with
      | true => rfl
      | false => rw [hf.legal hz]; rfl

/-- The bits that values take in fields, from bit 0 upwards. -/
def packed (fs : List Field) (vs : List Nat) : Nat := packFields (List.zip (fs.map Field.width) vs)
/-- The bits of all fields. -/
def widths (fs : List Field) : Nat := (fs.map Field.width).sum

theorem packed_lt {fs : List Field} {vs : List Nat} (h : FieldsFit fs vs) : packed fs vs < 2 ^ widths fs := by
  induction fs generalizing vs with
  | nil => cases vs <;> exact Nat.one_pos
  | cons f fs ih =>
    cases vs with
    | nil => cases h
    | cons v vs =>
      obtain ⟨hf, hs⟩ := h
      have hr : packed fs vs < 2 ^ widths fs := ih hs
      have hp : packed (f :: fs) (v :: vs) = v % 2 ^ f.width + 2 ^ f.width * packed fs vs := rfl
      rw [hp, show widths (f :: fs) = f.width + widths fs from List.sum_cons, Nat.pow_add, Nat.mod_eq_of_lt hf.width]
      calc v + 2 ^ f.width * packed fs vs < 2 ^ f.width + 2 ^ f.width * packed fs vs := Nat.add_lt_add_right hf.width _
        _ = 2 ^ f.width * (packed fs vs + 1) := by rw [Nat.mul_add, Nat.mul_one, Nat.add_comm]
        _ ≤ 2 ^ f.width * 2 ^ widths fs := Nat.mul_le_mul_left _ hr

/-- Unpacking gives the packed values back, whatever stands above them. -/
theorem unpack_packed {fs : List Field} {vs : List Nat} (h : FieldsFit fs vs) (x : Nat) :
    unpackFields (fs.map Field.width) (packed fs vs + 2 ^ widths fs * x) = vs := by
  induction fs generalizing vs with
  | nil => cases vs with | nil => rfl | cons => cases h
  | cons f fs ih =>
    cases vs with
    | nil => cases h
    | cons v vs =>
      obtain ⟨hf, hs⟩ := h
      have hp : packed (f :: fs) (v :: vs) + 2 ^ widths (f :: fs) * x = v + 2 ^ f.width * (packed fs vs + 2 ^ widths fs * x) := by
        rw [show packed (f :: fs) (v :: vs) = v % 2 ^ f.width + 2 ^ f.width * packed fs vs from rfl,
          show widths (f :: fs) = f.width + widths fs from List.sum_cons, Nat.pow_add, Nat.mod_eq_of_lt hf.width, Nat.mul_assoc, Nat.mul_add,
          Nat.add_assoc]
      rw [List.map_cons, unpackFields, hp, Nat.add_mul_mod_self_left, Nat.mod_eq_of_lt hf.width,
        Nat.add_mul_div_left _ _ (Nat.two_pow_pos _), Nat.div_eq_of_lt hf.width, Nat.zero_add, ih hs]

/-! ### A word and its row -/

theorem rowOf_op {e : Engine} {op : Nat} {r : Row} (h : rowOf e op = some r) : op < 256 := by
  have hall : (rowsOf e).all (fun r => decide (r.op < 256)) = true := by cases e <;> rfl
  have hop : r.op = op := by simpa using List.find?_some h
  exact hop ▸ of_decide_eq_true (List.all_eq_true.1 hall r (List.mem_of_find?_eq_some h))

/-- The parts of a word's number (R32). -/
theorem toNat_wordOf {e : Engine} {op : Nat} {h : Hdr} {fs : List (Nat × Nat)} (hop : op < 256) (hfs : packFields fs < 2 ^ 40) :
    (Enc.wordOf (e, op, h, fs)).toNat = packFields fs + 2 ^ 40 * (op + 2 ^ 8 * (h.sig.code + 2 ^ 8 * h.wait.code)) := by
  have hs := h.sig.code_lt
  have hw := h.wait.code_lt
  simp only [Enc.wordOf, BitVec.toNat_ofNat]
  omega

/-- A WORD DECODES to what its row builds of the values that its fields hold. -/
theorem decode_wordOf {e : Engine} {op : Nat} {h : Hdr} {fs : List (Nat × Nat)} {r : Row} {vs : List Nat} (hr : rowOf e op = some r)
    (hvs : FieldsFit r.fields vs) (hpack : packFields fs = packed r.fields vs) (hw : widths r.fields = 40) (hz : r.zeros vs = [])
    (hb : r.bads vs = []) : decode e (Enc.wordOf (e, op, h, fs)) = .ok (r.build h.wait h.sig vs) := by
  have hop := rowOf_op hr
  have hlt : packFields fs < 2 ^ 40 := by rw [hpack, ← hw]; exact packed_lt hvs
  have hn := toNat_wordOf (e := e) (h := h) hop hlt
  have hs := h.sig.code_lt
  have hwait := h.wait.code_lt
  generalize hN : (Enc.wordOf (e, op, h, fs)).toNat = N at hn
  have h40 : N / 2 ^ 40 % 256 = op := by omega
  have h48 : N / 2 ^ 48 % 256 = h.sig.code := by omega
  have h56 : N / 2 ^ 56 = h.wait.code := by omega
  have hun : unpackFields (r.fields.map Field.width) N = vs := by
    rw [hn, hpack, ← hw]
    exact unpack_packed hvs _
  simp only [decode, hN, h40, hr, hun, Row.zeroOffences, Row.valueOffences, zeroOffences_fit hvs, valueOffences_fit hvs, hz, hb, h48, h56,
    Nat.mod_eq_of_lt hwait, Wait.coupling, Signal.coupling, Wait.ofCode_code, Signal.ofCode_code, List.append_nil, List.min?_nil]

/-- An instruction that its word decodes to on its engine. -/
def RoundTrips (i : Instr) : Prop := ∃ e, i.engine? = some e ∧ decode e (encode i) = .ok i

theorem roundTrips_of_row {i : Instr} {e : Engine} {op : Nat} {h : Hdr} {fs : List (Nat × Nat)} {r : Row} (vs : List Nat)
    (hp : i.parts = some (e, op, h, fs)) (hr : rowOf e op = some r) (hvs : FieldsFit r.fields vs)
    (hpack : packFields fs = packed r.fields vs) (hi : r.build h.wait h.sig vs = i) (hz : r.zeros vs = [] := by rfl)
    (hb : r.bads vs = [] := by rfl) (hw : widths r.fields = 40 := by rfl) : RoundTrips i :=
  ⟨e, by rw [Instr.engine?, hp]; rfl, by
    rw [encode, encode?, hp, Option.map_some, Option.getD_some, decode_wordOf hr hvs hpack hw hz hb, hi]⟩

end Sys2Proof
end

section
/-! PROOFS. Each family of rows of the opcode map reads back what the encoder writes (spec/02 R53 to R59). -/

namespace Sys2Proof

open Layout Rows

/-! ### Headers, flags and split fields -/

@[simp] theorem Hdr.guarded_self (h : Hdr) : Hdr.guarded h.wait h.sig h.guard.val h.neg.toNat = h := by
  cases h with | mk w x g n => cases n <;> simp [Hdr.guarded]
theorem Hdr.guarded_zero {h : Hdr} (hn : (!h.neg) = true) : Hdr.guarded h.wait h.sig h.guard.val 0 = h := by
  have h0 : h.neg.toNat = 0 := by simpa using hn
  rw [← h0, Hdr.guarded_self]
theorem Hdr.plain_self {h : Hdr} (hp : h.isPlain = true) : Hdr.plain h.wait h.sig = h := by
  obtain ⟨w, x, g, n⟩ := h
  simp only [Hdr.isPlain, Bool.and_eq_true, beq_iff_eq, Bool.not_eq_true'] at hp
  rw [Hdr.plain, hp.1, hp.2]

/-- Guard and inversion of a control word as its top four bits hold them. -/
theorem gn_fits (e : Engine) (h : Hdr) : Fits (Rows.gn e) (Enc.gn e h).2 := by
  by_cases he : e = .S
  · have := Bool.toNat_le h.neg
    simp only [Rows.gn, Enc.gn, he, if_true, fits_any]
    omega
  · simp only [Rows.gn, Enc.gn, he, if_false, fits_zero]
@[simp] theorem gn_width (e : Engine) : (Rows.gn e).width = 4 := by cases e <;> rfl
theorem Hdr.ctl_gn {e : Engine} {h : Hdr} (ho : h.okOn e = true) : Hdr.ctl h.wait h.sig (Enc.gn e h).2 = h := by
  by_cases he : e = .S
  · obtain ⟨w, x, g, n⟩ := h
    have hd : (2 * g.val + n.toNat) / 2 = g.val := by have := Bool.toNat_le n; omega
    have hm : ((2 * g.val + n.toNat) % 2 == 1) = n := by cases n <;> simp
    simp only [Hdr.ctl, Enc.gn, he, if_true, hd, hm, Fin.ofNat_val_eq_self]
  · have hp : h.isPlain = true := by simpa [Hdr.okOn, he] using ho
    have plain : Hdr.ctl h.wait h.sig (Enc.gn e h).2 = Hdr.plain h.wait h.sig := by simp [Hdr.ctl, Hdr.plain, Enc.gn, he]
    exact plain.trans (Hdr.plain_self hp)

@[simp] theorem toNat_beq_one (b : Bool) : (b.toNat == 1) = b := by cases b <;> rfl
@[simp] theorem toNat_le_one (b : Bool) : b.toNat ≤ 1 := Bool.toNat_le b

/-- A register of a control word: its low four bits, and the fifth, which is zero but on S. -/
theorem top_fits {e : Engine} {r : Fin 32} (hr : regOk e r = true) : Fits (top e) (r.val / 16) := by
  by_cases he : e = .S
  · simp only [top, he, if_true, fits_any]
    omega
  · have hlt : r.val < 16 := by simpa [regOk, he] using hr
    rw [Nat.div_eq_of_lt hlt]
    simp only [top, he, if_false, fits_zero]
@[simp] theorem top_width (e : Engine) : (top e).width = 1 := by cases e <;> rfl
theorem low4_lt (r : Fin 32) : r.val % 16 < 2 ^ 4 := Nat.mod_lt _ (by decide)

/-! ### Where a row stands -/

/-- A row of the shared control words stands in every engine's map. -/
theorem rowOf_control {e : Engine} {op : Nat} {r : Row} (h : (control e).find? (fun r => r.op == op) = some r) : rowOf e op = some r := by
  cases e <;> simp only [rowOf, rowsOf, List.find?_append, h, Option.some_or]
/-- A row of the index-register block stands in the maps of V, M and C. -/
theorem rowOf_index {e : Engine} {op : Nat} {r : Row} (he : (e != .S) = true)
    (h : (control e ++ indexBlock e).find? (fun r => r.op == op) = some r) : rowOf e op = some r := by
  cases e with
  | S => cases he
  | V | M | C => rw [List.find?_append] at h; simp only [rowOf, rowsOf, List.find?_append, h, Option.some_or]

/-! ### Control words (R53, R54) -/

section
variable {e : Engine} {op : Nat} {h : Hdr}

theorem ctlPlain_roundTrips {mk : Hdr → Instr} (hp : (mk h).parts = Enc.xc e op h [(36, 0)]) (hr : rowOf e op = some (ctlPlain e op mk))
    (ho : h.okOn e = true) : RoundTrips (mk h) :=
  roundTrips_of_row [0, (Enc.gn e h).2] hp hr ⟨fits_zero _, gn_fits e h, trivial⟩
    (by simp [ctlPlain, packed, packFields, zero, Enc.gn]) (congrArg mk (Hdr.ctl_gn ho)) (hw := by simp [widths, ctlPlain, zero])

theorem ctlCode_roundTrips {mk : Hdr → BitVec 16 → Instr} {c : BitVec 16} (hp : (mk h c).parts = Enc.xc e op h [(16, c.toNat), (20, 0)])
    (hr : rowOf e op = some (ctlCode e op mk)) (ho : h.okOn e = true) : RoundTrips (mk h c) :=
  roundTrips_of_row [c.toNat, 0, (Enc.gn e h).2] hp hr ⟨fits_any.2 c.isLt, fits_zero _, gn_fits e h, trivial⟩
    (by simp [ctlCode, packed, packFields, zero, any, Enc.gn]) (by simp [ctlCode, Hdr.ctl_gn ho])
    (hw := by simp [widths, ctlCode, zero, any])

theorem loopImm_roundTrips {len : BitVec 13} {n : BitVec 19} (ho : h.okOn e = true) (hl : (len != 0) = true) :
    RoundTrips (.loop e h len (.imm n)) := by
  have hlen : len.toNat ≠ 0 := fun hz => (bne_iff_ne.1 hl) (BitVec.eq_of_toNat_eq hz)
  have hn := n.isLt
  refine roundTrips_of_row [n.toNat % 32, n.toNat / 32, len.toNat, 0, 0, (Enc.gn e h).2] rfl (rowOf_control rfl)
    ⟨fits_any.2 (by omega), fits_any.2 (by omega), fits_coded.2 ⟨len.isLt, by simpa using hlen⟩, fits_zero _, fits_any.2 (by omega), gn_fits e h,
      trivial⟩ ?_ ?_ (hw := by simp [widths, loopRow, zero, any, coded])
  · simp only [packed, packFields, loopRow, zero, any, coded, Enc.gn, gn_width, List.map_cons, List.map_nil, List.zip_cons_cons,
      List.zip_nil_right, List.cons_append, List.nil_append]
    omega
  · simp [loopRow, Hdr.ctl_gn ho, Nat.mod_add_div]

theorem loopReg_roundTrips {len : BitVec 13} {r : Fin 32} (ho : h.okOn e = true) (hl : (len != 0) = true) (hreg : regOk e r = true) :
    RoundTrips (.loop e h len (.reg r)) := by
  have hlen : len.toNat ≠ 0 := fun hz => (bne_iff_ne.1 hl) (BitVec.eq_of_toNat_eq hz)
  have hr := r.isLt
  have hk : ¬ (e ≠ .S ∧ 16 ≤ r.val) := fun ⟨he, h16⟩ => by simp [regOk, he] at hreg; omega
  refine roundTrips_of_row [r.val, 0, len.toNat, 0, 1, (Enc.gn e h).2] rfl (rowOf_control rfl)
    ⟨fits_any.2 r.isLt, fits_any.2 (by omega), fits_coded.2 ⟨len.isLt, by simpa using hlen⟩, fits_zero _, fits_any.2 (by omega), gn_fits e h,
      trivial⟩ ?_ ?_ (hz := by simpa [loopRow] using hk) (hw := by simp [widths, loopRow, zero, any, coded])
  · simp only [packed, packFields, loopRow, zero, any, coded, Enc.gn, gn_width, List.map_cons, List.map_nil, List.zip_cons_cons,
      List.zip_nil_right, List.cons_append, List.nil_append]
    omega
  · simp [loopRow, Hdr.ctl_gn ho]

theorem sbRow_roundTrips {mk : Hdr → Bool → BitVec 32 → Instr} {abs : Bool} {off : BitVec 32}
    (hp : (mk h abs off).parts = some (.S, op, h, [(32, off.toNat), (4, abs.toNat), Enc.gn .S h])) (hr : rowOf .S op = some (sbRow op mk)) :
    RoundTrips (mk h abs off) := by
  have ha := Bool.toNat_le abs
  exact roundTrips_of_row [off.toNat, abs.toNat, (Enc.gn .S h).2] hp hr
    ⟨fits_any.2 off.isLt, fits_below.2 ⟨by omega, by omega⟩, fits_any.2 (gn_fits .S h).width, trivial⟩
    (by simp [sbRow, packed, packFields, any, below, Enc.gn]) (by simp [sbRow, Hdr.ctl_gn (e := .S) rfl])

theorem xbRow_roundTrips {mk : Hdr → XbCond → Bool → BitVec 32 → Instr} {c : XbCond} {abs : Bool} {off : BitVec 32}
    (hp : (mk h c abs off).parts = Enc.xb e op h c abs off) (hr : rowOf e op = some (xbRow op mk)) (ho : h.isPlain = true) :
    RoundTrips (mk h c abs off) := by
  have hoff := fits_any.2 off.isLt
  cases c with
  | zero k =>
    exact roundTrips_of_row [off.toNat, abs.toNat, 0, 0, k.val] hp hr ⟨hoff, by simp, fits_zero _, by simp, by simp, trivial⟩
      (by simp [xbRow, packed, packFields, any, zero, below]) (by simp [xbRow, Hdr.plain_self ho])
  | nonzero k =>
    exact roundTrips_of_row [off.toNat, abs.toNat, 0, 1, k.val] hp hr ⟨hoff, by simp, fits_zero _, by simp, by simp, trivial⟩
      (by simp [xbRow, packed, packFields, any, zero, below]) (by simp [xbRow, Hdr.plain_self ho])
  | always =>
    exact roundTrips_of_row [off.toNat, abs.toNat, 0, 2, 0] hp hr ⟨hoff, by simp, fits_zero _, by simp, by simp, trivial⟩
      (by simp [xbRow, packed, packFields, any, zero, below]) (by simp [xbRow, Hdr.plain_self ho])

theorem tok_roundTrips {pop : Bool} {q : Fin 16} {r : Fin 32} (ho : h.okOn e = true) (hreg : regOk e r = true) :
    RoundTrips (.tok e h pop q r) :=
  roundTrips_of_row [0, r.val % 16, r.val / 16, q.val, pop.toNat, (Enc.gn e h).2] rfl (rowOf_control rfl)
    ⟨fits_zero _, fits_any.2 (low4_lt r), top_fits hreg, by simp, by simp, gn_fits e h, trivial⟩
    (by
      simp only [packed, packFields, tokRow, zero, any, Enc.gn, gn_width, top_width, List.map_cons, List.map_nil, List.zip_cons_cons,
        List.zip_nil_right, List.cons_append, List.nil_append]
      omega)
    (by simp [tokRow, Hdr.ctl_gn ho, Nat.mod_add_div]) (hw := by simp [widths, tokRow, zero, any])

theorem hset_roundTrips {hd : Fin 64} {b c : Fin 32} (ho : h.okOn e = true) (hb : regOk e b = true) (hc : regOk e c = true) :
    RoundTrips (.hset e h hd b c) :=
  roundTrips_of_row [0, c.val % 16, c.val / 16, b.val % 16, b.val / 16, hd.val, (Enc.gn e h).2] rfl (rowOf_control rfl)
    ⟨fits_zero _, fits_any.2 (low4_lt c), top_fits hc, fits_any.2 (low4_lt b), top_fits hb, by simp, gn_fits e h, trivial⟩
    (by
      simp only [packed, packFields, hsetRow, zero, any, Enc.gn, gn_width, top_width, List.map_cons, List.map_nil, List.zip_cons_cons,
        List.zip_nil_right, List.cons_append, List.nil_append]
      omega)
    (by simp [hsetRow, Hdr.ctl_gn ho, Nat.mod_add_div]) (hw := by simp [widths, hsetRow, zero, any])

theorem hwait_roundTrips {hd : Fin 64} {free : Bool} (ho : h.okOn e = true) : RoundTrips (.hwait e h hd free) :=
  roundTrips_of_row [0, free.toNat, hd.val, (Enc.gn e h).2] rfl (rowOf_control rfl) ⟨fits_zero _, by simp, by simp, gn_fits e h, trivial⟩
    (by simp [hwaitRow, packed, packFields, zero, any, Enc.gn]) (by simp [hwaitRow, Hdr.ctl_gn ho])
    (hw := by simp [widths, hwaitRow, zero, any])

theorem safe_roundTrips {g : BitVec 8} {m : BitVec 16} (ho : h.okOn e = true) : RoundTrips (.safe e h g m) :=
  roundTrips_of_row [0, m.toNat, g.toNat, (Enc.gn e h).2] rfl (rowOf_control rfl)
    ⟨fits_zero _, fits_any.2 m.isLt, fits_any.2 g.isLt, gn_fits e h, trivial⟩
    (by simp [safeRow, packed, packFields, zero, any, Enc.gn]) (by simp [safeRow, Hdr.ctl_gn ho])
    (hw := by simp [widths, safeRow, zero, any])

@[simp] theorem fits_scope (x : Scope) : Fits Layout.scope x.code := fits_below.2 ⟨by have := x.code_lt; omega, x.code_lt⟩
@[simp] theorem fits_rounding (x : Rounding) : Fits Layout.rounding x.code := fits_below.2 ⟨by have := x.code_lt; omega, x.code_lt⟩
@[simp] theorem fits_elemType (x : ElemType) : Fits Layout.elemType x.code := fits_coded.2 ⟨x.code_lt, x.codeOk_code⟩
@[simp] theorem policy_lt (x : Policy) : x.code < 4 := x.code_lt

theorem fence_roundTrips {k : FenceKind} {sc : Scope} (ho : h.okOn e = true) : RoundTrips (.fence e h k sc) :=
  roundTrips_of_row [0, sc.code, k.code, (Enc.gn e h).2] rfl (rowOf_control rfl)
    ⟨fits_zero _, fits_scope _, fits_coded.2 (by cases k <;> decide), gn_fits e h, trivial⟩
    (by simp [fenceRow, packed, packFields, zero, Layout.scope, below, coded, Enc.gn]) (by simp [fenceRow, Hdr.ctl_gn ho])
    (hw := by simp [widths, fenceRow, zero, Layout.scope, below, coded])

theorem sys_roundTrips {mk : Hdr → Fin 32 → Nat → Instr} {i : Instr} {num : Nat} {r : Fin 32} (hp : i.parts = Enc.sys e op h num r.val)
    (hr : rowOf e op = some (sysRow e op mk)) (hn : num < 4096) (ho : h.okOn e = true) (hreg : regOk e r = true) (hi : mk h r num = i) :
    RoundTrips i :=
  roundTrips_of_row [0, num, r.val % 16, r.val / 16, (Enc.gn e h).2] hp hr
    ⟨fits_zero _, fits_any.2 hn, fits_any.2 (low4_lt r), top_fits hreg, gn_fits e h, trivial⟩
    (by
      simp only [packed, packFields, sysRow, zero, any, Enc.gn, gn_width, top_width, List.map_cons, List.map_nil, List.zip_cons_cons,
        List.zip_nil_right, List.cons_append, List.nil_append]
      omega)
    (by simp [sysRow, Hdr.ctl_gn ho, Nat.mod_add_div, hi]) (hw := by simp [widths, sysRow, zero, any])

/-- SWR of a number that no other row names. -/
theorem swrOf_other {r : Fin 32} {num : BitVec 12} (hn : swrOther num = true) : swrOf e h r num.toNat = .swr e h r num := by
  simp only [swrOther, decide_eq_true_eq] at hn
  simp [swrOf, hn]

/-! ### The index-register block (R55) -/

theorem kli_roundTrips {d : Fin 16} {imm : BitVec 32} (he : (e != .S) = true) (ho : h.isPlain = true) : RoundTrips (.kli e h d imm) :=
  roundTrips_of_row [imm.toNat, 0, d.val] rfl (rowOf_index he rfl) ⟨fits_any.2 imm.isLt, fits_zero _, by simp, trivial⟩
    (by simp [packed, packFields, zero, any]) (by simp [Hdr.plain_self ho])
theorem kaddi_roundTrips {d a : Fin 16} {imm : BitVec 32} (he : (e != .S) = true) (ho : h.isPlain = true) :
    RoundTrips (.kaddi e h d a imm) :=
  roundTrips_of_row [imm.toNat, a.val, d.val] rfl (rowOf_index he rfl) ⟨fits_any.2 imm.isLt, by simp, by simp, trivial⟩
    (by simp [packed, packFields, any]) (by simp [Hdr.plain_self ho])
theorem xk_roundTrips {mk : Hdr → Fin 16 → Fin 16 → Fin 16 → Instr} {d a b : Fin 16} (hp : (mk h d a b).parts = Enc.xk e op h b a d)
    (hr : rowOf e op = some (xk op mk)) (ho : h.isPlain = true) : RoundTrips (mk h d a b) :=
  roundTrips_of_row [0, b.val, a.val, d.val] hp hr ⟨fits_zero _, by simp, by simp, by simp, trivial⟩
    (by simp [xk, packed, packFields, zero, any]) (by simp [xk, Hdr.plain_self ho])

end

end Sys2Proof
end

section
/-! PROOFS. The rows of S read back what the encoder writes (spec/02 R56). -/

namespace Sys2Proof

set_option Elab.async false

open Layout Rows

section
variable {op : Nat} {h : Hdr} {d a b : Fin 32}

/-! ### Format SR -/

theorem srDab_roundTrips {mk : Hdr → Fin 32 → Fin 32 → Fin 32 → Instr} (hp : (mk h d a b).parts = Enc.sr op h 0 b a d)
    (hr : rowOf .S op = some (srDab op mk)) : RoundTrips (mk h d a b) :=
  roundTrips_of_row [0, 0, 0, h.neg.toNat, h.guard.val, b.val, a.val, d.val, 0] hp hr
    (by simp [srDab, sr]) (by simp [srDab, sr, packed, packFields, any, zero]) (by simp [srDab, sr])

theorem srSign_roundTrips {mk : Hdr → Bool → Fin 32 → Fin 32 → Fin 32 → Instr} {u : Bool}
    (hp : (mk h u d a b).parts = Enc.sr op h u.toNat b a d) (hr : rowOf .S op = some (srSign op mk)) : RoundTrips (mk h u d a b) :=
  roundTrips_of_row [0, u.toNat, 0, h.neg.toNat, h.guard.val, b.val, a.val, d.val, 0] hp hr
    (by simp [srSign, sr])
    (by
      have hu := u.toNat_le
      simp [srSign, sr, packed, packFields, any, zero]
      omega)
    (by simp [srSign, sr])

theorem srDa_roundTrips {mk : Hdr → Fin 32 → Fin 32 → Instr} (hp : (mk h d a).parts = Enc.sr op h 0 0 a d)
    (hr : rowOf .S op = some (srDa op mk)) : RoundTrips (mk h d a) :=
  roundTrips_of_row [0, 0, 0, h.neg.toNat, h.guard.val, 0, a.val, d.val, 0] hp hr
    (by simp [srDa, sr]) (by simp [srDa, sr, packed, packFields, any, zero]) (by simp [srDa, sr])

theorem srA_roundTrips {mk : Hdr → Fin 32 → Instr} (hp : (mk h a).parts = Enc.sr op h 0 0 a 0)
    (hr : rowOf .S op = some (srA op mk)) : RoundTrips (mk h a) :=
  roundTrips_of_row [0, 0, 0, h.neg.toNat, h.guard.val, 0, a.val, 0, 0] hp hr
    (by simp [srA, sr]) (by simp [srA, sr, packed, packFields, any, zero]) (by simp [srA, sr])

theorem srFp_roundTrips {mk : Hdr → Rounding → Bool → Fin 32 → Fin 32 → Fin 32 → Instr} {rm : Rounding} {sat : Bool}
    (hp : (mk h rm sat d a b).parts = Enc.sr op h (Enc.rs rm sat) b a d) (hr : rowOf .S op = some (srFp op mk)) :
    RoundTrips (mk h rm sat d a b) :=
  roundTrips_of_row [0, rm.code, sat.toNat, 0, h.neg.toNat, h.guard.val, b.val, a.val, d.val] hp hr
    (by simp [srFp])
    (by
      have hs := sat.toNat_le
      have hm := rm.code_lt
      simp [srFp, packed, packFields, any, zero, Layout.rounding, below, Enc.rs]
      omega)
    (by simp [srFp])

theorem brx_roundTrips : RoundTrips (.brx h a) :=
  roundTrips_of_row [0, 0, 0, h.neg.toNat, h.guard.val, 0, a.val, 0, 0] rfl rfl
    (by simp [sr]) (by simp [sr, packed, packFields, any, zero]) (by simp [sr])

theorem sel_roundTrips {p : Fin 8} : RoundTrips (.sel h d a b p) :=
  roundTrips_of_row [0, p.val, 0, h.neg.toNat, h.guard.val, b.val, a.val, d.val, 0] rfl rfl
    (by simp [sr])
    (by
      simp [sr, packed, packFields, any, zero]
      omega)
    (by simp [sr])

theorem cmp_roundTrips {c : IntCond} {p : Fin 8} : RoundTrips (.cmp h c p a b) :=
  roundTrips_of_row [0, c.code, 0, h.neg.toNat, h.guard.val, b.val, a.val, p.val, 0] rfl rfl
    (by have := c.code_lt; simp [sr]; omega)
    (by
      have := c.code_lt
      simp [sr, packed, packFields, any, zero, below]
      omega)
    (by simp [sr])

theorem pset_roundTrips {p q r : Fin 8} {f : BitVec 4} : RoundTrips (.pset h p q r f) :=
  roundTrips_of_row [0, f.toNat, 0, h.neg.toNat, h.guard.val, r.val, 0, q.val, 0, p.val, 0] rfl rfl
    (by have := f.isLt; simp; omega)
    (by
      have := f.isLt
      simp [packed, packFields, any, zero]
      omega)
    (by simp)

theorem pmov_roundTrips {toS : Bool} {p : Fin 8} {r : Fin 32} : RoundTrips (.pmov h toS p r) := by
  cases toS with
  | true =>
    exact roundTrips_of_row [0, 1, 0, h.neg.toNat, h.guard.val, 0, p.val, 0, r.val % 8, r.val / 8] rfl rfl
      (by simp; omega) (by simp [packed, packFields, any, zero]; omega) (by simp [Nat.mod_add_div])
  | false =>
    exact roundTrips_of_row [0, 0, 0, h.neg.toNat, h.guard.val, 0, r.val % 8, r.val / 8, p.val, 0] rfl rfl
      (by simp; omega) (by simp [packed, packFields, any, zero]; omega) (by simp [Nat.mod_add_div])

theorem fcmp_roundTrips {c : FpCond} {p : Fin 8} : RoundTrips (.fcmp h c p a b) :=
  roundTrips_of_row [0, 0, c.code, h.neg.toNat, h.guard.val, b.val, a.val, p.val, 0] rfl rfl
    (by have := c.code_lt; simp [sr]; omega)
    (by
      have := c.code_lt
      simp [sr, packed, packFields, any, zero]
      omega)
    (by simp [sr])

theorem fcvt_roundTrips {rm : Rounding} {sat : Bool} {c : Conv} : RoundTrips (.fcvt h rm sat c d a) :=
  roundTrips_of_row [0, rm.code, sat.toNat, 0, h.neg.toNat, h.guard.val, c.code, a.val, d.val] rfl rfl
    (by have := c.code_lt; simp; omega)
    (by
      have := sat.toNat_le
      have := rm.code_lt
      simp [packed, packFields, any, zero, Layout.rounding, below, Enc.rs]
      omega)
    (by simp)

theorem fsqrt_roundTrips {rm : Rounding} {sat : Bool} : RoundTrips (.fsqrt h rm sat d a) :=
  roundTrips_of_row [0, rm.code, sat.toNat, 0, h.neg.toNat, h.guard.val, 0, a.val, d.val] rfl rfl
    (by simp)
    (by
      have := sat.toNat_le
      have := rm.code_lt
      simp [packed, packFields, any, zero, Layout.rounding, below, Enc.rs]
      omega)
    (by simp)

/-! ### Immediates (formats SI and SL) -/

theorem si_roundTrips {mk : Hdr → Fin 32 → Fin 32 → BitVec 27 → Instr} {imm : BitVec 27}
    (hp : (mk h d a imm).parts = Enc.si op h imm.toNat a d) (hr : rowOf .S op = some (si op mk)) (hn : (!h.neg) = true) :
    RoundTrips (mk h d a imm) :=
  roundTrips_of_row [imm.toNat, h.guard.val, a.val, d.val] hp hr ⟨fits_any.2 imm.isLt, by simp, by simp, by simp, trivial⟩
    (by simp [si, packed, packFields, any]) (by simp [si, Hdr.guarded_zero hn])

theorem siShift_roundTrips {mk : Hdr → Fin 32 → Fin 32 → Fin 64 → Instr} {n : Fin 64}
    (hp : (mk h d a n).parts = Enc.si op h n a d) (hr : rowOf .S op = some (siShift op mk)) (hn : (!h.neg) = true) :
    RoundTrips (mk h d a n) :=
  roundTrips_of_row [n.val, 0, h.guard.val, a.val, d.val] hp hr (by simp [siShift])
    (by simp [siShift, packed, packFields, any, zero]; omega) (by simp [siShift, Hdr.guarded_zero hn])

theorem sl_roundTrips {mk : Hdr → Fin 32 → BitVec 32 → Instr} {imm : BitVec 32}
    (hp : (mk h d imm).parts = Enc.sl op h imm.toNat d) (hr : rowOf .S op = some (sl op mk)) (hn : (!h.neg) = true) :
    RoundTrips (mk h d imm) :=
  roundTrips_of_row [imm.toNat, h.guard.val, d.val] hp hr ⟨fits_any.2 imm.isLt, by simp, by simp, trivial⟩
    (by simp [sl, packed, packFields, any]) (by simp [sl, Hdr.guarded_zero hn])

theorem cmpi_roundTrips {c : IntCond} {p : Fin 8} {imm : BitVec 23} (hn : (!h.neg) = true) : RoundTrips (.cmpi h c p a imm) :=
  roundTrips_of_row [imm.toNat, c.code, h.guard.val, a.val, p.val, 0] rfl rfl
    (by have := c.code_lt; have := imm.isLt; simp; omega)
    (by
      have := c.code_lt
      have := imm.isLt
      simp [packed, packFields, any, zero, below]
      omega)
    (by simp [Hdr.guarded_zero hn])

/-! ### The system's words (format SR) -/

theorem lpin_roundTrips {r : Bool} : RoundTrips (.lpin h r d a) :=
  roundTrips_of_row [0, r.toNat, 0, h.neg.toNat, h.guard.val, 0, a.val, d.val, 0] rfl rfl (by simp [sr])
    (by have := r.toNat_le; simp [sr, packed, packFields, any, zero]; omega) (by simp [sr])

theorem goveval_roundTrips {r : Bool} : RoundTrips (.goveval h r d a) :=
  roundTrips_of_row [0, r.toNat, 0, h.neg.toNat, h.guard.val, 0, a.val, d.val, 0] rfl rfl (by simp [sr])
    (by have := r.toNat_le; simp [sr, packed, packFields, any, zero]; omega) (by simp [sr])

/-- QCTL's operation in fn. -/
theorem qctl_roundTrips {k : Nat} (hk : k < 4) (hp : (qctl k h d a b).parts = Enc.sr 0x79 h k b a d) : RoundTrips (qctl k h d a b) :=
  roundTrips_of_row [0, k, 0, h.neg.toNat, h.guard.val, b.val, a.val, d.val, 0] hp rfl (by simp [sr]; omega)
    (by simp [sr, packed, packFields, any, zero, below]; omega) (by simp [sr])

theorem govrd_roundTrips {item : GovItem} : RoundTrips (.govrd h item d a) := by
  cases item with
  | hdr =>
    exact roundTrips_of_row [0, 0, 0, h.neg.toNat, h.guard.val, 0, a.val, d.val, 0] rfl rfl (by simp [sr])
      (by simp [sr, packed, packFields, any, zero, below]; omega) (by simp [sr])
  | wslot =>
    exact roundTrips_of_row [0, 1, 0, h.neg.toNat, h.guard.val, 0, a.val, d.val, 0] rfl rfl (by simp [sr])
      (by simp [sr, packed, packFields, any, zero, below]; omega) (by simp [sr])
  | slot b =>
    exact roundTrips_of_row [0, 2, 0, h.neg.toNat, h.guard.val, b.val, a.val, d.val, 0] rfl rfl (by simp [sr])
      (by simp [sr, packed, packFields, any, zero, below]; omega) (by simp [sr])

theorem time_roundTrips : RoundTrips (.time h d) :=
  roundTrips_of_row [0, 0, 0, h.neg.toNat, h.guard.val, 0, 0, d.val, 0] rfl rfl (by simp [sr])
    (by simp [sr, packed, packFields, any, zero]) (by simp [sr])

theorem eret_roundTrips : RoundTrips (.eret h) :=
  roundTrips_of_row [0, 0, 0, h.neg.toNat, h.guard.val, 0, 0, 0, 0] rfl rfl (by simp [sr])
    (by simp [sr, packed, packFields, any, zero]) (by simp [sr])

/-! ### Accesses (formats SM and SA) -/

/-- A word of format SM, each of its own fields fitting. -/
theorem sm_roundTrips {i : Instr} {fx fsc fpol fd : Field} {mk : Hdr → (off b18 size sc pol base data : Nat) → Instr} {off : BitVec 18}
    {x sc pol dv : Nat} {size : Size} (hp : i.parts = Enc.sm op h off.toNat x size.code sc pol b dv)
    (hr : rowOf .S op = some (sm op fx fsc fpol fd mk)) (hx : Fits fx x) (hsc : Fits fsc sc) (hpol : Fits fpol pol) (hd : Fits fd dv)
    (hi : mk (.guarded h.wait h.sig h.guard.val 0) off.toNat x size.code sc pol b.val dv = i)
    (hw : fx.width = 1 ∧ fsc.width = 3 ∧ fpol.width = 2 ∧ fd.width = 5 := by decide) : RoundTrips i := by
  obtain ⟨wx, wsc, wpol, wd⟩ := hw
  have hs := size.code_lt
  exact roundTrips_of_row [off.toNat, x, size.code, h.guard.val, sc, pol, b.val, dv] hp hr
    ⟨fits_any.2 off.isLt, hx, fits_below.2 ⟨by omega, hs⟩, by simp, hsc, hpol, by simp, hd, trivial⟩
    (by simp [sm, packed, packFields, any, below, wx, wsc, wpol, wd]) hi (hw := by simp [widths, sm, any, below, wx, wsc, wpol, wd])

theorem flush_roundTrips {off : BitVec 18} (hn : (!h.neg) = true) : RoundTrips (.flush h b off) :=
  roundTrips_of_row [off.toNat, 0, 0, h.guard.val, 0, 0, b.val, 0] rfl rfl
    ⟨fits_any.2 off.isLt, by simp, by simp, by simp, by simp, by simp, by simp, by simp, trivial⟩
    (by simp [packed, packFields, any, zero]) (by simp [Hdr.guarded_zero hn])

/-- A word of format SA, each of its own fields fitting. -/
theorem sa_roundTrips {i : Instr} {ford fsc fpol faop fd : Field} {mk : Hdr → (off ord sc pol aop b base d : Nat) → Instr} {off : BitVec 9}
    {ord sc pol aop dv : Nat} {v : Fin 32} (hp : i.parts = Enc.sa op h off.toNat ord sc pol aop v b dv)
    (hr : rowOf .S op = some (sa op ford fsc fpol faop fd mk)) (hord : Fits ford ord) (hsc : Fits fsc sc) (hpol : Fits fpol pol)
    (haop : Fits faop aop) (hd : Fits fd dv) (hi : mk h off.toNat ord sc pol aop v.val b.val dv = i)
    (hw : ford.width = 2 ∧ fsc.width = 3 ∧ fpol.width = 2 ∧ faop.width = 5 ∧ fd.width = 5 := by decide) : RoundTrips i := by
  obtain ⟨word, wsc, wpol, waop, wd⟩ := hw
  exact roundTrips_of_row [off.toNat, ord, sc, pol, aop, h.neg.toNat, h.guard.val, v.val, b.val, dv] hp hr
    ⟨fits_any.2 off.isLt, hord, hsc, hpol, haop, by simp, by simp, by simp, by simp, hd, trivial⟩
    (by simp [sa, packed, packFields, any, word, wsc, wpol, waop, wd]) (by simpa [sa] using hi)
    (hw := by simp [widths, sa, any, word, wsc, wpol, waop, wd])

@[simp] theorem fits_policy (x : Policy) : Fits (any 2) x.code := fits_any.2 x.code_lt
@[simp] theorem fits_order (x : AtomOrder) : Fits (any 2) x.code := fits_any.2 x.code_lt
@[simp] theorem fits_aop (x : Aop) : Fits (below 5 0x18) x.code := fits_below.2 ⟨by have := x.code_lt; omega, x.code_lt⟩
@[simp] theorem fits_bit (x : Bool) : Fits (any 1) x.toNat := fits_any.2 x.toNat_lt
@[simp] theorem fits_r5 (x : Fin 32) : Fits (any 5) x.val := fits_any.2 x.isLt

theorem ld_roundTrips {pol : Policy} {sc : Scope} {size : Size} {x : Bool} {off : BitVec 18} (hn : (!h.neg) = true) :
    RoundTrips (.ld h pol sc size x d b off) :=
  sm_roundTrips rfl rfl (fits_bit _) (fits_scope _) (fits_policy _) (fits_r5 _) (by simp [Hdr.guarded_zero hn])
theorem st_roundTrips {pol : Policy} {sc : Scope} {size : Size} {off : BitVec 18} (hn : (!h.neg) = true) :
    RoundTrips (.st h pol sc size d b off) :=
  sm_roundTrips rfl rfl (fits_zero _) (fits_scope _) (fits_policy _) (fits_r5 _) (by simp [Hdr.guarded_zero hn])
theorem lds_roundTrips {size : Size} {x : Bool} {off : BitVec 18} (hn : (!h.neg) = true) : RoundTrips (.lds h size x d b off) :=
  sm_roundTrips rfl rfl (fits_bit _) (fits_zero _) (fits_zero _) (fits_r5 _) (by simp [Hdr.guarded_zero hn])
theorem sts_roundTrips {size : Size} {off : BitVec 18} (hn : (!h.neg) = true) : RoundTrips (.sts h size d b off) :=
  sm_roundTrips rfl rfl (fits_zero _) (fits_zero _) (fits_zero _) (fits_r5 _) (by simp [Hdr.guarded_zero hn])
theorem sPref_roundTrips {pol : Policy} {size : Size} {off : BitVec 18} (hn : (!h.neg) = true) : RoundTrips (.sPref h pol size b off) :=
  sm_roundTrips rfl rfl (fits_zero _) (fits_zero _) (fits_policy _) (fits_zero _) (by simp [Hdr.guarded_zero hn])

theorem atom_roundTrips {aop : Aop} {pol : Policy} {sc : Scope} {ord : AtomOrder} {v : Fin 32} {off : BitVec 9} :
    RoundTrips (.atom h aop pol sc ord d b v off) :=
  sa_roundTrips rfl rfl (fits_order _) (fits_scope _) (fits_policy _) (fits_aop _) (fits_r5 _) (by simp)
theorem red_roundTrips {aop : Aop} {pol : Policy} {sc : Scope} {rel : Bool} {v : Fin 32} {off : BitVec 9} :
    RoundTrips (.red h aop pol sc rel b v off) :=
  sa_roundTrips rfl rfl (fits_coded.2 (by cases rel <;> decide)) (fits_scope _) (fits_policy _) (fits_aop _) (fits_zero _)
    (by cases rel <;> simp)
theorem cas_roundTrips {w : Bool} {pol : Policy} {sc : Scope} {ord : AtomOrder} {v : Fin 32} {off : BitVec 9} :
    RoundTrips (.cas h w pol sc ord d b v off) :=
  sa_roundTrips rfl rfl (fits_order _) (fits_scope _) (fits_policy _) (fits_below.2 (by cases w <;> decide)) (fits_r5 _) (by simp)
theorem atoms_roundTrips {aop : Aop} {ord : AtomOrder} {v : Fin 32} {off : BitVec 9} : RoundTrips (.atoms h aop ord d b v off) :=
  sa_roundTrips rfl rfl (fits_order _) (fits_zero _) (fits_zero _) (fits_aop _) (fits_r5 _) (by simp)

end
end Sys2Proof
end

section
/-! PROOFS. The rows of V, M and C read back what the encoder writes (spec/02 R57 to R59). -/

namespace Sys2Proof

set_option Elab.async false

open Layout Rows

/-! ### Fields of the encoder that a row splits in two -/

theorem packFields_one {f : Field} {w v : Nat} {fs : List Field} {vs : List Nat} {rest : List (Nat × Nat)} (hw : f.width = w)
    (hr : packFields rest = packed fs vs) : packFields ((w, v) :: rest) = packed (f :: fs) (v :: vs) := by
  subst hw
  rw [packFields, hr]
  rfl
theorem packFields_split {w w' x y : Nat} (hx : x < 2 ^ w) (hy : y < 2 ^ w') (rest : List (Nat × Nat)) :
    packFields ((w + w', x + 2 ^ w * y) :: rest) = packFields ((w, x) :: (w', y) :: rest) := by
  have hlt : x + 2 ^ w * y < 2 ^ (w + w') := by
    have : 2 ^ w * (y + 1) ≤ 2 ^ w * 2 ^ w' := Nat.mul_le_mul_left _ hy
    rw [Nat.pow_add]
    rw [Nat.mul_add, Nat.mul_one] at this
    omega
  simp only [packFields, Nat.mod_eq_of_lt hlt, Nat.mod_eq_of_lt hx, Nat.mod_eq_of_lt hy]
  rw [Nat.pow_add, Nat.mul_add, Nat.mul_assoc, Nat.add_assoc]
theorem packFields_pair {f g : Field} {w v x y : Nat} {fs : List Field} {vs : List Nat} {rest : List (Nat × Nat)} (hw : f.width + g.width = w)
    (hx : Fits f x) (hy : Fits g y) (hv : v = x + 2 ^ f.width * y) (hr : packFields rest = packed fs vs) :
    packFields ((w, v) :: rest) = packed (f :: g :: fs) (x :: y :: vs) := by
  subst hw hv
  rw [packFields_split hx.width hy.width]
  exact packFields_one rfl (packFields_one rfl hr)
theorem packFields_triple {f g j : Field} {w v x y u : Nat} {fs : List Field} {vs : List Nat} {rest : List (Nat × Nat)}
    (hw : f.width + (g.width + j.width) = w) (hx : Fits f x) (hy : Fits g y) (hu : Fits j u)
    (hv : v = x + 2 ^ f.width * (y + 2 ^ g.width * u)) (hr : packFields rest = packed fs vs) :
    packFields ((w, v) :: rest) = packed (f :: g :: j :: fs) (x :: y :: u :: vs) := by
  subst hw hv
  have hyu : y + 2 ^ g.width * u < 2 ^ (g.width + j.width) := by
    have : 2 ^ g.width * (u + 1) ≤ 2 ^ g.width * 2 ^ j.width := Nat.mul_le_mul_left _ hu.width
    have hy := hy.width
    rw [Nat.pow_add]
    rw [Nat.mul_add, Nat.mul_one] at this
    omega
  rw [packFields_split hx.width hyu]
  exact packFields_one rfl (packFields_pair rfl hy hu rfl hr)

section
variable {op : Nat} {h : Hdr} {m : Fin 8} {z sat : Bool} {rm : Rounding} {d a b e : Fin 256} {k : Fin 16}

/-! ### Format VR -/

/-- A word of format VR whose fields fit. -/
theorem vr_roundTrips {i : Instr} {f : VrFields} {mk : Wait → Signal → (fl fh z m c b a d : Nat) → Instr} {zeros bads : List Nat → List Nat}
    {fn z m c b a d : Nat} (x y : Nat) (hp : i.parts = Enc.vr op h fn z m c b a d) (hr : rowOf .V op = some (vr op f mk zeros bads))
    (hf : FieldsFit [f.fl, f.fh, f.z, f.m, f.cl, f.ch, f.bl, f.bh, f.al, f.ah, f.dl, f.dh] [x, y, z, m, c, 0, b, 0, a, 0, d, 0])
    (hfn : fn = x + 2 ^ f.fl.width * y) (hi : mk h.wait h.sig x y z m c b a d = i)
    (hzs : zeros [x, y, z, m, c, 0, b, 0, a, 0, d, 0] = [] := by rfl) (hbs : bads [x, y, z, m, c, 0, b, 0, a, 0, d, 0] = [] := by rfl)
    (hw : f.fl.width + f.fh.width = 4 ∧ f.z.width = 1 ∧ f.m.width = 3 ∧ f.cl.width + f.ch.width = 8 ∧ f.bl.width + f.bh.width = 8
      ∧ f.al.width + f.ah.width = 8 ∧ f.dl.width + f.dh.width = 8 := by decide) : RoundTrips i := by
  obtain ⟨wf, wz, wm, wc, wb, wa, wd⟩ := hw
  obtain ⟨hx, hy, -, -, hc, hc0, hb, hb0, ha, ha0, hd, hd0, -⟩ := id hf
  refine roundTrips_of_row [x, y, z, m, c, 0, b, 0, a, 0, d, 0] hp hr hf ?_ hi hzs hbs ?_
  · exact packFields_pair wf hx hy hfn (packFields_one wz (packFields_one wm (packFields_pair wc hc hc0 rfl
      (packFields_pair wb hb hb0 rfl (packFields_pair wa ha ha0 rfl (packFields_pair wd hd hd0 rfl rfl))))))
  · simp only [widths, vr, List.map_cons, List.map_nil, List.sum_cons, List.sum_nil]
    omega

@[simp] theorem fits_r3 (x : Fin 8) : Fits (any 3) x.val := fits_any.2 x.isLt
@[simp] theorem fits_r4 (x : Fin 16) : Fits (any 4) x.val := fits_any.2 x.isLt
@[simp] theorem fits_r6 (x : Fin 64) : Fits (any 6) x.val := fits_any.2 x.isLt
@[simp] theorem fits_r8 (x : Fin 256) : Fits (any 8) x.val := fits_any.2 x.isLt

theorem vr1_roundTrips {mk : Hdr → Fin 8 → Bool → Fin 256 → Fin 256 → Instr} (hp : (mk h m z d a).parts = Enc.vr op h 0 z.toNat m 0 0 a d)
    (hr : rowOf .V op = some (vr1 op mk)) (ho : h.isPlain = true) : RoundTrips (mk h m z d a) :=
  vr_roundTrips 0 0 hp hr (by simp [noFn]) rfl (by simp [Hdr.plain_self ho])
theorem vr2_roundTrips {mk : Hdr → Fin 8 → Bool → Fin 256 → Fin 256 → Fin 256 → Instr}
    (hp : (mk h m z d a b).parts = Enc.vr op h 0 z.toNat m 0 b a d) (hr : rowOf .V op = some (vr2 op mk)) (ho : h.isPlain = true) :
    RoundTrips (mk h m z d a b) :=
  vr_roundTrips 0 0 hp hr (by simp [noFn]) rfl (by simp [Hdr.plain_self ho])
theorem vr2rs_roundTrips {mk : Hdr → Fin 8 → Bool → Rounding → Bool → Fin 256 → Fin 256 → Fin 256 → Instr}
    (hp : (mk h m z rm sat d a b).parts = Enc.vr op h (Enc.rs rm sat) z.toNat m 0 b a d) (hr : rowOf .V op = some (vr2rs op mk))
    (ho : h.isPlain = true) : RoundTrips (mk h m z rm sat d a b) :=
  vr_roundTrips rm.code sat.toNat hp hr (by simp [fnRs]) rfl (by simp [Hdr.plain_self ho])
theorem vr3rs_roundTrips {mk : Hdr → Fin 8 → Bool → Rounding → Bool → Fin 256 → Fin 256 → Fin 256 → Fin 256 → Instr}
    (hp : (mk h m z rm sat d a b e).parts = Enc.vr op h (Enc.rs rm sat) z.toNat m e b a d) (hr : rowOf .V op = some (vr3rs op mk))
    (ho : h.isPlain = true) : RoundTrips (mk h m z rm sat d a b e) :=
  vr_roundTrips rm.code sat.toNat hp hr (by simp [fnRs]) rfl (by simp [Hdr.plain_self ho])
theorem vr1s_roundTrips {mk : Hdr → Fin 8 → Bool → Bool → Fin 256 → Fin 256 → Instr}
    (hp : (mk h m z sat d a).parts = Enc.vr op h (8 * sat.toNat) z.toNat m 0 0 a d) (hr : rowOf .V op = some (vr1s op mk))
    (ho : h.isPlain = true) : RoundTrips (mk h m z sat d a) :=
  vr_roundTrips 0 sat.toNat hp hr (by simp [fnS]) (Nat.zero_add _).symm (by simp [Hdr.plain_self ho])
theorem vr2s_roundTrips {mk : Hdr → Fin 8 → Bool → Bool → Fin 256 → Fin 256 → Fin 256 → Instr}
    (hp : (mk h m z sat d a b).parts = Enc.vr op h (8 * sat.toNat) z.toNat m 0 b a d) (hr : rowOf .V op = some (vr2s op mk))
    (ho : h.isPlain = true) : RoundTrips (mk h m z sat d a b) :=
  vr_roundTrips 0 sat.toNat hp hr (by simp [fnS]) (Nat.zero_add _).symm (by simp [Hdr.plain_self ho])

theorem vbcast_roundTrips (ho : h.isPlain = true) : RoundTrips (.vbcast h m z d k) :=
  vr_roundTrips 0 0 rfl rfl (by simp [noFn]) rfl (by simp [Hdr.plain_self ho])
theorem vcmp_roundTrips {c : VecCond} {p : Fin 8} (ho : h.isPlain = true) : RoundTrips (.vcmp h m z c p a b) :=
  vr_roundTrips c.code 0 rfl rfl (by have := c.code_lt; simp; omega) rfl (by simp [Hdr.plain_self ho])
theorem vsel_roundTrips (ho : h.isPlain = true) : RoundTrips (.vsel h m d a b) :=
  vr_roundTrips 0 0 rfl rfl (by simp [noFn]) rfl (by simp [Hdr.plain_self ho])
theorem mop_roundTrips {p q r : Fin 8} {f : BitVec 4} (ho : h.isPlain = true) : RoundTrips (.mop h p q r f) :=
  vr_roundTrips f.toNat 0 rfl rfl (by have := f.isLt; simp; omega) rfl (by simp [Hdr.plain_self ho])
theorem mcnt_roundTrips {first : Bool} {p : Fin 8} (ho : h.isPlain = true) : RoundTrips (.mcnt h first k p) :=
  vr_roundTrips first.toNat 0 rfl rfl (by simp) rfl (by simp [Hdr.plain_self ho])
theorem vcvt_roundTrips {ty : ElemType} (ho : (h.isPlain && modeOk ty rm) = true) : RoundTrips (.vcvt h m z rm sat ty d a) := by
  rw [Bool.and_eq_true] at ho
  exact vr_roundTrips rm.code sat.toNat rfl rfl (by simp [fnRs, ty.code_lt]) rfl (by simp [Hdr.plain_self ho.1]) (hbs := by simp [ho.2])
theorem vamax_roundTrips (ho : h.isPlain = true) : RoundTrips (.vamax h m k a) :=
  vr_roundTrips 0 0 rfl rfl (by simp [noFn]) rfl (by simp [Hdr.plain_self ho])
theorem vscale_roundTrips {divs : Bool} (ho : h.isPlain = true) : RoundTrips (.vscale h m z rm sat divs d a k) :=
  vr_roundTrips rm.code sat.toNat rfl rfl (by simp [fnRs]) rfl (by simp [Hdr.plain_self ho])
theorem viota_roundTrips (ho : h.isPlain = true) : RoundTrips (.viota h m z rm sat d k) :=
  vr_roundTrips rm.code sat.toNat rfl rfl (by simp [fnRs]) rfl (by simp [Hdr.plain_self ho])
theorem vrand_roundTrips {unif : Bool} {l : Fin 16} (ho : h.isPlain = true) : RoundTrips (.vrand h m z unif d k l) :=
  vr_roundTrips unif.toNat 0 rfl rfl (by simp) rfl (by simp [Hdr.plain_self ho])
theorem vdrain_roundTrips (ho : h.isPlain = true) : RoundTrips (.vdrain h m z rm sat d a k) :=
  vr_roundTrips rm.code sat.toNat rfl rfl (by simp [fnRs]) rfl (by simp [Hdr.plain_self ho])
theorem vzld_roundTrips (ho : h.isPlain = true) : RoundTrips (.vzld h m z d a k) :=
  vr_roundTrips 0 0 rfl rfl (by simp [noFn]) rfl (by simp [Hdr.plain_self ho])

/-- What a combine function's fn and op fields hold reads back as it (R148). -/
theorem vredRow_roundTrips {mk : Hdr → Fin 8 → Bool → RedOp → Bool → Fin 256 → Fin 256 → Instr} {r : RedOp} {col : Bool}
    (hp : (mk h m z r col d a).parts = Enc.vred op h z.toNat m r col a d) (hr : rowOf .V op = some (vredRow op mk)) (ho : h.isPlain = true) :
    RoundTrips (mk h m z r col d a) := by
  have hcol := col.toNat_le
  cases r with
  | sum rm sat =>
    exact vr_roundTrips rm.code sat.toNat hp hr (by simp [fnRs, Enc.redFn]; omega) rfl
      (by cases col <;> simp [Enc.redFn, redOp, Hdr.plain_self ho]) (hzs := by simp [Enc.redFn])
  | max =>
    exact vr_roundTrips 0 0 hp hr (by cases col <;> simp [fnRs, Enc.redFn, Layout.rounding]) rfl
      (by cases col <;> simp [Enc.redFn, redOp, Hdr.plain_self ho]) (hzs := by simp)
  | min =>
    exact vr_roundTrips 0 0 hp hr (by cases col <;> simp [fnRs, Enc.redFn, Layout.rounding]) rfl
      (by cases col <;> simp [Enc.redFn, redOp, Hdr.plain_self ho]) (hzs := by simp)
  | amax =>
    exact vr_roundTrips 0 0 hp hr (by cases col <;> simp [fnRs, Enc.redFn, Layout.rounding]) rfl
      (by cases col <;> simp [Enc.redFn, redOp, Hdr.plain_self ho]) (hzs := by simp)

/-! ### VSHAPE and formats VM and VX -/

theorem vshape_roundTrips {rows : Fin 32} {ty : ElemType} {src : StrideSrc} (ho : h.isPlain = true) : RoundTrips (.vshape h rows a ty src) := by
  cases src with
  | imm n =>
    have hn := n.isLt
    exact roundTrips_of_row [n.toNat % 16, n.toNat / 16, 0, ty.code, a.val, rows.val] rfl rfl (by simp; omega)
      (by simp [packed, packFields, any, Layout.elemType, coded]; omega) (by simp [Hdr.plain_self ho, Nat.mod_add_div])
  | reg k =>
    exact roundTrips_of_row [k.val, 0, 1, ty.code, a.val, rows.val] rfl rfl (by simp)
      (by simp [packed, packFields, any, Layout.elemType, coded]; omega) (by simp [Hdr.plain_self ho])

theorem vm_roundTrips {en : Engine} {mk : Hdr → Fin 256 → Fin 16 → Fin 64 → BitVec 22 → Instr} {need : Bool} {hd : Fin 64} {off : BitVec 22}
    (hp : (mk h d k hd off).parts = Enc.vm en op h off hd k d) (hr : rowOf en op = some (vm op need mk)) (ho : h.isPlain = true)
    (hn : need = true → hd ≠ 63) : RoundTrips (mk h d k hd off) :=
  roundTrips_of_row [off.toNat, hd.val, k.val, d.val] hp hr ⟨fits_any.2 off.isLt, fits_r6 _, fits_r4 _, fits_r8 _, trivial⟩
    (by simp [vm, packed, packFields, any]) (by simp [vm, Hdr.plain_self ho])
    (hz := if_neg fun ⟨hneed, h63⟩ => hn hneed (Fin.ext h63))

theorem vx_roundTrips {mk : Hdr → Fin 256 → Fin 256 → Fin 16 → VecSpace → Fin 8 → Bool → Instr} {f : Field} {sp : VecSpace}
    (hp : (mk h d a k sp m z).parts = Enc.vx op h z.toNat m sp k a d) (hr : rowOf .V op = some (vx op f mk)) (ho : h.isPlain = true)
    (hw : f.width = 1) (hf : Fits f 0) (hinv : ∀ p s v, sp = .global p s v → Fits f v.toNat) : RoundTrips (mk h d a k sp m z) := by
  cases sp with
  | data =>
    exact roundTrips_of_row [0, 0, z.toNat, m.val, 0, 0, 0, k.val, a.val, d.val] hp hr
      ⟨fits_zero _, hf, fits_bit _, fits_r3 _, by simp [Layout.scope], by simp, by simp, fits_r4 _, fits_r8 _, fits_r8 _, trivial⟩
      (by simp [vx, packed, packFields, any, zero, Layout.scope, below, hw]) (by simp [vx, Hdr.plain_self ho])
      (hw := by simp [widths, vx, any, zero, Layout.scope, below, hw])
  | global p s v =>
    exact roundTrips_of_row [0, v.toNat, z.toNat, m.val, s.code, p.code, 1, k.val, a.val, d.val] hp hr
      ⟨fits_zero _, hinv p s v rfl, fits_bit _, fits_r3 _, fits_scope _, fits_policy _, by simp, fits_r4 _, fits_r8 _, fits_r8 _, trivial⟩
      (by simp [vx, packed, packFields, any, zero, Layout.scope, below, hw]) (by simp [vx, Hdr.plain_self ho])
      (hw := by simp [widths, vx, any, zero, Layout.scope, below, hw])

theorem vgath_roundTrips {sp : VecSpace} (ho : h.isPlain = true) : RoundTrips (.vgath h d a k sp m z) :=
  vx_roundTrips rfl rfl ho rfl (by simp) (fun _ _ v _ => fits_bit v)
theorem vscat_roundTrips {sp : VecSpace} (ho : h.isPlain = true) (hi : ∀ p s v, sp = .global p s v → v = false) :
    RoundTrips (.vscat h d a k sp m z) :=
  vx_roundTrips rfl rfl ho rfl (fits_zero 1) (fun p s v hs => hi p s v hs ▸ fits_zero 1)

end
end Sys2Proof
end

section
/-! PROOFS. The rows of M and C, and the round trip of every word (spec/02 R32, R53 to R65). -/

namespace Sys2Proof

set_option Elab.async false

open Layout Rows

section
variable {op : Nat} {h : Hdr} {k : Fin 16} {hd : Fin 64} {pol : Policy} {sc : Scope} {drain : Bool} {off : BitVec 16}

/-! ### Matrix words (R58) -/

theorem mshape_roundTrips {ta tb : ElemType} {blk : BlkMode} {sp : Bool} {rows cols : Fin 4} {kg : BitVec 12}
    (ho : (h.isPlain && kg != 0 && pairOk ta tb && blockOk ta blk) = true) : RoundTrips (.mshape h ta tb blk sp rows cols kg) := by
  simp only [Bool.and_eq_true] at ho
  obtain ⟨⟨⟨hp, hk⟩, hpair⟩, hblock⟩ := ho
  have hkg : kg.toNat ≠ 0 := fun hz => (bne_iff_ne.1 hk) (BitVec.eq_of_toNat_eq hz)
  have hlt := kg.isLt
  have hb := blk.code_lt
  exact roundTrips_of_row [0, kg.toNat, cols.val, rows.val, sp.toNat, blk.code, tb.code, ta.code] rfl rfl
    (by simp [hkg]; omega) (by simp [packed, packFields, any, zero, Layout.elemType, coded, below]) (by simp [Hdr.plain_self hp])
    (hb := by simp [hpair, hblock])

theorem wld_roundTrips {w dk : Fin 16} {off : BitVec 12} {sp : Bool} {len : BitVec 13}
    (ho : (h.isPlain && decide (1 ≤ len.toNat ∧ len.toNat ≤ 4096)) = true) : RoundTrips (.wld h w off dk hd sp len) := by
  simp only [Bool.and_eq_true, decide_eq_true_eq] at ho
  obtain ⟨hp, h1, h2⟩ := ho
  have hoff := off.isLt
  exact roundTrips_of_row [len.toNat, sp.toNat, hd.val, dk.val, off.toNat, w.val] rfl rfl
    (by simp; omega) (by simp [packed, packFields, any, coded]) (by simp [Hdr.plain_self hp])

/-- A word of the matrix engine's operand format, each of its own fields fitting. -/
theorem mm_roundTrips {i : Instr} {foff fkd fkw fa : Field} {mk : Hdr → (off kd kw a z : Nat) → Instr} {off kd kw a : Nat} {z : Fin 256}
    (hp : i.parts = Enc.mm op h off kd kw a z) (hr : rowOf .M op = some (mm op foff fkd fkw fa mk)) (ho : h.isPlain = true)
    (hf : FieldsFit [foff, fkd, fkw, fa] [off, kd, kw, a]) (hi : mk h off kd kw a z.val = i)
    (hw : foff.width = 12 ∧ fkd.width = 4 ∧ fkw.width = 4 ∧ fa.width = 8 := by decide) : RoundTrips i := by
  obtain ⟨woff, wkd, wkw, wa⟩ := hw
  obtain ⟨hoff, hkd, hkw, ha, -⟩ := hf
  exact roundTrips_of_row [0, off, kd, kw, a, z.val] hp hr ⟨fits_zero _, hoff, hkd, hkw, ha, fits_r8 _, trivial⟩
    (by simp [mm, packed, packFields, any, zero, woff, wkd, wkw, wa]) (by simpa [mm, Hdr.plain_self ho] using hi)
    (hw := by simp [widths, mm, any, zero, woff, wkd, wkw, wa])

theorem mma_roundTrips {z a : Fin 256} {off : BitVec 12} (ho : h.isPlain = true) : RoundTrips (.mma h z a k off) :=
  mm_roundTrips rfl rfl ho ⟨fits_any.2 off.isLt, fits_zero _, fits_r4 _, fits_r8 _, trivial⟩ (by simp)
theorem mmas_roundTrips {z : Fin 256} {l : Fin 16} {off : BitVec 12} (ho : h.isPlain = true) : RoundTrips (.mmas h z k l off) :=
  mm_roundTrips rfl rfl ho ⟨fits_any.2 off.isLt, fits_r4 _, fits_r4 _, fits_zero _, trivial⟩ (by simp)
theorem mzero_roundTrips {z : Fin 256} (ho : h.isPlain = true) : RoundTrips (.mzero h z) :=
  mm_roundTrips rfl rfl ho ⟨fits_zero _, fits_zero _, fits_zero _, fits_zero _, trivial⟩ (by simp)
theorem wclr_roundTrips (ho : h.isPlain = true) : RoundTrips (.wclr h) :=
  roundTrips_of_row [0] rfl rfl ⟨fits_zero _, trivial⟩ rfl (congrArg Instr.wclr (Hdr.plain_self ho))

/-! ### Stream commands (R59, R287) -/

/-- What a command says of its handle: free to name any, one, or none (R287). -/
def HandleOk (need : Nat) (hd : Nat) : Prop := ¬ ((need = 1 ∧ hd = 63) ∨ (need = 2 ∧ hd ≠ 63))

/-- A word of format CX whose fields fit. -/
theorem cx_roundTrips {i : Instr} {fl fm fh fsc foff fk : Field} {need : Nat} {mk : Hdr → (fl fm fh sc pol off k hd : Nat) → Instr}
    {fn sc off k hd : Nat} (x y u : Nat) (hp : i.parts = Enc.cx op h fn sc pol.code off k hd)
    (hr : rowOf .C op = some (cx op fl fm fh fsc foff fk need mk)) (ho : h.isPlain = true)
    (hf : FieldsFit [fl, fm, fh, fsc, foff, fk, any 6] [x, y, u, sc, off, k, hd])
    (hfn : fn = x + 2 ^ fl.width * (y + 2 ^ fm.width * u)) (hh : HandleOk need hd) (hi : mk h x y u sc pol.code off k hd = i)
    (hw : fl.width + (fm.width + fh.width) = 9 ∧ fsc.width = 3 ∧ foff.width = 16 ∧ fk.width = 4 := by decide) : RoundTrips i := by
  obtain ⟨wf, wsc, woff, wk⟩ := hw
  obtain ⟨hx, hy, hu, hsc, hoff, hk, hhd, -⟩ := hf
  refine roundTrips_of_row [x, y, u, sc, pol.code, off, k, hd] hp hr ⟨hx, hy, hu, hsc, fits_policy _, hoff, hk, hhd, trivial⟩ ?_
    (by simpa [cx, Hdr.plain_self ho] using hi) (hz := if_neg hh) (hw := ?_)
  · exact packFields_triple wf hx hy hu hfn (packFields_one wsc (packFields_one rfl (packFields_one woff (packFields_one wk
      (packFields_one rfl rfl)))))
  · simp only [widths, cx, any, List.map_cons, List.map_nil, List.sum_cons, List.sum_nil]
    omega

@[simp] theorem fits_off (x : BitVec 16) : Fits (any 16) x.toNat := fits_any.2 x.isLt

theorem cxDrain_roundTrips {mk : Hdr → Fin 64 → Fin 16 → BitVec 16 → Policy → Scope → Bool → Instr}
    (hp : (mk h hd k off pol sc drain).parts = Enc.cx op h drain.toNat sc.code pol.code off.toNat k hd)
    (hr : rowOf .C op = some (cxDrain op mk)) (ho : h.isPlain = true) : RoundTrips (mk h hd k off pol sc drain) :=
  cx_roundTrips drain.toNat 0 0 hp hr ho
    ⟨fits_bit _, fits_zero _, by simp, fits_scope _, fits_off _, fits_r4 _, fits_r6 _, trivial⟩ rfl (by simp [HandleOk]) (by simp)

/-- A command that must name a handle. -/
theorem handleOk_named {hd : Fin 64} (hn : (hd != 63) = true) : HandleOk 1 hd.val := by
  have h63 : hd.val ≠ 63 := fun hz => (bne_iff_ne.1 hn) (Fin.ext hz)
  simp [HandleOk, h63]

theorem win_roundTrips (ho : (h.isPlain && hd != 63) = true) : RoundTrips (.win h hd k off pol sc) := by
  rw [Bool.and_eq_true] at ho
  exact cx_roundTrips 0 0 0 rfl rfl ho.1 ⟨fits_zero _, by simp, by simp, fits_scope _, fits_off _, fits_r4 _, fits_r6 _, trivial⟩ rfl
    (handleOk_named ho.2) (by simp)

theorem adv_roundTrips {n : BitVec 9} (ho : (h.isPlain && hd != 63) = true) : RoundTrips (.adv h hd pol sc n) := by
  rw [Bool.and_eq_true] at ho
  have h63 : hd.val ≠ 63 := fun hz => (bne_iff_ne.1 ho.2) (Fin.ext hz)
  exact roundTrips_of_row [n.toNat, sc.code, pol.code, 0, hd.val] rfl rfl
    ⟨fits_any.2 n.isLt, fits_scope _, fits_policy _, fits_zero _, fits_r6 _, trivial⟩
    (by simp [packed, packFields, any, zero, Layout.scope, below]; omega) (by simp [Hdr.plain_self ho.1]) (hz := if_neg h63)
theorem wend_roundTrips (ho : (h.isPlain && hd != 63) = true) : RoundTrips (.wend h hd pol sc) := by
  rw [Bool.and_eq_true] at ho
  have h63 : hd.val ≠ 63 := fun hz => (bne_iff_ne.1 ho.2) (Fin.ext hz)
  exact roundTrips_of_row [0, sc.code, pol.code, 0, hd.val] rfl rfl
    ⟨fits_zero _, fits_scope _, fits_policy _, fits_zero _, fits_r6 _, trivial⟩
    (by simp [packed, packFields, any, zero, Layout.scope, below]; omega) (by simp [Hdr.plain_self ho.1]) (hz := if_neg h63)

/-- The system scope that the fabric's commands name. -/
theorem fits_scopeSys : Fits scopeSys 4 := fits_coded.2 (by decide)

theorem send_roundTrips (ho : h.isPlain = true) : RoundTrips (.send h hd k off pol drain) :=
  cx_roundTrips drain.toNat 0 0 rfl rfl ho ⟨fits_bit _, fits_zero _, by simp, fits_scopeSys, fits_off _, fits_r4 _, fits_r6 _, trivial⟩ rfl
    (by simp [HandleOk]) (by simp)
theorem recv_roundTrips (ho : h.isPlain = true) : RoundTrips (.recv h hd k off pol drain) :=
  cx_roundTrips drain.toNat 0 0 rfl rfl ho ⟨fits_bit _, fits_zero _, by simp, fits_scopeSys, fits_off _, fits_r4 _, fits_r6 _, trivial⟩ rfl
    (by simp [HandleOk]) (by simp)
theorem coll_roundTrips {c : CollOp} (ho : h.isPlain = true) : RoundTrips (.coll h hd k off pol c drain) :=
  cx_roundTrips drain.toNat c.code 0 rfl rfl ho
    ⟨fits_bit _, fits_below.2 (by cases c <;> decide), fits_zero _, fits_scopeSys, fits_off _, fits_r4 _, fits_r6 _, trivial⟩ rfl
    (by simp [HandleOk]) (by simp)
theorem cPref_roundTrips (ho : h.isPlain = true) : RoundTrips (.cPref h k off pol sc) :=
  cx_roundTrips 0 0 0 rfl rfl ho ⟨fits_zero _, by simp, by simp, fits_scope _, fits_off _, fits_r4 _, by simp, trivial⟩ rfl
    (by simp [HandleOk]) (by simp)
theorem code_roundTrips (ho : h.isPlain = true) : RoundTrips (.code h k off pol sc) :=
  cx_roundTrips 0 0 0 rfl rfl ho ⟨fits_zero _, by simp, by simp, fits_scope _, fits_off _, fits_r4 _, by simp, trivial⟩ rfl
    (by simp [HandleOk]) (by simp)

end
/-! ### Every word -/

theorem and_of_wellFormed {i : Instr} {x y : Bool} (h : i.wellFormed = true) (hxy : i.wellFormed = (x && y) := by rfl) :
    x = true ∧ y = true := by
  rw [hxy] at h
  exact (Bool.and_eq_true _ _).mp h

/-- SWR of a trap register's number (R67). -/
theorem swrOf_trapRegister {e : Engine} {h : Hdr} {r : Fin 32} (which : Fin 5) :
    swrOf e h r (0x030 + which.val) = .trapRegisterWrite e h r which := by
  have h1 : 0x030 + which.val ≠ 0x022 := by omega
  have h2 : 0x030 + which.val ≤ 0x034 := by omega
  simp [swrOf, h1, h2]

/-- EVERY WELL-FORMED INSTRUCTION'S WORD decodes to it: family by family of the opcode map. -/
theorem roundTrips_of_wellFormed (i : Instr) (hw : i.wellFormed = true) : RoundTrips i := by
  cases i with
  | nop e h | endw e h | ret e h => exact ctlPlain_roundTrips rfl (rowOf_control rfl) hw
  | trap e h c | brk e h c | pause e h c => exact ctlCode_roundTrips rfl (rowOf_control rfl) hw
  | loop e h len c =>
    cases c with
    | imm n =>
      obtain ⟨⟨ho, hl⟩, -⟩ := (and_of_wellFormed hw).imp_left (Bool.and_eq_true _ _).mp
      exact loopImm_roundTrips ho hl
    | reg r =>
      obtain ⟨⟨ho, hl⟩, hr⟩ := (and_of_wellFormed hw).imp_left (Bool.and_eq_true _ _).mp
      exact loopReg_roundTrips ho hl hr
  | brSb h abs off | callSb h abs off => exact sbRow_roundTrips rfl rfl
  | brXb e h c abs off | callXb e h c abs off =>
    obtain ⟨he, ho⟩ := and_of_wellFormed hw
    exact xbRow_roundTrips rfl (rowOf_index he rfl) ho
  | tok e h pop q r =>
    obtain ⟨ho, hr⟩ := and_of_wellFormed hw
    exact tok_roundTrips ho hr
  | hset e h hd b c =>
    obtain ⟨hob, hc⟩ := and_of_wellFormed hw
    obtain ⟨ho, hb⟩ := (Bool.and_eq_true _ _).mp hob
    exact hset_roundTrips ho hb hc
  | hwait e h hd free => exact hwait_roundTrips hw
  | safe e h g m => exact safe_roundTrips hw
  | fence e h k sc => exact fence_roundTrips hw
  | srd e h r num =>
    obtain ⟨ho, hr⟩ := and_of_wellFormed hw
    exact sys_roundTrips rfl (rowOf_control rfl) num.isLt ho hr (by simp)
  | swr e h r num =>
    obtain ⟨hor, hn⟩ := and_of_wellFormed hw
    obtain ⟨ho, hr⟩ := (Bool.and_eq_true _ _).mp hor
    exact sys_roundTrips rfl (rowOf_control rfl) num.isLt ho hr (swrOf_other hn)
  | trapRegisterWrite e h r which =>
    obtain ⟨ho, hr⟩ := and_of_wellFormed hw
    exact sys_roundTrips rfl (rowOf_control rfl) (by omega) ho hr (swrOf_trapRegister which)
  | flagsWrite e h r | chHashWrite e h r | pcHashWrite e h r | preemptWaitWrite e h r =>
    obtain ⟨ho, hr⟩ := and_of_wellFormed hw
    exact sys_roundTrips rfl (rowOf_control rfl) (by decide) ho hr rfl
  | kli e h d imm =>
    obtain ⟨he, ho⟩ := and_of_wellFormed hw
    exact kli_roundTrips he ho
  | kaddi e h d a imm =>
    obtain ⟨he, ho⟩ := and_of_wellFormed hw
    exact kaddi_roundTrips he ho
  | kadd e h d a b | ksub e h d a b | kmul e h d a b | kshl e h d a b | kshr e h d a b | kand e h d a b =>
    obtain ⟨he, ho⟩ := and_of_wellFormed hw
    exact xk_roundTrips rfl (rowOf_index he rfl) ho
  | add h d a b | sub h d a b | mul h d a b | and h d a b | or h d a b | xor h d a b | andn h d a b | shl h d a b | shr h d a b
  | sar h d a b | rotr h d a b | bfi h d a b | fmin h d a b | fmax h d a b | launch h d a b => exact srDab_roundTrips rfl rfl
  | mulh h u d a b | div h u d a b | rem h u d a b | min h u d a b | max h u d a b | bfx h u d a b => exact srSign_roundTrips rfl rfl
  | clz h d a | ctz h d a | popc h d a | fsopen h d a | fsclose h d a | fswait h d a | fstest h d a | lunpin h d a =>
    exact srDa_roundTrips rfl rfl
  | lwait h a | phase h a | govhold h a | govrel h a => exact srA_roundTrips rfl rfl
  | brx h a => exact brx_roundTrips
  | fadd h rm sat d a b | fsub h rm sat d a b | fmul h rm sat d a b | ffma h rm sat d a b | fdiv h rm sat d a b =>
    exact srFp_roundTrips rfl rfl
  | sel h d a b p => exact sel_roundTrips
  | addi h d a imm | andi h d a imm | ori h d a imm | xori h d a imm | muli h d a imm => exact si_roundTrips rfl rfl hw
  | shli h d a n | shri h d a n | sari h d a n => exact siShift_roundTrips rfl rfl hw
  | li h d imm | lih h d imm => exact sl_roundTrips rfl rfl hw
  | cmp h c p a b => exact cmp_roundTrips
  | cmpi h c p a imm => exact cmpi_roundTrips hw
  | pset h p q r f => exact pset_roundTrips
  | pmov h toS p r => exact pmov_roundTrips
  | fcmp h c p a b => exact fcmp_roundTrips
  | fcvt h rm sat c d a => exact fcvt_roundTrips
  | fsqrt h rm sat d a => exact fsqrt_roundTrips
  | ld h pol sc size x d b off => exact ld_roundTrips hw
  | st h pol sc size d b off => exact st_roundTrips hw
  | lds h size x d b off => exact lds_roundTrips hw
  | sts h size d b off => exact sts_roundTrips hw
  | sPref h pol size b off => exact sPref_roundTrips hw
  | flush h b off => exact flush_roundTrips hw
  | atom h op pol sc ord d b v off => exact atom_roundTrips
  | red h op pol sc rel b v off => exact red_roundTrips
  | cas h w pol sc ord d b v off => exact cas_roundTrips
  | atoms h op ord d b v off => exact atoms_roundTrips
  | lpin h r d a => exact lpin_roundTrips
  | qctlSetprio h d a b => exact qctl_roundTrips (k := 0) (by decide) rfl
  | qctlDetset h d a b => exact qctl_roundTrips (k := 1) (by decide) rfl
  | qctlSeed h d a b => exact qctl_roundTrips (k := 2) (by decide) rfl
  | qctlQread h d a b => exact qctl_roundTrips (k := 3) (by decide) rfl
  | goveval h r d a => exact goveval_roundTrips
  | govrd h item d a => exact govrd_roundTrips
  | time h d => exact time_roundTrips
  | eret h => exact eret_roundTrips
  | vshape h rows cols ty src =>
    cases src with
    | imm n => exact vshape_roundTrips hw
    | reg k => exact vshape_roundTrips hw
  | vld h t k hd off | vst h t k hd off | vstq h t k hd off | mdrain h t k hd off => exact vm_roundTrips rfl rfl hw nofun
  | vldq h t k hd off =>
    obtain ⟨ho, hn⟩ := and_of_wellFormed hw
    exact vm_roundTrips rfl rfl ho (fun _ => bne_iff_ne.1 hn)
  | vgath h t idx k sp m z => exact vgath_roundTrips hw
  | vscat h t idx k sp m z =>
    obtain ⟨ho, hi⟩ := and_of_wellFormed hw
    exact vscat_roundTrips ho (fun p s v hs => by subst hs; simpa using hi)
  | vmov h m z d a | vabs h m z d a | vneg h m z d a | vxpose h m z d a => exact vr1_roundTrips rfl rfl hw
  | vbcast h m z d k => exact vbcast_roundTrips hw
  | vmin h m z d a b | vmax h m z d a b | vand h m z d a b | vor h m z d a b | vxor h m z d a b | vshl h m z d a b | vshr h m z d a b
  | vsar h m z d a b | vimin h m z d a b | vimax h m z d a b | vperm h m z d a b => exact vr2_roundTrips rfl rfl hw
  | vadd h m z rm sat d a b | vsub h m z rm sat d a b | vmul h m z rm sat d a b => exact vr2rs_roundTrips rfl rfl hw
  | vfma h m z rm sat d a b c | vfms h m z rm sat d a b c | vfnma h m z rm sat d a b c => exact vr3rs_roundTrips rfl rfl hw
  | vdiv h m z sat d a b | viadd h m z sat d a b | visub h m z sat d a b | vimul h m z sat d a b => exact vr2s_roundTrips rfl rfl hw
  | vsqrt h m z sat d a | vrcp h m z sat d a | vrsq h m z sat d a | vexp2 h m z sat d a | vexp h m z sat d a | vlog2 h m z sat d a
  | vsinpi h m z sat d a | vcospi h m z sat d a | vtanh h m z sat d a => exact vr1s_roundTrips rfl rfl hw
  | vcmp h m z c p a b => exact vcmp_roundTrips hw
  | vsel h m d a b => exact vsel_roundTrips hw
  | mop h p q r f => exact mop_roundTrips hw
  | mcnt h first k p => exact mcnt_roundTrips hw
  | vcvt h m z rm sat ty d a => exact vcvt_roundTrips hw
  | vamax h m k a => exact vamax_roundTrips hw
  | vscale h m z rm sat divs d a k => exact vscale_roundTrips hw
  | vred h m z op col d a | vscan h m z op col d a => exact vredRow_roundTrips rfl rfl hw
  | viota h m z rm sat d k => exact viota_roundTrips hw
  | vrand h m z unif d a b => exact vrand_roundTrips hw
  | vdrain h m z rm sat d za k => exact vdrain_roundTrips hw
  | vzld h m z zd a k => exact vzld_roundTrips hw
  | mshape h a b blk sp rows cols kg => exact mshape_roundTrips hw
  | wld h w off d hd sp len => exact wld_roundTrips hw
  | mma h z a w off => exact mma_roundTrips hw
  | mmas h z w d off => exact mmas_roundTrips hw
  | mzero h z => exact mzero_roundTrips hw
  | wclr h => exact wclr_roundTrips hw
  | copy h hd k off pol sc dr | copyc h hd k off pol sc dr | gather h hd k off pol sc dr | scatter h hd k off pol sc dr
  | fill h hd k off pol sc dr | xform h hd k off pol sc dr | xpq h hd k off pol sc dr | cflush h hd k off pol sc dr =>
    exact cxDrain_roundTrips rfl rfl hw
  | win h hd k off pol sc => exact win_roundTrips hw
  | adv h hd pol sc n => exact adv_roundTrips hw
  | wend h hd pol sc => exact wend_roundTrips hw
  | send h hd k off pol dr => exact send_roundTrips hw
  | recv h hd k off pol dr => exact recv_roundTrips hw
  | coll h hd k off pol op dr => exact coll_roundTrips hw
  | cPref h k off pol sc => exact cPref_roundTrips hw
  | code h k off pol sc => exact code_roundTrips hw
  | _ => cases hw

end Sys2Proof

open Sys2Proof

/-- Settles O56. -/
theorem encodingRoundTrip : Obligations.EncodingRoundTrip := roundTrips_of_wellFormed
end

section
/-! PROOFS. A translation may move an L1 name: the access frame does not hold. -/
namespace Sys2Proof.Machine

set_option maxRecDepth 100000
set_option exponentiation.threshold 4096

/-- A core of task 7 whose range 0 is valid and whose L1 holds a clean word of virtual address 0x200000, kept under the
physical address 0x300000 that another name of the page led to. -/
def aliasedCore : Core :=
  { task := some 7, started := true, ranges := (Vector.replicate 16 {}).set 0 { vbase := 0, units := 2, valid := true },
    l1 := [(0xC0000, ⟨.clean false, 5⟩)] }

/-- The task of that core, of context 2. -/
def aliasedTask : Task :=
  { ctx := 2, queue := 5, seq := 0, record := List.replicate 128 0, st := .running, order := 1, seed := 0, det := 0, bindTime := 0,
    cores := [0], resumeAt := 0, budget := 0, budgetUsed := 0, loops := [], scopeGen := 0, deps := [], gangSize := 1 }

/-- The state with that core alone, its context's tables leading page 0 to the frame at 0x200000, and page 48 known to be a
copy's page under that name. -/
def aliasedState : State :=
  { State.reset with
    cores := [(0, aliasedCore)], tasks := [(7, aliasedTask)], ctxs := [(2, { valid := true, ptroot := 0x10000 })],
    mem := [(0x10000, 1), (0x10002, 2), (0x20000, 1), (0x20002, 3), (0x30000, 0x27), (0x30002, 0x20)],
    side := [(0x10000, 5207950), (0x20000, 8945698), (0x30000, 6913335)], aliases := [(48, [(2, 0)])] }

/-- Whether the access reaches its address and has changed the names of the core's L1 words on the way. -/
def movesNames (s : State) (va n : Nat) : Bool :=
  match s.access .S va n false with
  | .go _ t => !decide (t.core.l1.map (fun x => x.1) = s.core.l1.map (fun x => x.1))
  | _ => false

theorem access_goes_of_movesNames {s : State} {va n : Nat} (h : movesNames s va n = true) :
    ∃ a t, s.access .S va n false = .go a t ∧ t.core.l1.map (fun x => x.1) ≠ s.core.l1.map (fun x => x.1) := by
  unfold movesNames at h
  split at h
  · exact ⟨_, _, ‹_›, by simpa using h⟩
  · cases h

/-- The load of 0x48 by the aliased core goes to 0x200048 and takes its L1 word along to the page's new name. -/
theorem movesNames_aliasedState : movesNames aliasedState 0x48 8 = true := by decide +kernel

/-- Refutes O32: an access whose page is known by another name moves the names of the words in the cores' L1s
(`State.noteName`), so the cores are not as they were: in `aliasedState` the load of 8 bytes at 0x48 reaches its address and the
core's clean word has another name after it. -/
theorem not_accessFrame : ¬ Obligations.AccessFrame := by
  unfold Obligations.AccessFrame
  intro h
  obtain ⟨a, t, hgo, hne⟩ := access_goes_of_movesNames movesNames_aliasedState
  obtain ⟨hcur, hcores, -⟩ := h _ _ _ _ _ _ _ hgo
  exact hne (by rw [show t.core = aliasedState.core by simp only [State.core, State.coreAt, hcur, hcores]])

end Sys2Proof.Machine
end

section
/-! PROOFS. The memory words of S: loads and stores. -/
namespace Sys2Proof.Machine

open Laws

variable {s t u b : State} {e : Engine} {h : Hdr} {n : Names} {rs : List Reg} {eff : State → Res}

/-! ### An issue's traps -/

theorem issue_trapped {f : State → State} {x : TrapInfo} (hi : Issues s e h n rs) (he : eff (Begun s h) = .trap f x) :
    s.issue e h n (s.core.busyFor rs) eff = (f s).takeTrap e (s.eng e).pc x := by
  rw [issue_eff hi, he]

/-! ### Accesses sent word by word -/

theorem complete_eq_false {f : Flight} {p : Part} (hp : p ∈ f.parts) (hg : p.got = none) : f.complete = false := by
  rw [Flight.complete, List.all_eq_false]
  exact ⟨p, hp, by simp [hg]⟩

/-- The instruction in flight that the accesses of an issue make. -/
def State.issued (s : State) (e : Engine) (kind : FlightKind) (parts : List Part) : Flight :=
  { id := s.nextId, eng := e, pc := (s.eng e).pc, kind, parts, inTrap := s.core.trap.mode }

/-- Accesses of which one has still to be answered leave their instruction in flight. -/
theorem issueParts_pend {kind : FlightKind} {parts ps : List Part} {at_ : Option Nat}
    (hs : State.sendParts { s with nextId := s.nextId + 1 } (s.issued e kind parts) at_ = .ok (u, ps)) (hp : ∃ q ∈ ps, q.got = none) :
    s.issueParts e kind parts at_
      = .pend (u.modCore (fun c => { c with flights := c.flights ++ [{ s.issued e kind parts with parts := ps }] })) s.nextId := by
  obtain ⟨q, hq, hg⟩ := hp
  unfold State.issueParts
  have hs' : State.sendParts s.fresh.2 { id := s.fresh.1, eng := e, pc := (s.fresh.2.eng e).pc, kind, parts, inTrap := s.fresh.2.core.trap.mode }
      at_ = .ok (u, ps) := hs
  dsimp only
  rw [hs']
  dsimp only
  rw [if_neg (by rw [complete_eq_false (p := q) hq hg]; decide)]
  rfl

theorem sendAt_kept {pc till a : Nat} {p : Part} {w : Todo} (hf : s.free e till w.va w.n a = false) :
    s.sendAt e pc till a p w = .wait id := by
  simp [State.sendAt, hf]

/-- One part alone is sent as it may be. -/
theorem sendParts_single {f : Flight} {at_ : Option Nat} {w : Todo} {p q : Part} (hf : f.parts = [p]) (hp : p.todo = some w)
    (hs : (match at_ with | some a => s.sendAt f.eng f.pc f.id (a + 4 * p.idx) p w | none => s.sendPart f.eng f.pc f.id p w) = .ok u q) :
    s.sendParts f at_ = .ok (u, [q]) := by
  simp only [State.sendParts, hf, List.foldl_cons, List.foldl_nil, hp]
  cases at_ <;> simp only at hs ⊢ <;> rw [hs] <;> rfl

theorem foldl_dropL1_flights (l : List (Nat × Word32 × BitVec 4)) (c : Core) :
    (l.foldl (fun c w => c.dropL1 w.1) c).flights = c.flights := by
  induction l generalizing c with
  | nil => rfl
  | cons w l ih => rw [List.foldl_cons, ih]; rfl

theorem sendReq_flights (pc since a k va data : Nat) (kind : ReqKind) (pol : Policy) (inv half : Bool) (q : Option (Nat × Nat)) :
    (s.sendReq e pc since kind pol inv a k va data q half).2.core.flights = s.core.flights := by
  simp only [State.sendReq, State.fresh]
  rw [addReq_core, State.modCore, State.setCore_core, foldl_dropL1_flights]
  rfl

/-- An access that nothing keeps back and the core does not perform by itself is sent where there is room. -/
theorem sendAt_sends {pc till a : Nat} {p : Part} {w : Todo} (hf : s.free e till w.va w.n a = true) (hr : s.outstanding < 4096)
    (hs : w.store = true → s.storeAt (s.core.effPolicy w.pol) a w.n w.va w.data = none)
    (hl : w.store = false → s.localValue (s.core.effPolicy w.pol) w.inv a w.n = none) :
    ∃ u, Sends s u e (if w.store then .store else .load) a w.n w.data ∧ u.core.flights = s.core.flights
      ∧ s.sendAt e pc till a p w = .ok u { p with todo := none, req := s.nextId } := by
  refine ⟨_, sendReq_sends pc till a w.n w.va w.data (if w.store then .store else .load) (s.core.effPolicy w.pol)
    (w.inv && Part.l1Bytes s.core.part != 0) (e == .S && p.idx == 1) none, sendReq_flights .., ?_⟩
  have hroom : ¬ 4096 ≤ s.outstanding := by omega
  cases hw : w.store with
  | true => simp [State.sendAt, hf, hw, hs hw, hroom, sendReq_id]
  | false => simp [State.sendAt, hf, hw, hl hw, hroom, sendReq_id]

/-! ### LD and ST -/

section
variable {pol : Policy} {sc : Scope} {size : Size} {x : Bool} {d r : Fin 32} {off : BitVec 18} {a : Nat}

theorem ld_hit {v : Nat} (hi : Issues s .S h {} [.s d, .s r])
    (hr : Reaches (Begun s h) .S (baseOffset ((Begun s h).core.readS r) off) (sizeBytes size) false a t)
    (hv : t.localValue ((Begun s h).core.effPolicy pol) (sizeBytes size = 8 && x) a (sizeBytes size) = some v)
    (hf : t.l1Fault (wordKeys a (sizeBytes size)) = none) :
    exec (.ld h pol sc size x d r off) s
      = .next (Done s .S h (t.setCore (t.core.writeS d (extendLoad (sizeBytes size) (sizeBytes size ≠ 8 && x) v)))) := by
  refine congrArg Host.Outcome.next (issue_done hi ?_)
  unfold State.loadGlobal
  dsimp only
  rw [withAccess_reaches hr, if_pos hr.first, hv]
  dsimp only
  rw [hf]

theorem ld_fault {v : Nat} {y : TrapInfo} (hi : Issues s .S h {} [.s d, .s r])
    (hr : Reaches (Begun s h) .S (baseOffset ((Begun s h).core.readS r) off) (sizeBytes size) false a t)
    (hv : t.localValue ((Begun s h).core.effPolicy pol) (sizeBytes size = 8 && x) a (sizeBytes size) = some v)
    (hf : t.l1Fault (wordKeys a (sizeBytes size)) = some y) :
    exec (.ld h pol sc size x d r off) s = .next ((s.logSram .S y).takeTrap .S (s.eng .S).pc y) := by
  refine congrArg Host.Outcome.next (issue_trapped (f := fun s => s.logSram .S y) hi ?_)
  unfold State.loadGlobal
  dsimp only
  rw [withAccess_reaches hr, if_pos hr.first, hv]
  dsimp only
  rw [hf]

/-- The load that a word asks for at its address. -/
def loadTodo (c : Core) (pol : Policy) (size : Size) (x : Bool) (va : Nat) : Todo :=
  { store := false, pol := c.effPolicy pol, inv := sizeBytes size = 8 && x, va, n := sizeBytes size, data := 0 }

theorem ld_sent {ps : List Part} (hi : Issues s .S h {} [.s d, .s r])
    (hr : Reaches (Begun s h) .S (baseOffset ((Begun s h).core.readS r) off) (sizeBytes size) false a t)
    (hv : t.localValue ((Begun s h).core.effPolicy pol) (sizeBytes size = 8 && x) a (sizeBytes size) = none)
    (hp : t.poisoned (lineOf a) = false)
    (hs : State.sendParts { t with nextId := t.nextId + 1 } (t.issued .S (.load d (sizeBytes size) (sizeBytes size ≠ 8 && x))
      (wordParts (loadTodo (Begun s h).core pol size x (baseOffset ((Begun s h).core.readS r) off)))) (some a) = .ok (u, ps))
    (hq : ∃ q ∈ ps, q.got = none) :
    exec (.ld h pol sc size x d r off) s = .next (Pending s .S h (u.modCore (fun c => { c with flights := c.flights
      ++ [{ t.issued .S (.load d (sizeBytes size) (sizeBytes size ≠ 8 && x))
          (wordParts (loadTodo (Begun s h).core pol size x (baseOffset ((Begun s h).core.readS r) off))) with parts := ps }] })) t.nextId) := by
  refine congrArg Host.Outcome.next (issue_pend hi ?_)
  unfold State.loadGlobal
  dsimp only
  rw [withAccess_reaches hr, if_pos hr.first, hv]
  dsimp only
  rw [hp, if_neg (by decide)]
  exact issueParts_pend hs hq

theorem st_local (hi : Issues s .S h {} [.s d, .s r])
    (hr : Reaches (Begun s h) .S (baseOffset ((Begun s h).core.readS r) off) (sizeBytes size) true a t)
    (hs : t.storeAt ((Begun s h).core.effPolicy pol) a (sizeBytes size) (baseOffset ((Begun s h).core.readS r) off)
      (((Begun s h).core.readS d).toNat % 2 ^ (8 * sizeBytes size)) = some u) :
    exec (.st h pol sc size d r off) s = .next (Done s .S h u) := by
  refine congrArg Host.Outcome.next (issue_done hi ?_)
  unfold State.storeGlobal
  dsimp only
  rw [withAccess_reaches hr, if_pos hr.first, hs]

/-- The store that a word asks for at its address. -/
def storeTodo (c : Core) (pol : Policy) (size : Size) (d : Fin 32) (va : Nat) : Todo :=
  { store := true, pol := c.effPolicy pol, inv := false, va, n := sizeBytes size, data := (c.readS d).toNat % 2 ^ (8 * sizeBytes size) }

theorem st_sent {ps : List Part} (hi : Issues s .S h {} [.s d, .s r])
    (hr : Reaches (Begun s h) .S (baseOffset ((Begun s h).core.readS r) off) (sizeBytes size) true a t)
    (hn : t.storeAt ((Begun s h).core.effPolicy pol) a (sizeBytes size) (baseOffset ((Begun s h).core.readS r) off)
      (((Begun s h).core.readS d).toNat % 2 ^ (8 * sizeBytes size)) = none)
    (hs : State.sendParts { t with nextId := t.nextId + 1 } (t.issued .S .store
      (wordParts (storeTodo (Begun s h).core pol size d (baseOffset ((Begun s h).core.readS r) off)))) (some a) = .ok (u, ps))
    (hq : ∃ q ∈ ps, q.got = none) :
    exec (.st h pol sc size d r off) s = .next (Pending s .S h (u.modCore (fun c => { c with flights := c.flights
      ++ [{ t.issued .S .store (wordParts (storeTodo (Begun s h).core pol size d (baseOffset ((Begun s h).core.readS r) off)))
          with parts := ps }] })) t.nextId) := by
  refine congrArg Host.Outcome.next (issue_pend hi ?_)
  unfold State.storeGlobal
  dsimp only
  rw [withAccess_reaches hr, if_pos hr.first, hn]
  exact issueParts_pend hs hq

end

/-! ### Memory instructions that issue as far as they may -/

/-- The state in which a memory instruction that issues is performed: what its release sends has been sent. -/
def State.pushedFor (s : State) (op : MemOp) : State := match op.releases with | some scope => s.pushRelease scope | none => s
/-- Whether its release is complete there. -/
def State.readyFor (s : State) (op : MemOp) : Bool :=
  match op.releases with | some scope => s.releaseReady .S scope s.nextId | none => true
/-- What performing it there comes to. -/
def State.performedNow (s : State) (op : MemOp) : Performed :=
  (s.pushedFor op).perform ((s.pushedFor op).eng .S).pc (s.pushedFor op).nextId ((s.pushedFor op).readyFor op) op

section
variable {op : MemOp}

/-- What a memory instruction's issue makes of what performing it comes to. -/
def Performed.issued (op : MemOp) : Performed → State → Res
  | .trap f x, _ => .trap f x
  | .done t, _ => .done t
  | .sent u req kind acq, _ =>
    let (id, u) := match req with | some r => (r, u) | none => u.fresh
    let f : Flight :=
      { id, eng := .S, pc := (u.eng .S).pc, kind, parts := [{ req := req.getD 0, idx := 0, got := none }], acq,
        inTrap := u.core.trap.mode }
    .pend (u.modCore (fun c => { c with flights := c.flights ++ [f] })) id
  | .wait f, s =>
    let (id, s) := (f s).await .S (.waiting op)
    if op.accepted then .done s else .pend s id

theorem issueOp_eq : s.issueOp op = (s.performedNow op).issued op (s.pushedFor op) := by
  unfold State.issueOp State.performedNow State.readyFor State.pushedFor
  dsimp only
  generalize State.perform _ _ _ _ _ = p
  cases p <;> rfl

end

/-! ### Accesses to the data area -/

section
variable {pc till o k : Nat} {d : Option (Fin 32)} {reads writes : List (Nat × Nat)} {f : State → State} {x : TrapInfo}

theorem orderFault_of_unordered_nil (hu : s.core.unordered e 0 reads writes = []) : s.orderFault e reads writes = none := by
  simp [State.orderFault, hu]

theorem clear_iff : s.clear e reads writes = true ↔ s.core.unordered e 0 reads writes = [] ∧ s.core.sramFault reads = none := by
  simp [State.clear]

theorem dataFault_of_clear (hc : s.clear e reads writes = true) : s.dataFault e reads writes = none := by
  obtain ⟨hu, hs⟩ := clear_iff.1 hc
  simp [State.dataFault, orderFault_of_unordered_nil hu, hs]

/-- Accesses that nothing stands against are noted beside what is in flight, and change nothing themselves. -/
theorem onDataAt_clear {g : State → Res} (hc : s.clear e reads writes = true) :
    s.onDataAt e pc d reads writes g
      = (g s).after (fun t => t.modCore (fun c => c.noted s.detlevel s.core.data { eng := e.num, pc, reads, writes, d })) := by
  unfold State.onDataAt
  rw [dataFault_of_clear hc]
  dsimp only
  rw [(clear_iff.1 hc).1]
  rfl

theorem onDataAt_fault {g : State → Res} (hf : s.dataFault e reads writes = some x) :
    s.onDataAt e pc d reads writes g = .trap (fun s => s.logSram e x) x := by
  unfold State.onDataAt
  rw [hf]

theorem dataCheck_ok {c : Core} (hb : o + k ≤ Part.dataBytes c.part) (ha : o % k = 0) : c.dataCheck o k = none := by
  rw [Core.dataCheck, if_neg (by omega), if_neg (by simpa using ha)]

variable {rd wr : Bool}

theorem performData_early (he : (s.ordered .S till || s.samePool till o k) = true) : s.performData pc till d o k rd wr f = .wait id := by
  rw [State.performData, if_pos]
  revert he
  cases s.ordered .S till <;> cases s.samePool till o k <;> simp
theorem performData_clear (he : (s.ordered .S till || s.samePool till o k) = false) (hh : s.holdsBack .S till = false)
    (hc : s.clear .S (if rd then [(o, k)] else []) (if wr then [(o, k)] else []) = true) :
    s.performData pc till d o k rd wr f = .done ((f s).modCore (fun c => c.noted s.detlevel s.core.data
      { eng := Engine.S.num, pc, reads := if rd then [(o, k)] else [], writes := if wr then [(o, k)] else [], d })) := by
  obtain ⟨ho, hs⟩ := Bool.or_eq_false_iff.1 he
  rw [State.performData, if_neg (by simp [ho, hs, hh]), onDataAt_clear hc]
  rfl
theorem performData_fault (he : (s.ordered .S till || s.samePool till o k) = false) (hh : s.holdsBack .S till = false)
    (hx : s.dataFault .S (if rd then [(o, k)] else []) (if wr then [(o, k)] else []) = some x) :
    s.performData pc till d o k rd wr f = .trap (fun s => s.logSram .S x) x := by
  obtain ⟨ho, hs⟩ := Bool.or_eq_false_iff.1 he
  rw [State.performData, if_neg (by simp [ho, hs, hh]), onDataAt_fault hx]
  rfl

variable {op : MemOp}

/-- A data-area access of S within its bounds is the issue of its memory instruction. -/
theorem dataOp_eq (hh : s.holdsBack .S s.nextId = false) (hb : o + k ≤ Part.dataBytes s.core.part) (ha : o % k = 0) :
    s.dataOp o k op = (s.performedNow op).issued op (s.pushedFor op) := by
  rw [State.dataOp, if_neg (by simp [hh]), dataCheck_ok hb ha]
  exact issueOp_eq

end

/-! #### LDS, STS and ATOMS as words -/

section
variable {o k : Nat} {op : MemOp} {x : TrapInfo} {f : State → State}

theorem dataOp_done (hh : s.holdsBack .S s.nextId = false) (hb : o + k ≤ Part.dataBytes s.core.part) (ha : o % k = 0)
    (hp : s.performedNow op = .done t) : s.dataOp o k op = .done t := by
  rw [dataOp_eq hh hb ha, hp]
  rfl
theorem dataOp_trap (hh : s.holdsBack .S s.nextId = false) (hb : o + k ≤ Part.dataBytes s.core.part) (ha : o % k = 0)
    (hp : s.performedNow op = .trap f x) : s.dataOp o k op = .trap f x := by
  rw [dataOp_eq hh hb ha, hp]
  rfl

/-- The instruction in flight of a memory instruction that waits. -/
def State.awaited (s : State) (op : MemOp) : Flight :=
  { id := s.nextId, eng := .S, pc := (s.eng .S).pc, kind := .waiting op, parts := [{ req := 0, idx := 0, got := none }],
    inTrap := s.core.trap.mode }

/-- One that releases no more than its own core and cannot be performed yet waits in flight. -/
theorem dataOp_wait (hh : s.holdsBack .S s.nextId = false) (hb : o + k ≤ Part.dataBytes s.core.part) (ha : o % k = 0)
    (hl : s.pushedFor op = s) (hc : op.accepted = false) (hp : s.performedNow op = .wait id) :
    s.dataOp o k op = .pend (State.modCore { s with nextId := s.nextId + 1 } (fun c => { c with flights := c.flights ++ [s.awaited op] }))
      s.nextId := by
  rw [dataOp_eq hh hb ha, hp, hl]
  simp only [Performed.issued, hc]
  rfl

/-- A core's own change noted beside what is in flight. -/
theorem noted_eq_beside (s : State) (e : Engine) (reads writes : List (Nat × Nat)) (d : Option (Fin 32)) (f : Core → Core) :
    (s.setCore (f s.core)).modCore (fun c => c.noted s.detlevel s.core.data { eng := e.num, pc := (s.eng e).pc, reads, writes, d })
      = s.modCore (fun c => Beside s e reads writes (f c) d) := by
  simp only [State.modCore, State.setCore_setCore, State.setCore_core]
  rfl

variable {size : Nat} {y rel acq : Bool} {d : Fin 32} {v : Word64} {data : Nat} {aop : Aop}

theorem performedNow_lds : s.performedNow (.lds k y d o) = s.performData (s.eng .S).pc s.nextId (some d) o k true false
    (fun s => s.setCore (s.core.writeS d (extendLoad k y (ofBytes (s.core.readData o k))))) := rfl
theorem performedNow_sts : s.performedNow (.sts k o data) = s.performData (s.eng .S).pc s.nextId none o k false true
    (fun s => s.setCore (s.core.writeData o (toBytes k data))) := rfl

theorem pushedFor_atoms : s.pushedFor (.atoms aop rel acq d v o) = s := by cases rel <;> rfl
theorem performedNow_atoms : s.performedNow (.atoms aop rel acq d v o) = if rel && !s.releaseReady .S .core s.nextId then .wait id
    else s.performData (s.eng .S).pc s.nextId (some d) o (Atomic.bytes aop) true true (fun s => s.setCore (s.core.atomsV aop d v o)) := by
  cases rel <;> rfl

theorem isRel_eq (ord : AtomOrder) : AtomOrder.isRel ord = decide (ord = .rel ∨ ord = .ar) := by cases ord <;> rfl
theorem isAcq_eq (ord : AtomOrder) : AtomOrder.isAcq ord = decide (ord = .acq ∨ ord = .ar) := by cases ord <;> rfl

theorem extendLoad_eq (k : Nat) (y : Bool) (v : Nat) :
    extendLoad k y v = if (decide (k < 8) && y) = true then BitVec.ofInt 64 (signedOf (8 * k) v) else BitVec.ofNat 64 v := by
  simp [extendLoad]

theorem wordParts_load (c : Core) (pol : Policy) (size : Size) (y : Bool) (va : Nat) : wordParts (loadTodo c pol size y va) =
    if sizeBytes size = 8 then
      [⟨0, 0, none, some { loadTodo c pol size y va with n := 4 }⟩, ⟨0, 1, none, some { loadTodo c pol size y va with va := va + 4, n := 4 }⟩]
    else [⟨0, 0, none, some (loadTodo c pol size y va)⟩] := by
  simp only [wordParts, loadTodo, Nat.zero_mod, Nat.zero_div]

end

/-! ### The order checker (R237, R239) -/

theorem mem_of_lowest (l : List (Footprint × Nat)) (m : Option (Footprint × Nat)) (x : Footprint × Nat)
    (h : l.foldl (fun (m : Option (Footprint × Nat)) h => match m with | some k => if h.2 < k.2 then some h else some k | none => some h) m = some x) :
    x ∈ l ∨ m = some x := by
  induction l generalizing m with
  | nil => exact .inr h
  | cons y l ih =>
    obtain hx | hx := ih _ h
    · exact .inl (.tail _ hx)
    · cases m with
      | none => exact .inl (Option.some.inj hx ▸ .head _)
      | some k =>
        dsimp only at hx
        split at hx
        · exact .inl (Option.some.inj hx ▸ .head _)
        · exact .inr hx

theorem mem_unordered {c : Core} {own : Nat} {reads writes : List (Nat × Nat)} {y : Footprint × Nat} (hy : y ∈ c.unordered e own reads writes) :
    y.1 ∈ c.checker ∧ y.1.held = false ∧ (e ≠ .C → y.1.eng ≠ e.num) ∧ y.1.clash reads writes = some y.2 := by
  obtain ⟨f, hf, hy⟩ := List.mem_filterMap.1 hy
  split at hy
  · cases hy
  next hn =>
    obtain ⟨a, ha, rfl⟩ := Option.map_eq_some_iff.1 hy
    simp only [Bool.or_eq_true, Bool.and_eq_true, bne_iff_ne, beq_iff_eq, not_or, not_and] at hn
    exact ⟨hf, by simpa using hn.1, fun he hg => (hn.2 hg).1 he, ha⟩

/-- The determinism fault names a command in flight that the accesses share their address with. -/
theorem orderFault_some {reads writes : List (Nat × Nat)} {x : TrapInfo} (hx : s.orderFault e reads writes = some x) :
    s.detlevel ≠ 0 ∧ x.cause = 7 ∧ ∃ f ∈ s.core.checker, (e ≠ .C → f.eng ≠ e.num) ∧ f.held = false
      ∧ x.info = 1 + 2 ^ 8 * f.eng + 2 ^ 16 * f.pc ∧ f.clash reads writes = some x.addr := by
  unfold State.orderFault at hx
  split at hx
  · cases hx
  next hd =>
    obtain ⟨y, hy, rfl⟩ := Option.map_eq_some_iff.1 hx
    obtain hy | hy := mem_of_lowest _ _ _ hy
    · obtain ⟨hc, hh, he, ha⟩ := mem_unordered hy
      exact ⟨hd, rfl, y.1, hc, he, hh, rfl, ha⟩
    · cases hy

/-- Its trap logs no soft error. -/
theorem logSram_of_cause {x : TrapInfo} (hc : x.cause = 7) : s.logSram e x = s := by
  rw [State.logSram, if_neg (by simp [hc])]

theorem dataFault_of_orderFault {reads writes : List (Nat × Nat)} {x : TrapInfo} (hx : s.orderFault e reads writes = some x) :
    s.dataFault e reads writes = some x := by
  rw [State.dataFault, hx]
  rfl

end Sys2Proof.Machine
end

section
/-! PROOFS. The scalar loads and stores (spec/12 R262 to R266). -/

open Sys2Proof Sys2Proof.Machine Laws

/-- Settles O14, a case at a time of where the value comes from. -/
theorem scalarLoads : Obligations.ScalarLoads := by
  unfold Obligations.ScalarLoads
  refine ⟨?_, fun s e pc till a p w => ⟨sendAt_kept, fun hf hr hn => ?_⟩, fun s f at_ w p hf hp u q hs => sendParts_single hf hp hs⟩
  · intro s t h pol sc size x d r off a b n va sext inv p i ext runs hi
    refine ⟨fun hr => ⟨fun v hv => ⟨fun hf => ld_hit hi hr hv hf, fun y hf => ld_fault hi hr hv hf⟩, ?_⟩, fun hb ha hh => ⟨?_, ?_, ?_⟩⟩
    · intro hv hp todo f u ps hs hq
      have hf : t.issued .S (.load d n sext) (wordParts (loadTodo b.core pol size x va)) = f := by
        rw [wordParts_load]
        rfl
      have hsent := ld_sent (sc := sc) hi hr hv hp (hf ▸ hs) hq
      exact hf ▸ hsent
    · intro he hc
      refine (congrArg Host.Outcome.next (issue_done hi (dataOp_done (op := .lds n x d va) hh hb ha
        (performedNow_lds.trans (performData_clear he hh hc))))).trans ?_
      refine congrArg (fun t => Host.Outcome.next (Done s .S h t)) (noted_eq_beside b .S runs [] (some d)
        (fun c => c.writeS d (extendLoad n x (ofBytes (c.readData va n))))|>.trans ?_)
      simp only [extendLoad_eq]
    · intro he y hy
      exact congrArg Host.Outcome.next (issue_trapped (f := fun s => s.logSram .S y) hi
        (dataOp_trap (op := .lds n x d va) hh hb ha (performedNow_lds.trans (performData_fault he hh hy))))
    · intro he
      exact ⟨b.awaited (.lds n x d va), rfl, rfl, congrArg Host.Outcome.next (issue_pend hi
        (dataOp_wait (op := .lds n x d va) hh hb ha rfl rfl (performedNow_lds.trans (performData_early he))))⟩
  · exact sendAt_sends hf hr hn.1 hn.2

/-- Settles O15: a store takes effect in the L1 or goes out by words, the data-area words are performed, wait or trap. -/
theorem scalarStores : Obligations.ScalarStores := by
  unfold Obligations.ScalarStores
  intro s t h pol sc size d r v off off9 op ord a b n va x p i waits
  refine ⟨fun hi => ⟨fun hr => ⟨fun u hs => st_local hi hr hs, ?_⟩, fun hb ha hh => ⟨?_, ?_⟩⟩, ?_, fun e reads writes x hx => orderFault_some hx⟩
  · intro hn todo f u ps hs hq
    have hf : t.issued .S .store (wordParts (storeTodo b.core pol size d va)) = f := rfl
    exact hf ▸ st_sent (sc := sc) hi hr hn (hf ▸ hs) hq
  · intro he hc
    exact (congrArg Host.Outcome.next (issue_done hi (dataOp_done (op := .sts n va (b.core.readS d).toNat) hh hb ha
      (performedNow_sts.trans (performData_clear he hh hc))))).trans (congrArg (fun t => Host.Outcome.next (Done s .S h t))
        (noted_eq_beside b .S [] [(va, n)] none (fun c => c.writeData va (toBytes n (c.readS d).toNat))))
  · intro he
    exact ⟨b.awaited (.sts n va (b.core.readS d).toNat), rfl, rfl, congrArg Host.Outcome.next (issue_pend hi
      (dataOp_wait (op := .sts n va (b.core.readS d).toNat) hh hb ha rfl rfl (performedNow_sts.trans (performData_early he))))⟩
  · intro hi o k old rel early i hb ha hh
    have hrel : AtomOrder.isRel ord = rel := isRel_eq ord
    have hacq : AtomOrder.isAcq ord = decide (ord = .acq ∨ ord = .ar) := isAcq_eq ord
    let op' : MemOp := .atoms op rel (decide (ord = .acq ∨ ord = .ar)) d (b.core.readS v) o
    have hx : exec i s = .next (s.issue .S h {} (s.core.busyFor [.s d, .s r, .s v]) (fun s => s.dataOp (baseOffset (s.core.readS r) off9)
        (Atomic.bytes op) (.atoms op rel (decide (ord = .acq ∨ ord = .ar)) d (s.core.readS v) (baseOffset (s.core.readS r) off9)))) := by
      rw [← hrel, ← hacq]
      rfl
    have performed (he : early = false) : b.performedNow op' = b.performData (b.eng .S).pc b.nextId (some d) o k true true
        (fun s => s.setCore (s.core.atomsV op d (b.core.readS v) o)) := by
      rw [performedNow_atoms, if_neg]
      simpa using (Bool.or_eq_false_iff.1 he).2
    refine ⟨fun he hc => ?_, fun he => ?_, fun he x hf => ?_⟩
    · exact (hx.trans (congrArg Host.Outcome.next (issue_done hi (dataOp_done (op := op') hh hb ha
        ((performed he).trans (performData_clear (Bool.or_eq_false_iff.1 he).1 hh hc)))))).trans
          (congrArg (fun t => Host.Outcome.next (Done s .S h t))
            (noted_eq_beside b .S [(o, k)] [(o, k)] (some d) (fun c => c.atomsV op d (b.core.readS v) o)))
    · have hw : b.performedNow op' = .wait id := by
        rw [performedNow_atoms]
        split
        · rfl
        next hr => exact performData_early ((Bool.or_eq_true_iff.1 he).resolve_right hr)
      exact ⟨b.awaited op', rfl, rfl, hx.trans (congrArg Host.Outcome.next (issue_pend hi (dataOp_wait (op := op') hh hb ha pushedFor_atoms rfl hw)))⟩
    · have hc : x.cause = 7 := (orderFault_some hf).2.1
      exact hx.trans (congrArg Host.Outcome.next ((issue_trapped (f := fun s => s.logSram .S x) hi (dataOp_trap (op := op') hh hb ha
        ((performed he).trans (performData_fault (Bool.or_eq_false_iff.1 he).1 hh (dataFault_of_orderFault hf))))).trans
          (congrArg (fun t => t.takeTrap .S (s.eng .S).pc x) (logSram_of_cause hc))))

end

section
/-! PROOFS. A read of the data area beside unordered writes puts back what it found, byte by byte: in a store that is not in canonical
form that shows what stood behind an entry. -/
namespace Sys2Proof.Machine

open Laws

/-- Accesses past their checks: what the word finds beside the unordered writes in flight, its effect, and what it leaves. -/
theorem onDataAt_faced {s : State} {e : Engine} {pc : Nat} {d : Option (Fin 32)} {reads writes : List (Nat × Nat)} {f : State → Res}
    {is : List Image} (hf : s.dataFault e reads writes = none)
    (hi : imagesOf (s.core.unordered e 0 reads writes) { eng := e.num, pc, reads, writes, d } = is) :
    s.onDataAt e pc d reads writes f
      = (f (s.facing is reads)).after (fun t => t.faced s is { eng := e.num, pc, reads, writes, d }) := by
  unfold State.onDataAt
  rw [hf]
  dsimp only
  rw [hi]

/-- A data area with three entries for one byte. -/
def looseData : SMap Byte := [(0, 0), (0, 9), (0, 9)]
/-- What a command of V in flight replaced at that byte. -/
def looseImage : Image := ⟨[(0, 1)], []⟩
/-- The machine whose first core has that data area and such a command in flight. -/
def looseState : State :=
  { State.reset with
    cores := [(0, { data := looseData, checker := [{ eng := 1, pc := 0, reads := [], writes := [(0, 1)], old := [looseImage] }] })] }
def looseHdr : Hdr := { guard := 0, neg := false, wait := .none, sig := .none }

/-- Whatever byte a read of it takes, the entry behind shows once the read's own change is undone. -/
theorem get_mix_looseData (k k' : Nat) :
    SMap.get 0 (mixWrites k [looseImage] [(0, 1)] [] looseData (mixReads k' [looseImage] [(0, 1)] looseData)) 0 = 9 := by
  have hread : ∃ v : Byte, mixReads k' [looseImage] [(0, 1)] looseData = SMap.set 0 looseData 0 v := ⟨_, rfl⟩
  obtain ⟨v, hv⟩ := hread
  rw [hv]
  by_cases h0 : v = 0
  · rw [h0]
    rfl
  · rw [SMap.set, if_neg h0]
    rfl

theorem issues_looseState : Issues looseState .S looseHdr {} [.s 1, .s 0] :=
  ⟨by decide +kernel, by decide +kernel, by decide +kernel, by decide +kernel, by decide +kernel, fun _ => by decide +kernel⟩

/-- The load of that byte, performed where the word issues. -/
theorem performedNow_looseState : (Begun looseState looseHdr).performedNow (.lds 1 false 1 0) =
    (((fun s : State => Res.done (s.setCore (s.core.writeS 1 (extendLoad 1 false (ofBytes (s.core.readData 0 1))))))
      ((Begun looseState looseHdr).facing [looseImage] [(0, 1)])).after (fun t => t.faced (Begun looseState looseHdr) [looseImage]
        { eng := Engine.S.num, pc := ((Begun looseState looseHdr).eng .S).pc, reads := [(0, 1)], writes := [], d := some 1 })).performed := by
  rw [performedNow_lds, State.performData, if_neg (by decide +kernel)]
  exact congrArg _ (onDataAt_faced (by decide +kernel) (by decide +kernel))

theorem Done_data {s t : State} {e : Engine} {h : Hdr} : (Done s e h t).core.data = t.core.data :=
  congrArg (fun r : Regs × (Engine → Flags) => r.1.data) (Leads.retire t e h _).same.core

theorem facing_data (s : State) (i : Image) (is : List Image) (reads : List (Nat × Nat)) :
    (s.facing (i :: is) reads).core.data = mixReads (s.nextId * 2 ^ 100 + 2 ^ 98) (i :: is) reads s.core.data := by
  change ((s.modCore (fun c => { c with data := mixReads (s.nextId * 2 ^ 100 + 2 ^ 98) (i :: is) reads c.data })).core).data = _
  rw [State.modCore, State.setCore_core]
theorem faced_data (t s : State) (i : Image) (is : List Image) (f : Footprint) :
    (t.faced s (i :: is) f).core.data
      = mixWrites (s.nextId * 2 ^ 100 + 2 ^ 98) (i :: is) f.reads f.writes s.core.data t.core.data := by
  rw [State.faced, State.modCore, State.setCore_core]
  rfl

theorem data_looseState {t : State} (ht : exec (.lds looseHdr .b1 false 1 0 0) looseState = .next t) : SMap.get 0 t.core.data 0 = 9 := by
  have hd := dataOp_done (o := 0) (k := 1) (by decide +kernel) (by decide +kernel) (by decide) performedNow_looseState
  have hx : exec (.lds looseHdr .b1 false 1 0 0) looseState = _ := congrArg Host.Outcome.next (issue_done issues_looseState hd)
  obtain rfl := Host.Outcome.next.inj (ht.symm.trans hx)
  have hb : (Begun looseState looseHdr).core.data = looseData := Begun_core_data
  rw [Done_data]
  dsimp only
  rw [faced_data, State.setCore_core, Core.writeS_data, facing_data, hb]
  exact get_mix_looseData _ _

end Sys2Proof.Machine
end

section
/-! PROOFS. What the data-area words leave does not hold of every state. -/

open Sys2Proof Sys2Proof.Machine

/-- Refutes O33: the statement does not ask for a data area in canonical form. In `looseState` three entries stand for byte 0, of which
a read finds the first; an LDS beside an unordered write of V takes one of the byte's values and puts its own back, both of which
erase an entry, and the byte reads as 9 after it, where it read as 0. -/
theorem not_dataAccessFrame : ¬ Obligations.DataAccessFrame := by
  unfold Obligations.DataAccessFrame
  intro hf
  have hx : exec (.lds looseHdr .b1 false 1 0 0) looseState = .next _ := rfl
  have hk := ((hf looseState _ looseHdr .b1 false 1 0 0 0 0 (.add false) .none).2.1 hx).2.1 0
  rw [data_looseState hx] at hk
  exact absurd hk (by decide +kernel)

end

section
/-! PROOFS. The atomics on global memory. -/
namespace Sys2Proof.Machine

open Laws

variable {s t u b : State} {h : Hdr} {rs : List Reg} {eff : State → Res}

/-! ### Owned words performed in place (R275) -/

theorem find?_filterMap {α β : Type} {g : Nat × α → Option (Nat × β)} (hg : ∀ e e', g e = some e' → e'.1 = e.1) {m : SMap α} {k : Nat} {v : α}
    {v' : β} (hm : SMap.find? m k = some v) (hv : g (k, v) = some (k, v')) : SMap.find? (m.filterMap g) k = some v' := by
  induction m with
  | nil => cases hm
  | cons e m ih =>
    obtain ⟨j, x⟩ := e
    rw [SMap.find?] at hm
    split at hm
    · subst_vars
      obtain rfl := Option.some.inj hm
      rw [List.filterMap_cons, hv]
      simp [SMap.find?]
    · split at hm
      · cases hm
      next hne hlt =>
        rw [List.filterMap_cons]
        split
        · exact ih hm
        next e' he' =>
          obtain ⟨j', x'⟩ := e'
          obtain rfl : j' = j := hg _ _ he'
          rw [SMap.find?, if_neg hne, if_neg hlt]
          exact ih hm
theorem find?_filter {α : Type} {p : Nat × α → Bool} {m : SMap α} {k : Nat} {v : α} (hm : SMap.find? m k = some v) (hv : p (k, v) = true) :
    SMap.find? (m.filter p) k = some v := by
  rw [← List.filterMap_eq_filter]
  exact find?_filterMap (by simp) hm (by simp [Option.guard, hv])

/-- The registered words of the current core that an acquire takes for stale. -/
def State.staleNow (s : State) (k : Nat) : Bool :=
  s.staleWord s.cur k || s.coh.invals.any (fun i => i.line == lineOfWord k && i.cluster == coreCluster s.cur && !i.delivered
    && !(i.keep && i.writer == some s.cur))
/-- What an acquire leaves of the current core. -/
def State.acquiredCore (s : State) (c : Core) : Core :=
  { c.acquireL1 with l1 := c.acquireL1.l1.filter (fun e => !(e.2.st == .registered && s.staleNow e.1)) }

theorem acquire_eq (sc : Scope) : s.acquire sc = if sc = .core then s else s.setCore (s.acquiredCore s.core) := rfl
theorem acquire_mem (sc : Scope) : (s.acquire sc).mem = s.mem := by rw [acquire_eq]; split <;> rfl
theorem acquire_coh (sc : Scope) : (s.acquire sc).coh = s.coh := by rw [acquire_eq]; split <;> rfl
theorem acquire_s (sc : Scope) : (s.acquire sc).core.s = s.core.s := by
  rw [acquire_eq]
  split
  · rfl
  · rw [State.setCore_core]
    rfl

/-- An acquire keeps the words that its core owns. -/
theorem acquire_l1At_owned {sc : Scope} {k : Nat} {v : Word32} (hk : s.core.l1At k = some ⟨.owned, v⟩) :
    (s.acquire sc).core.l1At k = some ⟨.owned, v⟩ := by
  rw [acquire_eq]
  split
  · exact hk
  · rw [State.setCore_core]
    refine find?_filter (find?_filterMap ?_ hk rfl) (by simp)
    intro e e' he
    obtain ⟨w, -, rfl⟩ := Option.map_eq_some_iff.1 he
    rfl

/-- What an instruction that may acquire leaves of what it has done. -/
theorem acquireIf_facts (acq : Bool) (sc : Scope) {x : State} (hx : (if acq then s.acquire sc else s) = x) :
    x.mem = s.mem ∧ x.coh = s.coh ∧ x.core.s = s.core.s
      ∧ ∀ k v, s.core.l1At k = some ⟨.owned, v⟩ → x.core.l1At k = some ⟨.owned, v⟩ := by
  subst hx
  cases acq with
  | false => exact ⟨rfl, rfl, rfl, fun _ _ h => h⟩
  | true => exact ⟨acquire_mem sc, acquire_coh sc, acquire_s sc, fun _ _ h => acquire_l1At_owned h⟩

theorem readS_of_s {c c' : Core} (h : c.s = c'.s) (k : Fin 32) : c.readS k = c'.readS k := by
  unfold Core.readS
  rw [h]

/-- The request that stands for an atomic performed on owned words. -/
def State.ownedReq (s : State) (w : AtomicOp) (a : Nat) : Req :=
  { id := 0, core := s.cur, eng := .S, kind := w.kind, pol := w.pol, inv := false, addr := a, size := w.bytes, va := w.va, ctx := 0, ia := 0,
    data := w.v.toNat % 2 ^ (8 * w.bytes), wb := [], seq := none, ncon := 0, stage := .done }
/-- The value that an atomic finds in the core's words. -/
def State.ownedOld (s : State) (w : AtomicOp) (a : Nat) : Nat := fromWords a w.bytes ((wordKeys a w.bytes).map (s.coreWord s.cur))
/-- A core whose own words have taken an access's new value. -/
def Core.takeOwned (c : Core) (a n v : Nat) : Core :=
  (pieces a n v).foldl (fun c w => match c.l1At w.1 with | some ⟨_, x⟩ => c.putL1 w.1 .owned (mergeWord x w.2.2 w.2.1) | none => c) c

theorem takeOwned_eq (c : Core) (a n v : Nat) : ∃ l, c.takeOwned a n v = { c with l1 := l } := by
  unfold Core.takeOwned
  generalize pieces a n v = ws
  induction ws generalizing c with
  | nil => exact ⟨_, rfl⟩
  | cons w ws ih =>
    rw [List.foldl_cons]
    split
    · obtain ⟨l, hl⟩ := ih (c.putL1 w.1 .owned (mergeWord _ w.2.2 w.2.1))
      exact ⟨l, hl⟩
    · exact ih c

/-- The value of a core's own word noted as one that it has held. -/
def State.noteOwn (s : State) (k : Nat) : State := match s.core.l1At k with | some w => s.notePast k w.val | none => s
theorem noteOwns_eq (ks : List Nat) : ∃ p, ks.foldl State.noteOwn s = { s with past := p } := by
  induction ks generalizing s with
  | nil => exact ⟨_, rfl⟩
  | cons k ks ih =>
    have hk : ∃ p, s.noteOwn k = { s with past := p } := by
      unfold State.noteOwn
      split <;> exact ⟨_, rfl⟩
    rw [List.foldl_cons]
    obtain ⟨p, hp⟩ := hk
    obtain ⟨q, hq⟩ := ih (s := s.noteOwn k)
    exact ⟨q, by rw [hq, hp]⟩

/-- The core that an atomic on its own words leaves. -/
def State.ownedAfter (s : State) (w : AtomicOp) (a : Nat) : Core :=
  let c := match (s.ownedReq w a).newValue (s.ownedOld w a) with | some v => s.core.takeOwned a w.bytes v | none => s.core
  match w.d with | some d => c.writeS d (BitVec.ofNat 64 (s.ownedOld w a)) | none => c

theorem atomicInPlace_facts (w : AtomicOp) (a : Nat) : (s.atomicInPlace (s.ownedReq w a)).2 = s.ownedOld w a
    ∧ (s.atomicInPlace (s.ownedReq w a)).1.mem = s.mem ∧ (s.atomicInPlace (s.ownedReq w a)).1.coh = s.coh
    ∧ (s.atomicInPlace (s.ownedReq w a)).1.core
      = (match (s.ownedReq w a).newValue (s.ownedOld w a) with | some v => s.core.takeOwned a w.bytes v | none => s.core) := by
  have hold : fromWords (s.ownedReq w a).addr (s.ownedReq w a).size ((wordKeys (s.ownedReq w a).addr (s.ownedReq w a).size).map
      (s.coreWord (s.ownedReq w a).core)) = s.ownedOld w a := rfl
  unfold State.atomicInPlace
  dsimp only
  rw [hold]
  cases (s.ownedReq w a).newValue (s.ownedOld w a) with
  | none => exact ⟨rfl, rfl, rfl, rfl⟩
  | some v => exact ⟨rfl, rfl, rfl, State.setCore_core (s := s) _⟩

/-- What an atomic on the words that its core owns leaves. -/
theorem atomicOwned_facts (w : AtomicOp) (a : Nat) {x : State}
    (hx : s.atomicOwned w.kind w.bytes w.pol w.d (w.v.toNat % 2 ^ (8 * w.bytes)) a w.va = x) :
    x.mem = s.mem ∧ x.coh = s.coh ∧ x.core = s.ownedAfter w a := by
  obtain ⟨p, hp⟩ := noteOwns_eq (s := s) (wordKeys a w.bytes)
  obtain ⟨hold, hmem, hcoh, hcore⟩ := atomicInPlace_facts (s := { s with past := p }) w a
  have hx' : (match w.d with
      | some d => (((wordKeys a w.bytes).foldl State.noteOwn s).atomicInPlace (s.ownedReq w a)).1.setCore
          ((((wordKeys a w.bytes).foldl State.noteOwn s).atomicInPlace (s.ownedReq w a)).1.core.writeS d
            (BitVec.ofNat 64 (((wordKeys a w.bytes).foldl State.noteOwn s).atomicInPlace (s.ownedReq w a)).2))
      | none => (((wordKeys a w.bytes).foldl State.noteOwn s).atomicInPlace (s.ownedReq w a)).1) = x := hx
  rw [hp] at hx'
  change (match w.d with
      | some d => (State.atomicInPlace { s with past := p } (State.ownedReq { s with past := p } w a)).1.setCore
          ((State.atomicInPlace { s with past := p } (State.ownedReq { s with past := p } w a)).1.core.writeS d
            (BitVec.ofNat 64 (State.atomicInPlace { s with past := p } (State.ownedReq { s with past := p } w a)).2))
      | none => (State.atomicInPlace { s with past := p } (State.ownedReq { s with past := p } w a)).1) = x at hx'
  rw [hold] at hx'
  subst hx'
  unfold State.ownedAfter
  cases w.d with
  | none => exact ⟨hmem, hcoh, hcore⟩
  | some d =>
    refine ⟨hmem, hcoh, ?_⟩
    dsimp only
    rw [State.setCore_core]
    exact congrArg (fun c : Core => c.writeS d _) hcore

theorem ownedAfter_readS (w : AtomicOp) (a : Nat) (k : Fin 32) :
    (s.ownedAfter w a).readS k = if w.d = some k ∧ k ≠ 0 then BitVec.ofNat 64 (s.ownedOld w a) else s.core.readS k := by
  have hc : ∀ k, (match (s.ownedReq w a).newValue (s.ownedOld w a) with
      | some v => s.core.takeOwned a w.bytes v | none => s.core).readS k = s.core.readS k := by
    intro k
    split
    next v _ =>
      obtain ⟨l, hl⟩ := takeOwned_eq s.core a w.bytes v
      rw [hl]
      rfl
    · rfl
  unfold State.ownedAfter
  cases hd : w.d with
  | none => simpa using hc k
  | some d =>
    dsimp only
    by_cases hk : d = k
    · subst hk
      by_cases h0 : d = 0
      · subst h0
        rw [if_neg (by simp)]
        rw [Core.writeS, if_pos rfl]
        exact hc 0
      · rw [if_pos ⟨rfl, h0⟩, Core.readS_writeS_self _ _ _ h0]
    · rw [if_neg (by simp [hk]), Core.readS_writeS_other _ _ _ _ (Ne.symm hk)]
      exact hc k

theorem mergeWord_whole (x v : Word32) : mergeWord x 15 v = v := by
  have hm : (List.range 4).foldl (fun (m : Word32) i => if (15#4).getLsbD i then m ||| (0xFF#32 <<< (8 * i)) else m) 0 = BitVec.allOnes 32 := by
    decide
  simp only [mergeWord]
  rw [show (15 : BitVec 4) = 15#4 from rfl, hm, BitVec.and_allOnes, BitVec.not_allOnes, BitVec.and_zero, BitVec.zero_or]

theorem wordKeys_word {a : Nat} (ha : a % 4 = 0) : wordKeys a 4 = [a / 4] := by
  simp [wordKeys, ha, List.range_succ]

theorem pieces_word {a : Nat} (ha : a % 4 = 0) (v : Nat) : pieces a 4 v = [(a / 4, BitVec.ofNat 32 v, 15)] := by
  have h4 : 4 * (a / 4) = a := by omega
  have hm : pieceMask a 4 (a / 4) = 15 := by
    simp only [pieceMask, h4]
    simp [List.range_succ]
  rw [pieces, wordKeys_word ha, List.map_cons, List.map_nil, hm, pieceVal, if_pos (by omega), h4]
  simp

/-- A whole word that its core owns takes the new value. -/
theorem takeOwned_word {c : Core} {a : Nat} (ha : a % 4 = 0) {x : Word32} (hx : c.l1At (a / 4) = some ⟨.owned, x⟩) (v : Nat) :
    (c.takeOwned a 4 v).l1At (a / 4) = some ⟨.owned, BitVec.ofNat 32 v⟩ := by
  rw [Core.takeOwned, pieces_word ha, List.foldl_cons, List.foldl_nil]
  dsimp only
  rw [hx]
  dsimp only
  rw [mergeWord_whole]
  exact find?_put_self _ _ _


theorem ownedAfter_word {w : AtomicOp} {a z : Nat} {k : Nat} (hn : w.bytes = 4) (ha : a % 4 = 0)
    (hz : (s.ownedReq w a).newValue (s.ownedOld w a) = some z) (ho : ∀ k ∈ wordKeys a 4, ∃ x, s.core.l1At k = some ⟨.owned, x⟩)
    (hk : k ∈ wordKeys a 4) : (s.ownedAfter w a).l1At k = some ⟨.owned, BitVec.ofNat 32 z⟩ := by
  obtain ⟨x, hx⟩ := ho k hk
  rw [wordKeys_word ha] at hk
  obtain rfl := List.mem_singleton.1 hk
  have ht := takeOwned_word ha hx z
  unfold State.ownedAfter
  rw [hz, hn]
  cases w.d with
  | none => exact ht
  | some d =>
    dsimp only
    rw [Core.l1At, Core.writeS_l1]
    exact ht

/-! ### Atomics performed as far as they may be (R270 to R278) -/

section
variable {w : AtomicOp} {a pc till : Nat} {ready : Bool}

/-- Whether an atomic at its address may be performed now. -/
def State.mayPerform (s : State) (w : AtomicOp) (a till : Nat) (ready : Bool) : Bool :=
  s.free .S till w.va w.bytes a && (!w.rel || ready) && s.mayIndex w.kind w.va
/-- Whether its core performs it in its own L1. -/
def State.atHand (s : State) (w : AtomicOp) (a : Nat) : Prop :=
  s.sequence w.kind w.va w.v = none ∧ s.ownsAll s.cur (wordKeys a w.bytes) = true

theorem keptBack_eq : (!u.free .S till w.va w.bytes a || (w.rel && !ready) || !u.mayIndex w.kind w.va) = !u.mayPerform w a till ready := by
  unfold State.mayPerform
  cases u.free .S till w.va w.bytes a <;> cases w.rel <;> cases ready <;> cases u.mayIndex w.kind w.va <;> rfl

theorem performAtomic_wait (hg : s.access .S w.va w.bytes true = .go a u) (hm : u.mayPerform w a till ready = false) :
    s.performAtomic pc till ready w = .wait id := by
  unfold State.performAtomic
  rw [hg]
  dsimp only
  rw [if_pos (by rw [keptBack_eq, hm]; rfl)]

theorem performAtomic_owned (hg : s.access .S w.va w.bytes true = .go a u) (hm : u.mayPerform w a till ready = true)
    (hb : badIndex (u.sequence w.kind w.va w.v) = false) (hh : u.atHand w a) (hf : u.l1Fault (wordKeys a w.bytes) = none) :
    s.performAtomic pc till ready w = .done (if w.acq then (u.atomicOwned w.kind w.bytes w.pol w.d (w.v.toNat % 2 ^ (8 * w.bytes)) a w.va).acquire w.scope
      else u.atomicOwned w.kind w.bytes w.pol w.d (w.v.toNat % 2 ^ (8 * w.bytes)) a w.va) := by
  unfold State.performAtomic
  rw [hg]
  dsimp only
  rw [if_neg (by rw [keptBack_eq, hm]; decide), if_neg (by simp [hb]), if_pos ⟨by simp [hh.1], hh.2⟩, hf]

/-- The request that an atomic sends to its home. -/
def State.sendAtomic (u : State) (w : AtomicOp) (pc till a : Nat) : Nat × State :=
  u.sendReq .S pc till w.kind (u.core.effPolicy w.pol) false a w.bytes w.va (w.v.toNat % 2 ^ (8 * w.bytes)) (u.sequence w.kind w.va w.v)

theorem performAtomic_sent (hg : s.access .S w.va w.bytes true = .go a u) (hm : u.mayPerform w a till ready = true)
    (hb : badIndex (u.sequence w.kind w.va w.v) = false) (hh : ¬ u.atHand w a) :
    s.performAtomic pc till ready w = match w.d with
      | some d => .sent (u.sendAtomic w pc till a).2 (some u.nextId) (.atom d) (if w.acq then some w.scope else none)
      | none => .done (u.sendAtomic w pc till a).2 := by
  unfold State.performAtomic
  rw [hg]
  dsimp only
  rw [if_neg (by rw [keptBack_eq, hm]; decide), if_neg (by simp [hb]), if_neg (fun h => hh ⟨by simpa using h.1, h.2⟩)]
  cases w.d <;> rfl

end

/-- The operands of an atomic at the state that its word begins in. -/
def State.atomicOp (s : State) (kind : ReqKind) (n : Nat) (pol : Policy) (sc : Scope) (ord : AtomOrder) (d : Option (Fin 32)) (v : Fin 32)
    (va : Nat) : AtomicOp :=
  { kind, bytes := n, pol := s.core.effPolicy pol, scope := sc, rel := AtomOrder.isRel ord, acq := AtomOrder.isAcq ord, d, v := s.core.readS v, va }

section
variable {kind : ReqKind} {n va a : Nat} {pol : Policy} {sc : Scope} {ord : AtomOrder} {d : Option (Fin 32)} {v : Fin 32} {w : AtomicOp}

theorem badIndex_eq_false {q : Option (Nat × Nat)} (hd : ∀ c m, q = some (c, m) → c < m) : badIndex q = false := by
  cases q with
  | none => rfl
  | some x => exact decide_eq_false (by have := hd x.1 x.2 rfl; omega)

/-- What performing an atomic at its issue comes to, its release sent. -/
def State.performedBy (s : State) (w : AtomicOp) : Performed := s.performAtomic (s.eng .S).pc s.nextId (s.readyFor (.atomic w)) w

theorem sends_withFlight {e : Engine} {data : Nat} (hs : Sends t u e kind a n data) (f : Flight) :
    Sends t (u.modCore (fun c => { c with flights := c.flights ++ [f] })) e kind a n data :=
  ⟨hs.request, (by rw [State.modCore, State.setCore_core]; exact hs.regs), hs.mem⟩

/-- A memory instruction put in flight. -/
def State.enqueued (s : State) (op : MemOp) : State :=
  State.modCore { s with nextId := s.nextId + 1 } (fun c => { c with flights := c.flights ++ [s.awaited op] })
theorem enqueued_flights (op : MemOp) : (s.enqueued op).core.flights = s.core.flights ++ [s.awaited op] := by
  rw [State.enqueued, State.modCore, State.setCore_core]
  rfl
theorem enqueued_s (op : MemOp) : (s.enqueued op).core.s = s.core.s := by
  rw [State.enqueued, State.modCore, State.setCore_core]
  rfl
theorem issued_wait (op : MemOp) (s : State) :
    (Performed.wait id).issued op s = if op.accepted then .done (s.enqueued op) else .pend (s.enqueued op) s.nextId := rfl

/-- An atomic past its checks is the issue of its memory instruction. -/
theorem atomicGlobal_issues (hm : s.memStall .S = false) (hg : s.access .S va n true = .go a t)
    (hb : badIndex (t.sequence kind va (s.core.readS v)) = false) (ho : t.ownsAll t.cur (wordKeys a n) = true ∨ t.poisoned (lineOf a) = false) :
    s.atomicGlobal kind n pol sc ord d v va = s.issueOp (.atomic (s.atomicOp kind n pol sc ord d v va)) := by
  unfold State.atomicGlobal State.withAccess
  dsimp only
  rw [hm, if_neg (by decide), hg]
  dsimp only
  rw [if_neg (by rw [hb]; simp), if_neg (by obtain ho | ho := ho <;> simp [ho])]
  rfl

end

end Sys2Proof.Machine
end

section
/-! PROOFS. ATOM, RED and CAS (spec/12 R270 to R275). -/

open Sys2Proof Sys2Proof.Machine Laws

/-- Settles O16, by what performing the word comes to. -/
theorem globalAtomics : Obligations.GlobalAtomics := by
  unfold Obligations.GlobalAtomics
  intro s t u h op w64 rel pol sc ord d r v off a b va goes
  have word : ∀ i rs kind n q dst eff, exec i s = .next (s.issue .S h {} (s.core.busyFor rs) eff) →
      eff b = b.atomicGlobal kind n pol sc q dst v va → goes i rs kind n q dst := by
    intro i rs kind n q dst eff hx he
    unfold goes
    intro ks v0 w ready old y new declared local_ free hi hm hgt hdt ho hgu hdu
    let W := b.atomicOp kind n pol sc q dst v va
    have hrel : AtomOrder.isRel q = decide (q = .rel ∨ q = .ar) := isRel_eq q
    have heff : eff b = (w.performedBy W).issued (.atomic W) w := by
      rw [he, atomicGlobal_issues hm hgt (badIndex_eq_false hdt) ho, issueOp_eq]
      have hpush : b.pushedFor (.atomic W) = w := by
        simp only [State.pushedFor, MemOp.releases, W, State.atomicOp, hrel, w]
        by_cases hq : q = .rel ∨ q = .ar <;> simp [hq]
      rw [show b.atomicOp kind n pol sc q dst v va = W from rfl, State.performedNow, hpush]
      rfl
    have hmay : u.mayPerform W a w.nextId (w.readyFor (.atomic W)) = true ↔ ready ∧ free := by
      simp only [State.mayPerform, State.readyFor, MemOp.releases, W, State.atomicOp, hrel, ready, free]
      by_cases hq : q = .rel ∨ q = .ar
      · have hq' : ¬ (q ≠ .rel ∧ q ≠ .ar) := fun h => hq.elim h.1 h.2
        simp only [hq, hq', decide_true, false_or, Bool.not_true, Bool.false_or, if_true, Bool.and_eq_true]
        tauto
      · have hq' : q ≠ .rel ∧ q ≠ .ar := not_or.1 hq
        simp only [hq', ne_eq, not_false_eq_true, true_and, true_or, and_true, Bool.and_eq_true]
        simp
    have hbad : badIndex (u.sequence kind va v0) = false := badIndex_eq_false hdu
    refine ⟨fun hr hf hl hn => ?_, fun hr hf hl => ?_, fun hn => ?_⟩
    · obtain ⟨hmem, hcoh, hcore⟩ := atomicOwned_facts (s := u) W a rfl
      rw [State.performedBy, performAtomic_owned hgu (hmay.2 ⟨hr, hf⟩) hbad hl hn] at heff
      obtain ⟨hm', hc', hs', ho'⟩ := acquireIf_facts W.acq W.scope rfl
      refine ⟨_, hx.trans (congrArg Host.Outcome.next (issue_done hi heff)), hm'.trans hmem, hc'.trans hcoh, fun k => ?_, ?_⟩
      · rw [readS_of_s hs', hcore]
        exact ownedAfter_readS W a k
      · intro z hz hk h4 ha k hk'
        subst h4
        refine ho' _ _ ?_
        rw [hcore]
        exact ownedAfter_word rfl ha hz hk hk'
    · rw [State.performedBy, performAtomic_sent hgu (hmay.2 ⟨hr, hf⟩) hbad hl] at heff
      cases dst with
      | none => exact ⟨_, sendReq_sends .., hx.trans (congrArg Host.Outcome.next (issue_done hi heff))⟩
      | some d' => exact ⟨_, sends_withFlight (sendReq_sends ..) _, hx.trans (congrArg Host.Outcome.next (issue_pend hi heff))⟩
    · rw [State.performedBy, performAtomic_wait hgu (by rw [← Bool.not_eq_true, hmay]; exact hn), issued_wait] at heff
      refine ⟨w.enqueued (.atomic W), w.awaited (.atomic W), W, ?_, enqueued_flights _, rfl, rfl, rfl, rfl, rfl, rfl, rfl, rfl, hrel, isAcq_eq q,
        enqueued_s _, rfl⟩
      cases dst with
      | none => exact hx.trans (congrArg Host.Outcome.next (issue_done hi heff))
      | some d' => exact hx.trans (congrArg Host.Outcome.next (issue_pend hi heff))
  exact ⟨word _ _ _ _ _ _ _ rfl rfl, word _ _ _ _ _ _ _ rfl rfl, word _ _ _ _ _ _ _ rfl rfl⟩

end

section
/-! PROOFS. FENCE, FLUSH and PREF. -/
namespace Sys2Proof.Machine

open Laws

variable {s t u b : State} {e : Engine} {h : Hdr} {rs : List Reg} {eff : State → Res} {kind : FenceKind} {sc : Scope}

/-! ### FENCE (R283) -/

theorem isRel_iff : FenceKind.isRel kind = true ↔ kind ≠ .acq := by cases kind <;> simp [FenceKind.isRel]
theorem isAcq_iff : FenceKind.isAcq kind = true ↔ kind ≠ .rel := by cases kind <;> simp [FenceKind.isAcq]
theorem idleFence_iff : idleFence e kind sc = true ↔ e = .M ∧ ¬ (kind = .ar ∧ (sc = .pkg ∨ sc = .sys)) := by
  cases e <;> cases kind <;> cases sc <;> simp [idleFence]

theorem releaseReady_iff {till : Nat} : s.releaseReady e sc till = true ↔ s.quiet e till = true ∧ (sc ≠ .core → s.flushed till = true) := by
  simp only [State.releaseReady, Bool.and_eq_true, Bool.or_eq_true, beq_iff_eq]
  tauto

theorem fenceReady_iff {till : Nat} : s.fenceReady e kind sc till = true ↔ (e = .M ∧ ¬ (kind = .ar ∧ (sc = .pkg ∨ sc = .sys)))
    ∨ (kind ≠ .acq → s.quiet e till = true ∧ (sc ≠ .core → s.flushed till = true)) ∧ (kind ≠ .rel → s.loadsBack e till = true) := by
  rw [State.fenceReady, Bool.or_eq_true, idleFence_iff, ← isRel_iff, ← isAcq_iff, ← releaseReady_iff]
  cases FenceKind.isRel kind <;> cases FenceKind.isAcq kind <;> simp

/-- A FENCE's state once its release's write-backs are sent. -/
def State.fencing (s : State) (e : Engine) (kind : FenceKind) (sc : Scope) : State :=
  if FenceKind.isRel kind ∧ !idleFence e kind sc then s.pushRelease sc else s

theorem fencing_eq {p : Prop} [Decidable p] (hp : p ↔ kind = .acq ∨ (e = .M ∧ ¬ (kind = .ar ∧ (sc = .pkg ∨ sc = .sys)))) :
    s.fencing e kind sc = if p then s else s.pushRelease sc := by
  rw [← idleFence_iff] at hp
  by_cases hq : p
  · rw [if_pos hq, State.fencing, if_neg]
    rw [isRel_iff, Bool.not_eq_true', ← Bool.not_eq_true]
    tauto
  · rw [if_neg hq, State.fencing, if_pos]
    rw [isRel_iff, Bool.not_eq_true', ← Bool.not_eq_true]
    tauto

theorem fence_done (hr : (s.fencing e kind sc).fenceReady e kind sc (s.fencing e kind sc).nextId = true) :
    s.fence e kind sc = .done ((s.fencing e kind sc).fenced e kind sc) := by
  unfold State.fence
  exact if_pos hr
theorem fence_waits (hr : (s.fencing e kind sc).fenceReady e kind sc (s.fencing e kind sc).nextId = false) :
    s.fence e kind sc = .pend ((s.fencing e kind sc).await e (.fence kind sc)).2 (s.fencing e kind sc).nextId := by
  unfold State.fence
  exact if_neg (Bool.eq_false_iff.1 hr)

/-- The instruction in flight of a FENCE that waits. -/
def State.awaitedAs (s : State) (e : Engine) (k : FlightKind) : Flight :=
  { id := s.nextId, eng := e, pc := (s.eng e).pc, kind := k, parts := [{ req := 0, idx := 0, got := none }], inTrap := s.core.trap.mode }
theorem await_flights {k : FlightKind} : (s.await e k).2.core.flights = s.core.flights ++ [s.awaitedAs e k] := by
  simp only [State.await, State.modCore, State.setCore_core]
  rfl
theorem await_s {k : FlightKind} : (s.await e k).2.core.s = s.core.s := by
  simp only [State.await, State.modCore, State.setCore_core]
  rfl

theorem endFootprints_mem : (s.endFootprints e).mem = s.mem := by unfold State.endFootprints; split <;> rfl
theorem fenced_mem : (s.fenced e kind sc).mem = s.mem := by
  have hm : (if FenceKind.isAcq kind then s.acquire sc else s).mem = s.mem := (acquireIf_facts _ sc rfl).1
  unfold State.fenced
  dsimp only
  split
  · exact endFootprints_mem.trans hm
  · exact hm
theorem fenced_acq : s.fenced e .acq sc = s.acquire sc := rfl
/-- A FENCE that releases ends the footprints of its engine's data-area accesses. -/
theorem fenced_checker (hk : kind ≠ .acq) (he : e ≠ .C) (f : Footprint) (hf : f ∈ (s.fenced e kind sc).core.checker) : f.eng ≠ e.num := by
  unfold State.fenced at hf
  dsimp only at hf
  rw [if_pos (isRel_iff.2 hk), State.endFootprints, if_neg he, State.modCore, State.setCore_core] at hf
  simpa [Core.othersInFlight] using (List.mem_filter.1 hf).2

theorem acquire_clean {x : Nat × L1Word} (hs : sc ≠ .core) (hx : x ∈ (s.acquire sc).core.l1) : x.2.st ≠ .clean false ∧ x.2.st ≠ .clean true := by
  rw [acquire_eq, if_neg hs, State.setCore_core] at hx
  obtain ⟨y, -, hy⟩ := List.mem_filterMap.1 (List.mem_filter.1 hx).1
  obtain ⟨w, hw, rfl⟩ := Option.map_eq_some_iff.1 hy
  unfold L1Word.acquired at hw
  split at hw
  · cases hw
  all_goals
    obtain rfl := Option.some.inj hw
    simp_all

/-! ### What a turn does for an instruction in flight (R283) -/

theorem fenceDone_iff {g : Flight} : s.fenceDone g kind sc = true
    ↔ (kind ≠ .acq → s.quiet g.eng g.id = true ∧ (sc ≠ .core → ∃ p, g.pushed = some p ∧ s.flushed p = true))
      ∧ (kind ≠ .rel → s.loadsBack g.eng g.id = true) := by
  have hf : s.flightReleased g sc = true ↔ s.quiet g.eng g.id = true ∧ (sc ≠ .core → ∃ p, g.pushed = some p ∧ s.flushed p = true) := by
    rw [State.flightReleased, Bool.and_eq_true, Bool.or_eq_true, beq_iff_eq]
    cases g.pushed <;> simp
    tauto
  rw [State.fenceDone, Bool.and_eq_true, ← hf, ← isRel_iff, ← isAcq_iff]
  cases FenceKind.isRel kind <;> cases FenceKind.isAcq kind <;> simp

section
variable {f g : Flight} (hs : s.core.flights.filter (fun f => f.eng == e) = [f])
  (hf : s.core.flights.find? (fun x => x.id == f.id) = some f)
include hs hf

theorem progress_fence (hk : f.kind = .fence kind sc) (hu : u = if kind = .acq then s else s.pushFlight f sc)
    (hg : u.core.flights.find? (fun x => x.id == f.id) = some g) :
    s.progress e = if u.fenceDone g kind sc then (u.fenced e kind sc).endFlight g else u := by
  have hu' : (if FenceKind.isRel kind then s.pushFlight f sc else s) = u := by
    rw [hu]
    cases kind <;> rfl
  unfold State.progress
  rw [hs, List.foldl_cons, List.foldl_nil, hf]
  dsimp only
  rw [hk]
  dsimp only
  rw [hu', hg]

theorem progress_flush {l : Nat} (hk : f.kind = .flush l) (hl : s.lineFlushed l f.id = true) : s.progress e = s.endFlight f := by
  unfold State.progress
  rw [hs, List.foldl_cons, List.foldl_nil, hf]
  dsimp only
  rw [hk]
  dsimp only
  rw [if_pos hl]

theorem progress_waiting {op : MemOp} {z : State} (hk : f.kind = .waiting op)
    (hu : u = match op.releases with | some c => s.pushFlight f c | none => s)
    (hg : u.core.flights.find? (fun x => x.id == f.id) = some g)
    (hz : u.perform g.pc g.id (match op.releases with
      | some c => u.quiet g.eng g.id && (c == .core || (match g.pushed with | some p => u.flushed p | none => false)) | none => true) op = .done z) :
    s.progress e = z.endFlight g := by
  unfold State.progress
  rw [hs, List.foldl_cons, List.foldl_nil, hf]
  dsimp only
  rw [hk]
  dsimp only
  cases hr : op.releases with
  | none =>
    rw [hr] at hu hz
    subst hu
    dsimp only
    rw [hg]
    dsimp only
    unfold State.retryOp
    rw [hr]
    dsimp only at hz ⊢
    rw [hz]
  | some c =>
    rw [hr] at hu hz
    subst hu
    dsimp only
    rw [hg]
    dsimp only
    have hz' : (s.pushFlight f c).perform g.pc g.id ((s.pushFlight f c).flightReleased g c) op = .done z := hz
    unfold State.retryOp
    rw [hr]
    dsimp only
    rw [hz']

end

/-! ### FLUSH and PREF (R267, R268) -/

section
variable {va a : Nat}

theorem issueOp_flush : s.issueOp (.flush va) = (s.performFlush s.nextId va).issued (.flush va) s := issueOp_eq
theorem issueOp_pref {pol : Policy} {k : Nat} : s.issueOp (.pref pol k va) = (if s.ordered .S s.nextId then Performed.wait id
    else Performed.done ((List.range k).foldl (fun u i => u.prefLine .S (s.eng .S).pc s.nextId pol (va + 64 * i)) s)).issued (.pref pol k va) s := issueOp_eq

variable (hg : s.access .S va 1 false = .go a t) {till : Nat}
include hg

theorem performFlush_kept (ho : (t.ordered .S till || t.sameWord till (lineOf va) 64 (lineOf a)) = true) : s.performFlush till va = .wait id := by
  unfold State.performFlush
  rw [hg]
  exact if_pos ho

variable (ho : t.ordered .S till = false) (hw : t.sameWord till (lineOf va) 64 (lineOf a) = false) (hr : t.renamed va a = false)
include ho hw hr

theorem performFlush_eq : s.performFlush till va = if !t.core.l1.any (fun e => inLine (lineOf a) e.1) then .done t
    else if (t.evictLine t.cur (lineOf a) true).lineFlushed (lineOf a) (t.evictLine t.cur (lineOf a) true).nextId
      then .done (t.evictLine t.cur (lineOf a) true)
      else .sent (t.evictLine t.cur (lineOf a) true) none (.flush (lineOf a)) none := by
  unfold State.performFlush
  rw [hg]
  dsimp only
  rw [ho, hw, hr]
  rfl

end

end Sys2Proof.Machine
end

section
/-! PROOFS. FENCE, FLUSH and PREF (spec/11 R243, spec/12 R267, R268, R283). -/

open Sys2Proof Sys2Proof.Machine Laws

/-- Settles O17, a word at a time. -/
theorem orderingWords : Obligations.OrderingWords := by
  unfold Obligations.OrderingWords
  intro s t e h kind sc pol lines r off a b va idle w line waits
  have hw : b.fencing e kind sc = w := fencing_eq Iff.rfl
  refine ⟨fun hi hh => ⟨fun hr => ?_, fun hr => ?_⟩, fun till => fenceReady_iff, fenced_mem, fun hk => hk ▸ fenced_acq,
    fun hk he f hf => fenced_checker hk he f hf, fun f g u hs => ⟨fun hk hu hf hg => ?_, fun l hk hf hl => progress_flush hs hf hk hl,
      fun op hk hu hf hg z hz => progress_waiting hs hf hk hu hg hz⟩, ?_, rfl, fun hs => ⟨acquire_mem sc, fun x hx => acquire_clean hs hx⟩⟩
  · refine congrArg Host.Outcome.next (issue_done_nil hi ?_)
    rw [if_neg (by rw [hh]; decide)]
    exact hw ▸ fence_done (hw ▸ hr)
  · refine ⟨_, w.awaitedAs e (.fence kind sc), congrArg Host.Outcome.next (issue_pend_nil hi ?_), await_flights, rfl, rfl, rfl, rfl, await_s⟩
    rw [if_neg (by rw [hh]; decide)]
    exact hw ▸ fence_waits (hw ▸ hr)
  · rw [progress_fence hs hf hk hu hg]
    exact if_congr fenceDone_iff rfl rfl
  · intro he hi hm
    subst he
    refine ⟨fun hg => ?_, fun hr => ?_⟩
    · have heff : b.withAccess .S va 1 false (fun _ _ => b.issueOp (.flush va)) = (b.performFlush b.nextId va).issued (.flush va) b := by
        rw [State.withAccess, hm, if_neg (by decide), hg]
        exact issueOp_flush
      refine ⟨fun ho => ?_, fun ho hs hn => ⟨fun hl => ?_, fun hl => ⟨fun hd => ?_, fun hd => ?_⟩⟩⟩
      · rw [performFlush_kept hg (by rw [ho]; rfl)] at heff
        exact ⟨_, b.awaited (.flush va), congrArg Host.Outcome.next (issue_pend hi heff), enqueued_flights _, rfl, rfl, rfl, rfl, enqueued_s _⟩
      all_goals rw [performFlush_eq hg ho hs hn, hl] at heff
      · exact congrArg Host.Outcome.next (issue_done hi heff)
      · rw [show (t.evictLine t.cur (lineOf a) true).lineFlushed _ _ = true from hd] at heff
        exact congrArg Host.Outcome.next (issue_done hi heff)
      · rw [show (t.evictLine t.cur (lineOf a) true).lineFlushed _ _ = false from hd] at heff
        refine ⟨_, (t.evictLine t.cur (lineOf a) true).awaitedAs .S (.flush (lineOf a)), congrArg Host.Outcome.next (issue_pend hi heff),
          await_flights (k := .flush (lineOf a)), rfl, rfl, rfl, rfl, await_s (k := .flush (lineOf a))⟩
    · intro p
      have heff : (if b.memStall .S || b.noRoom .S (sizeBytes lines) then .stall id else b.issueOp (.pref p (sizeBytes lines) line)) = _ :=
        (if_neg (by rw [hm, hr]; decide)).trans issueOp_pref
      refine ⟨fun ho => ?_, fun ho => ?_⟩
      · rw [ho] at heff
        have hpc : (b.eng .S).pc = (s.eng .S).pc := congrArg Eng.pc Begun_eng
        rw [hpc] at heff
        exact congrArg Host.Outcome.next (issue_done hi heff)
      · rw [ho] at heff
        exact ⟨_, b.awaited (.pref p (sizeBytes lines) line), congrArg Host.Outcome.next (issue_done hi heff), enqueued_flights _, rfl, rfl, rfl,
          rfl, enqueued_s _⟩

end

section
/-! PROOFS. What LD and ST leave of the registers and of memory. -/
namespace Sys2Proof.Machine

open Laws

variable {s t u : State}

/-! ### Words that go home (R244) -/

/-- The registers and the trap registers of a core. -/
def regsAndTrap (c : Core) : Regs × TrapState := (regsOf c, c.trap)
theorem cacheFree_regsAndTrap : CacheFree regsAndTrap := fun _ _ _ => rfl

/-- Whether a core's L1 lists a word as its own. -/
def Core.Owns (c : Core) (k : Nat) : Prop := ∃ v, (k, (⟨.owned, v⟩ : L1Word)) ∈ c.l1

theorem owns_of_ownedWords {c : Core} {p : Nat → Bool} {w : Nat × Word32} (hw : w ∈ c.ownedWords p) : c.Owns w.1 ∧ p w.1 = true := by
  obtain ⟨⟨j, st, v⟩, he, hw⟩ := List.mem_filterMap.1 hw
  split at hw
  next h =>
    obtain rfl := Option.some.inj hw
    obtain ⟨hst, hp⟩ := h
    obtain rfl : st = .owned := hst
    exact ⟨⟨v, he⟩, hp⟩
  · cases hw

theorem owns_iff {c : Core} {k : Nat} : c.Owns k ↔ ∃ w ∈ c.ownedWords (fun _ => true), w.1 = k := by
  unfold Core.Owns Core.ownedWords
  constructor
  · rintro ⟨v, hv⟩
    exact ⟨(k, v), List.mem_filterMap.2 ⟨_, hv, by simp⟩, rfl⟩
  · rintro ⟨w, hw, rfl⟩
    exact (owns_of_ownedWords (p := fun _ => true) hw).1

/-- A state reached with the turn's core returning none but words of its own: their lines of memory apart, memory is as it was. -/
structure Returns (s t : State) : Prop where
  same : Same regsAndTrap s t
  owns : ∀ k, t.core.Owns k → s.core.Owns k
  mem : ∀ x, (∀ k, s.core.Owns k → x / 64 ≠ paOf (4 * k) / 64) → t.mem.read x = s.mem.read x

theorem Returns.rfl : Returns s s := ⟨.rfl, fun _ h => h, fun _ _ => Eq.refl _⟩
theorem Returns.trans (h : Returns s t) (h' : Returns t u) : Returns s u :=
  ⟨h.same.trans h'.same, fun k hk => h.owns k (h'.owns k hk), fun x hx => (h'.mem x fun k hk => hx k (h.owns k hk)).trans (h.mem x hx)⟩
theorem Returns.foldl {β : Type} {f : State → β → State} (hf : ∀ s x, Returns s (f s x)) (xs : List β) (s : State) : Returns s (xs.foldl f s) :=
  foldl_keeps (P := Returns s) (fun t x h => h.trans (hf t x)) xs s .rfl
/-- What changes no core and no byte of memory. -/
theorem Returns.of_eq (hc : t.cur = s.cur) (h : t.cores = s.cores) (hm : t.mem = s.mem) : Returns s t :=
  ⟨.of_cores hc h, fun k hk => by rwa [show t.core = s.core by simp only [State.core, State.coreAt, hc, h]] at hk, fun _ _ => by rw [hm]⟩
/-- What takes entries out of a core's L1, or changes none of its owned ones. -/
theorem Returns.modCoreAt (n : Nat) (f : Core → Core) (hf : ∀ c, regsAndTrap (f c) = regsAndTrap c) (ho : ∀ c k, (f c).Owns k → c.Owns k) :
    Returns s (s.modCoreAt n f) := by
  refine ⟨.modCoreAt _ _ _ hf, fun k hk => ?_, fun _ _ => Eq.refl _⟩
  by_cases hn : s.cur = n
  · subst hn
    rw [show (s.modCoreAt s.cur f).core = f s.core from State.setCore_core (s := s) _] at hk
    exact ho _ _ hk
  · rw [show (s.modCoreAt n f).core = s.core from State.setCoreAt_coreAt_other (s := s) _ _ _ hn] at hk
    exact hk
theorem Returns.modCore (f : Core → Core) (hf : ∀ c, regsAndTrap (f c) = regsAndTrap c) (ho : ∀ c k, (f c).Owns k → c.Owns k) :
    Returns s (s.modCore f) := .modCoreAt s.cur f hf ho

theorem mem_put {α : Type} {m : SMap α} {k : Nat} {v : α} {e : Nat × α} (he : e ∈ SMap.put m k v) : e = (k, v) ∨ e ∈ m := by
  induction m with
  | nil => exact .inl (List.mem_singleton.1 he)
  | cons y m ih =>
    obtain ⟨j, x⟩ := y
    rw [SMap.put] at he
    split at he
    · exact (List.mem_cons.1 he).imp_right (.tail _)
    · split at he
      · exact List.mem_cons.1 he
      · obtain rfl | he := List.mem_cons.1 he
        · exact .inr (.head _)
        · exact (ih he).imp_right (.tail _)
theorem mem_erase {α : Type} {m : SMap α} {k : Nat} {e : Nat × α} (he : e ∈ SMap.erase m k) : e ∈ m := by
  induction m with
  | nil => exact he
  | cons y m ih =>
    obtain ⟨j, x⟩ := y
    rw [SMap.erase] at he
    split at he
    · exact .tail _ he
    · split at he
      · exact he
      · obtain rfl | he := List.mem_cons.1 he
        · exact .head _
        · exact .tail _ (ih he)
theorem mem_of_find? {α : Type} {m : SMap α} {k : Nat} {v : α} (hm : SMap.find? m k = some v) : (k, v) ∈ m := by
  induction m with
  | nil => cases hm
  | cons y m ih =>
    obtain ⟨j, x⟩ := y
    rw [SMap.find?] at hm
    split at hm
    · subst_vars
      obtain rfl := Option.some.inj hm
      exact .head _
    · split at hm
      · cases hm
      · exact .tail _ (ih hm)

theorem owns_dropL1 {c : Core} {j k : Nat} (h : (c.dropL1 j).Owns k) : c.Owns k := h.imp fun _ => mem_erase
theorem owns_putL1 {c : Core} {j k : Nat} {st : L1State} {v : Word32} (hst : st = .owned → c.Owns j) (h : (c.putL1 j st v).Owns k) : c.Owns k := by
  obtain ⟨x, hx⟩ := h
  obtain he | he := mem_put hx
  · obtain ⟨rfl, hw⟩ := Prod.mk.inj he
    exact hst (congrArg L1Word.st hw).symm
  · exact ⟨x, he⟩
theorem owns_filter {c : Core} {k : Nat} {l : SMap L1Word} (hl : ∀ e ∈ l, e ∈ c.l1) (h : ∃ v, (k, (⟨.owned, v⟩ : L1Word)) ∈ l) : c.Owns k :=
  h.imp fun _ => hl _

theorem foldl_core {β : Type} {f : Core → β → Core} (hf : ∀ c x, regsAndTrap (f c x) = regsAndTrap c ∧ ∀ k, (f c x).Owns k → c.Owns k)
    (xs : List β) (c : Core) : regsAndTrap (xs.foldl f c) = regsAndTrap c ∧ ∀ k, (xs.foldl f c).Owns k → c.Owns k := by
  induction xs generalizing c with
  | nil => exact ⟨rfl, fun _ h => h⟩
  | cons x xs ih => exact ⟨(ih (f c x)).1.trans (hf c x).1, fun k hk => (hf c x).2 k ((ih (f c x)).2 k hk)⟩

theorem cleanWords_leaves (ks : List Nat) (c : Core) : regsAndTrap (c.cleanWords ks) = regsAndTrap c ∧ ∀ k, (c.cleanWords ks).Owns k → c.Owns k := by
  refine foldl_core (fun c j => ?_) ks c
  split
  · exact ⟨rfl, fun _ h => owns_putL1 (by intro h; cases h) h⟩
  · exact ⟨rfl, fun _ h => owns_dropL1 h⟩
  · exact ⟨rfl, fun _ h => h⟩
theorem storeLocal_leaves (c : Core) (j : Nat) (v : Word32) (m : BitVec 4) :
    regsAndTrap (c.storeLocal j v m) = regsAndTrap c ∧ ∀ k, (c.storeLocal j v m).Owns k → c.Owns k := by
  unfold Core.storeLocal
  split
  next x hx => exact ⟨rfl, fun _ h => owns_putL1 (fun _ => ⟨x, mem_of_find? hx⟩) h⟩
  all_goals exact ⟨rfl, fun _ h => owns_putL1 (by intro h; cases h) h⟩

theorem dropWords_leaves (ws : List (Nat × Word32 × BitVec 4)) (c : Core) :
    regsAndTrap (ws.foldl (fun c w => c.dropL1 w.1) c) = regsAndTrap c ∧ ∀ k, (ws.foldl (fun c w => c.dropL1 w.1) c).Owns k → c.Owns k :=
  foldl_core (f := fun c w => c.dropL1 w.1) (fun _ _ => ⟨rfl, fun _ => owns_dropL1⟩) ws c
theorem storeLocals_leaves (ws : List (Nat × Word32 × BitVec 4)) (c : Core) :
    regsAndTrap (ws.foldl (fun c w => c.storeLocal w.1 w.2.1 w.2.2) c) = regsAndTrap c
      ∧ ∀ k, (ws.foldl (fun c w => c.storeLocal w.1 w.2.1 w.2.2) c).Owns k → c.Owns k :=
  foldl_core (f := fun c w => c.storeLocal w.1 w.2.1 w.2.2) (fun c w => storeLocal_leaves c w.1 w.2.1 w.2.2) ws c

/-! #### Memory's lines -/

/-- A state that differs from another in no byte of memory but those of a physical line. -/
def LineOnly (line : Nat) (s t : State) : Prop := ∀ x, x / 64 ≠ paOf line / 64 → t.mem.read x = s.mem.read x

theorem paOf_word (k : Nat) : paOf (4 * k) / 64 = paOf (lineOfWord k) / 64 := by
  simp only [paOf, lineOfWord, aliasBase]
  omega

theorem recode_mem (l : Nat) (tag : BitVec 4) (p : Bool) : (s.recode l tag p).mem = s.mem := by unfold State.recode; split <;> rfl
theorem correctLine_only {line i : Nat} {v : Byte} (hl : line % 64 = 0) : LineOnly line s (s.correctLine line i v) := by
  intro x hx
  unfold State.correctLine
  dsimp only
  rw [recode_mem]
  split
  next hi => exact Memory.read_write_other _ _ _ _ (by rintro rfl; simp only [paOf, aliasBase] at hx; omega)
  · rfl
theorem readDecode_only {line : Nat} (hl : line % 64 = 0) : LineOnly line s (s.readDecode line) := by
  intro x hx
  unfold State.readDecode
  split
  · rfl
  · dsimp only
    split
    · rfl
    · rfl
    · rw [logError_mem]
      exact correctLine_only hl x hx
    · rw [logError_mem, recode_mem]

theorem putWords_only {line k : Nat} {v : Word32} {m : BitVec 4} (hk : line = lineOfWord k) : LineOnly line s (s.putWords line [(k, v, m)]) := by
  have hl : line % 64 = 0 := by rw [hk, lineOfWord]; omega
  intro x hx
  unfold State.putWords
  rw [List.isEmpty_cons, if_neg Bool.false_ne_true]
  dsimp only
  rw [recode_mem, List.foldl_cons, List.foldl_nil]
  have hmem : ∀ z : State, (z.noteWrite [k]).mem = z.mem := fun z => by
    obtain ⟨p, w, hw⟩ := noteWrite_eq z [k]
    rw [hw]
  refine (Memory.read_writeN_other _ _ _ _ ?_).trans ?_
  · have hp := paOf_word k
    rw [← hk] at hp
    rw [toBytes_length]
    by_contra hc
    apply hx
    rw [← hp]
    simp only [paOf, aliasBase] at hc ⊢
    omega
  · rw [List.map_cons, List.map_nil, hmem]
    split
    · rfl
    · exact readDecode_only hl x hx

theorem modDir_mem (l : Nat) (f : Dir → Dir) : (s.modDir l f).mem = s.mem := rfl
theorem dropCopies_returns (l : Nat) : Returns s (s.dropCopies l) := by
  unfold State.dropCopies
  refine Returns.trans (Returns.foldl (fun s c => ?_) _ s) (.of_eq (Eq.refl _) (Eq.refl _) (Eq.refl _))
  unfold State.invalidateCluster
  refine Returns.foldl (fun s n => ?_) _ s
  split
  · refine .modCoreAt _ _ (fun _ => Eq.refl _) (fun c k hk => owns_filter (fun e he => ?_) hk)
    unfold Core.invalidate at he
    dsimp only at he
    split at he
    · exact he
    · exact (List.mem_filter.1 he).1
  · exact .rfl

/-- A further step that changes no core, and of memory only lines of words owned at first. -/
theorem Returns.then_same (h : Returns s t) (h' : Same id t u)
    (hm : ∀ x, (∀ k, s.core.Owns k → x / 64 ≠ paOf (4 * k) / 64) → u.mem.read x = t.mem.read x) : Returns s u :=
  ⟨h.same.trans ⟨h'.cur, fun n => congrArg regsAndTrap (h'.view n)⟩,
    fun k hk => h.owns k (by rwa [show u.core = t.core from h'.core] at hk), fun x hx => (hm x hx).trans (h.mem x hx)⟩

/-- A word that goes home. -/
theorem Returns.recallWord (h : Returns s t) {k : Nat} (hk : s.core.Owns k) : Returns s (t.recallWord k) := by
  unfold State.recallWord
  split
  next x _ =>
    have hput : Returns s (t.putWords (lineOfWord k) [(k, t.wordNow k, 15)]) :=
      h.then_same (.putWords _ _ _ _) (fun x hx => putWords_only (Eq.refl _) x (by rw [← paOf_word]; exact hx k hk))
    exact (hput.trans (.modCoreAt x (fun c => c.dropL1 k) (fun _ => Eq.refl _) (fun _ _ => owns_dropL1))).trans (.of_eq (Eq.refl _) (Eq.refl _) (Eq.refl _))
  · exact h

/-- Words of a line that go home. -/
theorem Returns.recallNow (h : Returns s t) {line : Nat} {words : BitVec 16} (hw : ∀ j < 16, words.getLsbD j = true → s.core.Owns (line / 4 + j)) :
    Returns s (t.recallNow line words) := by
  unfold State.recallNow
  split
  · exact h
  · refine Returns.trans ?_ (dropCopies_returns _)
    refine List.foldlRecOn _ _ h (fun z hz j hj => ?_)
    split
    next hb => exact hz.recallWord (hw j (List.mem_range.1 hj) hb)
    · exact hz

/-- The bits of a line's words. -/
theorem getLsbD_wordBits (ws : List (Nat × Word32)) (m : BitVec 16) (j : Nat)
    (h : (ws.foldl (fun (m : BitVec 16) w => m ||| (1#16 <<< (w.1 % 16))) m).getLsbD j = true) :
    m.getLsbD j = true ∨ ∃ w ∈ ws, w.1 % 16 = j := by
  induction ws generalizing m with
  | nil => exact .inl h
  | cons w ws ih =>
    obtain h | ⟨w', hw', rfl⟩ := ih _ h
    · rw [BitVec.getLsbD_or, Bool.or_eq_true] at h
      refine h.imp_right fun h => ⟨w, .head _, ?_⟩
      simp only [BitVec.getLsbD_shiftLeft, Bool.and_eq_true, Bool.not_eq_true', decide_eq_false_iff_not, BitVec.getLsbD_one] at h
      simp at h
      omega
    · exact .inr ⟨w', .tail _ hw', rfl⟩

theorem snoopFor_returns (l : Nat) (w : Bool) : Returns s (s.snoopFor l w) := by
  obtain ⟨d, x, hx⟩ := snoopFor_eq s l w
  rw [hx]
  exact .of_eq (Eq.refl _) (Eq.refl _) (Eq.refl _)

theorem sendWriteback_returns (n line : Nat) : Returns s (s.sendWriteback n line) := by
  unfold State.sendWriteback
  dsimp only
  split
  · exact .rfl
  · exact Returns.trans (.of_eq (t := { s.fresh.2 with coh := _ }) (Eq.refl _) (Eq.refl _) (Eq.refl _))
      (.modCoreAt n _ (fun c => (cleanWords_leaves _ c).1) (fun c => (cleanWords_leaves _ c).2))

/-- A line of the turn's core evicted: what it owns of the line goes home. -/
theorem evictLine_returns {line : Nat} {all : Bool} (hl : line % 64 = 0) : Returns s (s.evictLine s.cur line all) := by
  unfold State.evictLine
  split
  · exact snoopFor_returns _ _
  · dsimp only
    have hsent := sendWriteback_returns (s := s) s.cur line
    refine (hsent.recallNow (fun j hj hb => ?_)).trans (.modCoreAt _ _ (fun _ => rfl) (fun _ _ hk => owns_filter (fun _ he => (List.mem_filter.1 he).1) hk))
    obtain h0 | ⟨w, hw, rfl⟩ := getLsbD_wordBits _ _ _ hb
    · simp at h0
    · obtain ⟨ho, hin⟩ := owns_of_ownedWords hw
      have hk : line / 4 + w.1 % 16 = w.1 := by
        simp only [inLine, beq_iff_eq] at hin
        omega
      rw [hk]
      refine hsent.owns _ ?_
      rwa [State.core, hsent.same.cur]

/-- Lines of the turn's core evicted till the rest fit. -/
theorem shrinkL1_returns (bytes : Nat) (spare : Option Nat) (fuel : Nat) : Returns s (s.shrinkL1 s.cur bytes spare fuel) := by
  induction fuel generalizing s with
  | zero => exact .rfl
  | succ fuel ih =>
    rw [State.shrinkL1]
    dsimp only
    split
    · exact .rfl
    · split
      next l hl =>
        have hev : Returns s (State.evictLine { s with nextId := s.nextId + 1 } s.cur l true) :=
          Returns.trans (.of_eq (t := { s with nextId := s.nextId + 1 }) (Eq.refl _) (Eq.refl _) (Eq.refl _)) (evictLine_returns ?_)
        · have hs := ih (s := State.evictLine { s with nextId := s.nextId + 1 } s.cur l true)
          rw [hev.same.cur] at hs
          exact hev.trans hs
        · obtain ⟨k, -, rfl⟩ := List.mem_map.1 (List.mem_eraseDups.1 (List.mem_filter.1 (List.mem_of_getElem? hl)).1)
          omega
      · exact .foldl (fun s l => snoopFor_returns _ _) _ _

theorem trimL1_returns (line : Nat) : Returns s (s.trimL1 s.cur line) := shrinkL1_returns _ _ _


/-! ### LD and ST (R263, R264) -/

theorem noteL1_returns (n line : Nat) : Returns s (s.noteL1 n line) :=
  .modCoreAt n _ (fun c => by split <;> rfl) (fun c k hk => by split at hk <;> exact hk)

/-- A store that takes effect in the L1. -/
theorem storeAt_returns {pol : Policy} {a n va data : Nat} (hs : s.storeAt pol a n va data = some t) : Returns s t := by
  unfold State.storeAt at hs
  dsimp only at hs
  split at hs
  · obtain rfl := Option.some.inj hs
    refine Returns.trans (Returns.trans (Returns.trans (.foldl (fun s w => ?_) _ s) (.modCore _ (fun c => ?_) (fun c => ?_)))
      (noteL1_returns _ _)) (trimL1_returns _)
    · split
      · exact .of_eq (Eq.refl _) (Eq.refl _) (Eq.refl _)
      · exact .rfl
    · exact (storeLocals_leaves _ c).1
    · exact (storeLocals_leaves _ c).2
  · cases hs

theorem addReq_returns (r : Req) : Returns s (s.addReq r) := .of_eq (Eq.refl _) (Eq.refl _) (Eq.refl _)
theorem sendReq_returns {e : Engine} (pc since a k va data : Nat) (kind : ReqKind) (pol : Policy) (inv half : Bool) (q : Option (Nat × Nat)) :
    Returns s (s.sendReq e pc since kind pol inv a k va data q half).2 := by
  unfold State.sendReq
  dsimp only
  refine Returns.trans (.of_eq (t := s.fresh.2) (Eq.refl _) (Eq.refl _) (Eq.refl _))
    (Returns.trans (Returns.modCore _ (fun c => ?_) (fun c => ?_)) (addReq_returns _))
  · exact (dropWords_leaves _ c).1
  · exact (dropWords_leaves _ c).2

/-- The state that a trial of an access comes to. -/
def Sent.after (x : Sent) (s : State) : State :=
  match x with | .wait f | .trap f _ => f s | .ok t _ => t

theorem logSram_returns (e : Engine) (x : TrapInfo) : Returns s (s.logSram e x) := by
  unfold State.logSram
  split
  · exact .then_same .rfl (.logError _ _ _) (fun _ _ => by rw [logError_mem])
  · exact .rfl

theorem sendAt_returns (e : Engine) (pc till a : Nat) (p : Part) (w : Todo) : Returns s ((s.sendAt e pc till a p w).after s) := by
  unfold State.sendAt
  dsimp only
  split
  · exact .rfl
  · split
    next z v hz =>
      have hret : Returns s z := by
        split at hz
        · obtain ⟨z', hz', hv⟩ := Option.map_eq_some_iff.1 hz
          obtain ⟨rfl, -⟩ := Prod.mk.inj hv
          exact storeAt_returns hz'
        · obtain ⟨z', -, hv⟩ := Option.map_eq_some_iff.1 hz
          obtain ⟨rfl, -⟩ := Prod.mk.inj hv
          exact .rfl
      split
      · exact hret.trans (logSram_returns _ _)
      · exact hret
    · split
      · exact .rfl
      · exact sendReq_returns ..

/-- The state that the trial of an instruction's accesses comes to. -/
def partsState : Except (State × TrapInfo) (State × List Part) → State
  | .error x => x.1
  | .ok x => x.1

theorem sendParts_returns (f : Flight) (a : Nat) : Returns s (partsState (s.sendParts f (some a))) := by
  unfold State.sendParts
  refine List.foldlRecOn (motive := fun r => Returns s (partsState r)) _ _ Returns.rfl (fun r hr p _ => ?_)
  cases r with
  | error x => exact hr
  | ok x =>
    cases hp : p.todo with
    | none => exact hr
    | some w =>
      have ha := sendAt_returns (s := x.1) f.eng f.pc f.id (a + 4 * p.idx) p w
      dsimp only
      generalize x.1.sendAt f.eng f.pc f.id (a + 4 * p.idx) p w = y at ha ⊢
      cases y <;> exact hr.trans ha

/-! #### The registers and memory that LD and ST leave -/

/-- What a word of global memory leaves, met at the state past its translation: registers but its destination, and memory but lines of owned
words where no trap was met. -/
structure GlobalFrame (d : Option (Fin 32)) (s t : State) : Prop where
  readS : ∀ k, d ≠ some k → t.core.readS k = s.core.readS k
  regs : { regsOf t.core with s := s.core.s } = regsOf s.core
  quiet : t.core.trap.mode = s.core.trap.mode → ∀ x, (∀ k, s.core.Owns k → x / 64 ≠ paOf (4 * k) / 64) → t.mem.read x = s.mem.read x

theorem regsOf_s (c : Core) : { regsOf c with s := c.s } = regsOf c := rfl

/-- What a result of the effect leads on to. -/
theorem Returns.frame {z : State} {d : Option (Fin 32)} (h : Returns s t) (hS : ∀ k, d ≠ some k → z.core.readS k = t.core.readS k)
    (hr : { regsOf z.core with s := t.core.s } = regsOf t.core) (ht : z.core.trap = t.core.trap) (hm : z.mem = t.mem) (hl : Leads z u) :
    GlobalFrame d s u := by
  have hst : regsOf t.core = regsOf s.core := congrArg Prod.fst h.same.core
  have hzu : regsOf u.core = regsOf z.core := congrArg Prod.fst hl.same.core
  have hs : t.core.s = s.core.s := congrArg Regs.s hst
  refine ⟨fun k hk => ?_, ?_, fun hmode x hx => ?_⟩
  · rw [readS_of_s (congrArg Regs.s hzu), hS k hk, readS_of_s hs]
  · rw [hzu, ← hst, ← hr, hs]
  · have hq : SameOutside z u := hl.quiet (by
      rw [hmode, ht]
      exact congrArg (fun r : Regs × TrapState => r.2.mode) h.same.core.symm)
    rw [hq.mem, hm]
    exact h.mem x hx

/-- A trap on S that is taken changes the trap mode. -/
theorem takeTrap_mode_ne (s : State) (pc : Nat) (x : TrapInfo) : (s.takeTrap .S pc x).core.trap.mode ≠ s.core.trap.mode := by
  cases hm : s.core.trap.mode with
  | false => rw [mode_takeTrap hm]; decide
  | true =>
    rw [State.takeTrap, hm, if_pos rfl, if_pos rfl]
    have ha := mode_abandon (s.setCore (s.core.doubleTrap pc x)) true
    rw [State.setCore_cur] at ha
    rw [ha]
    decide

/-- A trap taken from a state with the same registers changes none. -/
theorem trapped_frame {z : State} {d : Option (Fin 32)} {pc : Nat} {x : TrapInfo} (h : regsAndTrap z.core = regsAndTrap s.core) :
    GlobalFrame d s (z.takeTrap .S pc x) := by
  have hr : regsOf (z.takeTrap .S pc x).core = regsOf s.core := (SameRegs.takeTrap z .S pc x).core.trans (congrArg Prod.fst h)
  refine ⟨fun k _ => readS_of_s (congrArg Regs.s hr) k, by rw [hr]; rfl, fun hm => absurd hm ?_⟩
  have hmode : z.core.trap.mode = s.core.trap.mode := congrArg (fun r : Regs × TrapState => r.2.mode) h
  rw [← hmode]
  exact takeTrap_mode_ne z pc x

/-! #### What the translation of an access leaves of the cores -/

section
variable {α : Type} {g : Core → α}

theorem Same.movePage (hg : ∀ p q c, g (moveCore p q c) = g c) (s : State) (p q : Nat) : Same g s (s.movePage p q) :=
  ⟨Eq.refl _, fun n => (congrArg g (coreAt_movePage s p q n)).trans (hg _ _ _)⟩
theorem Same.noteName (hg : ∀ p q c, g (moveCore p q c) = g c) (s : State) (ctx ia a : Nat) : Same g s (s.noteName ctx ia a) := by
  unfold State.noteName
  dsimp only
  refine Same.trans ?_ (.foldl (fun s (p : Nat × Nat) => ?_) _ _)
  · split
    · exact .rfl
    · exact .of_cores (.refl _) (.refl _)
  · exact (Same.movePage hg s p.2 (s.keyed ctx ia a / 65536 * 65536)).trans (.of_cores (.refl _) (.refl _))

/-- The translation of an access in a state that its layer has left. -/
def State.reachAt (s : State) (e : Engine) (peers : Bool) (ctx i va : Nat) (write : Bool) : Acc :=
  match s.translate ctx s.taskCtx (vaImage va) write with
  | .addr a => .go (s.keyed ctx (vaImage va) a)
      ((s.noteName ctx (vaImage va) a).walked ctx (vaImage va) (agentCore (s.noteName ctx (vaImage va) a).cur e))
  | .peer p c x =>
    if peers then .peer p c x (s.walked ctx (vaImage va) (agentCore s.cur e))
    else .trap (fun s => s.walked ctx (vaImage va) (agentCore s.cur e)) (leaseFault 0x07 va i)
  | .locked => .wait (fun s => s.addFault e va)
  | .refused => .trap (fun s => s.walked ctx (vaImage va) (agentCore s.cur e)) (leaseFault 0x07 va i)
/-- The context whose layer an access has met, its time noted. -/
def State.touchLayer (s : State) (ctx : Nat) (r : RangeReg) : State :=
  s.setCtx ctx { s.ctxOf ctx with layers := SMap.set {} (s.ctxOf ctx).layers r.layer { s.layer ctx r.layer with access := s.fabric } }

theorem Same.touchLayer (s : State) (ctx : Nat) (r : RangeReg) : Same g s (s.touchLayer ctx r) := .of_cores (.refl _) (.refl _)

theorem accessIn_eq (e : Engine) (peers : Bool) (i : Nat) (r : RangeReg) (va : Nat) (write : Bool) : s.accessIn e peers i r va write =
    if r.kind = 2 then
      match (s.seenLayer (s.spaceOf va) r.layer).st with
      | .resident => (s.touchLayer (s.spaceOf va) r).reachAt e peers (s.spaceOf va) i va write
      | .failed =>
        if s.lowerStalled e r.layer then .wait id
        else .trap (fun s => s.dropFault e va) (swapFault va (s.spaceOf va) r.layer (s.layer (s.spaceOf va) r.layer).fail)
      | _ => .wait (fun z => (z.requestLayer (s.spaceOf va) r.layer).addFault e va)
    else s.reachAt e peers (s.spaceOf va) i va write := rfl

theorem reachAt_go {e : Engine} {peers write : Bool} {ctx i va a : Nat} (h : s.reachAt e peers ctx i va write = .go a t) :
    ∃ x y, t = (s.noteName ctx (vaImage va) x).walked ctx (vaImage va) y := by
  unfold State.reachAt at h
  split at h
  · exact ⟨_, _, (Acc.go.inj h).2.symm⟩
  · split at h <;> cases h
  · cases h
  · cases h
theorem Same.reachAt (hg : ∀ p q c, g (moveCore p q c) = g c) {e : Engine} {peers write : Bool} {ctx i va a : Nat}
    (h : s.reachAt e peers ctx i va write = .go a t) : Same g s t := by
  obtain ⟨x, y, rfl⟩ := reachAt_go h
  exact (Same.noteName hg _ _ _ _).trans (.walked _ _ _ _)

theorem accessIn_go {e : Engine} {peers : Bool} {i : Nat} {r : RangeReg} {va a : Nat} {write : Bool}
    (h : s.accessIn e peers i r va write = .go a t) :
    ∃ z, (z = s ∨ z = s.touchLayer (s.spaceOf va) r) ∧ z.reachAt e peers (s.spaceOf va) i va write = .go a t := by
  rw [accessIn_eq] at h
  split at h
  · split at h
    · exact ⟨_, .inr rfl, h⟩
    · split at h <;> cases h
    · cases h
  · exact ⟨_, .inl rfl, h⟩

/-- An access that goes moves the cores' copies with their page's name, and changes nothing else of them. -/
theorem Same.access (hg : ∀ p q c, g (moveCore p q c) = g c) {e : Engine} {va n a : Nat} {write : Bool} (h : s.access e va n write = .go a t) :
    Same g s t := by
  unfold State.access State.accessAt at h
  split at h
  · cases h
  · split at h
    · cases h
    · dsimp only at h
      split at h
      · cases h
      · split at h
        · cases h
        · obtain ⟨z, rfl | rfl, hz⟩ := accessIn_go h
          · exact Same.reachAt hg hz
          · exact (Same.touchLayer s _ _).trans (Same.reachAt hg hz)
end


/-! #### The words' results -/

theorem retire_frame {z : State} {d : Option (Fin 32)} {s₀ : State} {h : Hdr} (hr : Returns s t) (hS : ∀ k, d ≠ some k → z.core.readS k = t.core.readS k)
    (hg : { regsOf z.core with s := t.core.s } = regsOf t.core) (ht : z.core.trap = t.core.trap) (hm : z.mem = t.mem) :
    GlobalFrame d s (Done s₀ .S h z) := hr.frame hS hg ht hm (.retire _ _ _ _)
theorem pending_frame {z : State} {d : Option (Fin 32)} {s₀ : State} {h : Hdr} {id : Nat} (hr : Returns s z) : GlobalFrame d s (Pending s₀ .S h z id) :=
  hr.frame (fun _ _ => rfl) rfl rfl rfl (.of_modEng (advance_k _) (advance_flags _) (.signal _ _ _ _ _ _))
theorem trap_frame {z : State} {d : Option (Fin 32)} {pc : Nat} {x : TrapInfo} (hr : Returns s z) : GlobalFrame d s (z.takeTrap .S pc x) :=
  hr.frame (fun _ _ => rfl) rfl rfl rfl (.takeTrap _ _ _ _)

/-- What a result of a word's effect leads to in the issue of S. -/
def Res.frames (d : Option (Fin 32)) (s : State) (s₀ : State) (h : Hdr) : Res → Prop
  | .done z => GlobalFrame d s (Done s₀ .S h z)
  | .pend z id => GlobalFrame d s (Pending s₀ .S h z id)
  | .trap f x => GlobalFrame d s ((f s₀).takeTrap .S (s₀.eng .S).pc x)
  | _ => False

theorem issue_frames {s₀ : State} {h : Hdr} {rs : List Reg} {d : Option (Fin 32)} {eff : State → Res} (hi : Issues s₀ .S h {} rs)
    (hf : (eff (Begun s₀ h)).frames d s s₀ h) : GlobalFrame d s (s₀.issue .S h {} (s₀.core.busyFor rs) eff) := by
  rw [issue_eff hi]
  cases he : eff (Begun s₀ h) <;> rw [he] at hf <;> first | exact hf | exact hf.elim

theorem regsOf_writeS_but (c : Core) (d : Fin 32) (v : Word64) : { regsOf (c.writeS d v) with s := c.s } = regsOf c := by
  rw [regsOf_writeS]
  rfl

/-- An instruction whose accesses are all back writes no register but a load's destination. -/
theorem arrive_leaves {c : Core} {f : Flight} {d : Option (Fin 32)} (hk : f.kind = .store ∨ ∃ r n x, f.kind = .load r n x ∧ d = some r) :
    (∀ k, d ≠ some k → (c.arrive f).readS k = c.readS k) ∧ { regsOf (c.arrive f) with s := c.s } = regsOf c ∧ (c.arrive f).trap = c.trap := by
  unfold Core.arrive
  obtain hk | ⟨r, n, x, hk, rfl⟩ := hk
  · rw [hk]
    exact ⟨fun _ _ => rfl, rfl, rfl⟩
  · rw [hk]
    dsimp only
    split
    · exact ⟨fun _ _ => rfl, rfl, rfl⟩
    · exact ⟨fun k hk => Core.readS_writeS_other _ _ _ _ (fun h => hk (congrArg some h.symm)), regsOf_writeS_but _ _ _, Core.writeS_trap _ _ _⟩

/-- What the trial of an issue's accesses makes of it. -/
def partsIssued (f : Flight) : Except (State × TrapInfo) (State × List Part) → Res
  | .error x => .trap (fun _ => x.1) x.2
  | .ok x =>
    if ({ f with parts := x.2 } : Flight).complete then .done (x.1.modCore (fun c => c.arrive { f with parts := x.2 }))
    else .pend (x.1.modCore (fun c => { c with flights := c.flights ++ [{ f with parts := x.2 }] })) f.id
theorem issueParts_eq (e : Engine) (kind : FlightKind) (ps : List Part) (at_ : Option Nat) :
    s.issueParts e kind ps at_ = partsIssued (s.issued e kind ps) (s.fresh.2.sendParts (s.issued e kind ps) at_) := by
  have hr : State.sendParts s.fresh.2 { id := s.fresh.1, eng := e, pc := (s.fresh.2.eng e).pc, kind, parts := ps, inTrap := s.fresh.2.core.trap.mode }
      at_ = s.fresh.2.sendParts (s.issued e kind ps) at_ := rfl
  unfold State.issueParts
  dsimp only
  rw [hr]
  generalize s.fresh.2.sendParts (s.issued e kind ps) at_ = r
  cases r <;> rfl

theorem issueParts_frames {s₀ : State} {h : Hdr} {d : Option (Fin 32)} {kind : FlightKind} {ps : List Part} {a : Nat}
    (hk : kind = .store ∨ ∃ r n x, kind = .load r n x ∧ d = some r) : (s.issueParts .S kind ps (some a)).frames d s s₀ h := by
  have hs : Returns s s.fresh.2 := .of_eq (Eq.refl _) (Eq.refl _) (Eq.refl _)
  have hp := hs.trans (sendParts_returns (s.issued .S kind ps) a)
  rw [issueParts_eq]
  generalize s.fresh.2.sendParts (s.issued .S kind ps) (some a) = r at hp ⊢
  unfold partsIssued
  cases r with
  | error x => exact trap_frame hp
  | ok x =>
    dsimp only
    obtain ⟨hS, hr, ht⟩ := arrive_leaves (c := x.1.core) (f := { s.issued .S kind ps with parts := x.2 }) (d := d) hk
    split
    · refine retire_frame hp ?_ ?_ ?_ rfl <;> rw [State.modCore, State.setCore_core]
      · exact hS
      · exact hr
      · exact ht
    · exact pending_frame (hp.trans (.modCore _ (fun _ => rfl) (fun _ _ h => h)))

/-- LD's effect at its address. -/
theorem loadGlobal_frames {s₀ : State} {h : Hdr} {pol : Policy} {size : Size} {x : Bool} {d : Fin 32} {va a : Nat}
    (hr : Reaches s .S va (sizeBytes size) false a t) (h₀ : regsAndTrap s₀.core = regsAndTrap t.core) :
    (s.loadGlobal pol size x d va).frames (some d) t s₀ h := by
  have trapped : ∀ z y, regsAndTrap (z : State).core = regsAndTrap s₀.core → GlobalFrame (some d) t (z.takeTrap .S (s₀.eng .S).pc y) :=
    fun z y hz => trapped_frame (hz.trans h₀)
  unfold State.loadGlobal
  dsimp only
  rw [withAccess_reaches hr, if_pos hr.first]
  split
  · split
    · exact trapped _ _ (logSram_returns _ _).same.core
    · refine retire_frame .rfl (fun k hk => ?_) ?_ ?_ rfl <;> rw [State.setCore_core]
      · exact Core.readS_writeS_other _ _ _ _ (fun h => hk (congrArg some h.symm))
      · exact regsOf_writeS_but _ _ _
      · exact Core.writeS_trap _ _ _
  · split
    · exact trapped _ _ (congrArg regsAndTrap (((Same.readDecode (g := id) s₀ (lineOf a)).trans (Same.logError _ _ _)).core))
    · exact issueParts_frames (.inr ⟨_, _, _, rfl, rfl⟩)

/-- ST's effect at its address. -/
theorem storeGlobal_frames {s₀ : State} {h : Hdr} {pol : Policy} {n va data a : Nat} (hr : Reaches s .S va n true a t) :
    (s.storeGlobal .S pol n va data).frames none t s₀ h := by
  unfold State.storeGlobal
  dsimp only
  rw [withAccess_reaches hr, if_pos hr.first]
  split
  next z hz => exact retire_frame (storeAt_returns hz) (fun _ _ => rfl) rfl rfl rfl
  · exact issueParts_frames (.inl rfl)

end Sys2Proof.Machine
end

section
/-! PROOFS. The frame of LD and ST (spec/12 R263, R264). -/

open Sys2Proof Sys2Proof.Machine Laws

/-- Settles O31: the translation past, what the word does changes no core but its own, and memory only where owned words go home. -/
theorem globalAccessFrame : Obligations.GlobalAccessFrame := by
  unfold Obligations.GlobalAccessFrame
  intro s t u h pol sc size x d r off a write i hi hr hx hu
  have hb : (Begun s h).core.readS r = s.core.readS r := Begun_readS r
  rw [← hb] at hr
  have h₀ : regsAndTrap s.core = regsAndTrap t.core := by
    have ha : regsAndTrap t.core = regsAndTrap (Begun s h).core := (Same.access (fun _ _ _ => rfl) hr.go).core
    rw [ha]
    exact (Prod.ext (SameRegs.begun s h).core Begun_core_trap : regsAndTrap (Begun s h).core = regsAndTrap s.core).symm
  have done : ∀ d', GlobalFrame d' t u → (∀ k, d' ≠ some k → u.core.readS k = t.core.readS k) ∧ { regsOf u.core with s := t.core.s } = regsOf t.core
      ∧ (u.core.trap = t.core.trap → ∀ x, (∀ w ∈ t.core.ownedWords (fun _ => true), x / 64 ≠ paOf (4 * w.1) / 64) → u.mem.read x = t.mem.read x) := by
    intro d' hf
    refine ⟨hf.readS, hf.regs, fun ht x hx => hf.quiet (congrArg _ ht) x (fun k hk => ?_)⟩
    obtain ⟨w, hw, rfl⟩ := owns_iff.1 hk
    exact hx w hw
  obtain ⟨rfl, rfl⟩ | ⟨rfl, rfl⟩ := hx
  · obtain rfl := Host.Outcome.next.inj hu
    obtain ⟨hS, hregs, hq⟩ := done _ (issue_frames hi (loadGlobal_frames hr h₀))
    exact ⟨fun k hk => hS k (fun h => hk.elim (fun hk => hk (Option.some.inj h).symm) (fun h => by cases h)), hregs, hq⟩
  · obtain rfl := Host.Outcome.next.inj hu
    obtain ⟨hS, hregs, hq⟩ := done _ (issue_frames hi (storeGlobal_frames hr))
    exact ⟨fun k _ => hS k (by simp), hregs, hq⟩

end

section
/-! PROOFS. The words on layers. -/
namespace Sys2Proof.Machine

open Laws

variable {s b t : State} {e : Engine} {h : Hdr} {n : Names} {rs : List Reg} {eff : State → Res}

theorem works_trap {f : State → State} {x : TrapInfo} (hw : Works s e h n rs b) (he : eff b = .trap f x) :
    s.issue e h n (s.core.busyFor rs) eff = (f s).takeTrap e (s.eng e).pc x := by
  rw [works_eff hw, he]

/-- The effect of a word on the layer that a register names. -/
def layerEff (a : Fin 32) (f : Nat → State → Res) (s : State) : Res :=
  let l := (s.core.readS a).toNat % 1024
  let t := s.layerTouch s.taskCtx l
  if !s.layerReady s.taskCtx l then .hold t
  else if (t.layerEntry t.taskCtx l).isNone then .trap (fun _ => t) (leaseFault 0x06 l) else f l t

section
variable {a : Fin 32} {f : Nat → State → Res} {l : Nat} (hl : (b.core.readS a).toNat % 1024 = l)
include hl

theorem layerEff_holds (hr : b.layerReady b.taskCtx l = false) : layerEff a f b = .hold (b.layerTouch b.taskCtx l) := by
  subst hl
  unfold layerEff
  dsimp only
  rw [hr]
  rfl
theorem layerEff_goes (hr : b.layerReady b.taskCtx l = true)
    (he : ((b.layerTouch b.taskCtx l).layerEntry (b.layerTouch b.taskCtx l).taskCtx l).isSome = true) :
    layerEff a f b = f l (b.layerTouch b.taskCtx l) := by
  subst hl
  unfold layerEff
  dsimp only
  rw [hr, if_neg (by decide), if_neg (by rw [Option.isNone_iff_eq_none, ← Option.not_isSome_iff_eq_none, he]; decide)]
end

theorem pinResult_zero (st : LayerState) : pinResult 0 0 st = BitVec.ofNat 64 (2 ^ 16 * st.code) := by
  rw [pinResult, Nat.mul_zero, Nat.add_zero, Nat.zero_add]

/-- What LPIN makes of the entry that it finds. -/
def State.repinned (s : State) (ctx l : Nat) (re : Bool) : Layer :=
  { (if re = true ∧ (s.seenLayer ctx l).st = .failed then { s.seenLayer ctx l with fail := 0, st := .absent } else s.seenLayer ctx l) with
    met := some s.fabric }
theorem repinned_pins (s : State) (ctx l : Nat) (re : Bool) : (s.repinned ctx l re).pins = (s.seenLayer ctx l).pins := by
  unfold State.repinned
  dsimp only
  split <;> rfl

/-- LPIN counts its pin and asks for the layer; the manager may start it in the same update. -/
theorem pin_counts {ctx l : Nat} {re : Bool} (hp : (s.seenLayer ctx l).pins ≠ 65535)
    (ht : t = (s.setLayer ctx l { s.repinned ctx l re with pins := (s.seenLayer ctx l).pins + 1 }).requestLayer ctx l) :
    ∃ u, (u = t ∨ (s.repinned ctx l re).st = .absent ∧ u = State.arrivalStart { t with nextId := s.nextId + 1 } (ctx % 4))
      ∧ s.pin ctx l re = (u, BitVec.ofNat 64 (2 ^ 16 * (u.layer ctx l).st.code)) := by
  have hpin : s.pin ctx l re = if (s.repinned ctx l re).pins = 65535 then (s.setLayer ctx l (s.repinned ctx l re), pinResult 2 1 (s.repinned ctx l re).st)
      else
        let t := (s.setLayer ctx l { s.repinned ctx l re with pins := (s.repinned ctx l re).pins + 1 }).requestLayer ctx l
        let t :=
          if (s.repinned ctx l re).st = .absent ∧ (Config.freeByte (s.nextId * 2 ^ 100 + 2 ^ 95)).toNat % 2 = 1 then
            State.arrivalStart { t with nextId := s.nextId + 1 } (layerDie ctx)
          else t
        (t, pinResult 0 0 (t.layer ctx l).st) := rfl
  rw [hpin, repinned_pins, if_neg hp]
  dsimp only
  rw [← ht, pinResult_zero]
  split
  next hs => exact ⟨_, .inr ⟨hs.1, rfl⟩, rfl⟩
  · exact ⟨_, .inl rfl, rfl⟩

theorem unpin_counts {ctx l : Nat} (hp : (s.seenLayer ctx l).pins ≠ 0) : s.unpin ctx l =
    (s.setLayer ctx l { s.seenLayer ctx l with pins := (s.seenLayer ctx l).pins - 1, met := some s.fabric },
      BitVec.ofNat 64 (2 ^ 16 * (s.seenLayer ctx l).st.code)) := by
  rw [← pinResult_zero]
  exact if_neg hp

theorem swapFault_eq {ctx l fail : Nat} (hl : l < 1024) :
    swapFault 0 ctx l fail = { cause := 3, info := l + 2 ^ 10 * (fail % 16) + 2 ^ 16 * ctx } := by
  rw [swapFault, Nat.mod_eq_of_lt (show l < 2 ^ 10 from hl)]

theorem lwait_resident {l : Nat} (hx : (s.seenLayer s.taskCtx l).st = .resident) :
    s.lwait l = .done (s.modCore (fun c => { c.learnAll (Clock.all s.nextId) with lwait := none })) := by
  unfold State.lwait
  dsimp only
  rw [hx]
theorem lwait_failed {l : Nat} (hx : (s.seenLayer s.taskCtx l).st = .failed) :
    s.lwait l = .trap (fun s => s.modCore (fun c => { c with lwait := none })) (swapFault 0 s.taskCtx l (s.seenLayer s.taskCtx l).fail) := by
  unfold State.lwait
  dsimp only
  rw [hx]
theorem lwait_waits {l : Nat} (hr : (s.seenLayer s.taskCtx l).st ≠ .resident) (hf : (s.seenLayer s.taskCtx l).st ≠ .failed) :
    s.lwait l = .hold ((s.requestLayer s.taskCtx l).modCore (fun c => { c with lwait := some l })) := by
  unfold State.lwait
  dsimp only
  cases hx : (s.seenLayer s.taskCtx l).st <;> first | exact absurd hx hr | exact absurd hx hf | rfl

end Sys2Proof.Machine
end

section
/-! PROOFS. LWAIT, LPIN and LUNPIN (spec/16 R365 to R368). -/

open Sys2Proof Sys2Proof.Machine Laws

/-- Settles O21, by the entry that the word finds. -/
theorem layerWords : Obligations.LayerWords := by
  unfold Obligations.LayerWords
  intro s b h re d r l c y x code done
  refine ⟨fun hr => ⟨fun hw => ?_, fun hw => ⟨?_, ?_⟩⟩, fun hr he => ⟨fun hw => ⟨fun hx => ?_, fun hx hf => ?_, fun hx => ?_⟩, fun hw => ⟨?_, fun hp => ?_⟩⟩⟩
  · exact congrArg Host.Outcome.next (works_hold hw (layerEff_holds (f := fun l s => s.lwait l) rfl hr))
  · exact congrArg Host.Outcome.next (works_hold hw (layerEff_holds (f := fun l s => (s.pin s.taskCtx l re).1.answer d (s.pin s.taskCtx l re).2) rfl hr))
  · exact congrArg Host.Outcome.next (works_hold hw (layerEff_holds (f := fun l s => (s.unpin s.taskCtx l).1.answer d (s.unpin s.taskCtx l).2) rfl hr))
  · exact congrArg Host.Outcome.next (works_done hw ((layerEff_goes (f := fun l s => s.lwait l) rfl hr he).trans (lwait_resident hx)))
  · exact congrArg Host.Outcome.next (works_hold hw ((layerEff_goes (f := fun l s => s.lwait l) rfl hr he).trans (lwait_waits hx hf)))
  · have hl : swapFault 0 y.taskCtx l x.fail = { cause := 3, info := l + 2 ^ 10 * (x.fail % 16) + 2 ^ 16 * y.taskCtx } :=
      swapFault_eq (Nat.mod_lt _ (by decide))
    rw [← hl]
    exact congrArg Host.Outcome.next (works_trap (f := fun s => s.modCore (fun c => { c with lwait := none })) hw
      ((layerEff_goes (f := fun l s => s.lwait l) rfl hr he).trans (lwait_failed hx)))
  · intro z hp t
    obtain ⟨u, hu, hpin⟩ := pin_counts (s := y) (re := re) (t := t) hp rfl
    refine ⟨u, hu, congrArg Host.Outcome.next (works_done hw
      ((layerEff_goes (f := fun l s => (s.pin s.taskCtx l re).1.answer d (s.pin s.taskCtx l re).2) rfl hr he).trans ?_))⟩
    exact congrArg (fun r : State × Word64 => r.1.answer d r.2) hpin
  · refine congrArg Host.Outcome.next (works_done hw
      ((layerEff_goes (f := fun l s => (s.unpin s.taskCtx l).1.answer d (s.unpin s.taskCtx l).2) rfl hr he).trans ?_))
    exact congrArg (fun r : State × Word64 => r.1.answer d r.2) (unpin_counts hp)

end

section
/-! PROOFS. LAUNCH and QCTL. -/
namespace Sys2Proof.Machine

open Laws

variable {s b t : State} {h : Hdr} {rs : List Reg} {eff : State → Res}

/-! ### Packets (R327, R353) -/

theorem field_append {a r : List Byte} {m o n : Nat} (ha : a.length = m) : Rec.u (a ++ r) (m + o) n = Rec.u r o n := by
  rw [Rec.u, recordField, ← ha, List.drop_append, List.drop_eq_nil_of_le (Nat.le_add_right _ _), Nat.add_sub_cancel_left]
  rfl
theorem field_head {a r : List Byte} {n : Nat} (ha : a.length = n) : Rec.u (a ++ r) 0 n = ofBytes a := by
  rw [Rec.u, recordField, List.drop_zero, ← ha, List.take_left]

theorem packet_eq (k p : Nat) (x : Word64) : packet k p x
    = toBytes 0x35 0 ++ (toBytes 1 p ++ (toBytes 1 (32 * k) ++ (toBytes 9 0 ++ (toBytes 8 x.toNat ++ toBytes 56 0)))) := by
  simp only [packet, List.append_assoc]

theorem packet_prio {k p : Nat} (hp : p < 256) (x : Word64) : Rec.prio (packet k p x) = p := by
  rw [Rec.prio, packet_eq, show (0x35 : Nat) = 0x35 + 0 from rfl, field_append (toBytes_length _ _), field_head (toBytes_length _ _),
    ofBytes_toBytes, Nat.mod_eq_of_lt (by omega)]
theorem packet_kind {k p : Nat} (hk : k < 8) (x : Word64) : Rec.kind (packet k p x) = k := by
  have hf : Rec.u (packet k p x) 0x36 1 = 32 * k := by
    rw [packet_eq, show (0x36 : Nat) = 0x35 + (1 + 0) from rfl, field_append (toBytes_length _ _), field_append (toBytes_length _ _),
      field_head (toBytes_length _ _), ofBytes_toBytes, Nat.mod_eq_of_lt (by omega)]
  rw [Rec.kind, hf]
  omega
theorem packet_kindByte {k p : Nat} (hk : k < 8) (x : Word64) : Rec.u (packet k p x) 0x36 1 = 32 * k := by
  rw [packet_eq, show (0x36 : Nat) = 0x35 + (1 + 0) from rfl, field_append (toBytes_length _ _), field_append (toBytes_length _ _),
    field_head (toBytes_length _ _), ofBytes_toBytes, Nat.mod_eq_of_lt (by omega)]
theorem packet_arg (k p : Nat) (x : Word64) : BitVec.ofNat 64 (Rec.u (packet k p x) 0x40 8) = x := by
  have hf : Rec.u (packet k p x) (0x35 + (1 + (1 + (9 + 0)))) 8 = x.toNat := by
    rw [packet_eq, field_append (toBytes_length _ _), field_append (toBytes_length _ _), field_append (toBytes_length _ _),
      field_append (toBytes_length _ _), field_head (toBytes_length _ _), ofBytes_toBytes, Nat.mod_eq_of_lt (show x.toNat < 256 ^ 8 from x.isLt)]
  exact (congrArg (BitVec.ofNat 64) hf).trans (by rw [BitVec.ofNat_toNat, BitVec.setWidth_eq])

theorem detset_packet_ok {p : Nat} (hp : p < 3) : Rec.formOk (packet 3 p 0) = true := by
  interval_cases p <;> decide +kernel

/-- The bytes of a seed's packet but its argument's. -/
theorem seed_packet_zeroBut (x : Word64) : Rec.zeroBut (packet 4 0 x) (0x36 :: (List.range 8).map (0x40 + ·)) = true := by
  have hpre : ∀ i < 64, ((0x36 :: (List.range 8).map (0x40 + ·)).contains i
      || ((toBytes 0x35 0 ++ toBytes 1 0 ++ toBytes 1 (32 * 4) ++ toBytes 9 0)[i]?).getD 0 == 0) = true := by decide +kernel
  have harg : ∀ i < 72, 64 ≤ i → (0x36 :: (List.range 8).map (0x40 + ·)).contains i = true := by decide +kernel
  have hpost : ∀ i < 56, (((toBytes 56 0)[i]?).getD 0 == 0) = true := by decide +kernel
  rw [Rec.zeroBut, List.all_eq_true]
  intro i hi
  rw [List.mem_range] at hi
  by_cases h1 : i < 64
  · rw [packet, List.append_assoc, List.getElem?_append_left (by simpa [toBytes_length] using h1)]
    exact hpre i h1
  · by_cases h2 : i < 72
    · rw [harg i h2 (by omega)]
      rfl
    · have hp := hpost (i - 72) (by omega)
      rw [packet, List.getElem?_append_right (by simp [toBytes_length]; omega)]
      simp only [List.length_append, toBytes_length]
      rw [hp, Bool.or_true]
theorem seed_packet_ok (x : Word64) : Rec.formOk (packet 4 0 x) = true := by
  rw [Rec.formOk, packet_kind (by decide)]
  dsimp only
  rw [seed_packet_zeroBut, packet_kindByte (by decide)]
  rfl

/-! ### QCTL (R353) -/

section
variable {q : Nat} {r : List Byte} {p : Nat} {x : Word64}

/-- A device-fed queue's PROD and CONS count what is enqueued. -/
def State.counted (s : State) (q : Nat) : State :=
  if (s.queueOf q).devq then
    s.setQueue q { s.queueOf q with prod := ((s.queueOf q).prod + 1) % 2 ^ 32, cons := ((s.queueOf q).cons + 1) % 2 ^ 32 }
  else s
theorem counted_ctx : ((s.counted q).queueOf q).ctx = (s.queueOf q).ctx := by
  unfold State.counted
  split
  · rw [State.setQueue_queueOf]
  · rfl

theorem deviceEnqueue_accepted (hr : s.refusal? q r (some s.ownScope) = none) :
    s.deviceEnqueue q r = (((s.counted q).enqueue q r (some (s.counted q).cur)).1, status 0 0 ((s.counted q).enqueue q r (some (s.counted q).cur)).2) := by
  unfold State.deviceEnqueue
  rw [hr]
  rfl

theorem refusal_packet {k : Nat} (hk : Rec.kind r = k) (h2 : 2 < k) (hf : Rec.formOk r = true) {z : Option Nat} : s.refusal? q r z = none := by
  unfold State.refusal?
  dsimp only
  rw [hk, hf, if_neg (by omega), if_neg (by omega), if_neg (by decide), if_neg (by omega), if_neg (by omega), if_neg (by omega)]

theorem enqueue_detset {z : Option Nat} (hp : p < 256) : s.enqueue q (packet 3 p 0) z
    = (s.setCtx (s.queueOf q).ctx { s.ctxOf (s.queueOf q).ctx with detlevel := p }, 0) := by
  unfold State.enqueue
  dsimp only
  rw [packet_kind (by decide), packet_prio hp]
  rfl
theorem enqueue_seed {z : Option Nat} : s.enqueue q (packet 4 0 x) z
    = (s.setCtx (s.queueOf q).ctx { s.ctxOf (s.queueOf q).ctx with seed := x }, 0) := by
  unfold State.enqueue
  dsimp only
  rw [packet_kind (by decide), packet_arg]
  rfl

theorem qctlEnqueue_disabled (he : (s.queueOf q).en = false) : s.qctlEnqueue q r = (s, status 2 3 0) := by
  unfold State.qctlEnqueue
  dsimp only
  rw [he]
  rfl
theorem qctlEnqueue_enabled (he : (s.queueOf q).en = true) (hu : s.unbound q < (s.queueOf q).records) : s.qctlEnqueue q r = s.deviceEnqueue q r := by
  unfold State.qctlEnqueue
  dsimp only
  rw [he, if_neg (by decide), if_neg (by omega)]

theorem qctl_detset (he : (s.queueOf q).en = true) (hu : s.unbound q < (s.queueOf q).records) (hp : p < 3) : s.qctlEnqueue q (packet 3 p 0)
    = ((s.counted q).setCtx (s.queueOf q).ctx { (s.counted q).ctxOf (s.queueOf q).ctx with detlevel := p }, 0) := by
  rw [qctlEnqueue_enabled he hu, deviceEnqueue_accepted (refusal_packet (packet_kind (by decide) 0) (by decide) (detset_packet_ok hp)),
    enqueue_detset (by omega), counted_ctx]
  rfl
theorem qctl_seed (he : (s.queueOf q).en = true) (hu : s.unbound q < (s.queueOf q).records) : s.qctlEnqueue q (packet 4 0 x)
    = ((s.counted q).setCtx (s.queueOf q).ctx { (s.counted q).ctxOf (s.queueOf q).ctx with seed := x }, 0) := by
  rw [qctlEnqueue_enabled he hu, deviceEnqueue_accepted (refusal_packet (packet_kind (by decide) x) (by decide) (seed_packet_ok x)), enqueue_seed,
    counted_ctx]
  rfl

/-- A word of QCTL on a queue of its context. -/
theorem exec_qctl {d a v : Fin 32} {i : Instr} {f : Nat → Word64 → State → State × Word64} {w : Word64}
    (hi : Issues s .S h { qctl := true } (sRegs [d, a, v])) (hx : exec i s = s.qctl h d a v f)
    (hq : ((Begun s h).core.readS a).toNat % 1024 = q) (hc : ((Begun s h).queueOf q).ctx = (Begun s h).taskCtx)
    (hf : f q ((Begun s h).core.readS v) (Begun s h) = (t, w)) :
    exec i s = .next (Done s .S h (t.setCore (t.core.writeS d w))) := by
  subst hq
  rw [hx]
  refine congrArg Host.Outcome.next (issue_done hi ?_)
  dsimp only
  rw [if_neg (by simpa using hc), hf]
  rfl

end

/-! ### LAUNCH (R349) -/

section
variable {va : Nat} {f : List Byte → State → Res} {a a' : Nat} {u : State}

/-- The launch record that two lines hold, once it can be read, and the state that its read leaves. -/
def State.decodedPair (s : State) (a a' : Nat) : State := (s.readDecode (lineOf a)).readDecode (lineOf a')

theorem withAccess_goes {e : Engine} {n : Nat} {w : Bool} {f : Nat → State → Res} (hr : s.memStall e = false) (hg : s.access e va n w = .go a t) :
    s.withAccess e va n w f = f a t := by
  rw [State.withAccess, hr, hg]
  rfl

variable (hr : s.memStall .S = false) (ha : s.access .S va 64 false = .go a t) (hr' : t.memStall .S = false)
  (ha' : t.access .S (va + 64) 64 false = .go a' u)
include hr ha hr' ha'

theorem launchRead_reaches : s.launchRead va f =
    if !(u.readable (lineOf a) && u.readable (lineOf a')) then .hold ((u.snoopFor (lineOf a) false).snoopFor (lineOf a') false)
    else if u.poisoned (lineOf a) then u.poisonTrap .S a va
    else if u.poisoned (lineOf a') then u.poisonTrap .S a' (va + 64)
    else f ((u.decodedPair a a').readNow a 64 ++ (u.decodedPair a a').readNow a' 64) (u.decodedPair a a') := by
  unfold State.launchRead
  rw [withAccess_goes hr ha, withAccess_goes hr' ha']
  simp only [List.all_cons, List.all_nil, Bool.and_true]
  rfl

theorem launchRead_holds (hb : (u.readable (lineOf a) && u.readable (lineOf a')) = false) :
    s.launchRead va f = .hold ((u.snoopFor (lineOf a) false).snoopFor (lineOf a') false) := by
  rw [launchRead_reaches hr ha hr' ha', hb]
  rfl
theorem launchRead_reads (hb : (u.readable (lineOf a) && u.readable (lineOf a')) = true) (hp : u.poisoned (lineOf a) = false) (hp' : u.poisoned (lineOf a') = false) :
    s.launchRead va f = f ((u.decodedPair a a').readNow a 64 ++ (u.decodedPair a a').readNow a' 64) (u.decodedPair a a') := by
  rw [launchRead_reaches hr ha hr' ha', hb, hp, hp']
  rfl
end

section
variable {d r q : Fin 32} {va n : Nat} {lease : Nat × RangeReg} (hva : (b.core.readS r).toNat = va) (h128 : va % 128 = 0)
  (hl : b.core.lease va 128 false = .ok lease)
include hva h128 hl

theorem launch_unreleased (hm : b.mayRelease .S .pkg = false) : b.launch d r q = .hold (b.pushRelease .pkg) := by
  subst hva
  unfold State.launch
  dsimp only
  rw [if_neg (by simpa using h128), hl, hm]
  rfl
theorem launch_released (hm : b.mayRelease .S .pkg = true) (hn : (b.core.readS q).toNat % 1024 = n) :
    b.launch d r q = b.launchRead va (fun r s => (s.launchInto n r).1.answer d (s.launchInto n r).2) := by
  subst hva hn
  unfold State.launch
  dsimp only
  rw [if_neg (by simpa using h128), hl, hm]
  rfl
end

/-- A record of a task that a queue takes past what it holds already. -/
def State.launched (w : State) (n : Nat) (r : List Byte) : State × Nat := (w.counted n).enqueueTask n r (some w.cur)
def State.spilled (w : State) (n p : Nat) (r : List Byte) : State := if 64 < w.unbound n then w.spill n p r else w

theorem counted_cur : (s.counted n).cur = s.cur := by
  unfold State.counted
  split <;> rfl
theorem launchInto_accepted {n : Nat} {r : List Byte} (he : (s.queueOf n).en = true) (hd : (s.queueOf n).devq = true)
    (hc : (s.queueOf n).ctx = s.taskCtx) (hu : s.unbound n < (s.queueOf n).records) (hk : Rec.kind r = 0)
    (hr : s.refusal? n r (some s.ownScope) = none) :
    s.launchInto n r = ((s.launched n r).1.spilled n (s.queueOf n).prod r, BitVec.ofNat 64 (2 ^ 16 * (s.launched n r).2)) := by
  have hq : (s.counted n).enqueue n r (some (s.counted n).cur) = s.launched n r := by
    unfold State.enqueue State.launched
    dsimp only
    rw [hk, counted_cur]
    rfl
  unfold State.launchInto
  dsimp only
  rw [if_neg (by simp [he, hd, hc]), if_neg (by omega), deviceEnqueue_accepted hr, hq, status, Nat.mul_zero, Nat.add_zero, Nat.zero_add]
  rfl

theorem spill_present {n p : Nat} {r : List Byte} {v : State} {k : Queue} (hring : (v.queueOf n).ring = k.ring) (hlog : (v.queueOf n).rlog = k.rlog)
    (ha : v.slotAbsent (k.ring + p % k.records * 128) = false) : v.spill n p r = v.writeNow (k.ring + p % k.records * 128) r 0 3 := by
  have hs : (v.queueOf n).slotAt p = k.ring + p % k.records * 128 := by
    rw [Queue.slotAt, Queue.records, hring, hlog]
    rfl
  unfold State.spill
  dsimp only
  rw [hs, ha]
  rfl

end Sys2Proof.Machine
end

section
/-! PROOFS. LAUNCH and QCTL (spec/15 R324, R349, R353). -/

open Sys2Proof Sys2Proof.Machine Laws

/-- Settles O20, a word at a time. -/
theorem queueControl : Obligations.QueueControl := by
  unfold Obligations.QueueControl
  intro s h d r v hi b q k x done counted hc
  have hstatus : status 2 3 0 = 2 + 2 ^ 8 * 3 := by decide
  have hdetset {t : State} {w : Word64} := exec_qctl (i := .qctlDetset h d r v) (f := fun q v s => s.qctlEnqueue q (packet 3 (v.toNat % 4) 0))
    (t := t) (w := w) hi rfl rfl hc
  have hseed {t : State} {w : Word64} := exec_qctl (i := .qctlSeed h d r v) (f := fun q v s => s.qctlEnqueue q (packet 4 0 v))
    (t := t) (w := w) hi rfl rfl hc
  refine ⟨exec_qctl (f := fun q v s => (s.setQueue q { s.queueOf q with qprio := v.toNat % 8 }, status 0 0 0)) hi rfl rfl hc rfl,
    exec_qctl (f := fun q _ s => (s, BitVec.ofNat 64 (s.queueOf q).word8)) hi rfl rfl hc rfl, fun he => ⟨hdetset ?_, hseed ?_⟩, fun he hu => ⟨fun hx => hdetset ?_, hseed ?_⟩⟩
  · exact (qctlEnqueue_disabled he).trans (by rw [hstatus])
  · exact (qctlEnqueue_disabled he).trans (by rw [hstatus])
  · exact qctl_detset he hu (show x.toNat % 4 < 3 by omega)
  · exact qctl_seed he hu

/-- Settles O19: its release, its record's lines, then the queue. -/
theorem launchEnqueues : Obligations.LaunchEnqueues := by
  unfold Obligations.LaunchEnqueues
  intro s b t u h d r q a a' lease hw va n h128 hl
  have hx : exec (.launch h d r q) s = .next (s.issue .S h {} (s.core.busyFor (sRegs [d, r, q])) (fun s => s.launch d r q)) := rfl
  refine ⟨fun hm => ?_, fun hm hr hg hr' hg' => ⟨fun hb => ?_, fun hb hp hp' => ?_⟩⟩
  · rw [hx, works_hold (rs := sRegs [d, r, q]) hw (launch_unreleased rfl h128 hl hm)]
  · rw [hx, works_hold (rs := sRegs [d, r, q]) hw ((launch_released rfl h128 hl hm rfl).trans (launchRead_holds hr hg hr' hg' hb))]
  · intro w rec_ k he hd hc hu hk hf y slot z
    have hy : w.launched n rec_ = y := by
      simp only [State.launched, State.counted]
      rw [if_pos hd]
    have hz : (w.launched n rec_).1.spilled n k.prod rec_ = z := by rw [hy]; rfl
    refine ⟨?_, fun v => spill_present⟩
    rw [hx, works_done (rs := sRegs [d, r, q]) hw]
    refine (launch_released rfl h128 hl hm rfl).trans ((launchRead_reads hr hg hr' hg' hb hp hp').trans ?_)
    rw [show (u.decodedPair a a').readNow a 64 ++ (u.decodedPair a a').readNow a' 64 = rec_ from rfl, show u.decodedPair a a' = w from rfl,
      launchInto_accepted he hd hc hu hk hf, hz, hy]
    rfl

end

section
/-! PROOFS. PHASE. -/
namespace Sys2Proof.Machine

open Laws

variable {s t : State} {h : Hdr} {w v : Word64}

theorem phaseStart_holds (hw : Part.resolve v = w) (hv : Part.valid w = true) (hr : w.toNat % 2 ^ 16 = s.core.part.toNat % 2 ^ 16) :
    s.phaseStart h v = .hold (s.modCore (fun c => { c with phase := some (h, w) })) := by
  subst hw
  unfold State.phaseStart
  dsimp only
  rw [hv, if_neg (by decide), if_neg (by simpa using hr)]

theorem phaseFault_none {c : Core} (hk : ∀ k : Fin 64, (c.handle k).st = .free ∨ (c.handle k).base + (c.handle k).expected ≤ Part.dataBytes w)
    (ht : ∀ t ∈ c.fullTiles, t < Part.tiles w) : c.phaseFault w = none := by
  unfold Core.phaseFault
  dsimp only
  have hhandles : (List.range 64).find? (fun i => decide (Part.dataBytes w < (c.handle (Fin.ofNat 64 i)).base + (c.handle (Fin.ofNat 64 i)).expected)
      && (c.handle (Fin.ofNat 64 i)).st != .free) = none := by
    rw [List.find?_eq_none]
    intro i _
    have hi := hk (Fin.ofNat 64 i)
    generalize Fin.ofNat 64 i = k at hi ⊢
    rcases hi with hf | hb
    · simp [hf]
    · simp [Nat.not_lt.2 hb]
  have htiles : c.fullTiles.filter (fun t => decide (Part.tiles w ≤ t)) = [] := by
    rw [List.filter_eq_nil_iff]
    intro t hm
    have := ht t hm
    simpa using this
  rw [hhandles, htiles]
  rfl

/-- The state that PHASE_COMPLETE's last step leaves, its word still to be retired. -/
def State.installed (s : State) (w : Word64) : State := (s.setCore { s.core.repartition w with phase := none }).withoutL1 w

theorem withoutL1_core : (s.withoutL1 w).core = s.core := by
  unfold State.withoutL1
  split <;> rfl
theorem withoutL1_mem : (s.withoutL1 w).mem = s.mem := by
  unfold State.withoutL1
  split <;> rfl
theorem withoutL1_through (hz : Part.l1Bytes w = 0) :
    ∀ r ∈ (s.withoutL1 w).coh.reqs, r.core = s.cur → r.stage = .sent → r.kind ≠ .writeback → r.pol = .wt := by
  unfold State.withoutL1
  rw [if_neg (by simpa using hz)]
  intro r hr hc hs hk
  obtain ⟨q, -, rfl⟩ := List.mem_map.1 hr
  split
  · rfl
  next hn =>
    rw [if_neg hn] at hc hs hk
    exact absurd ⟨hc, hs, hk⟩ hn

theorem phaseComplete_installs {n : Nat} {b : State} (hb : b = { s with cur := n }) (hp : b.core.phase = some (h, w))
    (hf : ∀ f ∈ b.core.flights, f.eng = .S) (hj : b.core.journal = [])
    (hk : ∀ k : Fin 64, (b.core.handle k).st = .free ∨ (b.core.handle k).base + (b.core.handle k).expected ≤ Part.dataBytes w)
    (ht : ∀ t ∈ b.core.fullTiles, t < Part.tiles w) (hl : 64 * b.core.l1Lines.length ≤ Part.l1Bytes w)
    (hr : ∀ r ∈ b.coh.reqs, r.core = n → r.kind ≠ .writeback) :
    s.phaseComplete n = { (b.installed w).retire .S h b.core.engS.pc with cur := s.cur } := by
  have hflights : b.core.flights.any (fun f => f.eng != .S) = false := by
    rw [List.any_eq_false]
    intro f hm
    rw [hf f hm]
    decide
  have hreqs : b.coh.reqs.any (fun r => r.core == b.cur && r.kind == .writeback) = false := by
    rw [List.any_eq_false]
    intro r hm hc
    rw [Bool.and_eq_true, beq_iff_eq, beq_iff_eq] at hc
    exact hr r hm (hc.1.trans (by rw [hb])) hc.2
  unfold State.phaseComplete State.onCore
  rw [← hb]
  dsimp only
  rw [hp]
  dsimp only
  rw [if_neg (by simp [hflights, hj]), phaseFault_none hk ht]
  dsimp only
  rw [if_neg (by omega), hreqs, if_neg (by decide)]
  rfl

end Sys2Proof.Machine
end

section
/-! PROOFS. PHASE and its completion (spec/16 R374, R375). -/

open Sys2Proof Sys2Proof.Machine Laws

/-- Settles O23: the word at its issue, then its completion. -/
theorem phaseInstalls : Obligations.PhaseInstalls := by
  unfold Obligations.PhaseInstalls
  refine ⟨fun s h r hi => ?_, fun s n h w => ?_⟩
  · intro w hv hr
    have hx : exec (.phase h r) s = .next (s.issue .S h {} (s.core.busyFor (sRegs [r])) (fun s => s.phaseStart h (s.core.readS r))) := rfl
    have hc : (Begun s h).core.readS r = s.core.readS r := Begun_readS r
    rw [hx, issue_hold (rs := sRegs [r]) hi (phaseStart_holds (by rw [hc]) hv (by rw [Begun_core_part]; exact hr))]
  · intro b c hp hf hj hk ht hl hr
    have hcore : (b.installed w).core = { c.repartition w with phase := none } := withoutL1_core.trans (State.setCore_core ..)
    refine ⟨b.installed w, ?_, ?_, ?_, ?_, ?_, ?_, fun hz r hm hc => withoutL1_through hz r hm hc, ?_⟩
    · rw [hcore]; rfl
    · rw [hcore]
    · rw [hcore]; rfl
    · exact withoutL1_mem
    · rw [hcore]; rfl
    · rw [hcore]; rfl
    · exact congrArg Host.Outcome.next (phaseComplete_installs rfl hp hf hj hk ht hl hr)

end

section
/-! PROOFS. V's words on rows of the data area. -/
namespace Sys2Proof.Machine

open Laws

section
variable {s t : State} {e : Engine} {h : Hdr} {hd : Fin 64} {runs reads writes : List (Nat × Nat)} {write : Bool} {f : State → Res} {g : State → State}

/-- What a word's accesses to the data area leave with the checker, beside its own effect. -/
theorem onData_clear (hc : s.clear e reads writes = true) (hg : f s = .done t) : s.onData e reads writes f =
    .done (t.modCore (fun c => c.noted s.detlevel s.core.data { eng := e.num, pc := (s.eng e).pc, reads, writes })) := by
  rw [State.onData, onDataAt_clear hc, hg]
  rfl

/-- Rows within bounds, with nothing in flight that stands against them. -/
theorem withRows_clear (ho : s.ordered e s.nextId = false) (hf : s.core.runsFault hd runs = none)
    (hc : s.clear e (if write then [] else runs) (if write then runs else []) = true) (hg : f s = .done t) :
    s.withRows e hd runs write f = .done (t.modCore (fun c => c.noted s.detlevel s.core.data
      { eng := e.num, pc := (s.eng e).pc, reads := if write then [] else runs, writes := if write then runs else [] })) := by
  rw [State.withRows, ho, hf]
  exact onData_clear hc hg

theorem shapeOk_none {c : Core} {ok : VShape → Bool} (hok : ok c.vshape = true) : c.shapeOk ok = none := by simp [Core.shapeOk, hok]
theorem softIn_reads_nil {c : Core} : c.softIn .tile (c.readRuns none []) = false := by
  simp [Core.softIn, Core.readRuns]
theorem evenCols_iff {sh : VShape} : evenCols sh = true ↔ sh.w ≠ 4 ∨ sh.cols % 2 = 0 := by simp [evenCols]

end

section
variable {s : State} {h : Hdr} {t : Fin 256} {k : Fin 16} {hd : Fin 64} {off : BitVec 22} {runs : List (Nat × Nat)} {n : Nat} {reads writes : List (Fin 256)}
  {x : Host.Outcome State Fault Refusal} {i : Instr}

/-- A word that moves rows between a tile and the data area. -/
theorem vgives_rows {write : Bool} {f : List (Nat × Nat) → Core → Core} {g : Core → Core}
    (hx : exec i s = s.vissue h { regs := [(false, t.val)], handles := vmHandle hd } reads writes (fun s =>
      s.withRows .V hd (s.core.vshape.runs (s.core.rowStart .V k hd off) s.core.vshape.rowBytes) write
        (fun u => .done (u.modCore (f (s.core.vshape.runs (s.core.rowStart .V k hd off) s.core.vshape.rowBytes))))))
    (hr : (Begun s h).core.vshape.runs ((Begun s h).core.rowStart .V k hd off) (Begun s h).core.vshape.rowBytes = runs)
    (hf : (Begun s h).core.runsFault hd runs = none)
    (hc : (Begun s h).clear .V (if write then [] else runs) (if write then runs else []) = true)
    (ho : (Begun s h).ordered .V (Begun s h).nextId = false)
    (hg : ∀ c, Beside (Begun s h) .V (if write then [] else runs) (if write then runs else []) (f runs c) = g c) :
    VGives i s h { regs := [(false, t.val)], handles := vmHandle hd } reads writes g := by
  intro hi hready hs
  subst hr
  rw [hx, vissue_done (eff := fun s => s.withRows .V hd (s.core.vshape.runs (s.core.rowStart .V k hd off) s.core.vshape.rowBytes) write
    (fun u => .done (u.modCore (f (s.core.vshape.runs (s.core.rowStart .V k hd off) s.core.vshape.rowBytes))))) hi hready hs (withRows_clear ho hf hc rfl)]
  exact congrArg (fun t => Host.Outcome.next (Done s .V h (State.written t writes)))
    ((noted_eq_beside (Begun s h) .V _ _ none _).trans (congrArg (Begun s h).modCore (funext hg)))

/-- The rows of a tile as VST writes them. -/
theorem vst_runs {c : Core} {rs : List (Nat × Nat)} {m : Nat} (hm : ∀ r ∈ rs, r.2 = m) :
    c.vst t rs = rs.zipIdx.foldl (fun c r => c.writeData r.1.1 (SMap.getRange 0 c.tiles (t.val * 1024 + r.2 * m) m)) c := by
  refine List.foldl_ext _ _ _ (fun c r hr => ?_)
  rw [hm r.1 (List.fst_mem_of_mem_zipIdx hr)]
theorem runs_width {sh : VShape} {a m : Nat} : ∀ r ∈ sh.runs a m, r.2 = m := by
  intro r hr
  obtain ⟨_, _, rfl⟩ := List.mem_map.1 hr
  rfl
end

/-! ### Quantised rows (R166 to R169) -/

section
variable {s : State} {e : Engine} {h : Hdr} {t : Fin 256} {k : Fin 16} {hd : Fin 64} {off : BitVec 22} {runs : List (Nat × Nat)}
  {idx tmr v : Nat} {sc : Scale}

/-- What VLDQ does once its handle's record is at hand. -/
def State.vldqBody (s : State) (t : Fin 256) (k : Fin 16) (hd : Fin 64) (off : BitVec 22) : Res :=
  match (s.core.handle hd).rcd with
  | none => .trap id (mixedVersion 0 noVersion noVersion)
  | some (idx, v) =>
    s.withTmr .V idx (fun tmr =>
      if !Tmr.holds tmr v then .trap id (mixedVersion idx noVersion v)
      else
        let sc := imageScale (Tmr.slot tmr v)
        let sh := s.core.vshape
        if sc.fmt = 2 ∧ sh.cols % 32 ≠ 0 then .trap id s.core.badShape
        else
          let desc := s.core.quantDesc k
          let runs := sh.runs (s.core.rowStart .V k hd off) (sc.rowBytes sh.cols)
          s.withRows .V hd runs false (fun s =>
            .done ((s.cacheTmr s.taskCtx idx).modCore (fun c => c.vldq t sc runs (loadMode desc) (bits desc 23 1 == 1)))))

theorem vldqBody_done (hrcd : (s.core.handle hd).rcd = some (idx, v)) (hr : s.tmrReadable s.taskCtx idx = true)
    (hl : s.tmrLoad s.taskCtx idx = .ok tmr) (hh : Tmr.holds tmr v = true) (hsc : imageScale (Tmr.slot tmr v) = sc)
    (hfmt : sc.fmt ≠ 2 ∨ s.core.vshape.cols % 32 = 0)
    (hruns : s.core.vshape.runs (s.core.rowStart .V k hd off) (sc.rowBytes s.core.vshape.cols) = runs)
    (hf : s.core.runsFault hd runs = none) (hc : s.clear .V runs [] = true) (ho : s.ordered .V s.nextId = false) :
    s.vldqBody t k hd off = .done (((s.cacheTmr s.taskCtx idx).modCore (fun c =>
      c.vldq t sc runs (loadMode (s.core.quantDesc k)) (bits (s.core.quantDesc k) 23 1 == 1))).modCore (Beside s .V runs [])) := by
  unfold State.vldqBody
  rw [hrcd]
  dsimp only
  rw [withTmr_ok hr hl, hh, hsc, if_neg (by decide), if_neg (by omega), hruns]
  exact withRows_clear (write := false) ho hf hc rfl

/-- The record of a VSTQ in its TMR's caches and statistics. -/
def State.noteStore (s : State) (idx tmr v : Nat) (counts : Counts) : State :=
  (((s.policyTouch s.taskCtx (Tmr.policy tmr)).cacheTmr s.taskCtx idx).keepVersion idx v).feed idx counts
/-- What VSTQ leaves in the core. -/
def Core.vstq (c : Core) (hd : Fin 64) (idx v : Nat) (runs : List (Nat × Nat)) (enc : List (List Byte) × Flags × Counts) : Core :=
  let c := ((runs.zip enc.1).foldl (fun c r => c.writeData r.1.1 r.2) c).addFlags .V enc.2.1
  if hd = 63 then c else c.setHandle hd { c.handle hd with rcd := some (idx, v) }

/-- What VSTQ does once its tile is read. -/
def State.vstqBody (s : State) (t : Fin 256) (k : Fin 16) (hd : Fin 64) (off : BitVec 22) : Res :=
  let idx := bits (s.core.quantDesc k) 0 20
  s.withTmr .V idx (fun tmr =>
    match s.writeScale idx tmr with
    | .error t => .trap id t
    | .ok (v, sc) =>
      if s.feedWaits idx then .stall (fun s => s.tmrSnoop s.taskCtx idx)
      else if !s.policyReady s.taskCtx (Tmr.policy tmr) then .stall (fun s => s.policyTouch s.taskCtx (Tmr.policy tmr))
      else s.vstq t k hd off idx tmr v sc)

theorem vstq_done {enc : List (List Byte) × Flags × Counts}
    (hrcd : hd = 63 ∨ (s.core.handle hd).rcd = none ∨ (s.core.handle hd).rcd = some (idx, v)) (hfmt : sc.fmt ≠ 2 ∨ s.core.vshape.cols % 32 = 0)
    (hruns : s.core.vshape.runs (s.core.rowStart .V k hd off) (sc.rowBytes s.core.vshape.cols) = runs)
    (hf : s.core.runsFault hd runs = none) (hc : s.clear .V [] runs = true) (ho : s.ordered .V s.nextId = false)
    (henc : encodeRows sc (Tmr.base tmr) (storeMode (s.core.quantDesc k)) (bits (s.core.quantDesc k) 23 1 == 1) (s.core.tileRows t) = enc)
    (hovf : enc.2.2.ovf * 65536 ≤ (s.policy s.taskCtx (Tmr.policy tmr)).faultLim * s.core.vshape.count) :
    s.vstq t k hd off idx tmr v sc
      = .done (((s.noteStore idx tmr v enc.2.2).modCore (fun c => c.vstq hd idx v runs enc)).modCore (Beside s .V [] runs)) := by
  have hclash : (if hd = 63 then none else match (s.core.handle hd).rcd with
      | some r => if r = (idx, v) then none else some r.2 | none => none) = none := by
    rcases hrcd with h63 | hnone | hsome
    · rw [if_pos h63]
    · rw [hnone]
      exact ite_self _
    · rw [hsome]
      dsimp only
      rw [if_pos rfl]
      exact ite_self _
  subst henc
  unfold State.vstq
  dsimp only
  split
  next x hx => exact absurd (hx.symm.trans hclash) (by simp)
  · rw [if_neg (by omega), hruns]
    refine withRows_clear (write := true) ho hf hc ?_
    exact if_neg (Nat.not_lt.2 hovf)

theorem vstqBody_eq (hidx : bits (s.core.quantDesc k) 0 20 = idx) (hr : s.tmrReadable s.taskCtx idx = true)
    (hl : s.tmrLoad s.taskCtx idx = .ok tmr) (hw : s.writeScale idx tmr = .ok (v, sc)) (hfeed : s.feedWaits idx = false)
    (hp : s.policyReady s.taskCtx (Tmr.policy tmr) = true) : s.vstqBody t k hd off = s.vstq t k hd off idx tmr v sc := by
  subst hidx
  unfold State.vstqBody
  dsimp only
  rw [withTmr_ok hr hl, hw]
  dsimp only
  rw [hfeed, hp]
  rfl
end

end Sys2Proof.Machine
end

section
/-! PROOFS. VLD, VST, VLDQ and VSTQ (spec/06 R149, R150, R166 to R169). -/

open Sys2Proof Sys2Proof.Machine Laws

/-- Settles O40, a word at a time. -/
theorem vectorRows : Obligations.VectorRows := by
  unfold Obligations.VectorRows
  intro s h t k hd off b c sh runs hs reads writes free noted n
  have hshape (ok : VShape → Bool) (hok : ok s.core.vshape = true) : s.core.shapeOk ok = none := shapeOk_none hok
  have hvs : (Begun s h).core.vshape = s.core.vshape := Begun_vshape s h
  refine ⟨fun hcols => ?_, fun hw => ⟨?_, ?_⟩⟩
  · have heven := hshape evenCols (evenCols_iff.2 (hvs ▸ hcols))
    refine ⟨fun ⟨hf, hc, ho⟩ => ?_, fun ⟨hf, hc, ho⟩ => ?_⟩
    · refine vgives_rows (write := false) (f := fun runs c => c.vld t runs) ?_ rfl hf hc ho (fun c => rfl)
      refine Eq.trans (b := execVld h t k hd off s) rfl ?_
      rw [execVld, heven]
      rfl
    · refine vgives_rows (write := true) (f := fun runs c => c.vst t runs) ?_ rfl hf hc ho (fun c => ?_)
      · refine Eq.trans (b := execVst h t k hd off s) rfl ?_
        rw [execVst, heven]
        rfl
      · rw [vst_runs runs_width]
        rfl
  · intro idx v tmr hrcd hr hl hh sc hfmt hfree hi hready
    obtain ⟨hf, hc, ho⟩ := hfree
    have hx : exec (.vldq h t k hd off) s = s.vissue h { regs := [(false, t.val)], handles := [hd.val] } [] [t] (fun s => s.vldqBody t k hd off) := by
      refine Eq.trans (b := execVldq h t k hd off s) rfl ?_
      rw [execVldq, hshape (fun sh => wideFloat sh.ty) (hvs ▸ hw)]
      rfl
    rw [hx, vissue_done (eff := fun s => s.vldqBody t k hd off) hi hready softIn_reads_nil (vldqBody_done hrcd hr hl hh rfl hfmt rfl hf hc ho)]
    rfl
  · intro tmr v sc idx hr hl hws hfeed hp hsoft hrcd hfmt hfree enc hovf hi hready fed
    obtain ⟨hf, hc, ho⟩ := hfree
    have hx : exec (.vstq h t k hd off) s = s.vissue h { regs := [(false, t.val)], handles := vmHandle hd } [t] [] (fun s => s.vstqBody t k hd off) := by
      refine Eq.trans (b := execVstq h t k hd off s) rfl ?_
      rw [execVstq, hshape (fun sh => wideFloat sh.ty) (hvs ▸ hw)]
      rfl
    rw [hx, vissue_done (eff := fun s => s.vstqBody t k hd off) hi hready hsoft
      ((vstqBody_eq rfl hr hl hws hfeed hp).trans (vstq_done hrcd hfmt rfl hf hc ho rfl hovf))]
    rfl

end

section
/-! PROOFS. Gathers and scatters. -/
namespace Sys2Proof.Machine

open Laws

section
variable {s t : State} {h : Hdr} {n : Names} {reads writes : List (Fin 256)} {index : Option (Fin 256)} {eff : State → Res} {i : Nat}

/-- A V word that stays in flight, its shared tiles ready and no soft error in what it reads. -/
theorem vissue_pend (hi : Issues s .V h n ((reads ++ writes).map .t))
    (hr : (Begun s h).core.sharedReady (reads.map (·.val)) (writes.map (·.val)) = true)
    (hs : (Begun s h).core.softIn .tile ((Begun s h).core.readRuns index reads) = false) (he : eff (Begun s h) = .pend t i) :
    s.vissue h n reads writes eff index = .next (Pending s .V h (t.modCore (fun c => c.mendTiles writes)) i) := by
  refine congrArg _ (issue_pend hi ?_)
  simp [hr, hs, he, State.onPool]

variable {as : List (Nat × Nat)} {xs : List (Nat × Nat × Nat)} {f : Core → Core}

theorem gatherShape_iff {sh : VShape} : gatherShape sh = true ↔ 8 ≤ elemBits sh.ty ∧ sh.rows * sh.cols ≤ 256 := by
  rw [gatherShape, byteType, Bool.and_eq_true, decide_eq_true_iff, decide_eq_true_iff]
  rfl

/-! ### In the data area -/

theorem dataElements_clear {write : Bool} {runs : List (Nat × Nat)} (ho : s.ordered .V s.nextId = false)
    (hb : ∀ a ∈ as, a.2 + s.core.vshape.w / 8 ≤ Part.dataBytes s.core.part) (hr : as.map (fun a => (a.2, s.core.vshape.w / 8)) = runs)
    (hc : s.clear .V (if write then [] else runs) (if write then runs else []) = true) :
    s.dataElements as write f
      = .done (s.modCore (fun c => Beside s .V (if write then [] else runs) (if write then runs else []) (f c))) := by
  have hnone : as.find? (fun a => decide (Part.dataBytes s.core.part < a.2 + s.core.vshape.w / 8)) = none := by
    rw [List.find?_eq_none]
    intro a ha
    simpa using hb a ha
  subst hr
  unfold State.dataElements
  dsimp only
  rw [ho, if_neg (by decide), hnone]
  dsimp only
  exact (onData_clear (f := fun s => .done (s.modCore f)) hc rfl).trans (congrArg Res.done (noted_eq_beside s .V _ _ none f))

/-! ### In global memory -/

variable {u w : State} {kind : FlightKind} {parts ps : List Part} {r : Res}

/-- What the accesses of an instruction leave once they have been sent. -/
theorem issueParts_sent {e : Engine} (hs : State.sendParts { s with nextId := s.nextId + 1 } (s.issued e kind parts) = .ok (w, ps)) :
    s.issueParts e kind parts = if ps.all (fun q => q.got.isSome) = true then .done (w.modCore (fun c => c.arrive { s.issued e kind parts with parts := ps }))
      else .pend (w.modCore (fun c => { c with flights := c.flights ++ [{ s.issued e kind parts with parts := ps }] })) s.nextId := by
  rw [issueParts_eq, show s.fresh.2.sendParts (s.issued e kind parts) = .ok (w, ps) from hs]
  rfl

variable {t : Fin 256} {zs : List Nat} {pol p : Policy} {inv : Bool} {k : Nat}

theorem gatherGlobal_issues (hreach : s.reachElements as false = .ok (xs, u)) (hh : u.holdsBack .V u.nextId = false)
    (hp : ∀ x ∈ xs, u.poisoned (lineOf x.2.2) = false) (hpol : s.core.effPolicy pol = p) (hk : s.core.vshape.w / 8 = k) :
    s.gatherGlobal t as zs pol inv = u.issueParts .V (.gather t (min k 4) (if k = 8 then zs.flatMap (fun k => [k, k + 4]) else zs))
      (elementParts { store := false, pol := p, inv, va := 0, n := k, data := 0 } (xs.map (fun a => (t.val * 1024 + a.1 * k, a.2.1, 0)))) := by
  have hnone : xs.find? (fun a =>
      u.free .V u.nextId a.2.1 k a.2.2 && (u.localValue p inv a.2.2 k).isNone && u.poisoned (lineOf a.2.2)) = none := by
    rw [List.find?_eq_none]
    intro a ha
    rw [hp a ha, Bool.and_false]
    decide
  unfold State.gatherGlobal
  rw [hreach]
  dsimp only
  rw [hh, if_neg (by decide), hpol, hk, hnone]

theorem scatterGlobal_issues (hreach : s.reachElements as true = .ok (xs, u)) (hh : u.holdsBack .V u.nextId = false)
    (hpol : s.core.effPolicy pol = p) (hk : s.core.vshape.w / 8 = k) :
    s.scatterGlobal t as pol = u.issueParts .V .scatter (elementParts { store := true, pol := p, inv := false, va := 0, n := k, data := 0 }
      (xs.map (fun a => (0, a.2.1, u.core.elem t u.core.vshape.w a.1)))) := by
  unfold State.scatterGlobal
  rw [hreach]
  dsimp only
  rw [hh, if_neg (by decide), hpol, hk]

end

/-! ### The words -/

section
variable {s u w : State} {h : Hdr} {t idx : Fin 256} {k : Fin 16} {m : Fin 8} {z : Bool} {sp : VecSpace} {kind : FlightKind} {parts ps : List Part}
  {reads writes : List (Fin 256)}

/-- What VGATH does once its tiles are ready. -/
def State.gatherBody (s : State) (t idx : Fin 256) (k : Fin 16) (sp : VecSpace) (m : Fin 8) (z : Bool) : Res :=
  let as := s.core.gatherAddrs idx k m
  let zs := s.core.zeroKeys t m z
  match sp with
  | .data =>
    s.dataElements as false (fun c =>
      let n := c.vshape.w / 8
      let parts : List Part := as.map (fun a => { req := 0, idx := t.val * 1024 + a.1 * n, got := some (.value (ofBytes (c.readData a.2 n))) })
      c.arrive { id := 0, eng := .V, pc := 0, kind := .gather t n zs, parts })
  | .global pol _ inv => s.gatherGlobal t as zs pol inv
/-- What VSCAT does once its tiles are ready. -/
def State.scatterBody (s : State) (t idx : Fin 256) (k : Fin 16) (sp : VecSpace) (m : Fin 8) : Res :=
  let as := s.core.gatherAddrs idx k m
  match sp with
  | .data => s.dataElements as true (fun c => as.foldl (fun c a => c.writeData a.2 (toBytes (c.vshape.w / 8) (c.elem t c.vshape.w a.1))) c)
  | .global pol _ _ => s.scatterGlobal t as pol

theorem exec_vgath (hsh : s.core.shapeOk gatherShape = none) : exec (.vgath h t idx k sp m z) s =
    s.vissue h { regs := [(false, idx.val), (false, t.val)] } [idx] [t] (fun s => s.gatherBody t idx k sp m z) (some idx) := by
  refine Eq.trans (b := execVgath h t idx k sp m z s) rfl ?_
  rw [execVgath, hsh]
  cases sp <;> rfl
theorem exec_vscat (hsh : s.core.shapeOk gatherShape = none) : exec (.vscat h t idx k sp m z) s =
    s.vissue h { regs := [(false, idx.val), (false, t.val)] } [idx, t] [] (fun s => s.scatterBody t idx k sp m) (some idx) := by
  refine Eq.trans (b := execVscat h t idx k sp m z s) rfl ?_
  rw [execVscat, hsh]
  cases sp <;> rfl

/-- A word whose accesses have been sent, done where all were made in the core. -/
theorem vissue_sent {n : Names} {index : Option (Fin 256)} {eff : State → Res} {f : Flight} (hi : Issues s .V h n ((reads ++ writes).map .t))
    (hr : (Begun s h).core.sharedReady (reads.map (·.val)) (writes.map (·.val)) = true)
    (hs : (Begun s h).core.softIn .tile ((Begun s h).core.readRuns index reads) = false) (he : eff (Begun s h) = u.issueParts .V kind parts)
    (hsend : State.sendParts { u with nextId := u.nextId + 1 } (u.issued .V kind parts) = .ok (w, ps))
    (hf : { u.issued .V kind parts with parts := ps } = f) :
    s.vissue h n reads writes eff index = .next (if ps.all (fun q => q.got.isSome) = true then Done s .V h ((w.modCore (fun c => c.arrive f)).written writes)
      else Pending s .V h ((w.modCore (fun c => { c with flights := c.flights ++ [f] })).modCore (fun c => c.mendTiles writes)) u.nextId) := by
  subst hf
  rw [issueParts_sent hsend] at he
  split
  next hc => exact vissue_done hi hr hs (he.trans (if_pos hc))
  next hc => exact vissue_pend hi hr hs (he.trans (if_neg hc))

theorem elementParts_words {t : Todo} (ht : t.n ≠ 8) (xs : List (Nat × Nat × Nat)) : elementParts t xs = xs.map (fun a =>
    { req := 0, idx := a.1, got := none, todo := some { t with va := a.2.1, data := a.2.2 } }) := if_neg ht
theorem elementParts_halves {t : Todo} (ht : t.n = 8) (xs : List (Nat × Nat × Nat)) : elementParts t xs = xs.flatMap (fun a =>
    [{ req := 0, idx := a.1, got := none, todo := some { t with va := a.2.1, n := 4, data := a.2.2 % 2 ^ 32 } },
     { req := 0, idx := a.1 + 4, got := none, todo := some { t with va := a.2.1 + 4, n := 4, data := a.2.2 / 2 ^ 32 } }]) := if_pos ht
end

end Sys2Proof.Machine
end

section
/-! PROOFS. VGATH and VSCAT (spec/06 R152, spec/12 R269). -/

open Sys2Proof Sys2Proof.Machine Laws

/-- Settles O41: the data-area forms, the global forms, the word accesses of their elements. -/
theorem gathersAndScatters : Obligations.GathersAndScatters := by
  unfold Obligations.GathersAndScatters
  refine ⟨fun s h t idx k m z => ?_, fun s u w h t idx k pol sc inv m z xs ps => ?_, fun w xs => ⟨fun hn => ?_, fun hn => ?_⟩⟩
  · intro b c sh n as runs hw hc hb ho
    have hsh : s.core.shapeOk gatherShape = none := shapeOk_none (by rw [← Begun_vshape s h]; exact gatherShape_iff.2 ⟨hw, hc⟩)
    refine ⟨fun hclear hi hr hs => ?_, fun hclear hi hr hs => ?_⟩
    · rw [exec_vgath hsh, vissue_done (eff := fun s => s.gatherBody t idx k .data m z) hi hr hs (dataElements_clear (write := false) ho hb rfl hclear)]
      rfl
    · rw [exec_vscat hsh, vissue_done (eff := fun s => s.scatterBody t idx k .data m) hi hr hs (dataElements_clear (write := true) ho hb rfl hclear)]
      rfl
  · intro b c n as p N zs back flight read write sends kept hw hc hh
    have hsh : s.core.shapeOk gatherShape = none := shapeOk_none (by rw [← Begun_vshape s h]; exact gatherShape_iff.2 ⟨hw, hc⟩)
    refine ⟨fun hi hr hs hreach hp hsend => ?_, fun hi hr hs hreach hsend => ?_⟩
    · rw [exec_vgath hsh]
      exact vissue_sent (eff := fun s => s.gatherBody t idx k (.global pol sc inv) m z) hi hr hs
        (gatherGlobal_issues hreach hh hp rfl rfl) hsend rfl
    · rw [exec_vscat hsh]
      exact vissue_sent (eff := fun s => s.scatterBody t idx k (.global pol sc inv) m) hi hr hs
        (scatterGlobal_issues hreach hh rfl rfl) hsend rfl
  · rw [elementParts_words hn, List.map_map]
    rfl
  · rw [elementParts_halves hn, List.map_flatMap]
    rfl

end

section
/-! PROOFS. Words on accumulators and weights. -/
namespace Sys2Proof.Machine

open Laws

/-! ### What V and M see of each other on an accumulator tile (R170) -/

section
variable {c c' : Core} {key pc z i x now : Nat} {m : AccMark} {others : List Nat}

theorem pickValue_mem : pickValue key now others = now ∨ pickValue key now others ∈ others := by
  unfold pickValue
  split
  · exact .inl rfl
  · generalize hj : (Config.freeByte key).toNat % (others.length + 1) = j
    have hlt : j < (now :: others).length := by
      rw [← hj, List.length_cons]
      exact Nat.mod_lt _ (Nat.succ_pos _)
    rw [List.getElem?_eq_getElem hlt, Option.getD_some]
    exact List.mem_cons.1 (List.getElem_mem hlt)

theorem accSeen_cases : c.accSeen key z i = c.accAt z i ∨ ∃ m ∈ c.accMarks .M z, c.accSeen key z i ∈ valuesBefore (m.groups i) (m.old i) :=
  pickValue_mem.imp_right List.mem_flatMap.1

theorem accSeen_unmarked (h : c.accMarks .M z = []) : c.accSeen key z i = c.accAt z i := by
  rw [Core.accSeen, h]
  rfl
theorem accLoaded_unmarked (h : (c.accMarks .M z).flatMap (fun m => m.groups i) = []) : c.accLoaded key z i x = x := by
  rw [Core.accLoaded, h]

theorem accLoaded_cases : c.accLoaded key z i x = c.accAt z i ∧ (c.accMarks .M z).flatMap (fun m => m.groups i) ≠ []
    ∨ c.accLoaded key z i x = x ∨ c.accLoaded key z i x ∈ overtaken ((c.accMarks .M z).flatMap (fun m => m.groups i)) x := by
  cases hg : (c.accMarks .M z).flatMap (fun m => m.groups i) with
  | nil => exact .inr (.inl (accLoaded_unmarked hg))
  | cons f fs =>
    have hp : c.accLoaded key z i x = pickValue (key + i) x (c.accAt z i :: overtaken (f :: fs) x) := by rw [Core.accLoaded, hg]
    rw [hp]
    rcases pickValue_mem (key := key + i) (now := x) (others := c.accAt z i :: overtaken (f :: fs) x) with he | hm
    · exact .inr (.inl he)
    · rcases List.mem_cons.1 hm with he | ho
      · exact .inl ⟨he, List.cons_ne_nil _ _⟩
      · exact .inr (.inr ho)

/-- A tile without marks of an engine has none to change. -/
theorem modMarks_unmarked {e : Engine} {f : AccMark → AccMark} (h : c.accMarks e z = []) : c.modMarks e z f = c := by
  have hkeep : ∀ p ∈ c.checker, (if p.eng = e.num then { p with acc := p.acc.map (fun m => if m.z = z then f m else m) } else p) = p := by
    intro p hp
    have hnone := List.filterMap_eq_nil_iff.1 h p hp
    split
    next he =>
      rw [if_pos he] at hnone
      cases hacc : p.acc with
      | none => rw [Option.map_none, ← hacc]
      | some m =>
        rw [hacc] at hnone
        have hz : m.z ≠ z := by simpa using hnone
        rw [Option.map_some, if_neg hz, ← hacc]
    · rfl
  have hmap := List.map_congr_left (l := c.checker) (g := id) hkeep
  rw [Core.modMarks, hmap, List.map_id]

theorem raced_unmarked (hv : c.accMarks .V m.z = []) (hc : c'.checker = c.checker) : c'.raced c key pc m = c'.mark .M pc m := by
  have hv' : c'.accMarks .V m.z = [] := by
    unfold Core.accMarks
    rw [hc]
    exact hv
  unfold Core.raced
  dsimp only
  rw [hv, List.foldl_nil, modMarks_unmarked hv']

end

/-! ### V's words on accumulators -/

section
variable {s : State} {h : Hdr} {m : Fin 8} {z sat : Bool} {rm : Rounding} {t za : Fin 256} {k : Fin 16}

theorem onPool_clear {e : Engine} {p : PoolPart} {reads : List (Nat × Nat)} {f : State → Res} (hs : s.core.softIn p reads = false) :
    s.onPool e p reads f = f s := by
  rw [State.onPool, hs]
  rfl

/-- The same effect on the core at hand. -/
theorem vgives_congr {i : Instr} {n : Names} {reads writes : List (Fin 256)} {f g : Core → Core} (hv : VGives i s h n reads writes f)
    (hfg : f (Begun s h).core = g (Begun s h).core) : VGives i s h n reads writes g := by
  intro hi hr hs
  rw [hv hi hr hs, State.modCore, hfg]
  rfl

theorem vgives_vdrain (hm : Rows.modeOk s.core.vshape.ty rm = true) (h0 : s.core.vshape.ty ≠ .e8m0) (h2 : s.core.vshape.ty ≠ .e8f2)
    (hs : (Begun s h).core.softIn .acc ((Begun s h).core.windowRuns za k) = false) :
    VGives (.vdrain h m z rm sat t za k) s h { regs := [(true, za.val), (false, t.val)] } [] [t]
      (fun c => c.vdrain (Begun s h).accKey m z rm sat t za k) := by
  intro hi hr hsoft
  have mode : s.core.modeFault rm = none := if_pos hm
  have shape : s.core.shapeOk (fun sh => sh.ty != .e8m0 && sh.ty != .e8f2) = none := if_pos (by simp [h0, h2])
  refine Eq.trans (b := execVdrain h m z rm sat t za k s) rfl ?_
  rw [execVdrain, mode, shape]
  exact vissue_done hi hr hsoft (onPool_clear hs)

theorem vgives_vzld {cls : AccClass} (hty : wideFloat s.core.vshape.ty = true ∨ s.core.vshape.ty = .i32)
    (hcls : (if s.core.vshape.ty = .i32 then AccClass.int else .flt) = cls)
    (hrec : ((Begun s h).core.accRecOf za.val).cls = none ∨ ((Begun s h).core.accRecOf za.val).cls = some cls) :
    VGives (.vzld h m z za t k) s h { regs := [(false, t.val), (true, za.val)] } [t] []
      (fun c => c.vzld (Begun s h).accKey (s.eng .V).pc m z za t k) := by
  intro hi hr hsoft
  have shape : s.core.shapeOk (fun sh => wideFloat sh.ty || sh.ty == .i32) = none := if_pos (by simpa using hty)
  refine Eq.trans (b := execVzld h m z za t k s) rfl ?_
  rw [execVzld, shape]
  refine vissue_done hi hr hsoft ?_
  dsimp only
  rw [Begun_vshape, hcls, Begun_eng]
  rcases hrec with hn | hc
  · rw [hn]
  · rw [hc]
    exact if_pos rfl

end

/-! ### M's words -/

section
variable {s u : State} {h : Hdr} {e : Engine} {n : Names} {i : Instr} {eff : State → Res} {f : Core → Core}

section
variable {hd : Fin 64} {runs : List (Nat × Nat)} {g : State → Res} (ho : s.ordered e s.nextId = false) (hf : s.core.runsFault hd runs = none)
  (hg : g s = .done (s.setCore (f s.core)))
include ho hf hg

/-- Rows read or written by a function of the core, beside what is in flight. -/
theorem withRows_reads (hc : s.clear e runs [] = true) : s.withRows e hd runs false g = .done (s.modCore (fun c => Beside s e runs [] (f c))) :=
  (withRows_clear (write := false) ho hf hc hg).trans (congrArg Res.done (noted_eq_beside s e runs [] none f))
theorem withRows_writes (hc : s.clear e [] runs = true) : s.withRows e hd runs true g = .done (s.modCore (fun c => Beside s e [] runs (f c))) :=
  (withRows_clear (write := true) ho hf hc hg).trans (congrArg Res.done (noted_eq_beside s e [] runs none f))
end

theorem gives_congr {rs : List Reg} {g : Core → Core} (hv : Gives i s e h n rs f) (hfg : f (Begun s h).core = g (Begun s h).core) :
    Gives i s e h n rs g := by
  intro hi
  rw [hv hi, State.modCore, hfg]
  rfl

/-- A word of M that issues with no register awaited. -/
theorem gives_of_done (hx : exec i s = .next (s.issue e h n false eff)) (hf : eff (Begun s h) = .done ((Begun s h).modCore f)) :
    Gives i s e h n [] f := fun hi => hx.trans (congrArg Host.Outcome.next (issue_done_nil hi hf))

theorem gives_mzero (z : Fin 256) : Gives (.mzero h z) s .M h { regs := [(true, z.val)] } [] (fun c =>
    Core.raced { c with acc := SMap.drop c.acc (fun k => k / 2048 == z.val), accRec := SMap.erase c.accRec z.val,
                        soft := c.soft.filter (fun x : PoolPart × Nat => !(x.1 == .acc && x.2 / 1024 == z.val)) } c (Begun s h).accKey
      ((Begun s h).eng .M).pc { z := z.val, work := .zero, before := c.acc }) := by
  intro hi
  refine Eq.trans (b := execMzero h z s) rfl ?_
  exact congrArg Host.Outcome.next (issue_done_nil hi rfl)

theorem gives_wclr : Gives (.wclr h) s .M h {} [] (fun c => { c with wbuf := [], wlay := [], wupsets := [] }) := by
  intro hi
  refine Eq.trans (b := execWclr h s) rfl ?_
  exact congrArg Host.Outcome.next (issue_done_nil hi rfl)

theorem gives_mshape {ta tb : ElemType} {kg : BitVec 12} (hk : ta ≠ .e2m1 ∨ kg.toNat % 2 = 0) (blk : BlkMode) (sparse : Bool) (rows cols : Fin 4) :
    Gives (.mshape h ta tb blk sparse rows cols kg) s .M h {} [] (fun c =>
      { c with mshape := { a := ta, b := tb, blk, sparse, rows := 8 * (rows.val + 1), cols := 16 * (cols.val + 1), kgroups := kg.toNat } }) := by
  have hlimit : (if ta = .e2m1 ∧ kg.toNat % 2 = 1 then some 9 else none) = none :=
    if_neg (fun hc => hk.elim (fun h => h hc.1) (fun h => by omega))
  intro hi
  refine Eq.trans (b := execMshape h ta tb blk sparse rows cols kg s) rfl ?_
  rw [execMshape, hlimit]
  exact congrArg Host.Outcome.next (issue_done_nil hi rfl)

theorem gives_wld {w d : Fin 16} {off : BitVec 12} {hd : Fin 64} {sparse : Bool} {len : BitVec 13} {src start : Nat}
    (hstart : (Begun s h).core.weightStart w off = start)
    (hsrc : ((Begun s h).core.readK .M d + (if hd = 63 then 0 else BitVec.ofNat 64 ((Begun s h).core.handle hd).base)).toNat / 64 * 64 = src)
    (hf : (Begun s h).core.runsFault hd [(src, len.toNat * 64)] = none) (hc : (Begun s h).clear .M [(src, len.toNat * 64)] [] = true)
    (ho : (Begun s h).ordered .M (Begun s h).nextId = false) :
    Gives (.wld h w off d hd sparse len) s .M h { handles := vmHandle hd } [] (fun c =>
      Beside (Begun s h) .M [(src, len.toNat * 64)] [] (c.loadWeights src start len.toNat sparse)) := by
  subst hsrc hstart
  intro hi
  refine Eq.trans (b := execWld h w off d hd sparse len s) rfl ?_
  exact congrArg Host.Outcome.next (issue_done_nil hi (withRows_reads
    (f := fun c => c.loadWeights _ ((Begun s h).core.weightStart w off) len.toNat sparse) ho hf rfl hc))

theorem gives_mdrain {z : Fin 256} {k : Fin 16} {hd : Fin 64} {off : BitVec 22} {out : Nat} {sh : MShape} (hsh : (Begun s h).core.mshape = sh)
    (hout : (Begun s h).core.rowStart .M k hd off = out) (hf : (Begun s h).core.runsFault hd [(out, sh.rows * sh.cols * 4)] = none)
    (hs : (Begun s h).core.softIn .acc (accRuns z sh.rows sh.cols) = false) (hc : (Begun s h).clear .M [] [(out, sh.rows * sh.cols * 4)] = true)
    (ho : (Begun s h).ordered .M (Begun s h).nextId = false) :
    Gives (.mdrain h z k hd off) s .M h { regs := [(true, z.val)], handles := vmHandle hd } [] (fun c =>
      Beside (Begun s h) .M [] [(out, sh.rows * sh.cols * 4)] (c.writeData out ((List.range sh.rows).flatMap (fun r =>
        (List.range sh.cols).flatMap (fun n => toBytes 4 (c.accAt z.val (r * 64 + n))))))) := by
  subst hsh hout
  intro hi
  refine Eq.trans (b := execMdrain h z k hd off s) rfl ?_
  exact congrArg Host.Outcome.next (issue_done_nil hi (withRows_writes ho hf (onPool_clear hs) hc))

variable {z : Fin 256} {w d : Fin 16} {off : BitVec 12} {via : State → (State → Res) → Res} {src : Core → SMap Byte} {a start : Nat} {p : Nat × Int}
  {r : Res}

/-- MMA and MMAS past their checks: what is left is their A operand's access, with `r` what it makes of the product. -/
theorem mma_checked (hp : s.core.scaleCheck z.val (s.core.readK .M (Fin.ofNat 16 (w.val + 1))).toNat = .ok p)
    (hstart : s.core.weightStart w off = start) (hl : s.core.layoutOk start = true) (hw : s.core.weightFault start = none)
    (hs : s.core.softIn .acc (accRuns z s.core.mshape.rows s.core.mshape.cols) = false)
    (hvia : ∀ g : State → Res, g s = .done (s.modCore (fun c => c.product s.accKey (s.eng .M).pc z.val p (src c) a start)) → via s g = r) :
    s.mma z w off via src a = r := by
  subst hstart
  unfold State.mma
  dsimp only
  rw [hp]
  dsimp only
  rw [hl, if_neg (by decide)]
  refine hvia _ ?_
  rw [hw]
  exact onPool_clear hs

section
variable (hp : (Begun s h).core.scaleCheck z.val ((Begun s h).core.readK .M (Fin.ofNat 16 (w.val + 1))).toNat = .ok p)
  (hstart : (Begun s h).core.weightStart w off = start) (hl : (Begun s h).core.layoutOk start = true)
  (hw : (Begun s h).core.weightFault start = none)
  (hs : (Begun s h).core.softIn .acc (accRuns z (Begun s h).core.mshape.rows (Begun s h).core.mshape.cols) = false)
include hp hstart hl hw hs

theorem gives_mma {a : Fin 256} {tiles shared : List Nat} (ht : s.core.aTiles a = tiles) (hsh : tiles.filter (s.core.sharedWith .M) = shared)
    (hfull : shared.all (Begun s h).core.fullOf = true) (htile : (Begun s h).core.softIn .tile [(a.val * 1024, (Begun s h).core.mshape.aBytes)] = false) :
    Gives (.mma h z a w off) s .M h { regs := tiles.map (fun t => (false, t)) ++ [(true, z.val)] } [] (fun c =>
      (c.product (Begun s h).accKey ((Begun s h).eng .M).pc z.val p c.tiles (a.val * 1024) start).emptyTiles shared) := by
  subst ht hsh
  intro hi
  refine Eq.trans (b := execMma h z a w off s) rfl ?_
  refine congrArg Host.Outcome.next (issue_done_nil hi ?_)
  rw [hfull, if_neg (by decide), mma_checked hp hstart hl hw hs (fun g hg => (onPool_clear htile).trans hg)]
  dsimp only
  rw [State.modCore, State.modCore, State.modCore, State.setCore_core, State.setCore_setCore]

theorem gives_mmas {d : Fin 16} {a : Nat} {run : List (Nat × Nat)} (ha : ((Begun s h).core.readK .M d).toNat / 16 * 16 = a)
    (hrun : [(a, (Begun s h).core.mshape.aBytes)] = run) (hf : (Begun s h).core.runsFault 63 run = none) (hc : (Begun s h).clear .M run [] = true) :
    Gives (.mmas h z w d off) s .M h { regs := [(true, z.val)] } [] (fun c =>
      Beside (Begun s h) .M run [] (c.product (Begun s h).accKey ((Begun s h).eng .M).pc z.val p c.data a start)) := by
  subst ha hrun
  intro hi
  refine Eq.trans (b := execMmas h z w d off s) rfl ?_
  refine congrArg Host.Outcome.next (issue_done_nil hi ?_)
  dsimp only
  refine mma_checked hp hstart hl hw hs (fun g hg => ?_)
  rw [hf]
  exact (onData_clear hc hg).trans (congrArg Res.done (noted_eq_beside (Begun s h) .M _ _ none
    (fun c => c.product (Begun s h).accKey ((Begun s h).eng .M).pc z.val p c.data (((Begun s h).core.readK .M d).toNat / 16 * 16) start)))
end

end

end Sys2Proof.Machine
end

section
/-! PROOFS. Accumulators and the matrix engine (spec/06 R170, spec/07 R173 to R187). -/

open Sys2Proof Sys2Proof.Machine Laws

/-- Settles O42: V's words, the values that each engine sees, M's words. -/
theorem accumulatorWords : Obligations.AccumulatorWords := by
  unfold Obligations.AccumulatorWords
  refine ⟨fun s h m z sat rm t za k => ?_, fun c c' key pc z i x m => ?_, ?_⟩
  · intro b c ty cls
    refine ⟨fun h0 h2 hm hs => vgives_congr (vgives_vdrain hm h0 h2 hs) ?_, fun hty hrec => vgives_vzld hty rfl hrec⟩
    have hty : ty = (Begun s h).core.vshape.ty := by rw [Begun_vshape]
    clear_value ty
    subst hty
    rfl
  · intro now groups
    refine ⟨accSeen_cases, accLoaded_cases, fun hm => ⟨accSeen_unmarked hm, accLoaded_unmarked ?_⟩, raced_unmarked⟩
    rw [hm]
    rfl
  · intro s h ta tb blk sparse rows cols kg z a w d k hd off off22 len b c hs start src at_ out tiles shared run block pc product
    have htiles : s.core.aTiles a = tiles := rfl
    have hpc : pc = ((Begun s h).eng .M).pc := by rw [Begun_eng]
    clear_value pc
    subst hpc
    refine ⟨fun ht => gives_mshape ht blk sparse rows cols, gives_mzero z, gives_wclr, fun hf hc ho => gives_wld rfl rfl hf hc ho,
      fun hf hsoft hc ho => gives_mdrain rfl rfl hf hsoft hc ho, fun p hp hl hw hsoft => ⟨fun hfull htile => ?_, fun hf hc => ?_⟩⟩
    · exact gives_mma (start := start) hp rfl hl hw hsoft htiles (Eq.refl shared) hfull htile
    · exact gives_congr (gives_mmas (start := start) hp rfl hl hw hsoft rfl (Eq.refl run) hf hc) rfl

end

section
/-! PROOFS. A journal that already holds the next identity: what the C commands leave does not hold of every state. -/
namespace Sys2Proof.Machine

open Laws

/-! ### Retiring a word adds nothing to the journal -/

/-- The core with the turn as it was, its journal kept or emptied. -/
structure KeepsJournal (s t : State) : Prop where
  cur : t.cur = s.cur
  journal : t.core.journal = s.core.journal ∨ t.core.journal = []

variable {s t u : State}

theorem KeepsJournal.trans (h : KeepsJournal s t) (h' : KeepsJournal t u) : KeepsJournal s u where
  cur := h'.cur.trans h.cur
  journal := h'.journal.elim (fun e => e ▸ h.journal) .inr
theorem KeepsJournal.of_same (h : Same Core.journal s t) : KeepsJournal s t := ⟨h.cur, .inl h.core⟩
theorem KeepsJournal.rfl : KeepsJournal s s := ⟨.refl _, .inl (.refl _)⟩
theorem KeepsJournal.setCore (s : State) {c : Core} (h : c.journal = s.core.journal) : KeepsJournal s (s.setCore c) := .of_same (.setCore s c h)
theorem journal_setEng (c : Core) (e : Engine) (x : Eng) : (c.setEng e x).journal = c.journal := by cases e <;> rfl
theorem KeepsJournal.modEng (s : State) (e : Engine) (f : Eng → Eng) : KeepsJournal s (s.modEng e f) := .setCore s (journal_setEng _ _ _)

theorem KeepsJournal.stop (s : State) (n : Nat) : KeepsJournal s (s.modCoreAt n Core.stopAll) where
  cur := .refl _
  journal := by
    by_cases h : n = s.cur
    · subst h
      exact .inr (congrArg Core.journal (State.setCore_core s _))
    · exact .inl (congrArg Core.journal (State.setCoreAt_coreAt_other (s := s) (c := (s.coreAt n).stopAll) (h := fun e => h e.symm)))
theorem KeepsJournal.abandon (s : State) (core : Nat) (d : Bool) : KeepsJournal s (s.abandon core d) := by
  have hfree : CacheFree Core.journal := fun _ _ _ => .refl _
  have hsaves (s : State) (o : Option Nat) : KeepsJournal s (match o with | some id => s.dropSaves id | none => s) := by
    cases o
    · exact .rfl
    · exact .of_same (.dropSaves _ _)
  have hfold (l : List Nat) (s : State) : KeepsJournal s (l.foldl (fun s n => s.modCoreAt n Core.stopAll) s) := by
    induction l generalizing s with
    | nil => exact .rfl
    | cons n l ih => exact (KeepsJournal.stop s n).trans (ih _)
  exact ((KeepsJournal.of_same (.postTrapEvent hfree s core true d)).trans (hsaves _ _)).trans (hfold _ _)
theorem KeepsJournal.takeTrap (s : State) (e : Engine) (pc : Nat) (x : TrapInfo) : KeepsJournal s (s.takeTrap e pc x) := by
  have hfree : CacheFree Core.journal := fun _ _ _ => .refl _
  unfold State.takeTrap
  split
  · split
    · exact (KeepsJournal.setCore s (c := s.core.doubleTrap pc x) (.refl _)).trans (.abandon _ _ _)
    · exact .modEng _ _ _
  · have h : KeepsJournal s (s.setCore ((s.core.trapEntry e pc x).learnAll (Clock.all s.nextId))) := .setCore s (.refl _)
    dsimp only
    split
    · exact h.trans (.of_same (.postTrapEvent hfree _ _ _ _))
    · exact h
theorem KeepsJournal.lateTrap (s : State) (e : Engine) (b : Bool) (pc : Nat) (x : TrapInfo) : KeepsJournal s (s.lateTrap e b pc x) := by
  unfold State.lateTrap
  split
  · exact .modEng _ _ _
  · exact .takeTrap _ _ _ _
theorem KeepsJournal.follow (s : State) (e : Engine) (x : SigEntry) : KeepsJournal s (s.follow e x) := by
  unfold State.follow
  split
  · exact .rfl
  · exact .lateTrap _ _ _ _ _
  · exact .modEng _ _ _
  · split
    · exact .abandon _ _ _
    · exact .rfl
theorem journal_setQueue (c : Core) (q : Fin 16) (l : List Word32) : (c.setQueue q l).journal = c.journal := by
  unfold Core.setQueue
  split <;> rfl
theorem journal_perform {c d : Core} {x : Signal} {o : Option TrapInfo} (h : c.perform x = some (d, o)) : d.journal = c.journal := by
  cases x <;> simp only [Core.perform] at h
  case none => cases h; rfl
  case push => split at h <;> cases h; exact journal_setQueue _ _ _
  case release => split at h <;> cases h <;> rfl
  case arm => split at h <;> cases h <;> rfl
theorem journal_noteSig (c d : Core) (e : Engine) (x : SigEntry) : (c.noteSig e x d).journal = c.journal := by
  obtain ⟨_, h⟩ := noteSig_eq c d e x
  rw [h]
theorem KeepsJournal.teach (s : State) (e : Engine) (x : Signal) : KeepsJournal s (s.teach e x) := by
  cases x with
  | none => exact .rfl
  | arm _ => exact .rfl
  | push _ q => exact .setCore s (by unfold Core.teachPush; split <;> rfl)
  | release _ => exact .setCore s (.refl _)
theorem KeepsJournal.flushSigs (e : Engine) (xs : List SigEntry) (s : State) : KeepsJournal s (s.flushSigs e xs) := by
  induction xs generalizing s with
  | nil => exact .modEng _ _ _
  | cons x xs ih =>
    unfold State.flushSigs
    split
    · exact .modEng _ _ _
    · split
      · exact .modEng _ _ _
      next c h =>
        have hc : KeepsJournal s ((s.setCore (c.noteSig e x s.core)).teach e x.sig) :=
          (KeepsJournal.setCore s ((journal_noteSig _ _ _ _).trans (journal_perform h))).trans (.teach _ _ _)
        dsimp only
        split
        · exact hc.trans (ih _)
        · exact (hc.trans (.modEng _ _ _)).trans (.follow _ _ _)
      next h => exact ((KeepsJournal.setCore s (journal_perform h)).trans (.modEng _ _ _)).trans (.lateTrap _ _ _ _ _)
theorem KeepsJournal.retire (s : State) (e : Engine) (h : Hdr) (pc : Nat) : KeepsJournal s (s.retire e h pc) := by
  unfold State.retire State.signal
  split <;> exact (KeepsJournal.modEng _ _ _).trans (.flushSigs _ _ _)

/-! ### The state -/

set_option maxRecDepth 100000
set_option exponentiation.threshold 4096

/-- A fill of handle 0 whose moves are still to be made, under the identity that the next command takes. -/
def staleEntry : JEntry :=
  { id := 1, pc := 0, cmd := ⟨.fill, 0, .wt, .core, false⟩, desc := [], base := 0, count := 0, tmr := none, row := 0, cancelled := false, fault := none }
/-- A write-back of the core that is under way: the core has not released what it wrote. -/
def writebackOnItsWay : Req :=
  { id := 0, core := 0, eng := .S, kind := .writeback, pol := .wt, inv := false, addr := 0, size := 64, va := 0, ctx := 0, ia := 0, data := 0,
    wb := [], seq := none, ncon := 0, stage := .sent }
/-- The machine whose first core holds that entry, and handle 0 filling, its bytes all counted, at a scope beyond the core. -/
def staleState : State :=
  { State.reset with
    nextId := 1, coh := { reqs := [writebackOnItsWay] },
    cores := [(0, { journal := [staleEntry], handles := (Vector.replicate 64 {}).set 0 { st := .filling, widest := 1 } })] }
def staleHdr : Hdr := { guard := 0, neg := false, wait := .none, sig := .none }
/-- A FILL with no handle, its descriptor the 64 zero bytes at 0: an empty box. -/
def staleFill : Instr := .fill staleHdr 63 0 0 .wt .core false
def staleCmd : CCmd := ⟨.fill, 63, .wt, .core, false⟩

theorem issues_staleState : Issues staleState .C staleHdr { handles := [] } [] :=
  ⟨by decide +kernel, by decide +kernel, by decide +kernel, by decide +kernel, by decide +kernel, fun he => nomatch he⟩

/-- The plan of the command moves nothing and passes every check. -/
def staleChecks : Bool :=
  let b := Begun staleState staleHdr
  match b.plan staleCmd (b.descriptor 0 64) none with
  | .ok p => p.empty && (b.commandFault staleCmd (b.descriptor 0 64) 0 p).isNone
  | .error _ => false
theorem staleChecks_pass : staleChecks = true := by decide +kernel

/-- What the model does: the entry that stood before is held, and the command's own stays in the journal behind it. -/
def journalLeft (i : Instr) (s : State) : Nat := match exec i s with | .next t => t.core.journal.length | _ => 0
theorem journalLeft_staleFill : journalLeft staleFill staleState = 2 := by decide +kernel

theorem journalLeft_le {e : Engine} {h : Hdr} {i : Instr} (hx : exec i s = .next (Done s e h u)) : journalLeft i s ≤ u.core.journal.length := by
  unfold journalLeft
  rw [hx]
  dsimp only
  rcases (KeepsJournal.retire u e h (s.eng e).pc).journal with hj | hj <;> rw [Done, hj]
  exact Nat.zero_le _

end Sys2Proof.Machine
end

section
/-! PROOFS. The journal after a C command (spec/13 R287 to R292). -/

open Sys2Proof Sys2Proof.Machine

/-- Refutes O43: the statement does not ask that the journal's identities lie below the next one. In `staleState` an entry has the identity
that the FILL takes; the box being empty, the FILL's completion finds that entry in place of its own, and holds it for a release that the
core owes, so that the FILL's own entry stays, where the statement has no entry beside the earlier ones. -/
theorem not_commandsEnterJournal : ¬ Obligations.CommandsEnterJournal := by
  unfold Obligations.CommandsEnterJournal
  intro hf
  have hchecks := staleChecks_pass
  unfold staleChecks at hchecks
  dsimp only at hchecks
  split at hchecks
  next p hp =>
    rw [Bool.and_eq_true, Option.isNone_iff_eq_none] at hchecks
    obtain ⟨he, hfault⟩ := hchecks
    have hc := (hf staleState staleHdr 63 0 0 .wt .core false .sum 0 staleFill staleCmd 64 none p
      (.tail _ (.tail _ (.tail _ (.tail _ (.head _))))) issues_staleState (by decide +kernel) (by decide +kernel) (by decide +kernel)
      (fun _ => by decide +kernel) (by decide +kernel) hp hfault (by decide +kernel) (by decide +kernel) (by decide +kernel)).2.1 he
      (by decide +kernel) (.inl (Eq.refl _))
    obtain ⟨u, k, hx, hj, -⟩ := hc
    have hlen : journalLeft staleFill staleState ≤ u.core.journal.length := journalLeft_le hx
    have hone : (Begun staleState staleHdr).core.journal.length = 1 := by decide +kernel
    have hle := List.length_filter_le (fun j : JEntry => j.id != k) (Begun staleState staleHdr).core.journal
    rw [journalLeft_staleFill, hj] at hlen
    omega
  · exact absurd hchecks (by decide)

end

section
/-! PROOFS. The end of C's transfers. -/
namespace Sys2Proof.Machine

open Laws

variable {s t : State} {n : Nat} {j : JEntry} {fl : Flags} {offer : Option (Nat × Nat)} {k : Nat} {x : TrapInfo}

/-! ### The two events and the piece, on an entry that may act -/

theorem onCore_eq {f : State → State} {u : State} (h : f { s with cur := n } = u) : s.onCore n f = { u with cur := s.cur } := by
  rw [State.onCore, h]

/-- The core's cycle sampled, with the core as the current one. -/
def State.sampledAt (s : State) (n : Nat) : State := State.sampleCycle { s with cur := n }

theorem transferring_of_find {c : Core} (hs : c.started = true) (hl : c.transfersLeft = true)
    (hj : c.journal.find? (fun k => k.id == j.id) = some j) (hc : j.cancelled = false) (hf : j.fault = none) : c.transferring j.id = some j := by
  rw [Core.transferring, hs, hl, if_pos (by decide)]
  rw [List.find?_eq_some_iff_append] at hj ⊢
  obtain ⟨hid, as, bs, heq, hbefore⟩ := hj
  refine ⟨by simp [hc, hf], as, bs, heq, fun a ha => ?_⟩
  have := hbefore a ha
  simp only [Bool.not_eq_true'] at this ⊢
  rw [this]
  rfl

/-- What TRANSFER_COMPLETE does with the entry that acts. -/
def State.completed (s : State) (j : JEntry) (ext : List CollPart) : State :=
  match j.moved with
  | some (fl, offer) => if (s.core.offerClash j offer).isSome then s else s.finishEntry j fl offer
  | none =>
    match (s.before j).performEntry j ext with
    | .error (.wait f) => f s
    | .error (.fault f t _) => (match j.cmd.kind with | .coll _ => (f s).transferTrap j t | _ => s)
    | .ok (s', fl, offer) =>
      match s.core.offerClash j offer with
      | some t => (match j.cmd.kind with | .coll _ => (s'.beside s j).transferTrap j t | _ => s)
      | none => if s.lingers j then (s'.beside s j).holdEntry j (fl ||| j.raised) offer else (s'.beside s j).finishEntry j (fl ||| j.raised) offer
/-- What the fabric's report does with the entry that acts, else `f`. -/
def State.fabricFaulted (s : State) (j : JEntry) (k : Nat) (f : State → State) : State :=
  match s.fabricFault j k with
  | some t =>
    (((s.before j).movesUpTo j j.tagged (match j.cmd.kind with | .send | .coll _ => [] | _ => s.movesLeft j (s.pairScale j.tmr)) k).beside s
      j).freeWord.2.transferTrap j t
  | none => f s
/-- What TRANSFER_FAULT does with the entry that acts. -/
def State.faultMet (s : State) (j : JEntry) (k : Nat) : State :=
  match j.moved with
  | some (_, offer) => (match s.core.offerClash j offer with | some t => s.transferTrap j t | none => s)
  | none =>
    match (s.before j).performEntry j [] with
    | .error (.fault f t made) => (f (((s.before j).movesUpTo j j.tagged made k).beside s j)).transferTrap j t
    | .ok (s', _, offer) => (match s.core.offerClash j offer with | some t => (s'.beside s j).transferTrap j t | none => s.fabricFaulted j k id)
    | .error (.wait f) => s.fabricFaulted j k f
/-- What a piece's event does with the entry that acts. -/
def State.pieceMade (s : State) (j : JEntry) (k : Nat) : State :=
  if j.moved.isSome || j.made.contains k || (s.core.sramFault (j.firstReads (s.pairScale j.tmr))).isSome then s
  else
    match (s.before j).performPiece j k with
    | .error (.wait f) => f s
    | .error (.fault _ _ _) => s
    | .ok (s', fl, v) =>
      (s'.beside s j).modCore (fun c => { c with journal := c.journal.map (fun x =>
        if x.id = j.id then { x with made := k :: x.made, raised := x.raised ||| fl, found := v } else x) })

section
variable (hj : (s.sampledAt n).core.transferring j.id = some j)
include hj

theorem transferComplete_eq (ext : List CollPart) :
    s.transferComplete n j.id ext = { (s.sampledAt n).completed j ext with cur := s.cur } := by
  refine onCore_eq ?_
  rw [show State.sampleCycle { s with cur := n } = s.sampledAt n from rfl]
  dsimp only
  rw [hj]
  rfl
theorem transferFault_eq : s.transferFault n j.id k = { (s.sampledAt n).faultMet j k with cur := s.cur } := by
  refine onCore_eq ?_
  rw [show State.sampleCycle { s with cur := n } = s.sampledAt n from rfl]
  dsimp only
  rw [hj]
  rfl
theorem makePiece_eq : s.makePiece n j.id k = { (s.sampledAt n).pieceMade j k with cur := s.cur } := by
  refine onCore_eq ?_
  rw [show State.sampleCycle { s with cur := n } = s.sampledAt n from rfl]
  dsimp only
  rw [hj]
  rfl
end

section
variable {ext : List CollPart}

theorem completed_performed (hm : j.moved = none) (hp : (s.before j).performEntry j ext = .ok (t, fl, offer)) (hc : s.core.offerClash j offer = none) :
    s.completed j ext = if s.lingers j then (t.beside s j).holdEntry j (fl ||| j.raised) offer
      else (t.beside s j).finishEntry j (fl ||| j.raised) offer := by
  unfold State.completed
  rw [hm, hp]
  dsimp only
  rw [hc]
theorem completed_moved (hm : j.moved = some (fl, offer)) (hc : s.core.offerClash j offer = none) : s.completed j ext = s.finishEntry j fl offer := by
  unfold State.completed
  rw [hm]
  dsimp only
  rw [hc]
  rfl
theorem faulted_moved (hm : j.moved = some (fl, offer)) (hc : s.core.offerClash j offer = some x) : s.faultMet j k = s.transferTrap j x := by
  unfold State.faultMet
  rw [hm]
  dsimp only
  rw [hc]
theorem faulted_clash (hm : j.moved = none) (hp : (s.before j).performEntry j [] = .ok (t, fl, offer)) (hc : s.core.offerClash j offer = some x) :
    s.faultMet j k = (t.beside s j).transferTrap j x := by
  unfold State.faultMet
  rw [hm, hp]
  dsimp only
  rw [hc]
theorem faulted_fault {f : State → State} {made : List Move} (hm : j.moved = none)
    (hp : (s.before j).performEntry j [] = .error (.fault f x made)) :
    s.faultMet j k = (f (((s.before j).movesUpTo j j.tagged made k).beside s j)).transferTrap j x := by
  unfold State.faultMet
  rw [hm, hp]
theorem pieceMade_ok {v : Option Nat} (hm : j.moved = none) (hk : j.made.contains k = false)
    (hs : s.core.sramFault (j.firstReads (s.pairScale j.tmr)) = none) (hp : (s.before j).performPiece j k = .ok (t, fl, v)) :
    s.pieceMade j k = (t.beside s j).modCore (fun c => { c with journal := c.journal.map (fun x =>
      if x.id = j.id then { x with made := k :: x.made, raised := x.raised ||| fl, found := v } else x) }) := by
  unfold State.pieceMade
  rw [hm, hk, hs, hp]
  rfl
end

/-! ### Completion (R292) -/

theorem cleanWords_entries (c : Core) (ks : List Nat) :
    ((c.cleanWords ks).journal, (c.cleanWords ks).handles) = (c.journal, c.handles) := by
  unfold Core.cleanWords
  induction ks generalizing c with
  | nil => rfl
  | cons k ks ih =>
    rw [List.foldl_cons, ih]
    split <;> rfl

theorem finishEntry_owing (ho : (s.owesAcks j || s.owesRelease j offer) = true) : (s.finishEntry j fl offer).core.journal
      = s.core.journal.map (fun k => if k.id = j.id then { k with moved := some (fl, offer) } else k)
    ∧ (s.finishEntry j fl offer).core.handles = s.core.handles := by
  have hsend (n l : Nat) (s : State) : Same (fun c => (c.journal, c.handles)) s (s.sendWriteback n l) := by
    unfold State.sendWriteback
    dsimp only
    split
    · exact .rfl
    · exact Same.trans (.of_cores (t := { s.fresh.2 with coh := _ }) (.refl _) (.refl _)) (.modCoreAt _ n _ (fun c => cleanWords_entries c _))
  have hpush : Same (fun c => (c.journal, c.handles)) s (if s.owesRelease j offer then s.pushRelease .sys else s) := by
    split
    · exact .foldl (fun s l => hsend _ l s) _ _
    · exact .rfl
  obtain ⟨hjournal, hhandles⟩ := Prod.ext_iff.1 hpush.core
  unfold State.finishEntry State.holdEntry
  rw [if_pos ho, State.modCore, State.setCore_core]
  exact ⟨congrArg (List.map _) hjournal, hhandles⟩

section
variable {c : Core}

@[simp] theorem handle_setHandle (c : Core) (h : Fin 64) (x : Handle) : (c.setHandle h x).handle h = x := by
  simp [Core.handle, Core.setHandle]

/-- What an entry's completion writes besides: C's flags, what the engines have acquired, the footprints. -/
structure Ends (c u : Core) : Prop where
  journal : u.journal = c.journal
  s : u.s = c.s
  data : u.data = c.data
theorem Ends.trans {d u : Core} (h : Ends c d) (h' : Ends d u) : Ends c u :=
  ⟨h'.journal.trans h.journal, h'.s.trans h.s, h'.data.trans h.data⟩
theorem Ends.raiseC (c : Core) (f : Flags) : Ends c (c.raiseC f) := ⟨rfl, rfl, rfl⟩
theorem Ends.learnAll (c : Core) (k : Clock) : Ends c (c.learnAll k) := ⟨rfl, rfl, rfl⟩
theorem Ends.dropFootprint (c : Core) (p : Footprint → Bool) : Ends c (c.dropFootprint p) := ⟨rfl, rfl, rfl⟩
theorem Ends.setHandle (c : Core) (h : Fin 64) (x : Handle) : Ends c (c.setHandle h x) := ⟨rfl, rfl, rfl⟩
theorem Ends.complete (c : Core) (j : JEntry) (fl : Flags) (offer : Option (Nat × Nat)) : Ends (c.dropEntry j.id) (c.complete j fl offer) := by
  unfold Core.complete
  dsimp only
  split
  · exact (Ends.raiseC _ _).trans (.dropFootprint _ _)
  · split
    · exact (((Ends.setHandle _ _ _).trans (.raiseC _ _)).trans (.learnAll _ _)).trans (.dropFootprint _ _)
    · split
      · exact (((Ends.setHandle _ _ _).trans (.raiseC _ _)).trans (.learnAll _ _)).trans (.dropFootprint _ _)
      · exact .setHandle _ _ _

theorem complete_none (h : j.cmd.hd = 63) : c.complete j fl offer = ((c.dropEntry j.id).raiseC fl).dropFootprint (fun f => f.id == j.id) := by
  rw [Core.complete, if_pos h]
theorem complete_kept (c : Core) (j : JEntry) (fl : Flags) (offer : Option (Nat × Nat)) :
    (c.complete j fl offer).journal = c.journal.filter (fun k => k.id != j.id) ∧ (c.complete j fl offer).s = c.s ∧ (c.complete j fl offer).data = c.data := by
  have h := Ends.complete c j fl offer
  exact ⟨h.journal, h.s, h.data⟩
theorem complete_drain (h : j.cmd.hd ≠ 63) (hd : j.cmd.drain = true) : ((c.complete j fl offer).handle j.cmd.hd).st = .free := by
  have hw (x : Handle) (k : Core) : ((((k.setHandle j.cmd.hd x).raiseC fl).learnAll (k.clock .C)).dropFootprint (fun f => f.id == j.id)).handle j.cmd.hd = x :=
    handle_setHandle k _ x
  unfold Core.complete
  rw [if_neg h, if_pos (.inl hd)]
  dsimp only
  rw [hw]
  split <;> rfl
theorem complete_fill (h : j.cmd.hd ≠ 63) (hd : j.cmd.drain = false) (hk : j.cmd.kind ≠ .wend) :
    (c.complete j fl offer).handle j.cmd.hd = ((c.handle j.cmd.hd).completed j.count fl offer).1 := by
  unfold Core.complete
  rw [if_neg h, if_neg (by simp [hd, hk])]
  dsimp only
  split <;> exact handle_setHandle _ _ _
theorem completed_filling {x : Handle} {n : Nat} (hs : x.st = .filling) : (x.completed n fl offer).1.counted = x.counted + n
    ∧ (x.completed n fl offer).1.pending = x.pending - n
    ∧ (x.completed n fl offer).1.st = if x.counted + n = x.expected then .full else .filling := by
  unfold Handle.completed
  dsimp only
  by_cases hn : x.counted + n = x.expected
  · rw [if_pos ⟨hs, hn⟩, if_pos hn]
    exact ⟨rfl, rfl, rfl⟩
  · rw [if_neg (fun h => hn h.2), if_neg hn]
    exact ⟨rfl, rfl, hs⟩
end

/-! ### COPY and FILL within the data area (R296, R299) -/

/-- A row written by a move within the data area. -/
def JEntry.dataAt (j : JEntry) (a : Nat) : Nat := (j.base + a) % 2 ^ 64

theorem readPool_clean {c : Core} {o m : Nat} (hu : c.upsets = []) : c.readPool o m = .ok (c.readData o m) := by
  rw [Core.readPool, Core.sramFault, hu]
  rfl
theorem upsets_writeData {c : Core} (hu : c.upsets = []) (o : Nat) (bs : List Byte) : (c.writeData o bs).upsets = [] := by
  rw [Core.writeData, hu]
  rfl

/-- The move of one row. -/
theorem move_row {src : Option Nat} {dst m : Nat} {make : List Byte → List Byte × Flags} {out : List Byte} {tag : Option (Nat × Nat)}
    (hu : s.core.upsets = []) (hm : make (src.elim [] (fun a => s.core.readData (j.dataAt a) m)) = (out, 0)) (hl : out.length ≤ m) :
    s.move j { reads := (src.map (fun a => ({ space := 0, addr := a, len := m } : Span))).toList,
               writes := [{ space := 0, addr := dst, len := m, write := true }], make } tag
      = .ok (s.modCore (fun c => c.writeData (j.dataAt dst) out), 0) := by
  cases src with
  | none =>
    have hm' : make [] = (out, 0) := hm
    simp only [State.move, Option.map_none, Option.toList_none, List.foldl_nil, List.foldl_cons, hm', State.writeSpan, if_pos, List.take_of_length_le hl]
    rfl
  | some a =>
    have hm' : make (s.core.readData ((j.base + a) % 2 ^ 64) m) = (out, 0) := hm
    simp only [State.move, Option.map_some, Option.toList_some, List.foldl_nil, List.foldl_cons, State.readSpan, if_pos, readPool_clean hu, Except.map,
      List.nil_append, hm', State.writeSpan, List.take_of_length_le hl]
    rfl

/-- The move of a row of COPY, and of FILL. -/
def copyRow (d : List Byte) (r : Nat × Nat) : Move :=
  { reads := [{ space := Box.srcSpace d, addr := r.1, len := Box.ext d 0 }],
    writes := [{ space := Box.dstSpace d, addr := r.2, len := Box.ext d 0, write := true }], make := fun bs => (bs, 0) }
def fillRow (d : List Byte) (r : Nat × Nat) : Move :=
  { reads := [], writes := [{ space := Box.dstSpace d, addr := r.2, len := Box.ext d 0, write := true }],
    make := fun _ => ((List.range (Box.ext d 0)).map (fun i => BitVec.ofNat 8 (Box.src d / 256 ^ (i % 8))), 0) }

/-- The moves of rows, one after the other. -/
theorem moves_rows {α : Type} {rs : List α} {mk : α → Move} {f : State → α → State} {tag : Option (Nat × Nat)}
    (hf : ∀ s : State, s.core.upsets = [] → ∀ r, s.move j (mk r) tag = .ok (f s r, 0) ∧ (f s r).core.upsets = []) (hu : s.core.upsets = []) :
    s.moves j (rs.map mk) tag = .ok (rs.foldl f s, 0) := by
  unfold State.moves
  induction rs generalizing s with
  | nil => rfl
  | cons r rs ih =>
    obtain ⟨hmove, hclean⟩ := hf s hu r
    rw [List.map_cons, List.foldl_cons, List.foldl_cons]
    have hzero : (0 : Flags) ||| 0 = 0 := rfl
    simp only [hmove, Except.map, hzero]
    exact ih hclean

/-- What an entry does whose moves stand under no scale of their own. -/
def State.plainMoves (s : State) (j : JEntry) (tag o : Option (Nat × Nat)) : Except Stop (State × Flags × Option (Nat × Nat)) :=
  ((s.moves j (s.movesLeft j plainScale) tag).map (fun q => (q.1, q.2, o))).mapError (Stop.under (s.movesLeft j plainScale))

theorem performEntry_clean {ext : List CollPart} (hu : s.core.upsets = []) : s.performEntry j ext = s.performBody j ext := by
  rw [State.performEntry, Core.sramFault, hu]
  rfl
theorem performBody_copy {ext : List CollPart} (hk : j.cmd.kind = .copy) (ht : Box.tagValid j.desc = false) :
    s.performBody j ext = s.plainMoves j j.tagged j.tmr := by
  unfold State.performBody
  rw [hk]
  dsimp only
  rw [if_neg (by simp [ht])]
  rfl
theorem performBody_fill {ext : List CollPart} (hk : j.cmd.kind = .fill) : s.performBody j ext = s.plainMoves j none none := by
  unfold State.performBody
  rw [hk]
  rfl
theorem plainMoves_rows {α : Type} {rs : List α} {mk : α → Move} {f : State → α → State} {tag o : Option (Nat × Nat)}
    (hf : ∀ s : State, s.core.upsets = [] → ∀ r, s.move j (mk r) tag = .ok (f s r, 0) ∧ (f s r).core.upsets = []) (hu : s.core.upsets = [])
    (hm : j.made = []) (he : s.entryMoves j plainScale = rs.map mk) : s.plainMoves j tag o = .ok (rs.foldl f s, 0, o) := by
  have hl : s.movesLeft j plainScale = rs.map mk := by
    rw [State.movesLeft, hm]
    exact he
  rw [State.plainMoves, hl, moves_rows hf hu]
  rfl

/-! ### A transfer that faults (R290) -/

theorem transferTrap_held (hm : s.core.trap.mode = true) : (s.transferTrap j x).core.journal
    = s.core.journal.map (fun k => if k.id = j.id then { k with fault := some x } else k) := by
  rw [State.transferTrap, if_pos hm, State.modCore, State.setCore_core]

theorem takeTrap_keeps {α : Type} {g : Core → α} (hg : CacheFree g) {e : Engine} {pc : Nat} (hm : s.core.trap.mode = false)
    (he : ∀ c k, g ((c.trapEntry e pc x).learnAll k) = g c) : g (s.takeTrap e pc x).core = g s.core := by
  rw [takeTrap_enters hm]
  dsimp only
  split
  · rw [(Same.postTrapEvent hg _ _ _ _).core, State.setCore_core]
    exact he _ _
  · rw [State.setCore_core]
    exact he _ _

theorem transferTrap_enters (hm : s.core.trap.mode = false) :
    (s.transferTrap j x).core.trap.mode = true ∧ (s.transferTrap j x).core.trap.cause = x.cause ∧ (s.transferTrap j x).core.trap.engine = .C
      ∧ (s.transferTrap j x).core.trap.pc = j.pc ∧ (s.transferTrap j x).core.trap.cEntry = some { j.restart with cancelled := false, fault := none }
      ∧ (s.transferTrap j x).core.journal = (s.core.journal.filter (fun k => k.id != j.id)).map (fun k =>
          if j.id < k.id then { k.restart with cancelled := true } else k) := by
  unfold State.transferTrap
  rw [if_neg (by rw [hm]; decide)]
  dsimp only
  generalize hu : s.modCore (fun k => { k with
    journal := (k.journal.filter (fun x => x.id != j.id)).map (fun x => if j.id < x.id then { x.restart with cancelled := true } else x),
    checker := k.checker.map (fun f => if j.id ≤ f.id then { f with held := true } else f) }) = u
  have hmode : u.core.trap.mode = false := by rw [← hu, State.modCore, State.setCore_core]; exact hm
  have hjournal : (u.takeTrap .C j.pc x).core.journal = u.core.journal := takeTrap_keeps (g := Core.journal) (fun _ _ _ => rfl) hmode (fun _ _ => rfl)
  have htrap : (u.takeTrap .C j.pc x).core.trap = (u.core.trapEntry .C j.pc x).trap := by
    rw [takeTrap_enters hmode]
    dsimp only
    split
    · rw [(Same.postTrapEvent cacheFree_trap _ _ _ _).core, State.setCore_core]
      rfl
    · rw [State.setCore_core]
      rfl
  rw [State.modCore, State.setCore_core]
  dsimp only
  rw [htrap, hjournal, ← hu, State.modCore, State.setCore_core]
  exact ⟨rfl, rfl, rfl, rfl, rfl, rfl⟩

/-! ### The code feed (R41) -/

/-- The window that a refill outside the ring asks for. -/
structure Refill where
  w : Nat
  k : Nat
  off : Nat
  a : Nat
/-- The reload of an engine's window at its PC's multiple of 64. -/
def Core.refill (c : Core) (e : Engine) : Refill :=
  let w := (c.eng e).pc / 64 * 64
  let off := ((c.obj.streams[e.num]?).getD (0, 0)).1
  { w, k := min (Part.ringWords c.part e) ((c.eng e).ring.len - w), off, a := c.obj.addr + off + 8 * w }
/-- The words read, their request's walk made. -/
def State.refillRead (s : State) (e : Engine) : State :=
  let f := s.core.refill e
  ((s.feedWalk e s.core.obj f.off f.w f.k).unitTouch s.core.obj.ctx f.a (8 * f.k)).modCore (fun c => { c with feeds := c.feeds.erase e })

section
variable {e : Engine} {bs : List Byte} {b : State} (hb : { s with cur := n } = b) (ht : e = .S → b.core.trap.mode = false)
  (hpc : (b.core.eng e).pc < (b.core.eng e).ring.len) (hlen : Part.ringWords b.core.part e < (b.core.eng e).ring.len)
  (ho : (b.core.eng e).pc < (b.core.eng e).ring.base ∨ (b.core.eng e).ring.base + Part.ringWords b.core.part e ≤ (b.core.eng e).pc)
include hb ht hpc hlen ho

/-- A refill at a PC outside the window, by what has become of its request. -/
theorem codeFeed_outside : s.codeFeed n e =
    { (if !b.core.feeds.contains e then (if b.noRoom e 1 then b else b.setCore { b.core with feeds := b.core.feeds ++ [e] })
       else if !b.unitReady b.core.obj.ctx (b.core.refill e).a (8 * (b.core.refill e).k) then
         b.unitTouch b.core.obj.ctx (b.core.refill e).a (8 * (b.core.refill e).k)
       else
         match (b.refillRead e).feedRing b.core.obj (b.core.refill e).off (Part.ringWords b.core.part e) { (b.core.eng e).ring with slots := [] }
             (b.core.refill e).w (b.core.refill e).k (b.core.refill e).w with
         | none => b.refillRead e
         | some r => ((b.refillRead e).modEng e (fun x => { x with ring := r })).modCore (fun c =>
             c.mendRing e (Part.ringWords b.core.part e) (b.core.refill e).w (b.core.refill e).k)) with cur := s.cur } := by
  refine onCore_eq ?_
  rw [hb]
  have hin : ¬(e = .S ∧ b.core.trap.mode = true) := fun h => by
    have := ht h.1
    rw [this] at h
    exact absurd h.2 (by decide)
  dsimp only
  simp only [if_neg hin]
  rw [if_neg (by omega), if_pos ho]
  rfl

theorem codeFeed_asks (hf : b.core.feeds.contains e = false) (hr : b.noRoom e 1 = false) :
    s.codeFeed n e = { b.setCore { b.core with feeds := b.core.feeds ++ [e] } with cur := s.cur } := by
  rw [codeFeed_outside hb ht hpc hlen ho, hf, hr]
  rfl
theorem codeFeed_waits (hf : b.core.feeds.contains e = true) (hr : b.unitReady b.core.obj.ctx (b.core.refill e).a (8 * (b.core.refill e).k) = false) :
    s.codeFeed n e = { b.unitTouch b.core.obj.ctx (b.core.refill e).a (8 * (b.core.refill e).k) with cur := s.cur } := by
  rw [codeFeed_outside hb ht hpc hlen ho, hf, hr]
  rfl
theorem codeFeed_loads (hf : b.core.feeds.contains e = true) (hr : b.unitReady b.core.obj.ctx (b.core.refill e).a (8 * (b.core.refill e).k) = true)
    (hbs : (b.refillRead e).unitBytes b.core.obj.ctx (b.core.refill e).a (8 * (b.core.refill e).k) = some bs) :
    s.codeFeed n e = { ((b.refillRead e).modEng e (fun x => { x with ring := { (b.core.eng e).ring with
        base := (b.core.refill e).w, slots := (List.range (b.core.refill e).k).foldl (fun m i =>
          SMap.put m (((b.core.refill e).w + i) % Part.ringWords b.core.part e) (BitVec.ofNat 64 (recordField bs (8 * i) 8))) [] } })).modCore (fun c =>
      c.mendRing e (Part.ringWords b.core.part e) (b.core.refill e).w (b.core.refill e).k) with cur := s.cur } := by
  rw [codeFeed_outside hb ht hpc hlen ho, hf, hr, State.feedRing]
  dsimp only [Core.refill] at hbs ⊢
  rw [hbs]
  rfl
end

end Sys2Proof.Machine
end

section
/-! PROOFS. The end of C's transfers (spec/13 R292 to R299). -/

open Sys2Proof Sys2Proof.Machine Laws

/-- Settles O44: the events on an entry, its completion, its moves, its fault, the refills. -/
theorem transfersEnd : Obligations.TransfersEnd := by
  unfold Obligations.TransfersEnd
  refine ⟨fun s n j ext k => ?_, fun s j fl offer => ⟨fun ho => if_neg (by rw [ho]; decide), finishEntry_owing⟩, fun c j fl offer => ?_,
    fun s j ext => ?_, fun s j x => ⟨transferTrap_held, transferTrap_enters⟩, fun s n e bs => ?_⟩
  · intro b hs hl hj hc hf
    have ht := transferring_of_find hs hl hj hc hf
    refine ⟨fun t fl offer hm hp hcl => ?_, fun fl offer hm => ⟨fun hcl => ?_, fun x hcl => ?_⟩, fun t fl offer x hm hp hcl => ?_,
      fun f x made hm hp => ?_, fun t fl v hm hk hs hp => ?_⟩
    · exact congrArg Host.Outcome.next ((transferComplete_eq ht ext).trans (congrArg (fun u : State => { u with cur := s.cur }) (completed_performed hm hp hcl)))
    · exact congrArg Host.Outcome.next ((transferComplete_eq ht ext).trans (congrArg (fun u : State => { u with cur := s.cur }) (completed_moved hm hcl)))
    · exact congrArg Host.Outcome.next ((transferFault_eq ht).trans (congrArg (fun u : State => { u with cur := s.cur }) (faulted_moved hm hcl)))
    · exact congrArg Host.Outcome.next ((transferFault_eq ht).trans (congrArg (fun u : State => { u with cur := s.cur }) (faulted_clash hm hp hcl)))
    · exact congrArg Host.Outcome.next ((transferFault_eq ht).trans (congrArg (fun u : State => { u with cur := s.cur }) (faulted_fault hm hp)))
    · exact (makePiece_eq ht).trans (congrArg (fun u : State => { u with cur := s.cur }) (pieceMade_ok hm hk hs hp))
  · intro u x
    obtain ⟨hjournal, hregs, hdata⟩ := complete_kept c j fl offer
    refine ⟨hjournal, hregs, hdata, fun h => ?_, complete_drain, fun h hd hk hx => ?_⟩
    · rw [show u = _ from complete_none h]
      exact ⟨rfl, rfl⟩
    · rw [show u.handle j.cmd.hd = _ from complete_fill h hd hk]
      exact completed_filling hx
  · intro d n at_ hdst hu hm
    refine ⟨fun hk hsrc ht => ?_, fun hk => ?_⟩
    · rw [performEntry_clean hu, performBody_copy hk ht]
      refine plainMoves_rows (mk := copyRow d) (fun s hu r => ⟨?_, ?_⟩) hu hm ?_
      · rw [copyRow, hsrc, hdst]
        exact move_row (src := some r.1) hu rfl (by simp [Core.readData, SMap.getRange, n])
      · rw [State.modCore, State.setCore_core]
        exact upsets_writeData hu _ _
      · rw [State.entryMoves, hk]
        rfl
    · rw [performEntry_clean hu, performBody_fill hk]
      refine plainMoves_rows (mk := fillRow d) (fun s hu r => ⟨?_, ?_⟩) hu hm ?_
      · rw [fillRow, hdst]
        exact move_row (src := none) hu rfl (by simp [n])
      · rw [State.modCore, State.setCore_core]
        exact upsets_writeData hu _ _
      · rw [State.entryMoves, hk]
        rfl
  · intro c g slots w k off a x ht hpc hlen ho
    refine ⟨fun hf hr => ?_, fun hf hr => ?_, fun hf hr hbs => ?_⟩
    · exact congrArg Host.Outcome.next (codeFeed_asks rfl ht hpc hlen ho hf hr)
    · exact congrArg Host.Outcome.next (codeFeed_waits rfl ht hpc hlen ho hf hr)
    · exact congrArg Host.Outcome.next (codeFeed_loads rfl ht hpc hlen ho hf hr hbs)

end

section
/-! PROOFS. Requests at their homes and the answers that come back. -/
namespace Sys2Proof.Machine

open Laws

section
variable {s t u v w : State} {r : Req} {i : Instr} {n : Nat} {fill : State → State}

/-! ### Loads (R269) -/

/-- What a load's line, once prepared, is filled with under the request's policy. -/
def State.filledFor (u : State) (r : Req) : State :=
  match r.pol with
  | .si => u.fillLine r.core (lineOf r.addr) (.clean r.inv)
  | .wi => if r.inv then u.fillLine r.core (lineOf r.addr) (.clean true)
    else (u.modDir (lineOf r.addr) (fun d => d.register (u.homeDie (lineOf r.addr)) r.core)).fillLine r.core (lineOf r.addr) .registered
  | .wt => if r.inv then u.fillLine r.core (lineOf r.addr) (.clean true)
    else if r.size = 64 then u else u.refreshWords r.core (wordKeys r.addr r.size)
  | .own => u.grantLine r.core (lineOf r.addr) (wordKeys r.addr r.size) r.wb
/-- The state that the load answers from: under .own its own words go with the grant, else they are applied first. -/
def State.loadFrom (t : State) (r : Req) : State := if r.pol = .own then t else t.applyWords r r.wb false

theorem homeLoad_answers (hr : s.req? r.id = some r) (hs : r.stage = .sent) (hk : r.kind = .load)
    (hp : s.prepare r (if r.pol = .own then [] else r.wb.map (·.1)) (if r.pol = .own then wordKeys r.addr r.size else []) false = .ok t)
    {p : Policy} (hpol : r.pol = p) (hv : t.loadFrom r = v) (hf : ∀ u : State, u.filledFor r = fill u) : s.homeLoad r.id p = v.answerLoad r fill := by
  obtain rfl := funext hf
  subst hpol hv
  unfold State.homeLoad
  rw [hr]
  dsimp only
  rw [if_neg (by simp [hs, hk]), hp]
  unfold State.filledFor State.loadFrom
  cases r.pol <;> rfl

theorem answerLoad_value (h : (v.readDecode (lineOf r.addr)).poisoned (lineOf r.addr) = false) (hu : fill ((v.readDecode (lineOf r.addr)).noteRead r) = u) :
    v.answerLoad r fill = u.deliver r (.value (fromWords r.addr r.size ((wordKeys r.addr r.size).map (fun k =>
      if r.inv then u.invWord r.core k (u.coreWord r.core k) else u.coreWord r.core k)))) := by
  subst hu
  unfold State.answerLoad
  dsimp only
  rw [h]
  rfl
theorem answerLoad_poison (h : (v.readDecode (lineOf r.addr)).poisoned (lineOf r.addr) = true) (h64 : r.size ≠ 64) : v.answerLoad r fill =
    ((if r.pol = .own then (v.readDecode (lineOf r.addr)).applyWords r r.wb false else v.readDecode (lineOf r.addr)).logConsumed r.core r.eng
      (lineOf r.addr)).deliver r (.poison r.va) := by
  unfold State.answerLoad
  dsimp only
  rw [h, if_pos rfl, if_neg h64]

/-! ### Stores (R250) -/

theorem applied_now : s.applied r false n = s.deliver r (.value n) := if_neg (by simp)
theorem applied_waits : s.applied r true n =
    if s.awaiting r.id then s.modReq r.id (fun q => { q with stage := .acks, reply := n }) else s.deliver r (.value n) := by
  simp [State.applied]

/-- A store that is written through, its line prepared for it. -/
theorem homeStore_through (hr : s.req? r.id = some r) (hs : r.stage = .sent) (hk : r.kind = .store) (hpol : r.pol ≠ .own)
    (hp : s.prepare r (wordKeys r.addr r.size) [] false = .ok t) : s.homeStore r.id r.pol =
      ((t.applyWords r r.wb false).applyWords r (pieces r.addr r.size r.data) (decide (r.pol = .wi))).applied r (decide (r.pol = .wi)) 0 := by
  unfold State.homeStore
  rw [hr]
  dsimp only
  rw [if_neg (by simp [hs, hk]), if_neg hpol, if_neg hpol, hp]
  dsimp only
  rw [if_neg hpol, if_neg (fun h => hpol h.1)]

section
variable (hr : s.req? r.id = some r) (hs : r.stage = .sent) (hk : r.kind = .store) (hpol : r.pol = .own)
  (hp : s.prepare r [] (wordKeys r.addr r.size) false = .ok t) {x : State} (hx : t.readDecode (lineOf r.addr) = x)
include hr hs hk hpol hp hx

theorem homeStore_owned (hc : x.poisoned (lineOf r.addr) = false) : s.homeStore r.id .own = (State.trimL1
    ((x.grantWords r.core (lineOf r.addr) (wordKeys r.addr r.size) r.wb).modCoreAt r.core (fun c => (pieces r.addr r.size r.data).foldl (fun c w =>
      match c.l1At w.1 with | some ⟨_, v⟩ => c.putL1 w.1 .owned (mergeWord v w.2.2 w.2.1) | none => c) c)) r.core (lineOf r.addr)).deliver r (.value 0) := by
  subst hx
  unfold State.homeStore
  rw [hr]
  dsimp only
  rw [if_neg (by simp [hs, hk, hpol]), if_pos rfl, if_pos rfl, hp]
  dsimp only
  rw [if_pos rfl, if_pos ⟨rfl, by rw [hc]; rfl⟩]
  exact applied_now
theorem homeStore_poisoned (hc : x.poisoned (lineOf r.addr) = true) : s.homeStore r.id .own =
    ((x.applyWords r r.wb false).applyWords r (pieces r.addr r.size r.data) false).deliver r (.value 0) := by
  subst hx
  unfold State.homeStore
  rw [hr]
  dsimp only
  rw [if_neg (by simp [hs, hk, hpol]), if_pos rfl, if_pos rfl, hp]
  dsimp only
  rw [if_pos rfl, if_neg (by rw [hc]; simp), ← applied_now]
  rfl
end

/-! ### Write-backs (R251, R389) -/

/-- The request as the home takes it: whether its line may be delegated is the table's word. -/
def Req.named (r : Req) (w : State) : Req := match r.name with | some (ctx, ia) => { r with delegable := w.delegable ctx ia } | none => r
theorem named_wb : (r.named w).wb = r.wb := by
  unfold Req.named
  split <;> rfl
theorem named_id : (r.named w).id = r.id := by
  unfold Req.named
  split <;> rfl

section
variable (hr : s.req? r.id = some r) (hs : r.stage = .sent) (hk : r.kind = .writeback) (hh : s.held r = false)
include hr hs hk hh

theorem homeWriteback_applies (hw : s.wbTarget r = .ok w) (hp : w.prepare (r.named w) (r.wb.map (·.1)) [] false = .ok t) :
    s.homeWriteback r.id = (t.applyWords (r.named w) r.wb false).removeReq r.id := by
  unfold State.homeWriteback
  rw [hr]
  dsimp only
  rw [if_neg (by simp [hs, hk, hh]), hw]
  dsimp only
  change (match w.prepare (r.named w) ((r.named w).wb.map (·.1)) [] false with
    | .error s => s | .ok s => (s.applyWords (r.named w) (r.named w).wb false).removeReq (r.named w).id) = _
  rw [named_wb, named_id, hp]
theorem homeWriteback_elsewhere (hw : s.wbTarget r = .error w) : s.homeWriteback r.id = w := by
  unfold State.homeWriteback
  rw [hr]
  dsimp only
  rw [if_neg (by simp [hs, hk, hh]), hw]
end

theorem req?_removeReq (id : Nat) : (s.removeReq id).req? id = none := by
  rw [State.req?, List.find?_eq_none]
  intro q hq
  have := (List.mem_filter.1 hq).2
  simpa using this

theorem clearBusy_mem (line id : Nat) : (s.clearBusy line id).mem = s.mem := by
  unfold State.clearBusy
  split <;> rfl

section
variable {ctx ia : Nat} (hn : r.name = some (ctx, ia)) (ha : s.awaiting r.id = false)
include hn ha

theorem wbTarget_refused (hx : s.translate ctx (State.taskCtx { s with cur := r.core }) ia true = .refused) :
    s.wbTarget r = .error ((((s.walked ctx ia (agentCore r.core r.eng)).clearBusy (lineOf r.addr) r.id).logError (xlateDie ia)
      { time := s.time, channel := 566, type := 8, pa := ia + 2 ^ 52 * ctx, agent := agentCore r.core r.eng }).removeReq r.id) := by
  unfold State.wbTarget
  rw [hn]
  dsimp only
  rw [ha, if_neg (by decide), hx]
theorem wbTarget_locked (hx : s.translate ctx (State.taskCtx { s with cur := r.core }) ia true = .locked) :
    s.wbTarget r = .error (State.onCore (s.clearBusy (lineOf r.addr) r.id) r.core (fun s => s.addFault r.eng r.addr (some r.id) true)) := by
  unfold State.wbTarget
  rw [hn]
  dsimp only
  rw [ha, if_neg (by decide), hx]
theorem wbTarget_moved {a l : Nat} (hx : s.translate ctx (State.taskCtx { s with cur := r.core }) ia true = .addr a)
    (hl : lineOf (s.keyed ctx ia a) = l) (hne : l ≠ lineOf r.addr) :
    s.wbTarget r = .error (((s.walked ctx ia (agentCore r.core r.eng)).clearBusy (lineOf r.addr) r.id).modReq r.id (fun q =>
      { q with addr := l, wb := q.wb.map (fun y => (l / 4 + y.1 % 16, y.2)) })) := by
  subst hl
  unfold State.wbTarget
  rw [hn]
  dsimp only
  rw [ha, if_neg (by decide), hx]
  exact if_neg hne
end

/-! ### Atomics (R269 to R276) -/

theorem unlessPoisoned_consumes {f : State → State} (h : (t.readDecode (lineOf r.addr)).poisoned (lineOf r.addr) = true) : t.unlessPoisoned r f =
    (((t.readDecode (lineOf r.addr)).applyWords r r.wb false).logConsumed r.core r.eng (lineOf r.addr)).deliver r (.poison r.va) := if_pos h
theorem unlessPoisoned_performs {f : State → State} (h : (t.readDecode (lineOf r.addr)).poisoned (lineOf r.addr) = false) :
    t.unlessPoisoned r f = f (t.readDecode (lineOf r.addr)) := if_neg (by rw [h]; decide)

/-- An atomic that no reduction object sequences, or a CAS. -/
theorem homeAtomic_serves (hr : s.req? r.id = some r) (hs : r.stage = .sent)
    (hk : ((∃ op, r.kind = .atomic op) ∧ r.seq = none) ∨ (∃ c, r.kind = .cas c)) :
    s.homeAtomic r.id = State.homeAtomic.serve s r (lineOf r.addr) (wordKeys r.addr r.size) := by
  unfold State.homeAtomic
  rw [hr]
  dsimp only
  rw [if_neg (by simpa using hs)]
  rcases hk with ⟨⟨op, hop⟩, hseq⟩ | ⟨c, hc⟩
  · rw [hop, hseq]
  · rw [hc]

/-- What is done with an atomic's word once the line is prepared and found sound. -/
def State.atomicOn (x : State) (r : Req) : State :=
  if r.pol = .own then
    ((((x.grantWords r.core (lineOf r.addr) (wordKeys r.addr r.size) r.wb).atomicInPlace r).1.trimL1 r.core (lineOf r.addr)).applied r false
      ((x.grantWords r.core (lineOf r.addr) (wordKeys r.addr r.size) r.wb).atomicInPlace r).2)
  else x.atomicAtHome r
theorem serve_prepared {m : List Nat × List Nat}
    (hm : r.pol ≠ .own ∧ m = (wordKeys r.addr r.size, []) ∨ r.pol = .own ∧ m = ([], wordKeys r.addr r.size)) (hp : s.prepare r m.1 m.2 false = .ok t) :
    State.homeAtomic.serve s r (lineOf r.addr) (wordKeys r.addr r.size) = t.unlessPoisoned r (fun x => x.atomicOn r) := by
  unfold State.homeAtomic.serve State.atomicOn
  rcases hm with ⟨hpol, rfl⟩ | ⟨hpol, rfl⟩
  · rw [if_neg hpol, hp]
    simp only [if_neg hpol]
  · rw [if_pos hpol, hp]
    simp only [if_pos hpol]

theorem atomicAtHome_reads {old : Nat} {wb : State} (hw : s.applyWords r r.wb false = wb)
    (ho : fromWords r.addr r.size ((wordKeys r.addr r.size).map wb.wordNow) = old) (hn : r.newValue old = none) :
    s.atomicAtHome r = (wb.refreshWords r.core (wordKeys r.addr r.size)).deliver r (.value old) := by
  subst hw ho
  unfold State.atomicAtHome
  dsimp only
  rw [hn]
  exact applied_now
theorem atomicAtHome_writes {old v : Nat} {wb : State} (hw : s.applyWords r r.wb false = wb)
    (ho : fromWords r.addr r.size ((wordKeys r.addr r.size).map wb.wordNow) = old) (hn : r.newValue old = some v) :
    s.atomicAtHome r = (wb.applyWords r (pieces r.addr r.size v) false).applied r true old := by
  subst hw ho
  unfold State.atomicAtHome
  dsimp only
  rw [hn]
theorem atomicInPlace_old : (s.atomicInPlace r).2 = fromWords r.addr r.size ((wordKeys r.addr r.size).map (s.coreWord r.core)) := by
  unfold State.atomicInPlace
  dsimp only
  split <;> rfl

end

end Sys2Proof.Machine
end

section
/-! PROOFS. Requests served at their homes (spec/11 R249 to R251, spec/12 R269 to R276). -/

open Sys2Proof Sys2Proof.Machine Laws

/-- Settles O45, by kind and policy. -/
theorem homesServe : Obligations.HomesServe := by
  unfold Obligations.HomesServe
  intro s t r hr hs line ks ws wb answer waits
  refine ⟨fun i fill v hi hk hp => ?_, fun hk => ⟨fun i hi hp => ?_, fun hpol hp => ⟨fun hc => ?_, fun hc => ?_⟩⟩, fun hk hh => ⟨fun w hw => ?_, fun ctx ia hn ha => ?_⟩, fun hk => ?_⟩
  · have hx : exec i s = .next (v.answerLoad r fill) := by
      simp only [List.mem_cons, List.not_mem_nil, or_false, Prod.mk.injEq] at hi
      rcases hi with ⟨rfl, hpol, rfl, rfl⟩ | ⟨rfl, hpol, rfl, rfl⟩ | ⟨rfl, hpol, rfl, rfl⟩ | ⟨rfl, hpol, rfl, rfl⟩
      all_goals
        refine congrArg Host.Outcome.next (homeLoad_answers hr hs hk hp hpol ?_ (fun u => ?_))
        · rw [State.loadFrom, hpol]
          rfl
        · rw [State.filledFor, hpol]
    intro x u
    refine ⟨fun hc => ?_, fun hc h64 => ?_⟩
    · rw [hx, answerLoad_value hc rfl]
    · rw [hx, answerLoad_poison hc h64]
  · simp only [List.mem_cons, List.not_mem_nil, or_false, Prod.mk.injEq] at hi
    intro u
    have hthrough (hpol : r.pol ≠ .own) : s.homeStore r.id r.pol = u.applied r (decide (r.pol = .wi)) 0 := homeStore_through hr hs hk hpol hp
    have hd (p : Policy) (hpol : r.pol = p) : decide (r.pol = .wi) = decide (p = .wi) := by rw [hpol]
    rcases hi with ⟨rfl, hpol⟩ | ⟨rfl, hpol⟩
    · have hx := hthrough (by rw [hpol]; decide)
      rw [hd _ hpol] at hx
      rw [if_pos hpol]
      exact congrArg Host.Outcome.next ((congrArg (s.homeStore r.id) hpol.symm).trans (hx.trans applied_waits))
    · have hx := hthrough (by rw [hpol]; decide)
      rw [hd _ hpol] at hx
      rw [if_neg (by rw [hpol]; decide)]
      exact congrArg Host.Outcome.next ((congrArg (s.homeStore r.id) hpol.symm).trans (hx.trans applied_now))
  · exact congrArg Host.Outcome.next (homeStore_owned hr hs hk hpol hp rfl hc)
  · exact congrArg Host.Outcome.next (homeStore_poisoned hr hs hk hpol hp rfl hc)
  · intro r' hp
    exact congrArg Host.Outcome.next (homeWriteback_applies hr hs hk hh hw hp)
  · intro w x
    refine ⟨fun hx => ?_, fun hx => ?_, fun a hx hl => ?_⟩
    · refine ⟨_, congrArg Host.Outcome.next (homeWriteback_elsewhere hr hs hk hh (wbTarget_refused hn ha hx)), req?_removeReq _, ?_⟩
      exact (logError_mem (w.clearBusy line r.id) _ _).trans (clearBusy_mem _ _)
    · exact congrArg Host.Outcome.next (homeWriteback_elsewhere hr hs hk hh (wbTarget_locked hn ha hx))
    · exact congrArg Host.Outcome.next (homeWriteback_elsewhere hr hs hk hh (wbTarget_moved hn ha hx rfl hl))
  · intro x wb
    have hserve {m : List Nat × List Nat} (hm : r.pol ≠ .own ∧ m = (ks, []) ∨ r.pol = .own ∧ m = ([], ks)) (hp : s.prepare r m.1 m.2 false = .ok t) :
        exec (.homeAtomic r.id) s = .next (t.unlessPoisoned r (fun x => x.atomicOn r)) :=
      congrArg Host.Outcome.next ((homeAtomic_serves hr hs hk).trans (serve_prepared hm hp))
    refine ⟨fun m hm hp hc => ?_, fun hpol hp hc => ?_, fun hpol hp hc => ?_⟩
    · rw [hserve hm hp, unlessPoisoned_consumes hc]
    · intro old
      have hx : exec (.homeAtomic r.id) s = .next (x.atomicAtHome r) := by
        rw [hserve (.inl ⟨hpol, rfl⟩) hp, unlessPoisoned_performs hc, State.atomicOn, if_neg hpol]
      refine ⟨fun hn => ?_, fun v hn => ?_⟩
      · rw [hx, atomicAtHome_reads rfl rfl hn]
      · rw [hx, atomicAtHome_writes rfl rfl hn, applied_waits]
    · intro g
      rw [hserve (.inr ⟨hpol, rfl⟩) hp, unlessPoisoned_performs hc, State.atomicOn, if_pos hpol, atomicInPlace_old, applied_now]

end

section
/-! PROOFS. Answers at their instructions, and sequenced contributions. -/
namespace Sys2Proof.Machine

open Laws

section
variable {s b t : State} {n : Nat} {f : Flight}

/-! ### The answer of an instruction in flight (R263, R269) -/

theorem find?_of_unique (hf : f ∈ b.core.flights) (hu : ∀ g ∈ b.core.flights, g.id = f.id → g = f) (hc : f.complete = true) :
    b.core.flights.find? (fun g => g.id == f.id && g.complete) = some f := by
  cases hfind : b.core.flights.find? (fun g => g.id == f.id && g.complete) with
  | none => exact absurd (List.find?_eq_none.1 hfind f hf) (by simp [hc])
  | some g =>
    have hg := List.find?_some hfind
    rw [Bool.and_eq_true, beq_iff_eq] at hg
    rw [hu g (List.mem_of_find?_eq_some hfind) hg.1]

theorem loadResponse_finishes (hb : { s with cur := n } = b) (hf : b.core.flights.find? (fun g => g.id == f.id && g.complete) = some f) :
    s.loadResponse n f.id = { b.finishFlight f with cur := s.cur } := by
  refine onCore_eq ?_
  rw [hb, hf]

theorem finishFlight_poisoned {va : Nat} (hp : f.poison = some va) :
    b.finishFlight f = (b.dropFlight f).lateTrap f.eng f.inTrap f.pc (uncorrectable 0x01 va) := by
  unfold State.finishFlight
  rw [hp]
/-- The core once the destination is written and the instruction is off its engine. -/
def State.landed (b : State) (f : Flight) : State :=
  b.modCore (fun c => { (c.arrive f).noteFill f with flights := c.flights.filter (fun g => g.id != f.id) })
theorem finishFlight_lands (hp : f.poison = none) (ha : f.acq = none) : b.finishFlight f = (b.landed f).finishSig f.eng f.id := by
  unfold State.finishFlight
  rw [hp]
  dsimp only
  rw [if_neg (by simp [ha])]
  rfl

theorem landed_flights : (b.landed f).core.flights = b.core.flights.filter (fun g => g.id != f.id) := by
  rw [State.landed, State.modCore, State.setCore_core]
theorem noteFill_s (c : Core) : (c.noteFill f).s = c.s := by
  unfold Core.noteFill
  split
  · split <;> rfl
  · rfl
theorem landed_s : (b.landed f).core.s = (b.core.arrive f).s := by
  rw [State.landed, State.modCore, State.setCore_core]
  exact noteFill_s _

theorem arrive_load {c : Core} {d : Fin 32} {k : Nat} {sext : Bool} (hk : f.kind = .load d k sext) (hv : f.values ≠ []) :
    c.arrive f = c.writeS d (extendLoad k sext (f.values.foldl (fun x w => x + w.2 * 2 ^ (32 * w.1)) 0)) := by
  unfold Core.arrive
  rw [hk]
  dsimp only
  split
  next h => exact absurd h hv
  · rfl
theorem arrive_atom {c : Core} {d : Fin 32} {idx v : Nat} {vs : List (Nat × Nat)} (hk : f.kind = .atom d) (hv : f.values = (idx, v) :: vs) :
    c.arrive f = c.writeS d (BitVec.ofNat 64 v) := by
  unfold Core.arrive
  rw [hk]
  dsimp only
  rw [hv]

theorem readS_writeS_if (c : Core) (d k : Fin 32) (v : Word64) : (c.writeS d v).readS k = if k = d ∧ k ≠ 0 then v else c.readS k := by
  by_cases hk : k = d
  · subst hk
    by_cases h0 : k = 0
    · subst h0
      rfl
    · rw [if_pos ⟨rfl, h0⟩, Core.readS_writeS_self _ _ _ h0]
  · rw [if_neg (fun h => hk h.1), Core.readS_writeS_other _ _ _ _ hk]
theorem landed_readS {d : Fin 32} {v : Word64} (ha : b.core.arrive f = b.core.writeS d v) (k : Fin 32) :
    (b.landed f).core.readS k = if k = d ∧ k ≠ 0 then v else b.core.readS k := by
  rw [readS_of_s landed_s, ha, readS_writeS_if]

end

/-! ### Sequenced contributions (R279, R280) -/

section
variable {s t x : State} {r : Req} {op : Aop} {c : Nat} (hr : s.req? r.id = some r) (hs : r.stage = .sent) (hk : r.kind = .atomic op) (hq : r.seq = some c)
include hr hs hk hq

theorem homeAtomic_waits (hn : s.rotabReady r.ctx = false) : s.homeAtomic r.id = s.unitTouch r.ctx (s.ctxOf r.ctx).rotab 1024 := by
  unfold State.homeAtomic
  rw [hr]
  dsimp only
  rw [if_neg (by simpa using hs), hk, hq]
  dsimp only
  rw [hn]
  rfl
theorem homeAtomic_sequenced (hn : s.rotabReady r.ctx = true) (hp : s.prepare r (wordKeys r.addr r.size) [] true = .ok t)
    (hc : (t.readDecode (lineOf r.addr)).poisoned (lineOf r.addr) = false) :
    s.homeAtomic r.id = (t.readDecode (lineOf r.addr)).sequenced r op c := by
  unfold State.homeAtomic
  rw [hr]
  dsimp only
  rw [if_neg (by simpa using hs), hk, hq]
  dsimp only
  rw [hn, if_neg (by decide), hp]
  exact unlessPoisoned_performs hc
end

section
variable {x wb : State} {r : Req} {op : Aop} {c : Nat} {o : RObject} {w : WeirEntry}

theorem sequenced_undeclared (h : x.robject r.ctx r.ia = none) : x.sequenced r op c = x.atomicAtHome r := by
  unfold State.sequenced
  rw [h]
/-- A contribution to a declared object, by its turn. -/
theorem sequenced_declared (h : x.robject r.ctx r.ia = some o)
    (hw : r.weirEntry ((x.unitTouch r.ctx (x.ctxOf r.ctx).rotab 1024).slice r.addr) op c = w)
    (hwb : ((x.unitTouch r.ctx (x.ctxOf r.ctx).rotab 1024).applyWords r r.wb false).modReq r.id (fun q => { q with wb := [] }) = wb) :
    x.sequenced r op c = if wb.heldBefore r then wb.onCore r.core (fun s => s.addFault r.eng r.va (some r.id))
      else if c = wb.seqNext r.ctx r.ia then
        (((wb.removeReq r.id).contribute w r.addr).setSeqNext w ((wb.seqNext r.ctx r.ia + 1) % o.ncon)).drainWeir w r.addr o.ncon wb.coh.weir.length
      else if (wb.coh.weir.filter (fun y => y.slice == w.slice)).length < 512 then
        { wb.removeReq r.id with coh := { (wb.removeReq r.id).coh with weir := wb.coh.weir ++ [w] } }
      else wb.onCore r.core (fun s => s.addFault r.eng r.va (some r.id)) := by
  subst hw hwb
  unfold State.sequenced
  rw [h]
  rfl
end

end Sys2Proof.Machine
end

section
/-! PROOFS. Answers and sequenced contributions (spec/12 R263, R269, R279, R280). -/

open Sys2Proof Sys2Proof.Machine Laws

/-- Settles O46: the answers of instructions in flight, then the contributions by turn. -/
theorem answersArrive : Obligations.AnswersArrive := by
  unfold Obligations.AnswersArrive
  refine ⟨fun s n f => ?_, fun s t r op c hr hs hk hq => ⟨fun hn => ?_, fun hn hp => ?_⟩⟩
  · intro b hf hu hc
    have hx : exec (.loadResponse n f.id) s = .next { b.finishFlight f with cur := s.cur } :=
      congrArg Host.Outcome.next (loadResponse_finishes rfl (find?_of_unique hf hu hc))
    refine ⟨fun va hp => ?_, fun hp ha => ⟨b.landed f, ?_, landed_flights, rfl, fun d k sext hk hv q => ?_, fun d idx v vs hk hv q => ?_⟩⟩
    · rw [hx, finishFlight_poisoned hp]
      rfl
    · rw [hx, finishFlight_lands hp ha]
    · intro v
      rw [landed_readS (arrive_load hk hv), extendLoad]
    · exact landed_readS (arrive_atom hk hv) q
  · exact congrArg Host.Outcome.next (homeAtomic_waits hr hs hk hq hn)
  · intro x hc
    have hx : exec (.homeAtomic r.id) s = .next (x.sequenced r op c) := congrArg Host.Outcome.next (homeAtomic_sequenced hr hs hk hq hn hp hc)
    refine ⟨fun ho => by rw [hx, sequenced_undeclared ho], fun o ho => ?_⟩
    intro y w wb waits
    have hby : Host.Outcome.next (if wb.heldBefore r then waits else if c = wb.seqNext r.ctx r.ia then
          (((wb.removeReq r.id).contribute w r.addr).setSeqNext w ((wb.seqNext r.ctx r.ia + 1) % o.ncon)).drainWeir w r.addr o.ncon wb.coh.weir.length
        else if (wb.coh.weir.filter (fun y => y.slice == w.slice)).length < 512 then
          { wb.removeReq r.id with coh := { (wb.removeReq r.id).coh with weir := wb.coh.weir ++ [w] } }
        else waits : State) = exec (.homeAtomic r.id) s := by rw [hx, sequenced_declared ho rfl rfl]
    rw [← hby]
    refine ⟨fun hh => by rw [if_pos hh], fun hh => ⟨fun he => ?_, fun he hw => ?_, fun he hw => ?_⟩⟩
    · rw [if_neg (by rw [hh]; decide), if_pos he.symm, he]
    · rw [if_neg (by rw [hh]; decide), if_neg (fun h => he h.symm), if_pos hw]
      exact ⟨_, rfl, rfl, req?_removeReq _, rfl⟩
    · rw [if_neg (by rw [hh]; decide), if_neg (fun h => he h.symm), if_neg (by omega)]

end

section
/-! PROOFS. The directory in a form that no step leaves: two entries stand for one line. -/
namespace Sys2Proof.Machine

/-- A machine that awaits the host's answer for line 0, for a unit's write, with an empty directory entry for that line before
one that says that the host shares it. -/
def doubledDirState : State :=
  { State.reset with coh := { State.reset.coh with
      dirs := [(0, {}), (0, { host := 1 })], snoops := [{ line := 0, inv := true, req := 0 }] } }

/-- The answer writes the unlisted value, which takes the first entry out. -/
theorem bisnpComplete_doubledDirState : (doubledDirState.bisnpComplete 0 []).dirOf 0 = { host := 1 } := by decide +kernel

end Sys2Proof.Machine
end

section
/-! PROOFS. What the channel's messages leave does not hold of every state. -/

open Sys2Proof Sys2Proof.Machine

/-- Refutes O47: the statement does not ask for a directory in canonical form. In `doubledDirState` two entries stand for line 0, of
which a read finds the first, an empty one. The host's answer to an invalidating snoop writes the empty entry back, which erases it, and
the line reads as shared by the host, by the entry behind, where it is to read as not held. -/
theorem not_coherenceMessages : ¬ Obligations.CoherenceMessages := by
  unfold Obligations.CoherenceMessages
  rintro ⟨-, -, -, -, hsnoop, -⟩
  obtain ⟨t, ht, -, -, hhost, -⟩ := hsnoop doubledDirState 0 { line := 0, inv := true, req := 0 } [] (by decide +kernel)
  obtain rfl : doubledDirState.bisnpComplete 0 [] = t := Host.Outcome.next.inj ht
  rw [bisnpComplete_doubledDirState] at hhost
  exact absurd hhost (by decide)

end

section
/-! PROOFS. Accesses of the host and of peers (spec/11 R255 to R257) and the fabric's events (spec/13 R310 to R312). -/
namespace Sys2Proof.Machine

variable {s : State}

/-! ### The host -/

section
variable {pa line : Nat} {bs : List Byte}

theorem hostRead_shared (hl : lineOf (pa % 2 ^ 39) = line) (hr : s.ready = true) (ha : s.absent line = false)
    (hg : s.hostMayGo line = true) (hw : s.allows 64 line false = true) (hp : ((s.hostDone line).readDecode line).poisoned line = false) :
    s.hostRead pa false = (let t := ((s.hostDone line).readDecode line).modDir line (fun x => { (if x.lst = 1 then x.returned else x) with host := 1 })
      { t with coh := { t.coh with hostReply := some (t.readNow (t.ownedKey line) 64) } }) := by
  subst hl
  unfold State.hostRead
  simp only [hr, ha, hg, hw, Bool.not_true, Bool.false_eq_true, if_false]
  exact if_neg (fun h => by cases hp.symm.trans h)

theorem hostRead_exclusive (hl : lineOf (pa % 2 ^ 39) = line) (hr : s.ready = true) (ha : s.absent line = false)
    (hg : s.hostMayGo line = true) (hw : s.allows 64 line false = true)
    (hp : ((((s.hostDone line).readDecode line).recallLine line).modDir line (fun x => { x.returned with host := 2 })).poisoned line = false) :
    s.hostRead pa true = (let t := (((s.hostDone line).readDecode line).recallLine line).modDir line (fun x => { x.returned with host := 2 })
      { t with coh := { t.coh with hostReply := some (t.readNow (t.ownedKey line) 64) } }) := by
  subst hl
  unfold State.hostRead
  simp only [hr, ha, hg, hw, Bool.not_true, Bool.false_eq_true, if_false, if_true]
  exact if_neg (fun h => by cases hp.symm.trans h)

theorem hostWrite_goes (hl : lineOf (pa % 2 ^ 39) = line) (hr : s.ready = true) (ha : s.absent line = false)
    (hg : s.hostMayGo line = true) (hw : s.allows 64 line true = true) :
    s.hostWrite pa bs = (let ws := bs.take (line + 64 - pa % 2 ^ 39)
      ((s.hostDone line).applyLine (pa % 2 ^ 39) ws).modDir line (fun x =>
        { x with host := if (s.dirOf line).host = 2 ∧ ws.length = 64 then 0 else (s.dirOf line).host })) := by
  subst hl
  unfold State.hostWrite
  dsimp only
  rw [hr, ha, hg, hw]
  rfl

theorem hostSnoop_shared (hi : s.idle (hostBase + lineOf (pa % 2 ^ 64)) = true) :
    s.hostSnoop pa false bs = s.modDir (hostBase + lineOf (pa % 2 ^ 64)) (fun x =>
      { (if x.lst = 1 then x.returned else x) with hostLine := min 1 x.hostLine }) := by
  unfold State.hostSnoop
  dsimp only
  rw [hi]
  rfl
theorem hostSnoop_exclusive (hi : s.idle (hostBase + lineOf (pa % 2 ^ 64)) = true) :
    s.hostSnoop pa true bs = (let hl := hostBase + lineOf (pa % 2 ^ 64)
      let t := (s.recallLine hl).modDir hl (fun x => { x with hostLine := 0 })
      if bs.length = 64 then
        let u := t.noteUnitWrite ((List.range 16).map (hl / 4 + ·))
        State.recode { u with mem := u.mem.writeN hl bs } hl 0 false
      else t) := by
  unfold State.hostSnoop
  dsimp only
  rw [hi]
  rfl
end

/-! ### Peers -/

section
variable {pkg ctx ia a : Nat} {bs : List Byte}

/-- A peer's write, the host's copy of its line taken away first. -/
theorem peerRequest_write (hi : s.idle (lineOf a) = true)
    (ht : s.translate ctx (82 + SMap.get 0 s.fab.domains pkg % 16) ia true = .addr a) :
    s.peerRequest pkg ctx ia true bs =
      if (s.dirOf (lineOf a)).host = 0 then (s.walked ctx ia 0).writeNow a bs 0 (lineCount bs) else s.sendSnoop (lineOf a) true 0 := by
  unfold State.peerRequest
  dsimp only
  rw [ht]
  dsimp only
  rw [hi, Dir.snoopNeeded]
  by_cases h0 : (s.dirOf (lineOf a)).host = 0
  · rw [if_pos h0]
    simp only [h0]
    rfl
  · rw [if_neg h0]
    simp only [if_pos h0, if_pos, ne_eq]
    rfl

theorem peerRequest_read (hi : s.idle (lineOf a) = true) (hh : (s.dirOf (lineOf a)).host ≠ 2)
    (ht : s.translate ctx (82 + SMap.get 0 s.fab.domains pkg % 16) ia false = .addr a)
    (hp : ((s.walked ctx ia 0).readDecode (lineOf a)).poisoned (lineOf a) = false) :
    s.peerRequest pkg ctx ia false bs = (let x := (s.walked ctx ia 0).readDecode (lineOf a)
      { x with fab := { x.fab with reply := some (x.readNow (x.ownedKey a) (lineOf a + 64 - a)) } }) := by
  have hn : (s.dirOf (lineOf a)).snoopNeeded false = none := if_neg hh
  unfold State.peerRequest
  dsimp only
  rw [ht]
  dsimp only
  rw [hi, hn]
  dsimp only
  rw [hp]
  rfl
end

/-! ### The fabric -/

theorem logError_fab (s : State) (die : Nat) (r : ErrorRecord) : (s.logError die r).fab = s.fab := by
  unfold State.logError
  dsimp only
  split
  · exact State.setDie_fab ..
  · rfl

/-- The messages that a good block leaves. -/
theorem join_received (f : Fabric) (port pkg mtag len : Nat) (bs : List Byte) :
    (f.join port pkg mtag len bs).received =
      match f.received.findIdx? (fun m => m.port == port && m.pkg == pkg && m.mtag == mtag && m.len == len && decide (m.data.length < m.len)) with
      | some i => f.received.modify i (fun m => { m with data := (m.data ++ bs).take len })
      | none => f.received ++ [{ port, pkg, mtag, len, data := bs.take len }] := by
  unfold Fabric.join
  dsimp only
  generalize f.received.findIdx? (fun m =>
    m.port == port && m.pkg == pkg && m.mtag == mtag && m.len == len && decide (m.data.length < m.len)) = o
  cases o <;> rfl

section
variable {port pkg mtag len : Nat} {block : List Byte}

theorem blockReceive_good (hp : SMap.find? s.fab.ports port = some pkg) (hr : s.ready = true) (ht : s.portTakes port pkg mtag = true)
    (hl : len ≠ 0) {bs : List Byte} (hb : decodeBlock block = some bs) :
    s.blockReceive port mtag len block = { s with fab := s.fab.join port pkg mtag len bs } := by
  unfold State.blockReceive
  rw [hp]
  dsimp only
  rw [hr, ht, if_neg (by decide), if_neg (fun h => hl h.1), hb]
theorem blockReceive_bad (hp : SMap.find? s.fab.ports port = some pkg) (hr : s.ready = true) (ht : s.portTakes port pkg mtag = true)
    (hl : len ≠ 0) (hb : decodeBlock block = none) : s.blockReceive port mtag len block = s.logPort port 10 := by
  unfold State.blockReceive
  rw [hp]
  dsimp only
  rw [hr, ht, if_neg (by decide), if_neg (fun h => hl h.1), hb]

/-- A link that falls: its partner and its partial messages go, and the package where no port reaches it any more. -/
theorem linkDown_fab (hp : SMap.find? s.fab.ports port = some pkg) :
    (s.linkDown port).fab = { s.fab with
      ports := SMap.erase s.fab.ports port
      down := if (SMap.erase s.fab.ports port).any (fun e => e.2 == pkg) then s.fab.down else s.fab.down ++ [pkg]
      received := s.fab.received.filter (fun m => m.port != port || m.data.length == m.len) } := by
  unfold State.linkDown
  rw [hp]
  exact logError_fab _ _ _
theorem linkDown_mem : (s.linkDown port).mem = s.mem := by
  unfold State.linkDown
  split
  · rfl
  · exact logError_mem _ _ _

theorem portTraining_goes (hp : port < 18) (hr : s.power.recov = false) (hs : 6 ≤ s.power.stage) :
    s.portTraining port pkg = { s with
      fab := { s.fab with ports := SMap.put s.fab.ports port (pkg % 4096), down := s.fab.down.filter (· != pkg % 4096) },
      power := { s.power with stage := 7 } } := by
  unfold State.portTraining
  rw [if_neg]
  rw [hr]
  simp only [Bool.false_eq_true, false_or, not_or]
  omega
end

theorem execLinkErrorRetransmitted_logs {die channel : Nat} (hd : die < 4) (hc : linkChannel die channel = true) :
    execLinkErrorRetransmitted die channel s = .next (s.logError die { time := s.time, channel, type := 10 }) := by
  unfold execLinkErrorRetransmitted
  rw [Nat.mod_eq_of_lt hd, hc]
  rfl

end Sys2Proof.Machine
end

section
/-! PROOFS. The host, the peers and the fabric. -/

open Sys2Proof Sys2Proof.Machine

/-- Settles O48: the host's accesses, its snoops and a peer's, then the fabric's events. -/
theorem hostsAndFabric : Obligations.HostsAndFabric := by
  unfold Obligations.HostsAndFabric
  refine ⟨fun s pa bs => ⟨fun hr ha hg => ⟨fun hw hp => ?_, fun hw hp => ?_, fun hw => ?_⟩, ?_, ?_⟩,
    fun s port pkg mtag len die channel block members => ⟨fun hp => ⟨fun hr ht hl => ⟨fun bs hb => ?_, fun hb => ?_⟩, ?_⟩,
      fun h18 hrec hst => ?_, rfl, fun hd hc => ?_⟩⟩
  · exact congrArg Host.Outcome.next (hostRead_shared rfl hr ha hg hw hp)
  · exact congrArg Host.Outcome.next (hostRead_exclusive rfl hr ha hg hw hp)
  · exact congrArg Host.Outcome.next (hostWrite_goes rfl hr ha hg hw)
  · intro hl hi
    exact ⟨congrArg Host.Outcome.next (hostSnoop_shared hi), congrArg Host.Outcome.next (hostSnoop_exclusive hi)⟩
  · intro pkg ctx a w hi
    exact ⟨fun ht => congrArg Host.Outcome.next (peerRequest_write hi ht),
      fun hh ht hp => congrArg Host.Outcome.next (peerRequest_read hi hh ht hp)⟩
  · exact ⟨_, congrArg Host.Outcome.next (blockReceive_good hp hr ht hl hb), rfl, join_received _ _ _ _ _ _⟩
  · exact congrArg Host.Outcome.next (blockReceive_bad hp hr ht hl hb)
  · refine ⟨_, rfl, ?_, linkDown_mem, ?_, ?_⟩ <;> rw [linkDown_fab hp]
  · exact congrArg Host.Outcome.next (portTraining_goes h18 hrec hst)
  · exact execLinkErrorRetransmitted_logs hd hc

end

section
/-! PROOFS. Writes of a queue's registers and the records of host-fed queues (spec/15 R325 to R328). -/
namespace Sys2Proof.Machine

variable {s s' : State} {q : Nat}

/-! ### Who writes -/

/-- Whether a master's write of a queue's PROD or EVCONS is applied: by the function that the queue is assigned to, or by the control
owner. -/
def State.queueMay (s : State) (m : Master) (q : Nat) : Prop :=
  match m with | .function n => s.assigned n q true = true | m => s.mayManage m 0 = true ∧ s.mgmt.owner = Master.code m

theorem managed_goes {m : Master} {block : Nat} {f : State → State} (hm : s.mayManage m block = true) (ho : s.mgmt.owner = Master.code m) :
    s.managed m block f = f s := by
  unfold State.managed
  rw [hm, ho, BEq.rfl]
  rfl
theorem managed_refused {m : Master} {block : Nat} {f : State → State} (h : ¬ (s.mayManage m block = true ∧ s.mgmt.owner = Master.code m)) :
    s.managed m block f = s.refusedWrite m := by
  unfold State.managed
  rw [if_neg]
  rwa [Bool.and_eq_true, beq_iff_eq]
theorem refusedWrite_other {m : Master} (hm : m ≠ .mgmt) : s.refusedWrite m = s := by
  unfold State.refusedWrite
  split
  · exact absurd rfl hm
  · rfl

theorem queueWrite_goes {m : Master} {f : State → State} (h : s.queueMay m q) : s.queueWrite m q f = f s := by
  cases m with
  | function n => exact if_pos h
  | host0 | host1 | mgmt | fabric => exact managed_goes h.1 h.2
theorem queueWrite_refused {m : Master} {f : State → State} (h : ¬ s.queueMay m q) (hm : m ≠ .mgmt) : s.queueWrite m q f = s := by
  cases m with
  | function n => exact if_neg h
  | mgmt => exact absurd rfl hm
  | host0 | host1 | fabric => exact (managed_refused h).trans (refusedWrite_other hm)

/-- The operand of a queue's event names the writer and the queue (log 48). -/
theorem queue_operand (by_ : Nat) (hq : q < 1024) : (1024 * by_ + q) / 1024 = by_ ∧ (1024 * by_ + q) % 1024 = q := by omega

theorem execProdWrite_eq (by_ : Nat) (v : Word32) (hq : q < 1024) :
    execProdWrite (1024 * by_ + q) v s = .next (s.queueWrite (.ofNum by_) q (fun s => s.prodWrite q v.toNat)) := by
  obtain ⟨hb, hm⟩ := queue_operand by_ hq
  rw [execProdWrite, hb, hm]
theorem execEvconsWrite_eq (by_ : Nat) (v : Word32) (hq : q < 1024) :
    execEvconsWrite (1024 * by_ + q) v s = .next (s.queueWrite (.ofNum by_) q (fun s => s.evconsWrite q v.toNat)) := by
  obtain ⟨hb, hm⟩ := queue_operand by_ hq
  rw [execEvconsWrite, hb, hm]

/-! ### The next record of a host-fed queue -/

/-- The events that consume a slot, and the kind of record that each takes. -/
def feeds (q : Nat) : List (Instr × Nat) :=
  [(.launchRecordEnqueue q, 0), (.scopeOpenPacket q, 1), (.scopeClosePacket q, 2), (.detsetPacket q, 3), (.seedPacket q, 4)]

/-- Each of them consumes the queue's next slot where its record is of its kind. -/
theorem exec_feeds (hq : q < 1024) {i : Instr} {k : Nat} (hi : (i, k) ∈ feeds q) :
    ∃ want : Option Nat → Bool, want (some k) = true ∧ exec i s = .next (s.feedQueue q want) := by
  have hx : ∃ want : Option Nat → Bool, want (some k) = true ∧ exec i s = .next (s.feedQueue (q % 1024) want) := by
    simp only [feeds, List.mem_cons, Prod.mk.injEq, List.not_mem_nil, or_false] at hi
    obtain ⟨rfl, rfl⟩ | ⟨rfl, rfl⟩ | ⟨rfl, rfl⟩ | ⟨rfl, rfl⟩ | ⟨rfl, rfl⟩ := hi <;> exact ⟨_, rfl, rfl⟩
  rwa [Nat.mod_eq_of_lt hq] at hx

section
variable {want : Option Nat → Bool}
variable (he : (s.queueOf q).en = true) (hd : (s.queueOf q).devq = false) (hp : (s.queueOf q).prod ≠ (s.queueOf q).cons)
include he hd hp

/-- The sluice waits for a slot whose lines cannot be read now. -/
theorem feedQueue_waits (ha : s.slotAbsent ((s.queueOf q).slotAt (s.queueOf q).cons) = false)
    (hr : (slotLines ((s.queueOf q).slotAt (s.queueOf q).cons)).all s.readable = false) :
    s.feedQueue q want = (slotLines ((s.queueOf q).slotAt (s.queueOf q).cons)).foldl (fun s l => s.snoopFor l false) s := by
  unfold State.feedQueue
  dsimp only
  rw [if_neg (by rw [he, hd]; simpa using hp), if_pos (by rw [ha, hr]; decide)]

/-- A record of the wanted kind is consumed, and refused or enqueued. -/
theorem feedQueue_consumes {r : List Byte} (hr : (slotLines ((s.queueOf q).slotAt (s.queueOf q).cons)).all s.readable = true)
    (hs : s.ringSlot q = (some r, s')) (hw : want (some (Rec.kind r)) = true) :
    s.feedQueue q want =
      (let b := s.queueOf q
      let t := s'.setQueue q { b with cons := (b.cons + 1) % 2 ^ 32 }
      match t.refusal? q r none with
      | some reason => t.postEvent q 2 reason (Rec.scope r) (b.cons % b.records) 0
      | none => (t.enqueue q r none).1) := by
  unfold State.feedQueue
  dsimp only
  rw [if_neg (by rw [he, hd]; simpa using hp), if_neg (by rw [hr]; simp), hs]
  dsimp only
  refine (if_neg (by simpa using hw)).trans ?_
  generalize State.refusal? _ q r none = o
  cases o <;> rfl
end

/-- A record that is not refused, by its kind. -/
theorem enqueue_kind {b : Queue} {r : List Byte} {k : Nat} (hk : Rec.kind r = k) (hk5 : k < 5) :
    ((s.setQueue q b).enqueue q r none).1 =
      (let t := s.setQueue q b
      let c := t.ctxOf b.ctx
      if k = 0 then (t.enqueueTask q r none).1
      else if k = 1 then t.setCtx b.ctx (c.openScope (Rec.scope r) (Rec.prio r))
      else if k = 2 then t.closeScope b.ctx (Rec.scope r)
      else if k = 3 then t.setCtx b.ctx { c with detlevel := Rec.prio r }
      else t.setCtx b.ctx { c with seed := BitVec.ofNat 64 (Rec.u r 0x40 8) }) := by
  unfold State.enqueue
  rw [State.setQueue_queueOf, hk]
  have hcases : k = 0 ∨ k = 1 ∨ k = 2 ∨ k = 3 ∨ k = 4 := by omega
  obtain rfl | rfl | rfl | rfl | rfl := hcases <;> rfl

theorem feeds_kind_lt {i : Instr} {k : Nat} (hi : (i, k) ∈ feeds q) : k < 5 := by
  simp only [feeds, List.mem_cons, Prod.mk.injEq, List.not_mem_nil, or_false] at hi
  omega

end Sys2Proof.Machine
end

section
/-! PROOFS. The events of the queues. -/

open Sys2Proof Sys2Proof.Machine

/-- Settles O49: the writes of PROD and EVCONS, by a writer that may and by others, then the next slot of a host-fed queue. -/
theorem queueEvents : Obligations.QueueEvents := by
  unfold Obligations.QueueEvents
  intro s q by_ v hq
  have hprod : exec (.prodWrite (1024 * by_ + q) v) s = _ := execProdWrite_eq by_ v hq
  have hev : exec (.evconsWrite (1024 * by_ + q) v) s = _ := execEvconsWrite_eq by_ v hq
  intro b tooMany m may
  have hmay : may = s.queueMay m q := by
    change (match m with | .function n => s.assigned n q true = true | m => s.mayManage m 0 = true ∧ s.mgmt.owner = Master.code m) = _
    cases m <;> rfl
  rw [hprod, hev, hmay]
  refine ⟨fun h => ?_, fun h => ?_, fun h hm => ?_, fun he hd hp => ?_, fun r s' he hd hp hr hs => ?_⟩
  · exact congrArg Host.Outcome.next (queueWrite_goes h)
  · exact ⟨_, congrArg Host.Outcome.next (queueWrite_goes h), State.setQueue_queueOf .., rfl, rfl⟩
  · exact ⟨congrArg Host.Outcome.next (queueWrite_refused h hm), congrArg Host.Outcome.next (queueWrite_refused h hm)⟩
  · intro ls ha hr i hi
    obtain ⟨k, hk⟩ : ∃ k, (i, k) ∈ feeds q := by
      simp only [List.mem_cons, List.not_mem_nil, or_false] at hi
      obtain rfl | rfl | rfl | rfl | rfl := hi
      exacts [⟨0, by simp [feeds]⟩, ⟨1, by simp [feeds]⟩, ⟨2, by simp [feeds]⟩, ⟨3, by simp [feeds]⟩, ⟨4, by simp [feeds]⟩]
    obtain ⟨want, -, hx⟩ := exec_feeds (s := s) hq hk
    rw [hx, feedQueue_waits he hd hp ha hr]
  · intro t c i k hi hk
    obtain ⟨want, hw, hx⟩ := exec_feeds (s := s) hq hi
    rw [hx, feedQueue_consumes he hd hp hr hs (hk ▸ hw)]
    refine ⟨fun hn => ?_, fun reason hn => ?_⟩
    · dsimp only
      rw [hn]
      exact congrArg Host.Outcome.next (enqueue_kind hk (feeds_kind_lt hi))
    · dsimp only
      rw [hn]

end

section
/-! PROOFS. Selection, the launch path and retirement (spec/15 R334, R340, R343). -/
namespace Sys2Proof.Machine

open Laws

variable {s : State} {id : Nat} {t : Task} {p : Placement} {ranges : Vector RangeReg 16}

/-! ### Selection (R334) -/

/-- What a selection's walk does once a task is bound: nothing. -/
theorem meet_bound {w : Walk} (hw : w.bound = true) (ranks : SMap Nat) (named : List Nat) (id : Nat) : w.meet ranks named id = w := by
  unfold Walk.meet
  rw [hw]
  rfl
theorem foldl_meet_bound (ranks : SMap Nat) (named : List Nat) (ids : List Nat) {w : Walk} (hw : w.bound = true) :
    ids.foldl (fun w id => w.meet ranks named id) w = w := by
  induction ids with
  | nil => rfl
  | cons id ids ih => rwa [List.foldl_cons, meet_bound hw]

/-- The cores that a candidate with no warm core gets. -/
def State.chosenFor (s : State) (ranks : SMap Nat) (named : List Nat) (id : Nat) (t : Task) (p : Placement) : List Nat :=
  (gangDies t.homeDie (dieCountOf p.loops)).flatMap (fun d => pickCores named (s.available ranks id d)
    (if (s.die d).holder = some id then (s.die d).reserved else [])
    (fun n => (s.coreAt n).holdsObject t.ctx (Rec.u t.record 0 8) p.part) (shareOf p.loops) d)
/-- The pointer of a rank moved past a queue (R334). -/
def State.moveRank (s : State) (d r q : Nat) : State := s.setDie d { s.die d with rr := SMap.put (s.die d).rr r ((q % 256 + 1) % 256) }

/-- A new candidate that is placed and fits on every die of its gang is bound there. -/
theorem meet_binds {ranks : SMap Nat} {named : List Nat} (hf : SMap.find? s.tasks id = some t) (hst : t.st = .enqueued)
    (hw : t.waits = false) (hh : s.hotReady t = true) (hp : s.placement t = .ok p) (hc : s.warmCore t p = none)
    (hroom : ∀ d ∈ gangDies t.homeDie (dieCountOf p.loops), shareOf p.loops + s.contended ranks id d ≤ (s.available ranks id d).length) :
    (Walk.meet ⟨s, s, false⟩ ranks named id) = ⟨s, (s.bindTask id t (gangCores p.loops t.homeDie (s.chosenFor ranks named id t p)) false (some p)).moveRank
      t.homeDie (SMap.get 0 ranks id) t.queue, true⟩ := by
  have hshort : ((gangDies t.homeDie (dieCountOf p.loops)).filter (fun d =>
      decide ((s.available ranks id d).length < shareOf p.loops + s.contended ranks id d))) = [] := by
    rw [List.filter_eq_nil_iff]
    intro d hd
    simpa using hroom d hd
  unfold Walk.meet
  dsimp only
  rw [hf, if_neg (by decide)]
  dsimp only
  rw [if_neg (by rw [hst]; decide), if_neg (by rw [hw]; decide), if_neg (by rw [hh]; decide), hp]
  dsimp only
  rw [hshort, if_neg (by decide), Option.bind_some, hc]
  rfl

theorem select_binds {d : Nat} {rest named : List Nat} (hl : (s.die d).lastSelect + 8 ≤ s.fabric)
    {s' : State} (hs : s.dropOldHolders = s') (ho : s'.inOrder s'.ranks d = id :: rest)
    {u : State} (hm : (Walk.meet ⟨s', s', false⟩ s'.ranks named id) = ⟨s', u, true⟩) :
    s.select d named = (let w : State := { u with tasks := u.tasks.map (fun e => (e.1, if e.2.homeDie = d then { e.2 with seen := true } else e.2)) }
      w.setDie d { w.die d with lastSelect := w.fabric }) := by
  subst hs
  unfold State.select
  dsimp only
  rw [if_neg (by omega), ho, List.foldl_cons, hm, foldl_meet_bound _ _ _ rfl]

/-! ### The launch path (R115, R340) -/

section
variable (hf : SMap.find? s.tasks id = some t)
include hf

section
variable (hst : t.st = .launching) (hw : t.waits = false)
include hst hw

theorem launchPath_refused {a : Option (Nat × Nat)} (hp : s.placement t = .error (.refuse a)) : s.launchPath id = s.refuseTask id a := by
  unfold State.launchPath
  rw [hf]
  dsimp only
  rw [if_neg (by simp [hst, hw]), hp]
theorem launchPath_waits {ps : List (Nat × Nat)} (hp : s.placement t = .error (.pages ps)) : s.launchPath id = s.awaitPages id ps := by
  unfold State.launchPath
  rw [hf]
  dsimp only
  rw [if_neg (by simp [hst, hw]), hp]

section
variable (hp : s.placement t = .ok p)
include hp

theorem launchPath_refusedRange {a : Option (Nat × Nat)} (hr : s.rangesFor t p = .error (.refuse a)) :
    s.launchPath id = s.refuseTask id a := by
  unfold State.launchPath
  rw [hf]
  dsimp only
  rw [if_neg (by simp [hst, hw]), hp]
  dsimp only
  rw [hr]
theorem launchPath_waitsRange {ps : List (Nat × Nat)} (hr : s.rangesFor t p = .error (.pages ps)) :
    s.launchPath id = ((s.walkAll (p.walks t)).setTask id { t with pins := s.pinsOf t p }).awaitPages id ps := by
  unfold State.launchPath
  rw [hf]
  dsimp only
  rw [if_neg (by simp [hst, hw]), hp]
  dsimp only
  rw [hr]

/-- With the islands of the gang awake, the cores are brought up, or restored where the task has saves. -/
theorem launchPath_brings {b : State} (hr : s.rangesFor t p = .ok ranges)
    (hb : (t.cores.map coreIsland).eraseDups.foldl (fun s i => s.wakeIsland i) (s.walkAll (p.walks t)) = b) :
    s.launchPath id = (let u := b.setTask id { t with st := .running, locks := [], asked := [], pins := b.pinsOf t p }
      if b.saves.any (fun x => x.task == id) then u.resumeTask id t p ranges
      else t.cores.zipIdx.foldl (fun u c =>
        ((u.shrinkTo c.1 (Part.l1Bytes p.part)).modCoreAt c.1 (fun k => k.launched id c.2 t p ranges)).acquireNow c.1) u) := by
  subst hb
  unfold State.launchPath
  rw [hf]
  dsimp only
  rw [if_neg (by simp [hst, hw]), hp]
  dsimp only
  rw [hr]
  rfl
end
end

section
variable (hst : t.st = .running) (hs : s.saves.any (fun x => x.task == id) = false) (hd : ∀ n ∈ t.cores, (s.coreAt n).allDone = true)
include hst hs hd

theorem taskRetire_retires (hc : ∀ n ∈ t.cores, s.coreSettled n = true) : s.taskRetire id = s.retireTask id := by
  unfold State.taskRetire
  rw [hf]
  dsimp only
  rw [if_neg (by rw [hst, hs, List.all_eq_true.2 hd]; decide), if_pos (List.all_eq_true.2 hc)]
theorem taskRetire_cleans (hc : ∃ n ∈ t.cores, s.coreSettled n = false) :
    s.taskRetire id = t.cores.foldl (fun s n => if s.coreSettled n then s else s.cleanCore n) s := by
  obtain ⟨n, hn, hu⟩ := hc
  unfold State.taskRetire
  rw [hf]
  dsimp only
  rw [if_neg (by rw [hst, hs, List.all_eq_true.2 hd]; decide),
    if_neg (fun h => by cases hu.symm.trans (List.all_eq_true.1 h n hn))]
end
end

theorem wakeIsland_awake {i : Nat} (h : (s.island i).asleep = false) : s.wakeIsland i = s := by
  unfold State.wakeIsland
  dsimp only
  rw [h]
  rfl
theorem foldl_wakeIsland_awake {is : List Nat} (h : ∀ i ∈ is, (s.island i).asleep = false) :
    is.foldl (fun s i => s.wakeIsland i) s = s := by
  induction is with
  | nil => rfl
  | cons i is ih =>
    rw [List.foldl_cons, wakeIsland_awake (h i List.mem_cons_self)]
    exact ih (fun j hj => h j (List.mem_cons_of_mem _ hj))

/-! ### A launched core, and a restored one -/

/-- The arguments of the record in s1 to s8, the other registers 0. -/
theorem argRegs_get (x : List Byte) (r : Fin 32) :
    (argRegs x)[r] = if 1 ≤ r.val ∧ r.val ≤ 8 then BitVec.ofNat 64 (Rec.u x (0x38 + 8 * r.val) 8) else 0 := by
  fin_cases r <;> rfl

theorem launched_s (c : Core) (pos : Nat) : (c.launched id pos t p ranges).s = argRegs t.record := by
  unfold Core.launched
  dsimp only
  split <;> rfl
theorem launched_fields (c : Core) (pos : Nat) :
    let u := c.launched id pos t p ranges
    u.started = true ∧ u.task = some id ∧ u.gangPos = pos ∧ u.ranges = ranges ∧ u.trap.mode = false ∧ u.journal = []
      ∧ u.p = Vector.replicate 8 false := by
  unfold Core.launched
  dsimp only
  split <;> exact ⟨rfl, rfl, rfl, rfl, rfl, rfl, rfl⟩
/-- Each engine of a launched core is a reset one but for its ring. -/
theorem launched_eng (c : Core) (pos : Nat) (e : Engine) : ∃ r : Ring, (c.launched id pos t p ranges).eng e = { ring := r } := by
  unfold Core.launched
  dsimp only
  split <;> cases e <;> exact ⟨_, rfl⟩

/-- What a core resumes with: its registers and predicates, and each engine's PC, k registers and stacks. -/
def Core.resumes (c : Core) : Vector Word64 32 × Vector Bool 8 × (Engine → Nat × Vector Word64 16 × List Nat × List LoopEntry) :=
  (c.s, c.p, fun e => ((c.eng e).pc, (c.eng e).k, (c.eng e).link, (c.eng e).loops))

theorem resumes_l1 (c : Core) (l1 : SMap L1Word) : { c with l1 }.resumes = c.resumes := by
  refine congrArg (fun f => (c.s, c.p, f)) (funext fun e => ?_)
  cases e <;> rfl
theorem acquireNow_resumes (n : Nat) : ((s.acquireNow n).coreAt n).resumes = (s.coreAt n).resumes := by
  unfold State.acquireNow
  dsimp only
  rw [State.modCoreAt, State.setCoreAt_coreAt]
  exact (resumes_l1 _ _).trans (resumes_l1 _ _)

/-- What a save slot gives back to its core. -/
theorem restored_resumes (s : State) (x : Saved) (id n : Nat) (p : Placement) (ranges : Vector RangeReg 16) :
    ((s.restored x id n p ranges).coreAt n).resumes = x.core.resumes := by
  unfold State.restored
  dsimp only
  change ((State.acquireNow (s.setCoreAt n _) n).coreAt n).resumes = _
  rw [acquireNow_resumes, State.setCoreAt_coreAt]
  refine congrArg (fun f => (x.core.s, x.core.p, f)) (funext fun e => ?_)
  cases e <;> rfl

end Sys2Proof.Machine
end

section
/-! PROOFS. What the sluice binds, launches and retires. -/

open Sys2Proof Sys2Proof.Machine

/-- Settles O50: a selection, the launch path and retirement, and what a launched and a restored core start with. -/
theorem sluiceBindsAndRetires : Obligations.SluiceBindsAndRetires := by
  unfold Obligations.SluiceBindsAndRetires
  refine ⟨fun s d id rest named t p hd => ?_, fun s id t p ranges hf => ⟨fun hst hw hp hr => ?_, fun hst hw => ⟨fun a hp => ?_, fun ps hp => ?_,
    fun hp => ⟨fun a hr => ?_, fun ps hr => ?_⟩⟩, fun hst hs hdn => ⟨fun hc => ?_, fun hc => ?_⟩⟩, fun c id pos t p ranges => ?_,
    fun s x id n p ranges => ?_⟩
  · intro s' ranks share ds kept holds chosen hl ho hf hst hw hh hp hc hroom b v w
    have hx : exec (.sluiceSelection d named) s = .next (s.select (d % 4) named) := rfl
    rw [hx, Nat.mod_eq_of_lt hd]
    exact congrArg Host.Outcome.next (select_binds hl rfl ho (meet_binds hf hst hw hh hp hc hroom))
  · intro b hawake u
    refine congrArg Host.Outcome.next (launchPath_brings hf hst hw hp hr (foldl_wakeIsland_awake fun i hi => ?_))
    obtain ⟨n, hn, rfl⟩ := List.mem_map.1 (List.mem_eraseDups.1 hi)
    exact hawake n hn
  · exact congrArg Host.Outcome.next (launchPath_refused hf hst hw hp)
  · exact congrArg Host.Outcome.next (launchPath_waits hf hst hw hp)
  · exact congrArg Host.Outcome.next (launchPath_refusedRange hf hst hw hp hr)
  · exact congrArg Host.Outcome.next (launchPath_waitsRange hf hst hw hp hr)
  · exact congrArg Host.Outcome.next (taskRetire_retires hf hst hs hdn hc)
  · exact congrArg Host.Outcome.next (taskRetire_cleans hf hst hs hdn hc)
  · obtain ⟨hstart, htask, hpos, hranges, hmode, hj, hp⟩ := launched_fields (t := t) (p := p) (id := id) (ranges := ranges) c pos
    refine ⟨hstart, htask, hpos, hranges, hmode, hj, fun e => ?_, fun q hq => ?_, fun r => ?_⟩
    · obtain ⟨r, he⟩ := launched_eng (t := t) (p := p) (id := id) (ranges := ranges) c pos e
      rw [he]
      exact ⟨rfl, rfl, rfl, rfl, rfl, rfl⟩
    · rw [Core.readP, if_neg hq, hp]
      exact Vector.getElem_replicate ..
    · rw [Core.readS, launched_s, argRegs_get]
      split
      next h => subst h; rfl
      next h => rfl
  · intro c
    have hr : c.resumes = x.core.resumes := restored_resumes s x id n p ranges
    exact ⟨congrArg (·.1) hr, congrArg (·.2.1) hr, fun e => ⟨congrArg (fun v => (v.2.2 e).1) hr, congrArg (fun v => (v.2.2 e).2.1) hr,
      congrArg (fun v => (v.2.2 e).2.2.1) hr, congrArg (fun v => (v.2.2 e).2.2.2) hr⟩⟩

end

section
/-! PROOFS. Pre-emption rounds, saves, budgets and the core deadlock (spec/15 R337 to R339, spec/16 R369 to R376). -/
namespace Sys2Proof.Machine

variable {s : State} {id n : Nat} {t : Task}

/-! ### Rounds (R337) -/

/-- What the holder of a die's reservation holds there. -/
def State.heldOn (s : State) (h d : Nat) : Nat := if (s.die d).holder = some h then (s.die d).reserved.length else 0
/-- A victim asked for its cores. -/
def State.askVictim (s : State) (t : Task) : State :=
  t.cores.foldl (fun s n => s.modCoreAt n (fun c => if c.preempt.isSome then c else { c with preempt := some (s.cycleOf n), preemptGroup := none })) s

/-- Whether victims cover what the holder lacks on every die of its gang. -/
def State.coversShare (s : State) (h share : Nat) (ds : List Nat) (vs : List (Nat × Task)) : Bool :=
  ds.all (fun d => decide (share ≤ s.heldOn h d + vs.foldl (fun n v => n + v.2.coresOn d) 0))
/-- The save slots of a context in use once victims are saved. -/
def State.slotsWith (s : State) (vs : List (Nat × Task)) (c : Nat) : Nat :=
  vs.foldl (fun n v => if v.2.ctx = c then n + v.2.gangSize else n) (s.ctxOf c).slotsused
/-- The victims picked in order until they cover the share. -/
def State.pickVictims (s : State) (h share : Nat) (ds : List Nat) (order vs : List (Nat × Task)) : List (Nat × Task) :=
  order.foldl (fun vs v =>
    if s.coversShare h share ds vs ∨ (s.ctxOf v.2.ctx).saveslots < s.slotsWith (vs ++ [v]) v.2.ctx then vs else vs ++ [v]) vs

theorem pickVictims_enough {h share : Nat} {ds : List Nat} {vs : List (Nat × Task)} (hc : s.coversShare h share ds vs = true)
    (order : List (Nat × Task)) : s.pickVictims h share ds order vs = vs := by
  unfold State.pickVictims
  induction order with
  | nil => rfl
  | cons v rest ih => rw [List.foldl_cons, if_pos (.inl hc), ih]

section
variable {d h : Nat} {v : Nat × Task} {rest : List (Nat × Task)} {ds : List Nat} {share : Nat}

/-- One victim that covers the share, with room for its cores' saves, is picked alone. -/
theorem pickVictims_first (hs : (s.ctxOf v.2.ctx).slotsused + v.2.gangSize ≤ (s.ctxOf v.2.ctx).saveslots)
    (hlack : s.coversShare h share ds [] = false) (hcover : s.coversShare h share ds [v] = true) :
    s.pickVictims h share ds (v :: rest) [] = [v] := by
  have hslots : s.slotsWith [v] v.2.ctx = (s.ctxOf v.2.ctx).slotsused + v.2.gangSize := if_pos rfl
  rw [State.pickVictims, List.foldl_cons, List.nil_append, if_neg (by rw [hlack, hslots]; simpa using hs)]
  exact pickVictims_enough hcover rest

section
variable (hh : (s.die d).holder = some h) (hf : SMap.find? s.tasks h = some t) (hw : (s.queueOf t.queue).preemptWait ≠ 0)
  (ht : (s.die d).since + (s.queueOf t.queue).preemptWait < s.fabric) (hv : (s.die d).victims = [])
  (hg : s.gangShape t = some (ds, share))
include hh hf hw ht hv hg

theorem preemptionRound_eq : s.preemptionRound d =
    (let vs := s.pickVictims h share ds (s.victimOrder s.ranks (SMap.get 0 s.ranks h) ds) []
    if s.coversShare h share ds vs = false then s
    else
      let u := vs.foldl (fun s v => s.askVictim v.2) s
      u.setDie d { u.die d with victims := vs.map (fun v => (v.1, v.2.resumeAt)) }) := by
  unfold State.preemptionRound
  dsimp only
  rw [hh, Option.bind_some, hf, Option.map_some]
  dsimp only
  rw [hv, if_neg (by simp only [List.any_nil, Bool.false_eq_true, or_false, not_or]; omega), hg]
  simp only [Bool.not_eq_true']
  rfl

/-- A round whose first victim covers what its holder lacks asks for that one's cores. -/
theorem preemptionRound_asks (ho : s.victimOrder s.ranks (SMap.get 0 s.ranks h) ds = v :: rest)
    (hs : (s.ctxOf v.2.ctx).slotsused + v.2.gangSize ≤ (s.ctxOf v.2.ctx).saveslots)
    (hlack : ∃ d ∈ ds, s.heldOn h d < share) (hcover : ∀ d ∈ ds, share ≤ s.heldOn h d + v.2.coresOn d) :
    s.preemptionRound d = (s.askVictim v.2).setDie d { (s.askVictim v.2).die d with victims := [(v.1, v.2.resumeAt)] } := by
  have hnone : s.coversShare h share ds [] = false := by
    obtain ⟨d, hd, hlt⟩ := hlack
    exact List.all_eq_false.2 ⟨d, hd, by simpa using hlt⟩
  have hone : s.coversShare h share ds [v] = true := List.all_eq_true.2 (fun d hd => by simpa using hcover d hd)
  rw [preemptionRound_eq hh hf hw ht hv hg, ho, pickVictims_first hs hnone hone]
  dsimp only
  rw [if_neg (by rw [hone]; decide)]
  rfl
end
end

/-! ### Saves (R369 to R371) -/

section
variable (hv : s.victimCore n = true) (hc : (s.coreAt n).collInFlight = false)
include hv hc

theorem softPreempt_eq (hm : (s.coreAt n).trap.mode = false) (hq : (s.coreAt n).quiesced = true) :
    s.softPreempt n = if (s.coreAt n).started then (s.discardTransfers n).modCoreAt n (fun c => { c with started := false })
      else if s.coreSettled n then s.putSave n ((s.coreAt n).applyFills.softSaved.saved (s.cycleOf n)) [] false else s.cleanCore n := by
  unfold State.softPreempt
  dsimp only
  rw [if_neg (by rw [hv, hm, hq, hc]; decide)]

section
variable {at_ : Nat} (hp : (s.coreAt n).preempt = some at_) (hd : at_ + 2 ^ 20 ≤ s.cycleOf n)
  (hq : (s.coreAt n).quiesced = true → (s.coreAt n).trap.mode = true)
include hp hd hq

theorem hardPreempt_stops (hs : (s.coreAt n).started = true) :
    s.hardPreempt n = (s.discardTransfers n).modCoreAt n (fun c => { c with started := false, phase := none }) := by
  unfold State.hardPreempt
  dsimp only
  rw [if_neg (by rw [hv, hp, hc]; simpa using ⟨hd, hq⟩), if_pos hs]
theorem hardPreempt_saves (hs : (s.coreAt n).started = false) (hu : (s.coreAt n).unit = none) (hfl : (s.coreAt n).flights = []) :
    s.hardPreempt n = if (s.withdraw (s.withdrawable n)).coreSettled n then
        (s.withdraw (s.withdrawable n)).putSave n ((s.coreAt n).applyFills.saved (s.cycleOf n)) (s.withdrawable n) true
      else s.cleanCore n := by
  unfold State.hardPreempt
  dsimp only
  rw [if_neg (by rw [hv, hp, hc]; simpa using ⟨hd, hq⟩), if_neg (by rw [hs]; decide), hu, hfl, if_neg (by simp)]
end
end

section
variable (hk : (s.coreAt n).task = some id) (hf : SMap.find? s.tasks id = some t) (hst : t.st = .running)
  (hs : (s.coreAt n).started = false) (hx : s.saves.any (fun x => x.task == id && x.place == (s.coreAt n).gangPos) = true)
include hk hf hst hs hx

/-- A core whose save is done leaves its task; the last one ends the pre-emption. -/
theorem saveComplete_eq : s.saveComplete n =
    (let b := s.modCoreAt n (fun c => c.leave (some t.ctx))
    let left := t.cores.filter (· != n)
    if left.isEmpty = false then (b.setTask id { t with cores := left }).topUpAll
    else
      let u := b.setTask id { t with cores := left, st := .preempted, budgetUsed := t.budgetUsed + (s.fabric - t.resumeAt) }
      ((u.pinLayers t.ctx t.layers false).settleContext t.ctx).topUpAll) := by
  unfold State.saveComplete
  dsimp only
  rw [hk, Option.bind_some, hf, Option.map_some]
  dsimp only
  rw [if_neg (by rw [hst, hs, hx]; decide)]
  simp only [Bool.not_eq_true', State.modCoreAt]
  rfl
end

/-! ### Budgets and the core deadlock (R339, R376) -/

theorem budgetExhaustion_goes (hf : SMap.find? s.tasks id = some t) (hd : t.deadlineClass = true) (hst : t.st = .running)
    (hb : s.budgetLeft t = 0) : s.budgetExhaustion id = t.cores.foldl (fun s n => s.modCoreAt n (fun c =>
      if c.budget.isSome ∨ c.budgetTaken then c else { c with budget := some (s.cycleOf n) })) s := by
  unfold State.budgetExhaustion
  rw [hf]
  dsimp only
  rw [if_neg (by rw [hd, hst, hb]; decide)]

theorem onCore_of {f : State → State} {b u : State} (hb : { s with cur := n } = b) (h : f b = u) : s.onCore n f = { u with cur := s.cur } :=
  onCore_eq (by rw [hb, h])

section
variable {b : State} (hb : { s with cur := n } = b)
include hb

theorem budgetBoundary_traps {since : Nat} (hbud : b.core.budget = some since) (hd : since + 2 ^ 20 ≤ b.cycleOf n)
    (hs : b.core.started = true) (hm : b.core.trap.mode = false) (he : b.core.engS.ended = false) (hu : b.core.unit = none)
    (hp : b.core.phase = none) (hw : b.core.engS.pause = none) :
    s.budgetBoundary n = { (b.setCore { b.core with budget := none, budgetTaken := true }).takeTrap .S b.core.engS.pc
      { cause := 9, info := 1 } with cur := s.cur } := by
  unfold State.budgetBoundary
  refine onCore_of hb ?_
  dsimp only
  rw [hbud]
  dsimp only
  rw [if_neg (by rw [hs, hm, he, hu, hp, hw]; simpa using hd)]

/-- Whether every live engine of a core is blocked, and one is. -/
theorem coreDeadlock_stuck (hs : b.core.started = true) (hm : b.core.trap.mode = false) (hp : b.core.phase = none)
    (hpre : b.core.preempt = none) (hj : b.core.journal = []) (hfl : b.core.flights = [])
    (hall : ∀ e, (b.core.eng e).ended = true ∨ (b.core.blockOf e).isSome = true) {e : Engine}
    (he : Engine.all.find? (fun e => (b.core.blockOf e).isSome) = some e) :
    (∀ since, b.core.blockedSince = some since → since + 256 ≤ b.cycleOf n → s.coreDeadlock n =
      { (b.setCore { b.core with blockedSince := none }).takeTrap e (b.core.eng e).pc { cause := 8, info := b.core.deadlockInfo } with cur := s.cur })
    ∧ (b.core.blockedSince = none → s.coreDeadlock n = { b.setCore { b.core with blockedSince := some (b.cycleOf n) } with cur := s.cur }) := by
  have hcur : b.cur = n := by rw [← hb]
  have hstuck : (b.core.started && !b.core.trap.mode && b.core.phase.isNone && b.core.preempt.isNone && b.core.journal.isEmpty
      && b.core.flights.isEmpty && Engine.all.all (fun e => (b.core.eng e).ended || (b.core.blockOf e).isSome)
      && Engine.all.any (fun e => (b.core.blockOf e).isSome)) = true := by
    have hev : Engine.all.all (fun e => (b.core.eng e).ended || (b.core.blockOf e).isSome) = true :=
      List.all_eq_true.2 (fun e _ => Bool.or_eq_true_iff.2 (hall e))
    have hany : Engine.all.any (fun e => (b.core.blockOf e).isSome) = true :=
      List.any_eq_true.2 ⟨e, List.mem_of_find?_eq_some he, List.find?_some (p := fun e => (b.core.blockOf e).isSome) he⟩
    rw [hs, hm, hp, hpre, hj, hfl, hev, hany]
    rfl
  refine ⟨fun since hsince hle => ?_, fun hnone => ?_⟩
  · unfold State.coreDeadlock
    refine onCore_of hb ?_
    dsimp only
    rw [hstuck, hsince, he, if_neg (by decide)]
    dsimp only
    rw [hcur, if_neg (by omega)]
  · unfold State.coreDeadlock
    refine onCore_of hb ?_
    dsimp only
    rw [hstuck, hnone, if_neg (by decide), hcur]

theorem unitReply_answers {u : UnitHold} {v : Nat} (hu : b.core.unit = some u) (hv : u.answer = some v) :
    s.unitReply n = { ((match u.cmd with | .fswait _ _ _ => b.acquire .pkg | _ => b).modCore (fun c =>
      { c.writeS u.d (BitVec.ofNat 64 v) with unit := none })).finishSig .S u.id with cur := s.cur } := by
  unfold State.unitReply
  refine onCore_of hb ?_
  rw [hu]
  dsimp only
  rw [hv] <;> rfl
end

end Sys2Proof.Machine
end

section
/-! PROOFS. Pre-emption and budgets. -/

open Sys2Proof Sys2Proof.Machine

/-- Settles O51: a round, soft and hard saves, a save's end, budgets, the units' answers and the core deadlock. -/
theorem preemptionAndBudgets : Obligations.PreemptionAndBudgets := by
  unfold Obligations.PreemptionAndBudgets
  refine ⟨fun s d h t v rest ds share hd => ?_, fun s n hv hc => ⟨fun hm hq => ?_, fun at_ hp hdue hq => ⟨fun hs => ?_, fun hs hu hfl => ?_⟩⟩,
    fun s n id t hk hf hst hs hx => ?_, fun s id t hf hd hst hb => ?_, fun s n since => ?_⟩
  · intro x w hh hf hw ht hv hg ho hs held hlack hcover u
    have hx : exec (.preemptionRound d) s = .next (s.preemptionRound (d % 4)) := rfl
    rw [hx, Nat.mod_eq_of_lt hd]
    exact congrArg Host.Outcome.next (preemptionRound_asks hh hf hw ht hv hg ho hs hlack hcover)
  · exact congrArg Host.Outcome.next (softPreempt_eq hv hc hm hq)
  · exact congrArg Host.Outcome.next (hardPreempt_stops hv hc hp hdue hq hs)
  · exact congrArg Host.Outcome.next (hardPreempt_saves hv hc hp hdue hq hs hu hfl)
  · have hsave := saveComplete_eq hk hf hst hs hx
    refine ⟨fun hl => congrArg Host.Outcome.next (hsave.trans ?_), fun hl => congrArg Host.Outcome.next (hsave.trans ?_)⟩
    · exact if_pos (by simpa using hl)
    · dsimp only
      rw [hl]
      rfl
  · exact congrArg Host.Outcome.next (budgetExhaustion_goes hf hd hst hb)
  · intro b c
    refine ⟨fun hbud hd hs hm he hu hp hw => congrArg Host.Outcome.next (budgetBoundary_traps rfl hbud hd hs hm he hu hp hw),
      fun u v hu hv => congrArg Host.Outcome.next (unitReply_answers rfl hu hv),
      fun e hs hm hp hpre hj hfl hall he => ?_⟩
    obtain ⟨htrap, hnote⟩ := coreDeadlock_stuck (s := s) (n := n) rfl hs hm hp hpre hj hfl hall he
    exact ⟨fun hsince hle => congrArg Host.Outcome.next (htrap since hsince hle), fun hnone => congrArg Host.Outcome.next (hnote hnone)⟩

end

section
/-! PROOFS. The governor's evaluations, the merging of statistics and the residency manager (spec/08 R201, R205, R215, spec/16 R360 to
R364). -/
namespace Sys2Proof.Machine

open Laws

variable {s : State} {d ctx idx l : Nat}

/-! ### What a unit's write leaves of the contexts and the time -/

section
/-- The contexts and the time. -/
def State.frame (s : State) : SMap Ctx × Nat := (s.ctxs, s.fabric)

variable (s : State)

@[simp] theorem recode_frame (l : Nat) (tag : BitVec 4) (b : Bool) : (s.recode l tag b).frame = s.frame := by
  unfold State.recode
  split <;> rfl
@[simp] theorem logError_frame (die : Nat) (r : ErrorRecord) : (s.logError die r).frame = s.frame := by
  unfold State.logError
  dsimp only
  split
  · exact Prod.ext (State.setDie_ctxs ..) (State.setDie_fabric ..)
  · rfl
@[simp] theorem readDecode_frame (l : Nat) : (s.readDecode l).frame = s.frame := by
  have hc : ∀ i v, (s.correctLine l i v).frame = s.frame := fun i v => by
    unfold State.correctLine
    dsimp only
    split <;> exact recode_frame _ _ _ _
  unfold State.readDecode
  split
  · rfl
  · dsimp only
    split
    · rfl
    · rfl
    · exact (logError_frame _ _ _).trans (hc _ _)
    · exact (logError_frame _ _ _).trans (recode_frame _ _ _ _)
@[simp] theorem noteWrite_frame (ks : List Nat) : (s.noteWrite ks).frame = s.frame := by
  obtain ⟨_, _, h⟩ := noteWrite_eq s ks
  rw [h]
  rfl
@[simp] theorem noteUnitWrite_frame (ks : List Nat) : (s.noteUnitWrite ks).frame = s.frame := by
  obtain ⟨_, _, h⟩ := noteUnitWrite_eq s ks
  rw [h]
  rfl
theorem withMem_frame (m : Memory) : { s with mem := m }.frame = s.frame := rfl
@[simp] theorem putWords_frame (l : Nat) (ws : List (Nat × Word32 × BitVec 4)) (tag : BitVec 4) : (s.putWords l ws tag).frame = s.frame := by
  simp only [State.putWords, apply_ite State.frame, recode_frame, withMem_frame, noteWrite_frame, readDecode_frame, ite_self]
@[simp] theorem writeLine_frame (a : Nat) (bs : List Byte) (tag : BitVec 4) : (s.writeLine a bs tag).frame = s.frame := by
  simp only [State.writeLine, apply_ite State.frame, recode_frame, withMem_frame, noteUnitWrite_frame, readDecode_frame, ite_self]
@[simp] theorem dropCopies_frame (l : Nat) : (s.dropCopies l).frame = s.frame :=
  foldl_view State.frame (fun s _ => foldl_view State.frame (fun s _ => by split <;> rfl) _ s) _ s
@[simp] theorem recallNow_frame (l : Nat) (w : BitVec 16) : (s.recallNow l w).frame = s.frame := by
  have hw : ∀ (s : State) k, (s.recallWord k).frame = s.frame := fun s k => by
    unfold State.recallWord
    split
    · exact putWords_frame _ _ _ _
    · rfl
  unfold State.recallNow
  split
  · rfl
  · refine (dropCopies_frame _ _).trans (foldl_view State.frame (fun s j => ?_) _ s)
    split
    · exact hw _ _
    · rfl
@[simp] theorem applyLine_frame (a : Nat) (bs : List Byte) (tag : BitVec 4) : (s.applyLine a bs tag).frame = s.frame :=
  (foldl_view State.frame dropCopies_frame _ _).trans
    ((writeLine_frame _ _ _ _).trans (foldl_view State.frame (fun s _ => recallNow_frame s _ _) _ s))
@[simp] theorem writeNow_frame (a : Nat) (bs : List Byte) (tag : BitVec 4) (fuel : Nat) : (s.writeNow a bs tag fuel).frame = s.frame := by
  induction fuel generalizing s a bs with
  | zero => rfl
  | succ n ih =>
    unfold State.writeNow
    split
    · rfl
    · refine (ih _ _ _).trans ?_
      unfold State.writeNowLine
      split
      · exact applyLine_frame _ _ _ _
      · rfl
theorem withTlb_frame (m : SMap (Nat × Nat × Bool)) : { s with tlb := m }.frame = s.frame := rfl
@[simp] theorem walked_frame (ctx ia agent : Nat) : (s.walked ctx ia agent).frame = s.frame := by
  unfold State.walked
  split
  · simp only [apply_ite State.frame, putWords_frame, withTlb_frame, ite_self]
  · exact logError_frame _ _ _
  · rfl
@[simp] theorem noteName_frame (ctx ia a : Nat) : (s.noteName ctx ia a).frame = s.frame := by
  unfold State.noteName
  dsimp only
  refine Eq.trans (foldl_view State.frame ?_ _ _) ?_
  · exact fun s p => rfl
  · split <;> rfl
theorem unitWrite_frame (ctx ia : Nat) (bs : List Byte) : (s.unitWrite ctx ia bs).frame = s.frame := by
  unfold State.unitWrite
  dsimp only
  split
  · exact (writeNow_frame _ _ _ _ _).trans ((noteName_frame _ _ _ _).trans (walked_frame _ _ _ _))
  · exact walked_frame _ _ _ _
  · exact walked_frame _ _ _ _
end

/-! ### Layers -/

/-- A layer in a state that lists it reads back as it was set. -/
theorem setLayer_layer {x : Layer} (hx : x ≠ {}) : (s.setLayer ctx l x).layer ctx l = x := by
  have hput : ∀ t : State, t.ctxs = (s.setCtx ctx { s.ctxOf ctx with layers := SMap.set {} (s.ctxOf ctx).layers l x }).ctxs → t.layer ctx l = x := by
    intro t ht
    rw [State.layer, State.ctxOf, ht, State.setCtx, get_put_self, SMap.set, if_neg hx, get_put_self]
  unfold State.setLayer
  dsimp only
  split
  · exact hput _ (congrArg Prod.fst (unitWrite_frame _ _ _ _))
  · exact hput _ rfl

section
variable {x : Layer} (hx : s.layer ctx l = x) (hst : x.st = .arriving) (hm : x.met ≠ some s.fabric)
include hx hst hm

theorem arrivalComplete_fails {k : Nat} (hf : s.sourceFails ctx x = some k) :
    s.arrivalComplete ctx l = (s.dropPages ctx l .failed false k).logLayer ctx x.ibase := by
  subst hx
  unfold State.arrivalComplete
  dsimp only
  rw [if_neg (by simp [hst, hm]), hf]
  rfl
theorem arrivalComplete_layer (hf : s.sourceFails ctx x = none) :
    (s.arrivalComplete ctx l).layer ctx l = { x with st := .resident, req := false, access := s.fabric } := by
  subst hx
  have hfab : ((s.layer ctx l).pages.zipIdx.foldl (fun t p =>
      let bs := t.sourcePage (s.layer ctx l) p.2
      t.writeNow p.1 bs 0 (lineCount bs)) s).fabric = s.fabric :=
    congrArg Prod.snd (foldl_view State.frame (fun t p => writeNow_frame _ _ _ _ _) _ s)
  unfold State.arrivalComplete
  dsimp only
  rw [if_neg (by simp [hst, hm]), hf]
  dsimp only
  rw [hfab]
  exact setLayer_layer (fun h => by cases congrArg Layer.st h)

theorem arrivalFail_fails {code : Nat} (h4 : code ≠ 4)
    (hc : code = 2 ∨ x.source.1 ≠ 0 ∧ (code = 1 ∨ code = 3) ∨ s.sourceFails ctx x = some code) :
    s.arrivalFail ctx l code = (s.dropPages ctx l .failed false code).logLayer ctx x.ibase := by
  subst hx
  unfold State.arrivalFail
  dsimp only
  rw [if_neg h4, if_pos ⟨hst, hm, hc⟩]
  rfl
end

theorem evictionComplete_drops {x : Layer} (hx : s.layer ctx l = x) (hst : x.st = .evicting) (hc : x.chosen ≠ some s.fabric)
    (hr : ∀ r ∈ s.coh.reqs, ∀ p ∈ x.pages, ¬ (p ≤ paOf r.addr ∧ paOf r.addr < p + pageSize)) :
    s.evictionComplete ctx l = s.dropPages ctx l .absent (x.req || x.pins != 0 || x.lpins != 0) 0 := by
  subst hx
  unfold State.evictionComplete
  dsimp only
  rw [if_neg]
  simp only [hst, hc, List.any_eq_true, decide_eq_true_eq, ne_eq, not_true, false_or]
  rintro ⟨r, hr', p, hp, h⟩
  exact hr r hr' p hp h

/-- With every wanted entry readable and a copy channel free, the first requested layer is met. -/
theorem arrivalStart_first {b t : State} {e : LayerEntry} {rest : List (Nat × Nat × LayerEntry)}
    (hb : (s.wanted d).foldl (fun s x => s.layerTouch x.1 x.2.1) s = b) (hready : (s.wanted d).all (fun x => s.layerReady x.1 x.2.1) = true)
    (hch : ((b.dieLayers d).filter (fun x => x.2.2.st == .arriving)).length < 16) (hq : b.requested d = (ctx, l, e) :: rest)
    (ht : b.startLayer d (ctx, l, e) = some t) : s.arrivalStart d = t := by
  subst hb
  unfold State.arrivalStart
  dsimp only
  rw [hready, if_neg (by simpa using hch), hq, List.findSome?_cons, ht]
  rfl
theorem startLayer_large {e : LayerEntry} (h : s.resSize d < pageSize * e.size) :
    s.startLayer d (ctx, l, e) = some (s.requestAbsent ctx l (s.layer ctx l)) := if_pos h
theorem startLayer_fits {e : LayerEntry} (h : pageSize * e.size ≤ s.resSize d)
    (hp : e.size + s.tablesLacked ctx e.ibase e.size ≤ (s.freePages d).length) :
    s.startLayer d (ctx, l, e) = (let y : Layer := { s.layer ctx l with
        st := .arriving, pages := (s.freePages d).take e.size, ibase := e.ibase, source := (e.srckind, e.peer, e.srcaddr) }
      some (((s.setLayer ctx l y).growRes ctx (pageSize * e.size) true).mapLayer ctx y true)) := by
  unfold State.startLayer
  dsimp only
  rw [if_neg (by omega), if_pos hp]

/-! ### The governor -/

/-- A GOVEVAL answered: its TMR is evaluated and the core that asked takes the status. -/
theorem governorEvaluation_answers {core : Nat} (ha : firstAsk (s.die d).asks = some (ctx, idx, core)) (hm : s.mayEvaluate ctx idx = true)
    {rest : List (Nat × Nat × Nat)} (hrest : (s.die d).asks.erase (ctx, idx, core) = rest) {r : State × GovOutcome}
    (hr : ((s.setDie d { s.die d with asks := rest }).modTmr ctx idx (fun t =>
      Tmr.setPend t (rest.any (fun a => a.1 == ctx && a.2.1 == idx)))).evaluate ctx idx = r)
    {u : UnitHold} (hu : (r.1.coreAt core).unit = some u) (h2 : u.arg2 = 0) :
    s.governorEvaluation d = r.1.modCoreAt core (fun c => { c with unit := some { u with answer := some (govStatus (r.1.tmr ctx idx) r.2) } }) := by
  subst hrest
  unfold State.governorEvaluation
  rw [ha]
  dsimp only
  rw [hm, hr, if_neg (by decide), hu, if_neg (by simp [h2])]
  unfold State.modCoreAt
  dsimp only
  rw [hu]
  dsimp only
  rw [if_neg (by omega)]

section
variable (ha : (s.die d).asks = []) (hp : s.pendingTmr d = some (ctx, idx))
include ha hp

theorem governorEvaluation_evaluates (hm : s.mayEvaluate ctx idx = true) :
    s.governorEvaluation d = ((s.modTmr ctx idx (fun t => Tmr.setPend t false)).evaluate ctx idx).1 := by
  have hn : firstAsk (s.die d).asks = none := by rw [ha]; rfl
  unfold State.governorEvaluation
  rw [hn]
  dsimp only
  rw [hp]
  dsimp only
  rw [hm]
  rfl
theorem governorEvaluation_waits (hm : s.mayEvaluate ctx idx = false) : s.governorEvaluation d = s.tmrSnoop ctx idx := by
  have hn : firstAsk (s.die d).asks = none := by rw [ha]; rfl
  unfold State.governorEvaluation
  rw [hn]
  dsimp only
  rw [hp]
  dsimp only
  rw [hm]
  rfl
end

/-! ### Statistics -/

theorem statsMerge_merges {n k id : Nat} {x : StatSlot} {t : Task} (hk : (s.coreAt n).stats[k]? = some x)
    (hd : ((s.coreAt n).allDone || ((s.coreAt n).preempt.isSome && !(s.coreAt n).started)) = true)
    (hx : (s.coreAt n).stats.find? (fun y => y.tmr == x.tmr) = some x) (ht : (s.coreAt n).task = some id) (hf : SMap.find? s.tasks id = some t) :
    s.statsMerge n k = (s.updateTmr t.ctx x.tmr (.merge n x.counts)).modCoreAt n (fun c => { c with stats := c.stats.filterMap (fun y =>
      if y.tmr = x.tmr then (if y.rebound.isSome then some { y with counts := {} } else none) else some y) }) := by
  unfold State.statsMerge
  dsimp only
  rw [hk]
  dsimp only
  rw [if_pos hd]
  unfold State.mergeSlot
  dsimp only
  rw [hx, ht, Option.bind_some, hf]

end Sys2Proof.Machine
end

section
/-! PROOFS. The managers. -/

open Sys2Proof Sys2Proof.Machine

/-- Settles O52: the governor, the statistics, and layers that start, arrive, fail and leave. -/
theorem managersAct : Obligations.ManagersAct := by
  unfold Obligations.ManagersAct
  refine ⟨fun s d ctx idx core hd ha hm => ?_, fun s d ctx idx hd ha hp => ⟨fun hm => ?_, fun hm => ?_⟩,
    fun s n k id x t hk hdn hx ht hf => ?_, fun s d ctx l e rest hd => ?_, fun s ctx l code hc hl => ?_⟩
  · intro rest b r u hu h2
    exact congrArg Host.Outcome.next (governorEvaluation_answers ha hm rfl rfl hu h2)
  · exact congrArg Host.Outcome.next (governorEvaluation_evaluates ha hp hm)
  · exact congrArg Host.Outcome.next (governorEvaluation_waits ha hp hm)
  · exact congrArg Host.Outcome.next (statsMerge_merges hk hdn hx ht hf)
  · have hx : exec (.layerArrivalStart d) s = .next (s.arrivalStart (d % 4)) := rfl
    rw [hx, Nat.mod_eq_of_lt hd]
    intro b x free hready hch hq
    exact ⟨fun h => congrArg Host.Outcome.next (arrivalStart_first rfl hready hch hq (startLayer_large h)),
      fun h hp => congrArg Host.Outcome.next (arrivalStart_first rfl hready hch hq (startLayer_fits h hp))⟩
  · have h1 : exec (.layerArrivalComplete ctx l) s = .next (s.arrivalComplete (ctx % 64) (l % 1024)) := rfl
    have h2 : exec (.layerArrivalFail ctx l code) s = .next (s.arrivalFail (ctx % 64) (l % 1024) code) := rfl
    have h3 : exec (.layerEvictionComplete ctx l) s = .next (s.evictionComplete (ctx % 64) (l % 1024)) := rfl
    rw [h1, h2, h3, Nat.mod_eq_of_lt hc, Nat.mod_eq_of_lt hl]
    refine ⟨fun hst hm => ⟨fun hf => ⟨_, rfl, arrivalComplete_layer rfl hst hm hf⟩, fun k hf => ?_⟩, fun hst hm h4 hcode => ?_,
      fun hst hch hr => ?_⟩
    · rw [arrivalComplete_fails rfl hst hm hf]
    · rw [arrivalFail_fails rfl hst hm h4 hcode]
    · rw [evictionComplete_drops rfl hst hch hr]

end

section
/-! PROOFS. The management register space (spec/16 R356, spec/19 R392 to R401, spec/20 R414, R425). -/
namespace Sys2Proof.Machine

open Laws

variable {s : State} {m : Master}

/-! ### Contexts -/

theorem createContext_invalid {ctx : Nat} (h : (s.ctxOf ctx).valid = false) :
    s.createContext ctx = (List.range (min (s.ctxOf ctx).lcount 1024)).foldl (fun s l => s.zeroLayerWord ctx l) (s.setCtx ctx
      { s.ctxOf ctx with valid := true, layers := [], scopes := [], taskSeq := 0, slotsused := 0, lresb := 0 }) := by
  unfold State.createContext
  dsimp only
  rw [h]
  rfl
theorem setCtx_ctxOf (n : Nat) (c : Ctx) : (s.setCtx n c).ctxOf n = c := get_put_self _ _ _ _
/-- A context none of whose tasks is left is not valid after its VALID is cleared. -/
theorem dropContext_valid {ctx : Nat} (h : (s.ctxOf ctx).valid = true) (ht : ∀ e ∈ s.tasks, e.2.ctx = ctx → e.2.st = .retired) :
    ((s.dropContext ctx).ctxOf ctx).valid = false := by
  unfold State.dropContext
  dsimp only
  rw [if_neg]
  · rw [setCtx_ctxOf]
  · simpa [h] using ht

/-! ### Shoot-downs and migration -/

theorem startShootdown_free (h : s.mgmt.sdBusy = false) :
    s.startShootdown = (s.dropTlb s.mgmt.shotDown).modMgmt (fun g => { g with sdBusy := true, sdWaits := s.coh.reqs.map (·.id) }) := by
  unfold State.startShootdown
  rw [h]
  rfl
theorem shootdownComplete_ends (h : s.mgmt.sdBusy = true) (hr : ∀ r ∈ s.coh.reqs, r.id ∈ s.mgmt.sdWaits → s.held r = true) :
    s.shootdownComplete = s.modMgmt (fun g => { g with sdBusy := false, sdWaits := [], sdDone := (g.sdDone + 1) % 2 ^ 32 }) := by
  unfold State.shootdownComplete
  rw [if_pos]
  rw [h, Bool.true_and, List.all_eq_true]
  intro r hr'
  by_cases hw : r.id ∈ s.mgmt.sdWaits
  · simp [hr r hr' hw]
  · simp [hw]

theorem migrationRequest_none (h : s.pageLock s.mgmt.mgCtx s.mgmt.mgPage = none) :
    s.migrationRequest = s.modMgmt (fun g => { g with mgRes := 3 }) := by
  unfold State.migrationRequest
  dsimp only
  rw [h]
theorem migrationRequest_free {p : PageLock} (h : s.pageLock s.mgmt.mgCtx s.mgmt.mgPage = some p) (hh : p.held = false) :
    s.migrationRequest = (s.takeLock p).modMgmt (fun g => { g with mgRes := 1 }) := by
  unfold State.migrationRequest
  dsimp only
  rw [h]
  dsimp only
  rw [hh]
  rfl
/-- MG_DONE of a locked page: the launches that wait walk again, and the lock clears. -/
theorem migrationDone_held {p : PageLock} (h : s.pageLock s.mgmt.mgCtx s.mgmt.mgPage = some p) (hh : p.held = true) :
    ∃ u : State, s.migrationDone = u.putLock p false ∧ u.mem = s.mem ∧ ∀ e ∈ u.tasks, e.2.waits = false := by
  unfold State.migrationDone
  dsimp only
  rw [h]
  dsimp only
  rw [if_pos hh]
  refine ⟨_, rfl, rfl, fun e he => ?_⟩
  obtain ⟨x, -, rfl⟩ := List.mem_map.1 he
  rfl

/-! ### Ownership and the masters -/

theorem offered_goes {block : Nat} {f : State → State} (h : s.mayManage m block = true) : s.offered m block f = f s := if_pos h
/-- No function manages a block. -/
theorem mayManage_function (k : Fin 16) (block : Nat) : s.mayManage (.function k) block = false := by
  unfold State.mayManage
  simp

/-! ### Trap control and the error log -/

theorem trapControl_goes {f : State → State} (hm : s.mayManage m 5 = true) (ho : s.mgmt.owner = Master.code m)
    (ht : s.tcHeld s.mgmt.tcSel = true) :
    s.trapControl m f = .next { f { s with cur := s.mgmt.tcSel } with cur := s.cur } := by
  rw [State.trapControl, managed_goes hm ho, if_pos ht]
  rfl

theorem logCons_moves {die v : Nat} (h1 : (s.die die).logCons ≤ v) (h2 : v ≤ (s.die die).logWr) :
    s.logCons die v = s.setDie die { s.die die with logCons := v } := by
  unfold State.logCons
  dsimp only
  rw [if_neg (by omega)]
theorem raiseQueued_raises {die n : Nat} {r : List Byte} {rs : List (List Byte)} (hq : ((s.die die).channel n).queue = r :: rs)
    (hl : ((s.die die).channel n).last ≠ some s.fabric) :
    s.raiseQueued die n = (let c := (s.die die).channel n
      let k := satCount (c.count + 1)
      s.setDie die (((s.die die).setChannel n { c with count := k, last := some s.fabric, queue := rs }).stage n (withCount r k))) := by
  unfold State.raiseQueued
  dsimp only
  rw [hq]
  dsimp only
  rw [if_neg hl]

/-! ### Register writes -/

section
variable {off : Nat} {bs : List Byte} (hoff : off < 0x800000)
include hoff

/-- The management write of a master that is no function. -/
theorem execMgmtRegisterWrite_master (hf : ∀ k, m ≠ .function k) : execMgmtRegisterWrite m off bs s =
    .next (s.managed m (off / 0x100000) (fun s => s.putMgmt off (bs.take (0x100000 - off % 0x100000)))) := by
  unfold execMgmtRegisterWrite
  dsimp only
  rw [Nat.mod_eq_of_lt hoff]
  cases m with
  | function k => exact absurd rfl (hf k)
  | host0 | host1 | mgmt | fabric => rfl
/-- A function's write reaches PREEMPT_WAIT of its queues alone. -/
theorem execMgmtRegisterWrite_function (k : Fin 16) : execMgmtRegisterWrite (.function k) off bs s = .next
    (if off < 0x10000 ∧ off % 64 = 0x34 ∧ bs.length = 4 ∧ s.assigned k (off / 64) true = true then s.putMgmt off bs else s) := by
  unfold execMgmtRegisterWrite
  dsimp only
  rw [Nat.mod_eq_of_lt hoff]
  refine congrArg Host.Outcome.next ?_
  by_cases hw : off < 0x10000 ∧ off % 64 = 0x34 ∧ bs.length = 4
  · obtain ⟨h1, h2, h3⟩ := hw
    have htake : bs.take (0x100000 - off % 0x100000) = bs := List.take_of_length_le (by omega)
    rw [if_pos ⟨h1, h2, h3⟩, htake]
    by_cases ha : s.assigned k (off / 64) true = true
    · rw [if_pos ⟨h1, h2, h3, ha⟩]
      exact if_pos ha
    · rw [if_neg (fun h => ha h.2.2.2)]
      exact if_neg ha
  · rw [if_neg hw, if_neg (fun h => hw ⟨h.1, h.2.1, h.2.2.1⟩)]
end

end Sys2Proof.Machine
end

section
/-! PROOFS. Management writes. -/

open Sys2Proof Sys2Proof.Machine

/-- Settles O53: each register's effect for an owner, what needs no ownership, and the writes that are refused. -/
theorem managementWrites : Obligations.ManagementWrites := by
  unfold Obligations.ManagementWrites
  intro s m ctx die off n v w bs dest may owns g put
  refine ⟨fun hc ho => ⟨fun hv => ⟨_, ?_, rfl⟩, fun hv ht => ⟨_, rfl, ?_⟩, ?_⟩, fun ho => ⟨fun hb => ?_, fun hp => ?_, fun p hp hh => ?_,
    fun p hp hh => ?_⟩, fun hb hr => ?_, fun hm => ?_, fun ho hl => ?_, fun ho ht => ?_, fun ho hd h1 h2 => ?_, fun hoff ho => ?_,
    fun hd r rs hq hl => ?_, fun hr hoff hm hf => ?_, fun k => ?_⟩
  · have hx : exec (.contextValidSet m ctx) s = .next (s.managed m 0 (fun s => s.createContext (ctx % 64))) := rfl
    rw [hx, managed_goes ho.1 ho.2, Nat.mod_eq_of_lt hc]
    exact congrArg Host.Outcome.next (createContext_invalid hv)
  · rw [managed_goes ho.1 ho.2, Nat.mod_eq_of_lt hc]
    exact dropContext_valid hv ht
  · have hx : exec (.seedWrite m ctx v) s = .next (s.managed m 0 (fun s => s.setCtx (ctx % 64) { s.ctxOf (ctx % 64) with seed := v })) := rfl
    rw [hx, managed_goes ho.1 ho.2, Nat.mod_eq_of_lt hc]
  · exact congrArg Host.Outcome.next ((managed_goes ho.1 ho.2).trans (startShootdown_free hb))
  · exact congrArg Host.Outcome.next ((managed_goes ho.1 ho.2).trans (migrationRequest_none hp))
  · exact congrArg Host.Outcome.next ((managed_goes ho.1 ho.2).trans (migrationRequest_free hp hh))
  · obtain ⟨u, hu, hmem, htasks⟩ := migrationDone_held hp hh
    exact ⟨_, u, congrArg Host.Outcome.next ((managed_goes ho.1 ho.2).trans hu), rfl, hmem, htasks⟩
  · exact congrArg Host.Outcome.next (shootdownComplete_ends hb hr)
  · intro own
    have hclaim : exec (.claim m) s = .next (s.claim (Master.code m)) := congrArg Host.Outcome.next (offered_goes hm)
    have haccept : exec (.accept m) s = .next (if s.mgmt.offer = Master.code m then s.setOwner (Master.code m) else s) :=
      congrArg Host.Outcome.next (offered_goes hm)
    refine ⟨fun h0 => ?_, fun h0 hc => ?_, fun ho => ?_, fun ho => ⟨fun hd => ?_, ?_⟩⟩
    · rw [hclaim, State.claim, if_pos h0]
      rfl
    · rw [hclaim, State.claim, if_neg h0, if_neg (fun h => hc h.1)]
    · rw [haccept, if_pos ho]
      rfl
    · exact congrArg Host.Outcome.next ((managed_goes hm ho).trans (if_pos hd))
    · exact congrArg Host.Outcome.next (managed_goes hm ho)
  · exact congrArg Host.Outcome.next (if_pos ⟨ho, hl⟩)
  · intro b
    exact ⟨trapControl_goes ho.1 ho.2 ht, trapControl_goes ho.1 ho.2 ht, trapControl_goes ho.1 ho.2 ht⟩
  · have hx : exec (.logConsWrite m die w) s = .next (s.managed m 6 (fun s => s.logCons (die % 4) w.toNat)) := rfl
    rw [hx, managed_goes ho.1 ho.2, Nat.mod_eq_of_lt hd, logCons_moves h1 h2]
  · have hf : ∀ k, m ≠ .function k := fun k hk => by
      subst hk
      cases (mayManage_function k _).symm.trans ho.1
    exact (execMgmtRegisterWrite_master hoff hf).trans (congrArg Host.Outcome.next (managed_goes ho.1 ho.2))
  · have hx : exec (.errorEventQueued die n) s = .next (s.raiseQueued (die % 4) n) := rfl
    rw [hx, Nat.mod_eq_of_lt hd, raiseQueued_raises hq hl]
  · have hno : ¬ (s.mayManage m (off / 0x100000) = true ∧ s.mgmt.owner = Master.code m) := by
      rintro ⟨h, ho⟩
      obtain hr | hr := hr
      · cases hr.symm.trans h
      · exact hr ho
    exact (execMgmtRegisterWrite_master hoff hf).trans (congrArg Host.Outcome.next ((managed_refused hno).trans (refusedWrite_other hm)))
  · exact fun hoff => execMgmtRegisterWrite_function hoff k

end

section
/-! PROOFS. Scrubbing, repair, firmware, operating points, tentering, retention sleep and the resets (spec/20 R418, R420, R426, spec/21
R428 to R435). -/
namespace Sys2Proof.Machine

open Laws

variable {s : State} {k n row spare : Nat}

/-! ### Scrubbing, repair and firmware -/

theorem scrubRead_decodes (hh : s.rcv.scrubH ≠ 0) (hr : s.ready = true) :
    s.scrubRead k = (let o := SMap.get 0 s.rcv.scrubAt k
      let t := s.readDecode (s.unplace k o)
      { t with rcv := { t.rcv with scrubAt := SMap.put t.rcv.scrubAt k ((o + 64) % stackBytes) } }) := by
  unfold State.scrubRead
  rw [if_neg (by rw [hr]; simpa using hh)]

section
variable (hth : s.rcv.pprTh ≠ 0) (hrow : s.rcv.pprTh ≤ SMap.get 0 s.rcv.rowErrors (2 ^ 36 * k + row))
  (hnew : ∀ i, i < 64 → remapValid (s.remap (64 * k + i)) = true → remapRow (s.remap (64 * k + i)) ≠ row % 2 ^ 36)
include hth hrow hnew

/-- A worn row of no remap passes the checks of its repair. -/
theorem rowRepair_due : ¬ (s.rcv.pprTh = 0 ∨ SMap.get 0 s.rcv.rowErrors (2 ^ 36 * k + row) < s.rcv.pprTh
    ∨ (((List.range 64).map (64 * k + ·)).any fun n => remapValid (s.remap n) && remapRow (s.remap n) == row % 2 ^ 36) = true) := by
  rintro (h | h | h)
  · exact hth h
  · omega
  · obtain ⟨n, hn, hv⟩ := List.any_eq_true.1 h
    obtain ⟨i, hi, rfl⟩ := List.mem_map.1 hn
    rw [Bool.and_eq_true, beq_iff_eq] at hv
    exact hnew i (List.mem_range.1 hi) hv.1 hv.2

theorem rowRepair_remaps (hs : spare < 64) (hu : (s.sparesUsed k row).contains spare = false)
    (hn : ((List.range 64).map (64 * k + ·)).find? (fun n => !remapValid (s.remap n)) = some n) :
    s.rowRepair k row spare = (let t := (s.rowLines k row).foldl (fun s l => s.readDecode l) s
      let w := remapWord row spare
      State.logRow { t with rcv := { t.rcv with remap := SMap.put t.rcv.remap n w, kept := SMap.put t.rcv.kept n w } } k row 4) := by
  unfold State.rowRepair
  dsimp only
  rw [if_neg (rowRepair_due hth hrow hnew), hn, if_neg (by omega), List.filter_cons_of_pos (by rw [hu]; rfl)]
/-- A row for which no spare is left is refused, once. -/
theorem rowRepair_refuses (hs : 64 ≤ spare) :
    s.rowRepair k row spare = if s.rcv.refused.contains (2 ^ 36 * k + row) then s
      else State.logRow { s with rcv := { s.rcv with refused := (2 ^ 36 * k + row) :: s.rcv.refused } } k row 5 := by
  unfold State.rowRepair
  dsimp only
  rw [if_neg (rowRepair_due hth hrow hnew), if_pos hs]
  split
  next h => cases h
  next => rfl
end

theorem firmwareWrite_goes {m : Master} {off : Nat} {bs : List Byte} (hoff : off < 0x10000)
    (h : (s.power.recov = true ∧ Master.code m ≤ 4) ∨ s.mayManage m 0 = true ∧ s.mgmt.owner = Master.code m) :
    s.firmwareWrite m off bs = { s with rcv := { s.rcv with fwWindow := SMap.setRange 0 s.rcv.fwWindow off (bs.take (0x10000 - off)) } } := by
  have hf : ∀ k, m ≠ .function k := fun k hk => by
    subst hk
    obtain ⟨-, h⟩ | ⟨h, -⟩ := h
    · exact absurd h (by simp [Master.code])
    · cases (mayManage_function k _).symm.trans h
  unfold State.firmwareWrite
  dsimp only
  rw [Nat.mod_eq_of_lt hoff]
  by_cases hr : s.power.recov = true
  · rw [if_pos hr]
    cases m with
    | function k => exact absurd rfl (hf k)
    | host0 | host1 | mgmt | fabric => rfl
  · obtain ⟨h, -⟩ | ⟨hm, ho⟩ := h
    · exact absurd h hr
    · rw [if_neg hr, managed_goes hm ho]

/-! ### Islands -/

theorem setIsland_island (n : Nat) (x : Island) : (s.setIsland n x).island n = x := get_put_self _ _ _ _
theorem setIsland_island_other {i : Nat} (x : Island) (h : i ≠ n) : (s.setIsland n x).island i = s.island i := get_put_other _ _ _ _ _ h

theorem movePoint_op (op : Nat) : ((s.movePoint n op).island n).op = op := by
  unfold State.movePoint
  dsimp only
  split
  next h => exact h.symm
  next => rw [setIsland_island]
theorem stepIsland_op (ha : (s.island n).asleep = false) (hc : (s.island n).changing = none) (hb : s.islandBound n = true)
    (ho : s.power.over = false) (hu : s.power.under = false) :
    ((s.stepIsland n).island n).op = max (s.island n).opcap (max (s.island n).demote.toNat (s.island n).slowed) := by
  unfold State.stepIsland
  dsimp only
  rw [if_neg (by rw [ha, hc]; decide)]
  simp only [hb, ho, hu, if_true, Bool.false_eq_true, if_false, movePoint_op]

theorem sendReport_eq : ∃ r, s.sendReport = { s with power := { s.power with report := r } } := by
  unfold State.sendReport
  split
  · exact ⟨_, rfl⟩
  · exact ⟨_, rfl⟩
theorem sendReport_island (n : Nat) : s.sendReport.island n = s.island n := by
  obtain ⟨r, h⟩ := sendReport_eq (s := s)
  rw [h]
  rfl

/-- An island whose point change has ended, and the reading that waited made. -/
def Island.ended (i : Island) : Island :=
  match i.waits with
  | some x => Island.reading { i with changing := none, waits := none } x
  | none => { i with changing := none }
theorem endPointChange_island {at_ : Nat} (hc : (s.island n).changing = some at_) (ht : at_ ≤ s.fabric) :
    (s.endPointChange n).island n = (s.island n).ended := by
  unfold State.endPointChange Island.ended
  dsimp only
  rw [hc]
  dsimp only
  rw [if_neg (Nat.not_lt.2 ht)]
  cases (s.island n).waits with
  | some x => exact (sendReport_island _).trans (setIsland_island _ _)
  | none => exact setIsland_island _ _
theorem endPointChange_mem : (s.endPointChange n).mem = s.mem := by
  unfold State.endPointChange
  dsimp only
  split
  · split
    · rfl
    · split
      · obtain ⟨_, h⟩ := sendReport_eq (s := s.setIsland n _)
        rw [h]
        rfl
      · rfl
  · rfl

theorem powerStep_eq (watts temp : Nat) :
    s.powerStep watts temp = if s.power.stepped.any (fun t => decide (s.fabric < t + msCycles)) then s else
      (List.range 512).foldl (fun t n => (t.endPointChange n).stepIsland n)
        { s with power := { s.power with now := min watts 2640, tjMax := temp % 256, stepped := some s.fabric } } := by
  unfold State.powerStep
  dsimp only

theorem any_lt_false {o : Option Nat} {m f : Nat} (h : ∀ a, o = some a → a + m ≤ f) : o.any (fun t => decide (f < t + m)) = false := by
  cases o with
  | none => rfl
  | some a => exact decide_eq_false (Nat.not_lt.2 (h a rfl))
theorem any_lt_true {a m f : Nat} (h : f < a + m) : (some a).any (fun t => decide (f < t + m)) = true := decide_eq_true h

theorem powerStep_steps {watts temp : Nat} (h : ∀ at_, s.power.stepped = some at_ → at_ + msCycles ≤ s.fabric) :
    s.powerStep watts temp = (List.range 512).foldl (fun t n => (t.endPointChange n).stepIsland n)
      { s with power := { s.power with now := min watts 2640, tjMax := temp % 256, stepped := some s.fabric } } := by
  rw [powerStep_eq, if_neg]
  rw [any_lt_false h]
  decide
theorem powerStep_early {watts temp at_ : Nat} (hs : s.power.stepped = some at_) (h : s.fabric < at_ + msCycles) :
    s.powerStep watts temp = s := by
  rw [powerStep_eq, if_pos]
  rw [hs]
  exact any_lt_true h

/-- An island with no bound core whose cores owe nothing sleeps. -/
theorem sleepIsland_sleeps (hn : n < 512) (ha : (s.island n).asleep = false) (hc : (s.island n).changing = none)
    (hb : s.islandBound n = false) (hs : ∀ k ∈ islandCores n, s.coreSettled k = true) :
    ∃ x : Island, s.sleepIsland n = s.setIsland n x ∧ x.asleep = true := by
  unfold State.sleepIsland
  dsimp only
  rw [ha, hc, hb, islandExists, decide_eq_true hn, if_neg (by decide), if_pos (List.all_eq_true.2 hs)]
  exact ⟨_, rfl, rfl⟩

/-- What a change of some cores leaves of the islands, the memory and the other cores. -/
theorem foldl_modCoreAt {f : Nat → Core → Core} (ns : List Nat) :
    (ns.foldl (fun s n => s.modCoreAt n (f n)) s).power = s.power ∧ (ns.foldl (fun s n => s.modCoreAt n (f n)) s).mem = s.mem
      ∧ ∀ k, k ∉ ns → (ns.foldl (fun s n => s.modCoreAt n (f n)) s).coreAt k = s.coreAt k := by
  induction ns generalizing s with
  | nil => exact ⟨rfl, rfl, fun _ _ => rfl⟩
  | cons n ns ih =>
    obtain ⟨hp, hm, hk⟩ := ih (s := s.modCoreAt n (f n))
    refine ⟨hp, hm, fun k hn => ?_⟩
    rw [List.mem_cons, not_or] at hn
    exact (hk k hn.2).trans (State.setCoreAt_coreAt_other (s := s) _ _ _ hn.1)

/-- What an island's waking leaves of one of its cores' caches (R426). -/
def Core.woken (c : Core) (s : State) (x : Island) : Core :=
  { c with
    l1 := c.l1.filter (fun e => match e.2.st with
      | .clean _ | .kept => false
      | .registered => x.retiredAt == s.rcv.retired
      | _ => true)
    tmrCache := c.tmrCache.filter (fun a => x.horizons.contains (a, ofBytes (s.readNow (a + 6) 2))) }
theorem wakeIsland_asleep (h : (s.island n).asleep = true) :
    s.wakeIsland n = (let w := s.setIsland n { s.island n with asleep := false, horizons := [], since := s.fabric }
      (islandCores n).foldl (fun t k => t.modCoreAt k (fun c => c.woken w (s.island n))) w) := by
  unfold State.wakeIsland
  dsimp only
  rw [h, if_neg (by decide)]
  exact Eq.refl _
theorem wakeIsland_wakes (h : (s.island n).asleep = true) : ((s.wakeIsland n).island n).asleep = false ∧ (s.wakeIsland n).mem = s.mem
    ∧ ∀ k, k ∉ islandCores n → (s.wakeIsland n).coreAt k = s.coreAt k := by
  rw [wakeIsland_asleep h]
  obtain ⟨hp, hm, hk⟩ := foldl_modCoreAt (s := s.setIsland n { s.island n with asleep := false, horizons := [], since := s.fabric })
    (f := fun _ c => c.woken (s.setIsland n { s.island n with asleep := false, horizons := [], since := s.fabric }) (s.island n)) (islandCores n)
  refine ⟨?_, hm, hk⟩
  dsimp only
  rw [State.island, hp]
  exact congrArg Island.asleep (setIsland_island _ _)

/-! ### Tentering (R434, R435) -/

/-- An island's reading of a pass, or its wait for the end of its point change. -/
def Island.read (i : Island) (v : Nat) : Island := if i.changing.isSome then { i with waits := some v } else i.reading v
/-- The readings of a pass, of some islands. -/
def State.readings (s : State) (slack : Nat → Nat) (is : List Nat) : State :=
  is.foldl (fun t n => t.setIsland n ((t.island n).read (slack n))) s
/-- The slack that a pass finds on an island: the one named, or the monitor's. -/
def State.slackOf (s : State) (rs : List Reading) (n : Nat) : Nat :=
  match rs.find? (fun r => r.island == n) with
  | some r => r.slack
  | none => (Config.freeByte (s.nextId * 2 ^ 100 + n)).toNat

/-- The readings change the islands alone, each once. -/
theorem readings_eq (slack : Nat → Nat) (is : List Nat) : ∃ x, s.readings slack is = { s with power := { s.power with islands := x } } := by
  induction is generalizing s with
  | nil => exact ⟨s.power.islands, rfl⟩
  | cons i is ih =>
    obtain ⟨x, hx⟩ := ih (s := s.setIsland i ((s.island i).read (slack i)))
    exact ⟨x, hx⟩
theorem readings_other (slack : Nat → Nat) {is : List Nat} (hn : n ∉ is) : (s.readings slack is).island n = s.island n := by
  induction is generalizing s with
  | nil => rfl
  | cons i is ih =>
    rw [List.mem_cons, not_or] at hn
    exact (ih hn.2).trans (setIsland_island_other _ hn.1)
theorem readings_island (slack : Nat → Nat) {is : List Nat} (hd : is.Nodup) (hn : n ∈ is) :
    (s.readings slack is).island n = (s.island n).read (slack n) := by
  induction is generalizing s with
  | nil => cases hn
  | cons i is ih =>
    obtain ⟨hi, hd⟩ := List.nodup_cons.1 hd
    obtain rfl | hn := List.mem_cons.1 hn
    · exact (readings_other slack hi).trans (setIsland_island _ _)
    · have hne : n ≠ i := fun h => hi (h ▸ hn)
      exact (ih hd hn).trans (congrArg (fun x => Island.read x (slack n)) (setIsland_island_other _ hne))

/-- A pass's count, its time and its report. -/
theorem sendReport_passed (t : State) (k f : Nat) :
    ∃ r, State.sendReport { t with nextId := k, power := { t.power with tentRuns := (t.power.tentRuns + 1) % 2 ^ 32, passed := f } }
      = { t with nextId := k, power := { t.power with tentRuns := (t.power.tentRuns + 1) % 2 ^ 32, passed := f, report := r } } := sendReport_eq
theorem passed_island (t : State) (k f c : Nat) (r : SMap (Nat × Nat × Bool)) (n : Nat) :
    State.island { t with nextId := k, power := { t.power with tentRuns := c, passed := f, report := r } } n = t.island n := rfl
theorem tenter_sent (rs : List Reading) : s.tenter rs = (let t := s.readings (s.slackOf rs) (List.range 512)
    State.sendReport
      { t with nextId := s.nextId + 1, power := { t.power with tentRuns := (t.power.tentRuns + 1) % 2 ^ 32, passed := s.fabric } }) := by
  unfold State.tenter State.readings
  generalize List.range 512 = is
  exact Eq.refl _
/-- A pass: the readings of the islands, its count and its time, and the report. -/
theorem tenter_eq (rs : List Reading) : ∃ r, s.tenter rs = (let t := s.readings (s.slackOf rs) (List.range 512)
    { t with nextId := s.nextId + 1,
             power := { t.power with tentRuns := (t.power.tentRuns + 1) % 2 ^ 32, passed := s.fabric, report := r } }) := by
  obtain ⟨r, hr⟩ := sendReport_passed (s.readings (s.slackOf rs) (List.range 512)) (s.nextId + 1) s.fabric
  exact ⟨r, (tenter_sent rs).trans hr⟩

theorem tenteringPass_due {rs : List Reading} (h : s.power.passed + hourCycles ≤ s.fabric) : s.tenteringPass rs = s.tenter rs := by
  unfold State.tenteringPass
  exact if_neg (Nat.not_lt.2 h)

/-! ### Resets (R428 to R430) -/

/-- What a reset that verifies leaves, its first readings made. -/
theorem bringUp_verified {kept : SMap Word64} (h : Config.imagesVerify s.nextId = true ∧ s.regionsOk s.nextImage = true) :
    s.bringUp kept = (s.afterReset s.nextImage kept 6 false).tenter (firstReadings s.nextId) := by
  unfold State.bringUp
  dsimp only
  rw [h.1, h.2]
  exact if_pos rfl
/-- What a reset leaves in recovery mode. -/
theorem bringUp_recovery {kept : SMap Word64} (h : ¬ (Config.imagesVerify s.nextId = true ∧ s.regionsOk s.nextImage = true)) :
    s.bringUp kept = (let r := s.afterReset {} kept 1 true
      { r with rcv := { r.rcv with image := s.nextImage } }) := by
  unfold State.bringUp
  dsimp only
  exact if_neg (by rwa [Bool.and_eq_true])

/-- A reset to step 6, or into recovery mode. -/
theorem bringUp_leaves (kept : SMap Word64) : ∃ t, s.bringUp kept = t ∧ t.mem = s.mem.filter (fun e => isHost e.1)
    ∧ t.side = s.side.filter (fun e => isHost e.1) ∧ t.cores = State.reset.cores ∧ t.fabric = 0
    ∧ (if Config.imagesVerify s.nextId = true ∧ s.regionsOk s.nextImage = true then
        t.power.stage = 6 ∧ t.power.recov = false ∧ t.rcv.remap = kept ∧ t.mgmt = (State.reset.loadImage s.nextImage).mgmt
       else t.power.stage = 1 ∧ t.power.recov = true ∧ t.rcv.remap = []) := by
  by_cases h : Config.imagesVerify s.nextId = true ∧ s.regionsOk s.nextImage = true
  · obtain ⟨r, hr⟩ := tenter_eq (s := s.afterReset s.nextImage kept 6 false) (firstReadings s.nextId)
    obtain ⟨x, hx⟩ := readings_eq (s := s.afterReset s.nextImage kept 6 false)
      ((s.afterReset s.nextImage kept 6 false).slackOf (firstReadings s.nextId)) (List.range 512)
    rw [hx] at hr
    refine ⟨_, (bringUp_verified h).trans hr, rfl, rfl, rfl, rfl, ?_⟩
    rw [if_pos h]
    exact ⟨rfl, rfl, rfl, rfl⟩
  · refine ⟨_, bringUp_recovery h, rfl, rfl, rfl, rfl, ?_⟩
    rw [if_neg h]
    exact ⟨rfl, rfl, rfl⟩

end Sys2Proof.Machine
end

section
/-! PROOFS. Power and recovery. -/

open Sys2Proof Sys2Proof.Machine

/-- Settles O54: scrubbing and repair, firmware and the mailbox, power steps and islands, passes of readings, and the resets. -/
theorem powerAndRecovery : Obligations.PowerAndRecovery := by
  unfold Obligations.PowerAndRecovery
  intro s k row spare island watts temp off m bs code rs
  refine ⟨fun hk hh hr => ?_, fun hk hs hth hrow hnew hu n hn => ?_, fun hk hs hth hrow hnew => ?_, fun hoff h => ?_,
    ⟨_, _, rfl, rfl, rfl⟩, ⟨rfl, rfl⟩, fun h => ?_, fun at_ hs h => ?_, ?_, fun h => ?_, fun h => ?_, fun i kept hi => ?_⟩
  · have hx : exec (.scrubRead k) s = .next (s.scrubRead (k % 8)) := rfl
    rw [hx, Nat.mod_eq_of_lt hk]
    exact congrArg Host.Outcome.next (scrubRead_decodes hh hr)
  · have hx : exec (.rowRepair k row spare) s = .next (s.rowRepair (k % 8) row spare) := rfl
    rw [hx, Nat.mod_eq_of_lt hk]
    exact congrArg Host.Outcome.next (rowRepair_remaps hth hrow hnew hs hu hn)
  · have hx : exec (.rowRepair k row spare) s = .next (s.rowRepair (k % 8) row spare) := rfl
    rw [hx, Nat.mod_eq_of_lt hk]
    exact congrArg Host.Outcome.next (rowRepair_refuses hth hrow hnew hs)
  · exact congrArg Host.Outcome.next (firmwareWrite_goes hoff h)
  · exact congrArg Host.Outcome.next (powerStep_steps h)
  · exact congrArg Host.Outcome.next (powerStep_early hs h)
  · intro i
    refine ⟨fun ha hc hb ho hu => ⟨_, rfl, stepIsland_op ha hc hb ho hu⟩, fun at_ hc ht => ⟨_, rfl, endPointChange_island hc ht, endPointChange_mem⟩,
      fun hn ha hc hb hs => ?_, fun ha => ⟨_, rfl, wakeIsland_wakes ha⟩⟩
    obtain ⟨x, hx, hxa⟩ := sleepIsland_sleeps hn ha hc hb hs
    refine ⟨_, congrArg Host.Outcome.next hx, ?_, rfl, rfl⟩
    rw [setIsland_island, hxa]
  · exact congrArg Host.Outcome.next (if_pos h)
  · obtain ⟨r, hr⟩ := tenter_eq (s := s) rs
    obtain ⟨x, hx⟩ := readings_eq (s := s) (s.slackOf rs) (List.range 512)
    have hisland : ∀ n, n < 512 → (s.tenter rs).island n = (s.island n).read (s.slackOf rs n) := fun n hn => by
      have hi := readings_island (s := s) (s.slackOf rs) List.nodup_range (List.mem_range.2 hn)
      rw [hr]
      exact (passed_island _ _ _ _ _ n).trans hi
    have ht : exec (.tenteringPass rs) s = .next (s.tenter rs) := congrArg Host.Outcome.next (tenteringPass_due h)
    have hkept : (s.tenter rs).mem = s.mem ∧ (s.tenter rs).cores = s.cores ∧ (s.tenter rs).power.tentRuns = (s.power.tentRuns + 1) % 2 ^ 32
        ∧ (s.tenter rs).power.passed = s.fabric := by
      rw [hr, hx]
      exact ⟨rfl, rfl, rfl, rfl⟩
    generalize s.tenter rs = t at ht hisland hkept
    obtain ⟨hmem, hcores, hruns, hpassed⟩ := hkept
    refine ⟨t, ht, hmem, hcores, hruns, hpassed, fun n hn => ⟨s.slackOf rs n, fun y hy => ?_, hisland n hn⟩⟩
    unfold State.slackOf
    rw [hy]
  · obtain ⟨t, ht, hleaves⟩ := bringUp_leaves (s := s) kept
    simp only [List.mem_cons, Prod.mk.injEq, List.not_mem_nil, or_false] at hi
    obtain ⟨rfl, rfl⟩ | ⟨rfl, rfl⟩ := hi
    · exact ⟨t, congrArg Host.Outcome.next ht, hleaves⟩
    · exact ⟨t, congrArg Host.Outcome.next ht, hleaves⟩

end

section
/-! PROOFS. Memory and its sideband stay in canonical form: a lemma for each function of the model that gives a state, in the order
of the model's definitions, then for the instructions, the events and a step (spec/10, spec/20). A function that gives something else
with its state has a predicate of that kind of answer, `Keeps` or one of those below. -/
namespace Sys2Proof
open Machine Laws
set_option Elab.async false

/-! ### What an answer keeps -/

/-- A state updated but for its memory and sideband. -/
theorem memoryOk_mk {s : State} (h : MemoryOk s) {cur turns nextId fabric edge : Nat} {schedule : List Turn} {cores : SMap Core}
    {past : SMap (List (Nat × Word32))} {views : SMap Word32} {aliases : SMap (List (Nat × Nat))} {tlb : SMap (Nat × Nat × Bool)}
    {coh : Coherence} {ctxs : SMap Ctx} {queues : SMap Queue} {tasks : SMap Task} {saves : List Saved} {die0 die1 die2 die3 : Die}
    {mgmt : Mgmt} {rcv : Recovery} {power : Power} {fab : Fabric} :
    MemoryOk ⟨cur, schedule, turns, nextId, fabric, edge, cores, s.mem, s.side, past, views, aliases, tlb, coh, ctxs, queues, tasks,
      saves, die0, die1, die2, die3, mgmt, rcv, power, fab⟩ := h

/-- An access whose every outcome keeps memory canonical. -/
def Machine.Acc.Keeps : Acc → Prop
  | .go _ s | .peer _ _ _ s => MemoryOk s
  | .wait f | .trap f _ => ∀ t, MemoryOk t → MemoryOk (f t)

/-- The attempt of one access, whose every outcome keeps memory canonical. -/
def Machine.Sent.Keeps : Sent → Prop
  | .ok s _ => MemoryOk s
  | .wait f | .trap f _ => ∀ t, MemoryOk t → MemoryOk (f t)

def Machine.Performed.Keeps : Performed → Prop
  | .done s | .sent s _ _ _ => MemoryOk s
  | .wait f | .trap f _ => ∀ t, MemoryOk t → MemoryOk (f t)

/-- What stops a transfer leaves memory canonical. -/
def Machine.Stop.Keeps : Stop → Prop
  | .wait f | .fault f _ _ => ∀ t, MemoryOk t → MemoryOk (f t)

/-- A transfer's outcome, whose state is a part of what it gives. -/
def MovesOk {α : Type} (get : α → State) : Except Stop α → Prop
  | .ok a => MemoryOk (get a)
  | .error e => e.Keeps

def EitherOk : Except State State → Prop
  | .ok s | .error s => MemoryOk s

def OptOk : Option State → Prop
  | some s => MemoryOk s
  | none => True

/-- An instruction's outcome: a next state keeps memory canonical. -/
def OutOk : Machine.Out → Prop
  | .next t => MemoryOk t
  | .fault _ | .refused _ => True

/-! ### Cores, queues and views -/

section
variable {s : State} (h : MemoryOk s)
include h

theorem MemoryOk.fresh : MemoryOk (s.fresh).2 :=
  memoryOk_mk h

theorem MemoryOk.freeWord : MemoryOk (s.freeWord).2 :=
  memoryOk_mk h

theorem MemoryOk.setCtx (n : Nat) (c : Ctx) : MemoryOk (s.setCtx n c) :=
  memoryOk_mk h

theorem MemoryOk.setTask (n : Nat) (t : Machine.Task) : MemoryOk (s.setTask n t) :=
  memoryOk_mk h

theorem MemoryOk.sendWriteback (n : Nat) (line : Nat) : MemoryOk (s.sendWriteback n line) := by
  unfold State.sendWriteback
  dsimp only
  split
  · exact h
  · exact (memoryOk_mk h.fresh).modCoreAt _ _

theorem MemoryOk.noteL1 (n : Nat) (line : Nat) : MemoryOk (s.noteL1 n line) :=
  h.modCoreAt _ _

theorem MemoryOk.writebackAll (n : Nat) : MemoryOk (s.writebackAll n) := by
  unfold State.writebackAll
  refine foldl_keeps (P := MemoryOk) (fun t1 x2 h3 => ?_) _ _ ?_
  · exact h3.sendWriteback _ _
  · exact h

end

/-! ### Pages, words and the sideband -/

section
variable {s : State} (h : MemoryOk s)
include h

theorem MemoryOk.movePage (p : Nat) (q : Nat) : MemoryOk (s.movePage p q) :=
  memoryOk_mk h

theorem MemoryOk.noteName (ctx : Nat) (ia : Nat) (a : Nat) : MemoryOk (s.noteName ctx ia a) := by
  unfold State.noteName
  dsimp only
  refine foldl_keeps (P := MemoryOk) (fun t1 x2 h3 => ?_) _ _ ?_
  · exact memoryOk_mk (h3.movePage _ _)
  · split
    · exact h
    · exact memoryOk_mk h

theorem MemoryOk.notePast (k : Nat) (v : Word32) : MemoryOk (s.notePast k v) :=
  memoryOk_mk h

theorem MemoryOk.settleViews : MemoryOk (s.settleViews) := by
  unfold State.settleViews
  split
  · exact h
  · exact memoryOk_mk h

theorem MemoryOk.storeLogs : MemoryOk (s.storeLogs) :=
  memoryOk_mk h

theorem MemoryOk.logConsumed (core : Nat) (e : Engine) (pa : Nat) : MemoryOk (s.logConsumed core e pa) :=
  h.logError _ _

end

/-! ### A line at its home -/

section
variable {s : State} (h : MemoryOk s)
include h

theorem MemoryOk.setBusy (line : Nat) (id : Nat) : MemoryOk (s.setBusy line id) :=
  h.modDir _ _

theorem MemoryOk.clearBusy (line : Nat) (id : Nat) : MemoryOk (s.clearBusy line id) := by
  unfold State.clearBusy
  dsimp only
  split
  · exact h.modDir _ _
  · exact (h.modDir _ _).modDir _ _

theorem MemoryOk.sendSnoop (line : Nat) (inv : Bool) (id : Nat) : MemoryOk (s.sendSnoop line inv id) := by
  unfold State.sendSnoop
  dsimp only
  split
  · exact (memoryOk_mk h).setBusy _ _
  · exact ((memoryOk_mk h).setBusy _ _).setBusy _ _

theorem MemoryOk.snoopFor (line : Nat) (write : Bool) : MemoryOk (s.snoopFor line write) := by
  unfold State.snoopFor
  split
  · split
    · exact h.sendSnoop _ _ _
    · exact h
  · split
    · exact h.sendSnoop _ _ _
    · exact h

theorem MemoryOk.sendInvals (line : Nat) (core : Option Nat) (wi : Bool) (delegable : Bool) (req : Nat) :
    MemoryOk (s.sendInvals line core wi delegable req) := by
  unfold State.sendInvals
  dsimp only
  split
  · split
    · exact h.setDir _ _
    · exact (memoryOk_mk (h.setDir _ _)).modDir _ _
  · split
    · exact h.setDir _ _
    · exact (memoryOk_mk (h.setDir _ _)).modDir _ _

theorem MemoryOk.evictLine (n : Nat) (line : Nat) (all : Bool) : MemoryOk (s.evictLine n line all) := by
  unfold State.evictLine
  dsimp only
  split
  · exact h.snoopFor _ _
  · exact ((h.sendWriteback _ _).recallNow _ _).modCoreAt _ _

theorem MemoryOk.evictSlice (die : Nat) (line : Nat) : MemoryOk (s.evictSlice die line) := by
  unfold State.evictSlice
  dsimp only
  split
  · exact h
  · exact h.setDir _ _

theorem MemoryOk.evict (x : Eviction) : MemoryOk (s.evict x) := by
  unfold State.evict
  split
  · exact h.evictSlice _ _
  · split
    · exact h.evictLine _ _ _
    · exact h

theorem MemoryOk.cleanL1 (n : Nat) : MemoryOk (s.cleanL1 n) := by
  unfold State.cleanL1
  refine foldl_keeps (P := MemoryOk) (fun t1 x2 h3 => ?_) _ _ ?_
  · exact h3.evictLine _ _ _
  · exact h

end

theorem MemoryOk.shrinkL1 {s : State} (h : MemoryOk s) (n bytes : Nat) (spare : Option Nat) (fuel : Nat) :
    MemoryOk (s.shrinkL1 n bytes spare fuel) := by
  induction fuel generalizing s with
  | zero => exact h
  | succ fuel ih =>
    unfold State.shrinkL1
    dsimp only
    split
    · exact h
    · split
      · exact ih (MemoryOk.evictLine (memoryOk_mk h) _ _ _)
      · exact foldl_keeps (P := MemoryOk) (fun t l ht => ht.snoopFor l true) _ _ h

section
variable {s : State} (h : MemoryOk s)
include h

theorem MemoryOk.trimL1 (n : Nat) (line : Nat) : MemoryOk (s.trimL1 n line) :=
  h.shrinkL1 _ _ _ _

theorem MemoryOk.retrimL1 (n : Nat) : MemoryOk (s.retrimL1 n) := by
  unfold State.retrimL1
  dsimp only
  split
  · exact h
  · exact h.shrinkL1 _ _ _ _

theorem MemoryOk.dropStale (n : Nat) (line : Nat) : MemoryOk (s.dropStale n line) :=
  h.modCoreAt _ _

theorem MemoryOk.noteGrant (n : Nat) (line : Nat) : MemoryOk (s.noteGrant n line) := by
  unfold State.noteGrant
  refine foldl_keeps (P := MemoryOk) (fun t1 x2 h3 => ?_) _ _ ?_
  · split
    · exact h3.noteL1 _ _
    · exact h3
  · exact h

theorem MemoryOk.expireL1 (n : Nat) : MemoryOk (s.expireL1 n) := by
  unfold State.expireL1
  dsimp only
  refine foldl_keeps (P := MemoryOk) (fun t1 x2 h3 => ?_) _ _ ?_
  · exact ((h3.sendWriteback _ _).modCoreAt _ _).dropStale _ _
  · exact h

end

/-! ### Traps and signals -/

section
variable {s : State} (h : MemoryOk s)
include h

theorem MemoryOk.sampleCycle : MemoryOk (s.sampleCycle) :=
  h.modCore _

theorem MemoryOk.finishSig (e : Engine) (id : Nat) : MemoryOk (s.finishSig e id) :=
  h.modEng _ _

end

/-! ### The pool -/

section
variable {s : State} (h : MemoryOk s)
include h

theorem MemoryOk.sop (hdr : Hdr) (d : Fin 32) (rs : List (Fin 32)) (f : Core → Word64 × Flags) : OutOk (s.sop hdr d rs f) :=
  MemoryOk.issue h _ _ _ _ _ (fun t1 h2 => h2.setCore _)

theorem MemoryOk.pop (hdr : Hdr) (p : Fin 8) (rs : List (Fin 32)) (f : Core → Bool × Flags) : OutOk (s.pop hdr p rs f) :=
  MemoryOk.issue h _ _ _ _ _ (fun t1 h2 => h2.setCore _)

theorem MemoryOk.filled (ts : List Nat) : MemoryOk (s.filled ts) :=
  h.modCore _

theorem MemoryOk.facing (is : List Image) (reads : List (Nat × Nat)) : MemoryOk (s.facing is reads) := by
  unfold State.facing
  dsimp only
  split
  · exact h
  · exact memoryOk_mk (h.modCore _)

end

theorem MemoryOk.faced {t : State} (h : MemoryOk t) (s : State) (is : List Image) (f : Footprint) : MemoryOk (t.faced s is f) :=
  h.modCore _

section
variable {s : State} (h : MemoryOk s)
include h

theorem MemoryOk.logSram (e : Engine) (t : TrapInfo) : MemoryOk (s.logSram e t) := by
  unfold State.logSram
  split
  · exact h.logError _ _
  · exact h

theorem MemoryOk.onPool {u : State} (hu : MemoryOk u) (e : Engine) (p : PoolPart) (reads : List (Nat × Nat))
    (f : State → Res) (hf : ∀ t0, MemoryOk t0 → (f t0).Keeps u) : (s.onPool e p reads f).Keeps u := by
  unfold State.onPool
  split
  · exact hu.logSram _ _
  · exact hf _ h

end

theorem Res.Keeps.after {u : State} {r : Res} (h : r.Keeps u) (g : State → State) (hg : ∀ t, MemoryOk t → MemoryOk (g t)) :
    (r.after g).Keeps u := by
  cases r with
  | done s => exact hg s h
  | pend s id => exact hg s h
  | goto s pc => exact h
  | resume s => exact h
  | stall f => exact h
  | hold s => exact h
  | trap f t => exact h
  | doneThen s a => exact h
  | stop s => exact h

theorem MemoryOk.onDataAt {s : State} (h : MemoryOk s) {u : State} (hu : MemoryOk u) (e : Engine) (pc : Nat)
    (d : Option (Fin 32))
    (reads writes : List (Nat × Nat)) (f : State → Res) (hf : ∀ t, MemoryOk t → (f t).Keeps u) :
    (s.onDataAt e pc d reads writes f).Keeps u := by
  unfold State.onDataAt
  split
  · exact hu.logSram _ _
  · exact Res.Keeps.after (hf _ (h.facing _ _)) _ (fun t ht => ht.faced _ _ _)

section
variable {s : State} (h : MemoryOk s)
include h

theorem MemoryOk.onData {u : State} (hu : MemoryOk u) (e : Engine) (reads : List (Nat × Nat)) (writes : List (Nat × Nat))
    (f : State → Res) (hf : ∀ t0, MemoryOk t0 → (f t0).Keeps u) : (s.onData e reads writes f).Keeps u :=
  MemoryOk.onDataAt h hu _ _ _ _ _ _ hf

end

/-! ### Walks, units and layers -/

section
variable {s : State} (h : MemoryOk s)
include h

theorem MemoryOk.dropTlb (p : Nat → Bool) : MemoryOk (s.dropTlb p) :=
  memoryOk_mk h

theorem MemoryOk.walked (ctx : Nat) (ia : Nat) (agent : Nat) : MemoryOk (s.walked ctx ia agent) := by
  unfold State.walked
  dsimp only
  split
  · split
    · exact h
    · split
      · split
        · exact h
        · exact memoryOk_mk h
      · refine MemoryOk.putWords ?_ _ _ _
        split
        · exact h
        · exact memoryOk_mk h
  · exact h.logError _ _
  · exact h

end

theorem MemoryOk.unitWalks {s : State} (h : MemoryOk s) (ctx ia n : Nat) : MemoryOk (s.unitWalks ctx ia n) :=
  foldl_keeps (P := MemoryOk) (fun _ _ ht => ht.walked _ _ _) _ _ h

section
variable {s : State} (h : MemoryOk s)
include h

theorem MemoryOk.unitTouch (ctx : Nat) (ia : Nat) (n : Nat) : MemoryOk (s.unitTouch ctx ia n) := by
  unfold State.unitTouch
  refine foldl_keeps (P := MemoryOk) (fun t1 x2 h3 => ?_) _ _ ?_
  · split
    · split
      · exact h3.readDecode _
      · exact h3.snoopFor _ _
    · exact h3
  · exact h.unitWalks _ _ _

theorem MemoryOk.unitWrite (ctx : Nat) (ia : Nat) (bs : List Byte) : MemoryOk (s.unitWrite ctx ia bs) := by
  unfold State.unitWrite
  dsimp only
  split
  · exact ((h.walked _ _ _).noteName _ _ _).writeNow _ _ _ _
  · exact memoryOk_mk (h.walked _ _ _)
  · exact h.walked _ _ _

theorem MemoryOk.layerTouch (ctx : Nat) (l : Nat) : MemoryOk (s.layerTouch ctx l) := by
  unfold State.layerTouch
  split
  · exact h
  · exact h.unitTouch _ _ _

theorem MemoryOk.logLayer (ctx : Nat) (ibase : Nat) : MemoryOk (s.logLayer ctx ibase) :=
  h.logError _ _

theorem MemoryOk.setLayer (ctx : Nat) (l : Nat) (x : Layer) : MemoryOk (s.setLayer ctx l x) := by
  unfold State.setLayer
  dsimp only
  split
  · exact (h.setCtx _ _).unitWrite _ _ _
  · exact h.setCtx _ _

theorem MemoryOk.requestAbsent (ctx : Nat) (l : Nat) (x : Layer) : MemoryOk (s.requestAbsent ctx l x) := by
  unfold State.requestAbsent
  split
  · split
    · exact (h.setLayer _ _ _).logLayer _ _
    · exact h.setLayer _ _ _
  · exact h.setLayer _ _ _

theorem MemoryOk.requestLayer (ctx : Nat) (l : Nat) : MemoryOk (s.requestLayer ctx l) := by
  unfold State.requestLayer
  dsimp only
  split
  · exact h.requestAbsent _ _ _
  · exact h.setLayer _ _ _
  · exact h.setLayer _ _ _

theorem MemoryOk.addFault (e : Engine) (va : Nat) (req : Option Nat) (wb : Bool) : MemoryOk (s.addFault e va req wb) :=
  h.modCore _

theorem MemoryOk.dropFault (e : Engine) (va : Nat) : MemoryOk (s.dropFault e va) :=
  h.modCore _

theorem MemoryOk.accessIn (e : Engine) (peers : Bool) (i : Nat) (r : RangeReg) (va : Nat) (write : Bool) :
    (s.accessIn e peers i r va write).Keeps := by
  unfold State.accessIn
  dsimp only
  split
  · split
    · split
      · exact ((h.setCtx _ _).noteName _ _ _).walked _ _ _
      · split
        · exact (h.setCtx _ _).walked _ _ _
        · intro t1 h2
          exact h2.walked _ _ _
      · intro t3 h4
        exact h4.addFault _ _ _ _
      · intro t5 h6
        exact h6.walked _ _ _
    · split
      · intro t7 h8
        exact h8
      · intro t9 h10
        exact h10.dropFault _ _
    · intro t11 h12
      exact (h12.requestLayer _ _).addFault _ _ _ _
  · split
    · exact (h.noteName _ _ _).walked _ _ _
    · split
      · exact h.walked _ _ _
      · intro t13 h14
        exact h14.walked _ _ _
    · intro t15 h16
      exact h16.addFault _ _ _ _
    · intro t17 h18
      exact h18.walked _ _ _

theorem MemoryOk.accessAt (e : Engine) (va : Nat) (n : Nat) (write : Bool) : (s.accessAt e va n write).Keeps := by
  unfold State.accessAt
  dsimp only
  split
  · intro t1 h2
    exact h2
  · split
    · intro t3 h4
      exact h4
    · split
      · intro t5 h6
        exact h6
      · exact MemoryOk.accessIn h _ _ _ _ _ _

theorem MemoryOk.access (e : Engine) (va : Nat) (n : Nat) (write : Bool) : (s.access e va n write).Keeps := by
  unfold State.access
  split
  · intro t1 h2
    exact h2
  · exact MemoryOk.accessAt h _ _ _ _

end

/-! ### Coherence -/

section
variable {s : State} (h : MemoryOk s)
include h

theorem MemoryOk.addReq (r : Req) : MemoryOk (s.addReq r) :=
  memoryOk_mk h

theorem MemoryOk.removeReq (id : Nat) : MemoryOk (s.removeReq id) :=
  memoryOk_mk h

theorem MemoryOk.modReq (id : Nat) (f : Req → Req) : MemoryOk (s.modReq id f) :=
  memoryOk_mk h

theorem MemoryOk.onCore (n : Nat) (f : State → State) (hf : ∀ t0, MemoryOk t0 → MemoryOk (f t0)) : MemoryOk (s.onCore n f) :=
  memoryOk_mk (hf _ (memoryOk_mk h))

theorem MemoryOk.dropFlight (f : Flight) : MemoryOk (s.dropFlight f) :=
  (h.modCore _).modEng _ _

theorem MemoryOk.acquireNow (n : Nat) : MemoryOk (s.acquireNow n) :=
  h.modCoreAt _ _

theorem MemoryOk.finishFlight (f : Flight) : MemoryOk (s.finishFlight f) := by
  unfold State.finishFlight
  dsimp only
  split
  · exact (h.dropFlight _).lateTrap _ _ _ _
  · refine MemoryOk.finishSig ?_ _ _
    split
    · exact (h.modCore _).acquireNow _
    · exact h.modCore _

theorem MemoryOk.deliver (r : Req) (x : Reply) : MemoryOk (s.deliver r x) := by
  unfold State.deliver
  dsimp only
  refine MemoryOk.onCore (h.removeReq _) _ _ (fun t1 h2 => ?_)
  split
  · split
    · split
      · split
        · exact h2.lateTrap _ _ _ _
        · exact h2
      · exact h2
    · exact h2
  · split
    · split
      · exact (h2.modCore _).finishFlight _
      · exact h2.modCore _
    · split
      · exact (h2.modCore _).finishFlight _
      · exact h2.modCore _
    · exact h2.modCore _

theorem MemoryOk.loadResponse (core : Nat) (op : Nat) : MemoryOk (s.loadResponse core op) := by
  unfold State.loadResponse
  refine MemoryOk.onCore h _ _ (fun t1 h2 => ?_)
  split
  · exact h2.finishFlight _
  · exact h2

theorem MemoryOk.sendRecalls (line : Nat) (words : BitVec 16) (id : Nat) : MemoryOk (s.sendRecalls line words id) :=
  (memoryOk_mk h).setBusy _ _

theorem MemoryOk.obtainHost (line : Nat) (excl : Bool) : MemoryOk (s.obtainHost line excl) := by
  unfold State.obtainHost
  split
  · exact h.modDir _ _
  · exact h

theorem MemoryOk.prepare (r : Req) (writes : List Nat) (grants : List Nat) (self : Bool) :
    EitherOk (s.prepare r writes grants self) := by
  unfold State.prepare
  dsimp only
  split
  · exact h
  · split
    · exact h.sendSnoop _ _ _
    · split
      · exact (h.sendRecalls _ _ _).modDir _ _
      · refine MemoryOk.obtainHost ?_ _ _
        split
        · exact h.clearBusy _ _
        · exact (h.clearBusy _ _).modDir _ _

theorem MemoryOk.applyWords (r : Req) (ws : List (Nat × Word32 × BitVec 4)) (wi : Bool) (tag : BitVec 4) :
    MemoryOk (s.applyWords r ws wi tag) := by
  unfold State.applyWords
  dsimp only
  split
  · exact h
  · refine MemoryOk.sendInvals ?_ _ _ _ _ _
    refine MemoryOk.modCoreAt ?_ _ _
    refine MemoryOk.putWords ?_ _ _ _
    refine foldl_keeps (P := MemoryOk) (fun t1 x2 h3 => ?_) _ _ ?_
    · split
      · exact h3.recallWord _
      · exact h3
    · exact h

theorem MemoryOk.noteRead (r : Req) : MemoryOk (s.noteRead r) :=
  h.modDir _ _

theorem MemoryOk.refreshWords (n : Nat) (ks : List Nat) : MemoryOk (s.refreshWords n ks) :=
  h.modCoreAt _ _

theorem MemoryOk.fillLine (n : Nat) (line : Nat) (st : L1State) : MemoryOk (s.fillLine n line st) :=
  ((h.modCoreAt _ _).noteL1 _ _).trimL1 _ _

theorem MemoryOk.grantWords (n : Nat) (line : Nat) (ks : List Nat) (wb : List (Nat × Word32 × BitVec 4)) :
    MemoryOk (s.grantWords n line ks wb) :=
  (((h.modDir _ _).noteGrant _ _).modDir _ _).modCoreAt _ _

theorem MemoryOk.grantLine (n : Nat) (line : Nat) (ks : List Nat) (wb : List (Nat × Word32 × BitVec 4)) :
    MemoryOk (s.grantLine n line ks wb) :=
  (h.grantWords _ _ _ _).trimL1 _ _

theorem MemoryOk.answerLoad (r : Req) (fill : State → State) (hfill : ∀ t0, MemoryOk t0 → MemoryOk (fill t0)) :
    MemoryOk (s.answerLoad r fill) := by
  unfold State.answerLoad
  dsimp only
  split
  · split
    · refine MemoryOk.removeReq ?_ _
      split
      · exact (h.readDecode _).applyWords _ _ _ _
      · exact h.readDecode _
    · refine MemoryOk.deliver ?_ _ _
      refine MemoryOk.logConsumed ?_ _ _ _
      split
      · exact (h.readDecode _).applyWords _ _ _ _
      · exact h.readDecode _
  · exact (hfill _ ((h.readDecode _).noteRead _)).deliver _ _

theorem MemoryOk.homeLoad (id : Nat) (pol : Policy) : MemoryOk (s.homeLoad id pol) := by
  unfold State.homeLoad
  dsimp only
  split
  · exact h
  · split
    · exact h
    · split
      · rename_i x2 e3
        have k4 : MemoryOk x2 := (congrArg EitherOk e3).mp (h.prepare _ _ _ _)
        exact k4
      · rename_i x6 e7
        have k8 : MemoryOk x6 := (congrArg EitherOk e7).mp (h.prepare _ _ _ _)
        split
        · exact MemoryOk.answerLoad (k8.applyWords _ _ _ _) _ _ (fun t11 h12 => h12.fillLine _ _ _)
        · refine MemoryOk.answerLoad (k8.applyWords _ _ _ _) _ _ (fun t15 h16 => ?_)
          split
          · exact h16.fillLine _ _ _
          · exact (h16.modDir _ _).fillLine _ _ _
        · refine MemoryOk.answerLoad (k8.applyWords _ _ _ _) _ _ (fun t19 h20 => ?_)
          split
          · exact h20.fillLine _ _ _
          · split
            · exact h20
            · exact h20.refreshWords _ _
        · exact MemoryOk.answerLoad k8 _ _ (fun t23 h24 => h24.grantLine _ _ _ _)

theorem MemoryOk.refuseAtomic (r : Req) : MemoryOk (s.refuseAtomic r) := by
  unfold State.refuseAtomic
  dsimp only
  refine MemoryOk.onCore (h.removeReq _) _ _ (fun t1 h2 => ?_)
  split
  · exact (h2.dropFlight _).lateTrap _ _ _ _
  · split
    · exact h2.lateTrap _ _ _ _
    · exact h2

theorem MemoryOk.contribute (w : WeirEntry) (a : Nat) : MemoryOk (s.contribute w a) := by
  unfold State.contribute
  dsimp only
  split
  · exact (((h.readDecode _).recallNow _ _).logConsumed _ _ _).deliver _ _
  · exact (((((h.readDecode _).recallNow _ _).putWords _ _ _).dropCopies _).modCoreAt _ _).deliver _ _

theorem MemoryOk.setSeqNext (w : WeirEntry) (n : Nat) : MemoryOk (s.setSeqNext w n) :=
  memoryOk_mk h

end

theorem MemoryOk.drainWeir {s : State} (h : MemoryOk s) (w : WeirEntry) (a ncon fuel : Nat) :
    MemoryOk (s.drainWeir w a ncon fuel) := by
  induction fuel generalizing s with
  | zero => exact h
  | succ fuel ih =>
    unfold State.drainWeir
    dsimp only
    split
    · exact h
    · exact ih (MemoryOk.setSeqNext (MemoryOk.contribute (memoryOk_mk h) _ _) _ _)

section
variable {s : State} (h : MemoryOk s)
include h

theorem MemoryOk.applyOut (w : WeirEntry) : MemoryOk (s.applyOut w) := by
  unfold State.applyOut
  dsimp only
  split
  · split
    · exact (memoryOk_mk h).contribute _ _
    · exact h.snoopFor _ _
  · exact h
  · exact (memoryOk_mk h).refuseAtomic _
  · exact (memoryOk_mk h).refuseAtomic _

theorem MemoryOk.settleWeir : MemoryOk (s.settleWeir) := by
  unfold State.settleWeir
  dsimp only
  split
  · exact h
  · refine foldl_keeps (P := MemoryOk) (fun t1 x2 h3 => ?_) _ _ ?_
    · exact h3.applyOut _
    · exact memoryOk_mk h

theorem MemoryOk.applied (r : Req) (wait : Bool) (v : Nat) : MemoryOk (s.applied r wait v) := by
  unfold State.applied
  split
  · exact h.modReq _ _
  · exact h.deliver _ _

theorem MemoryOk.homeStore (id : Nat) (pol : Policy) : MemoryOk (s.homeStore id pol) := by
  unfold State.homeStore
  dsimp only
  split
  · exact h
  · split
    · exact h
    · split
      · rename_i x2 e3
        have k4 : MemoryOk x2 := (congrArg EitherOk e3).mp (h.prepare _ _ _ _)
        exact k4
      · rename_i x6 e7
        have k8 : MemoryOk x6 := (congrArg EitherOk e7).mp (h.prepare _ _ _ _)
        split
        · split
          · exact ((((k8.readDecode _).grantWords _ _ _ _).modCoreAt _ _).trimL1 _ _).applied _ _ _
          · exact (((k8.readDecode _).applyWords _ _ _ _).applyWords _ _ _ _).applied _ _ _
        · split
          · exact (((k8.grantWords _ _ _ _).modCoreAt _ _).trimL1 _ _).applied _ _ _
          · exact ((k8.applyWords _ _ _ _).applyWords _ _ _ _).applied _ _ _

theorem MemoryOk.wbTarget (r : Req) : EitherOk (s.wbTarget r) := by
  unfold State.wbTarget
  dsimp only
  split
  · exact h
  · split
    · exact h
    · split
      · split
        · exact h.walked _ _ _
        · exact ((h.walked _ _ _).clearBusy _ _).modReq _ _
      · exact MemoryOk.onCore (h.clearBusy _ _) _ _ (fun t1 h2 => h2.addFault _ _ _ _)
      · exact (((h.walked _ _ _).clearBusy _ _).logError _ _).removeReq _
      · exact (((h.walked _ _ _).clearBusy _ _).logError _ _).removeReq _

theorem MemoryOk.homeWriteback (id : Nat) : MemoryOk (s.homeWriteback id) := by
  unfold State.homeWriteback
  dsimp only
  split
  · exact h
  · split
    · exact h
    · split
      · rename_i x2 e3
        have k4 : MemoryOk x2 := (congrArg EitherOk e3).mp (h.wbTarget _)
        exact k4
      · rename_i x6 e7
        have k8 : MemoryOk x6 := (congrArg EitherOk e7).mp (h.wbTarget _)
        split
        · rename_i x10 e11
          have k12 : MemoryOk x10 := (congrArg EitherOk e11).mp (k8.prepare _ _ _ _)
          exact k12
        · rename_i x14 e15
          have k16 : MemoryOk x14 := (congrArg EitherOk e15).mp (k8.prepare _ _ _ _)
          exact (k16.applyWords _ _ _ _).removeReq _

theorem MemoryOk.atomicInPlace (r : Req) : MemoryOk (s.atomicInPlace r).1 := by
  unfold State.atomicInPlace
  dsimp only
  split
  · exact h
  · exact h.modCoreAt _ _

theorem MemoryOk.atomicAtHome (r : Req) : MemoryOk (s.atomicAtHome r) := by
  unfold State.atomicAtHome
  dsimp only
  split
  · exact ((h.applyWords _ _ _ _).refreshWords _ _).applied _ _ _
  · exact ((h.applyWords _ _ _ _).applyWords _ _ _ _).applied _ _ _

theorem MemoryOk.sequenced (r : Req) (op : Aop) (c : Nat) : MemoryOk (s.sequenced r op c) := by
  unfold State.sequenced
  dsimp only
  split
  · exact h.atomicAtHome _
  · split
    · exact MemoryOk.onCore (((h.unitTouch _ _ _).applyWords _ _ _ _).modReq _ _) _ _ (fun t1 h2 => h2.addFault _ _ _ _)
    · split
      · exact ((((((h.unitTouch _ _ _).applyWords _ _ _ _).modReq _ _).removeReq _).contribute _ _).setSeqNext _ _).drainWeir _ _ _ _
      · split
        · exact memoryOk_mk ((((h.unitTouch _ _ _).applyWords _ _ _ _).modReq _ _).removeReq _)
        · exact MemoryOk.onCore (((h.unitTouch _ _ _).applyWords _ _ _ _).modReq _ _) _ _ (fun t3 h4 => h4.addFault _ _ _ _)

theorem MemoryOk.unlessPoisoned (r : Req) (f : State → State) (hf : ∀ t0, MemoryOk t0 → MemoryOk (f t0)) :
    MemoryOk (s.unlessPoisoned r f) := by
  unfold State.unlessPoisoned
  dsimp only
  split
  · exact (((h.readDecode _).applyWords _ _ _ _).logConsumed _ _ _).deliver _ _
  · exact hf _ (h.readDecode _)

theorem MemoryOk.serve (r : Req) (line : Nat) (ks : List Nat) : MemoryOk (State.homeAtomic.serve s r line ks) := by
  unfold State.homeAtomic.serve
  dsimp only
  split
  · split
    · rename_i x2 e3
      have k4 : MemoryOk x2 := (congrArg EitherOk e3).mp (h.prepare _ _ _ _)
      exact k4
    · rename_i x6 e7
      have k8 : MemoryOk x6 := (congrArg EitherOk e7).mp (h.prepare _ _ _ _)
      exact MemoryOk.unlessPoisoned k8 _ _ (fun t9 h10 => (((h10.grantWords _ _ _ _).atomicInPlace _).trimL1 _ _).applied _ _ _)
  · split
    · rename_i x12 e13
      have k14 : MemoryOk x12 := (congrArg EitherOk e13).mp (h.prepare _ _ _ _)
      exact k14
    · rename_i x16 e17
      have k18 : MemoryOk x16 := (congrArg EitherOk e17).mp (h.prepare _ _ _ _)
      exact MemoryOk.unlessPoisoned k18 _ _ (fun t19 h20 => h20.atomicAtHome _)

theorem MemoryOk.homeAtomic (id : Nat) : MemoryOk (s.homeAtomic id) := by
  unfold State.homeAtomic
  dsimp only
  split
  · exact h
  · split
    · exact h
    · split
      · exact h
      · exact h
      · exact h
      · split
        · split
          · exact h.unitTouch _ _ _
          · split
            · rename_i x2 e3
              have k4 : MemoryOk x2 := (congrArg EitherOk e3).mp (h.prepare _ _ _ _)
              exact k4
            · rename_i x6 e7
              have k8 : MemoryOk x6 := (congrArg EitherOk e7).mp (h.prepare _ _ _ _)
              exact MemoryOk.unlessPoisoned k8 _ _ (fun t9 h10 => h10.sequenced _ _ _)
        · exact h.serve _ _ _
      · exact h.serve _ _ _

theorem MemoryOk.recallEvent (idx : Nat) : MemoryOk (s.recallEvent idx) := by
  unfold State.recallEvent
  dsimp only
  split
  · exact h
  · refine MemoryOk.setBusy ?_ _ _
    refine MemoryOk.sendInvals ?_ _ _ _ _ _
    refine foldl_keeps (P := MemoryOk) (fun t1 x2 h3 => ?_) _ _ ?_
    · split
      · exact h3.recallWord _
      · exact h3
    · exact memoryOk_mk h

theorem MemoryOk.invalidationEvent (idx : Nat) : MemoryOk (s.invalidationEvent idx) := by
  unfold State.invalidationEvent
  dsimp only
  split
  · exact h
  · split
    · exact h
    · exact memoryOk_mk (h.invalidateCluster _ _ _)

theorem MemoryOk.invalidationAck (idx : Nat) : MemoryOk (s.invalidationAck idx) := by
  unfold State.invalidationAck
  dsimp only
  split
  · exact h
  · split
    · exact h
    · split
      · exact memoryOk_mk h
      · split
        · split
          · exact memoryOk_mk h
          · exact ((memoryOk_mk h).clearBusy _ _).deliver _ _
        · split
          · exact memoryOk_mk h
          · exact (memoryOk_mk h).clearBusy _ _

theorem MemoryOk.resend (idx : Nat) (r : Req) : MemoryOk (s.resend idx r) := by
  unfold State.resend
  dsimp only
  split
  · exact (((h.walked _ _ _).noteName _ _ _).modCore _).modReq _ _
  · exact h
  · exact (h.modCore _).refuseAtomic _
  · exact (h.modCore _).refuseAtomic _

theorem MemoryOk.faultRetry (core : Nat) (idx : Nat) : MemoryOk (s.faultRetry core idx) := by
  unfold State.faultRetry
  refine MemoryOk.onCore h _ _ (fun t1 h2 => ?_)
  split
  · exact h2
  · split
    · split
      · exact h2.resend _ _
      · exact h2.modCore _
    · exact h2

theorem MemoryOk.refuseRecord (die : Nat) (pa : Nat) (agent : Nat) : MemoryOk (s.refuseRecord die pa agent) :=
  h.logError _ _

theorem MemoryOk.hostDone (line : Nat) : MemoryOk (s.hostDone line) :=
  h.modDir _ _

theorem MemoryOk.recallLine (line : Nat) : MemoryOk (s.recallLine line) := by
  unfold State.recallLine
  refine foldl_keeps (P := MemoryOk) (fun t1 x2 h3 => ?_) _ _ ?_
  · exact (h3.recallNow _ _).dropCopies _
  · exact h

theorem MemoryOk.hostRead (pa : Nat) (excl : Bool) : MemoryOk (s.hostRead pa excl) := by
  unfold State.hostRead
  dsimp only
  split
  · exact memoryOk_mk h
  · split
    · exact memoryOk_mk (h.refuseRecord _ _ _)
    · split
      · exact memoryOk_mk h
      · split
        · exact h
        · split
          · split
            · exact memoryOk_mk (((((h.hostDone _).readDecode _).recallLine _).modDir _ _).logError _ _)
            · exact memoryOk_mk ((((h.hostDone _).readDecode _).recallLine _).modDir _ _)
          · split
            · exact memoryOk_mk ((((h.hostDone _).readDecode _).modDir _ _).logError _ _)
            · exact memoryOk_mk (((h.hostDone _).readDecode _).modDir _ _)

theorem MemoryOk.hostWrite (pa : Nat) (bs : List Byte) : MemoryOk (s.hostWrite pa bs) := by
  unfold State.hostWrite
  dsimp only
  split
  · exact h
  · split
    · exact h.refuseRecord _ _ _
    · split
      · exact h
      · exact ((h.hostDone _).applyLine _ _ _).modDir _ _

theorem MemoryOk.bisnpComplete (line : Nat) (bs : List Byte) : MemoryOk (s.bisnpComplete line bs) := by
  unfold State.bisnpComplete
  dsimp only
  split
  · exact h
  · refine MemoryOk.modDir ?_ _ _
    refine memoryOk_mk ?_
    split
    · exact h.applyLine _ _ _
    · exact h

theorem MemoryOk.biconflict (line : Nat) : MemoryOk (s.biconflict line) := by
  unfold State.biconflict
  dsimp only
  split
  · exact (memoryOk_mk h).modDir _ _
  · exact h

end

theorem MemoryOk.hostSnoop {s : State} (h : MemoryOk s) (line : Nat) (excl : Bool) (bs : List Byte) :
    MemoryOk (s.hostSnoop line excl bs) := by
  unfold State.hostSnoop
  dsimp only
  split
  · exact h
  · split
    · split
      · have h' := ((h.recallLine (hostBase + lineOf (line % 2 ^ 64))).modDir (hostBase + lineOf (line % 2 ^ 64))
          (fun d => { d with hostLine := 0 })).noteUnitWrite ((List.range 16).map ((hostBase + lineOf (line % 2 ^ 64)) / 4 + ·))
        exact (h'.withMem _ (Laws.Memory.wf_writeN _ _ _ h'.1)).recode _ _ _
      · exact (h.recallLine _).modDir _ _
    · exact h.modDir _ _

section
variable {s : State} (h : MemoryOk s)
include h

theorem MemoryOk.peerRequest (pkg : Nat) (ctx : Nat) (ia : Nat) (write : Bool) (bs : List Byte) :
    MemoryOk (s.peerRequest pkg ctx ia write bs) := by
  unfold State.peerRequest
  dsimp only
  split
  · split
    · exact h
    · split
      · exact h.sendSnoop _ _ _
      · split
        · exact (h.walked _ _ _).writeNow _ _ _ _
        · exact memoryOk_mk ((h.walked _ _ _).readDecode _)
  · exact h
  · exact memoryOk_mk (h.walked _ _ _)

theorem MemoryOk.drainPosted : MemoryOk (s.drainPosted) := by
  unfold State.drainPosted
  dsimp only
  refine foldl_keeps (P := MemoryOk) (fun t1 x2 h3 => ?_) _ _ ?_
  · split
    · exact h3.applyLine _ _ _
    · exact memoryOk_mk (h3.snoopFor _ _)
  · exact memoryOk_mk h

end

theorem MemoryOk.tick {s : State} (h : MemoryOk s) : MemoryOk s.tick := by
  unfold State.tick
  extract_lets s1 s2 s3
  have h2 : MemoryOk s2 :=
    (foldl_keeps (P := MemoryOk) (fun _ n ht => (ht.expireL1 n).retrimL1 n) _ _ h.settleViews).settleWeir
  have h3 : MemoryOk s3 := by
    unfold s3
    split
    · exact h2
    · exact h2.drainPosted
  split
  · exact h3
  · exact foldl_keeps (P := MemoryOk) (fun _ _ ht => ht.unitWrite _ _ _) _ _ (memoryOk_mk h3)

/-! ### Control words -/

section
variable {s : State} (h : MemoryOk s)
include h

theorem MemoryOk.branch {u : State} (hu : MemoryOk u) (e : Engine) (target : Option Nat) : (s.branch e target).Keeps u := by
  unfold State.branch
  split
  · exact hu
  · exact h.modEng _ _

theorem MemoryOk.call {u : State} (hu : MemoryOk u) (e : Engine) (target : Option Nat) : (s.call e target).Keeps u := by
  unfold State.call
  split
  · exact hu
  · split
    · exact hu
    · exact h.modEng _ _

theorem MemoryOk.ret {u : State} (hu : MemoryOk u) (e : Engine) : (s.ret e).Keeps u := by
  unfold State.ret
  split
  · exact hu
  · split
    · exact h.modEng _ _
    · exact hu

theorem MemoryOk.loop {u : State} (hu : MemoryOk u) (e : Engine) (len : Nat) (count : Nat) : (s.loop e len count).Keeps u := by
  unfold State.loop
  dsimp only
  split
  · exact hu
  · split
    · exact h
    · split
      · exact hu
      · split
        · exact hu
        · exact h.modEng _ _

theorem MemoryOk.safePoint {u : State} (hu : MemoryOk u) (group : Nat) (map : Nat) : (s.safePoint group map).Keeps u := by
  unfold State.safePoint
  dsimp only
  split
  · exact h
  · split
    · exact h.setCore _
    · split
      · exact h.setCore _
      · exact h

theorem MemoryOk.pause {u : State} (hu : MemoryOk u) (e : Engine) (n : Nat) : (s.pause e n).Keeps u := by
  unfold State.pause
  dsimp only
  split
  · exact h
  · exact h.fresh.modEng _ _

theorem MemoryOk.swr (e : Engine) (hdr : Hdr) (r : Fin 32) (num : Nat) (f : Word64 → State → State)
    (hf : ∀ x0 t1, MemoryOk t1 → MemoryOk (f x0 t1)) : MemoryOk (s.swr e hdr r num f) :=
  MemoryOk.issue h _ _ _ _ _ (fun t1 h2 => hf _ _ h2)

end

theorem MemoryOk.scrambled {s : State} (h : MemoryOk s) : MemoryOk s.scrambled := by
  unfold State.scrambled
  dsimp only
  refine memoryOk_mk (foldl_keeps (P := MemoryOk) (fun t l ht => ?_) _ _ h)
  exact (ht.withMem _ (Laws.Memory.wf_writeN _ _ _ ht.1)).recode _ _ _

section
variable {s : State} (h : MemoryOk s)
include h

theorem MemoryOk.writeHash (ch : Bool) (v : Word64) : MemoryOk (s.writeHash ch v) := by
  unfold State.writeHash
  dsimp only
  split
  · refine MemoryOk.scrambled ?_
    split
    · exact memoryOk_mk h
    · exact memoryOk_mk h
  · exact h

theorem MemoryOk.writePreemptWait (v : Word64) : MemoryOk (s.writePreemptWait v) := by
  unfold State.writePreemptWait
  dsimp only
  split
  · exact h.setQueue _ _
  · exact h

theorem MemoryOk.kop (e : Engine) (hdr : Hdr) (d : Fin 16) (f : (Fin 16 → Word64) → Word64) : OutOk (s.kop e hdr d f) :=
  MemoryOk.issue h _ _ _ _ _ (fun t1 h2 => h2.setCore _)

end

/-! ### The vector engine -/

section
variable {s : State} (h : MemoryOk s)
include h

theorem MemoryOk.written (ts : List (Fin 256)) : MemoryOk (s.written ts) :=
  (h.modCore _).filled _

end

theorem MemoryOk.vissue {s : State} (h : MemoryOk s) (hd : Hdr) (n : Names) (reads writes : List (Fin 256)) (eff : State → Res)
    (index : Option (Fin 256)) (heff : ∀ t, MemoryOk t → (eff t).Keeps s) : OutOk (s.vissue hd n reads writes eff index) := by
  unfold State.vissue
  refine MemoryOk.issue h _ _ _ _ _ (fun t ht => ?_)
  split
  · exact h
  · refine MemoryOk.onPool ht h _ _ _ _ (fun t ht => ?_)
    have hr := heff t ht
    split
    · rename_i t' e
      have ht' : MemoryOk t' := (congrArg (Res.Keeps · s) e).mp hr
      exact ht'.written _
    · rename_i t' id e
      have ht' : MemoryOk t' := (congrArg (Res.Keeps · s) e).mp hr
      exact ht'.modCore _
    · exact hr

section
variable {s : State} (h : MemoryOk s)
include h

theorem MemoryOk.vcore (hdr : Hdr) (ok : VShape → Bool) (reads : List (Fin 256)) (writes : List (Fin 256))
    (f : Core → Core) : OutOk (s.vcore hdr ok reads writes f) :=
  MemoryOk.vissue h _ _ _ _ _ _ (fun t1 h2 => h2.setCore _)

theorem MemoryOk.v1 (hdr : Hdr) (m : Fin 8) (z : Bool) (ok : ElemType → Bool) (d : Fin 256) (a : Fin 256)
    (f : ElemType → Nat → Nat × Flags) : OutOk (s.v1 hdr m z ok d a f) :=
  MemoryOk.vcore h _ _ _ _ _

theorem MemoryOk.v2 (hdr : Hdr) (m : Fin 8) (z : Bool) (ok : ElemType → Bool) (d : Fin 256) (a : Fin 256)
    (b : Fin 256) (f : ElemType → Nat → Nat → Nat × Flags) : OutOk (s.v2 hdr m z ok d a b f) :=
  MemoryOk.vcore h _ _ _ _ _

theorem MemoryOk.v3 (hdr : Hdr) (m : Fin 8) (z : Bool) (ok : ElemType → Bool) (d : Fin 256) (a : Fin 256)
    (b : Fin 256) (e : Fin 256) (f : ElemType → Nat → Nat → Nat → Nat × Flags) : OutOk (s.v3 hdr m z ok d a b e f) :=
  MemoryOk.vcore h _ _ _ _ _

theorem MemoryOk.vtrans (hdr : Hdr) (m : Fin 8) (z : Bool) (sat : Bool) (f : Trans.Fn) (d : Fin 256) (a : Fin 256) :
    OutOk (s.vtrans hdr m z sat f d a) :=
  MemoryOk.v1 h _ _ _ _ _ _ _

theorem MemoryOk.viarith (hdr : Hdr) (m : Fin 8) (z : Bool) (sat : Bool) (d : Fin 256) (a : Fin 256) (b : Fin 256)
    (f : ℤ → ℤ → ℤ) : OutOk (s.viarith hdr m z sat d a b f) :=
  MemoryOk.v2 h _ _ _ _ _ _ _ _

end

/-! ### Memory words -/

section
variable {s : State} (h : MemoryOk s)
include h

theorem MemoryOk.sendReq (e : Engine) (pc : Nat) (since : Nat) (kind : ReqKind) (pol : Policy) (inv : Bool) (a : Nat)
    (n : Nat) (va : Nat) (data : Nat) (seq : Option (Nat × Nat))
    (half : Bool) : MemoryOk (s.sendReq e pc since kind pol inv a n va data seq half).2 :=
  (h.fresh.modCore _).addReq _

theorem MemoryOk.withAccess {u : State} (hu : MemoryOk u) (e : Engine) (va : Nat) (n : Nat) (write : Bool)
    (f : Nat → State → Res) (hf : ∀ x0 t1, MemoryOk t1 → (f x0 t1).Keeps u) : (s.withAccess e va n write f).Keeps u := by
  unfold State.withAccess
  split
  · exact hu
  · split
    · rename_i x2 _ e4
      have k5 : ∀ (t : State), MemoryOk t → MemoryOk (x2 t) := (congrArg Acc.Keeps e4).mp (h.access _ _ _ _)
      exact k5 _ hu
    · rename_i x7 e8
      have k9 : ∀ (t : State), MemoryOk t → MemoryOk (x7 t) := (congrArg Acc.Keeps e8).mp (h.access _ _ _ _)
      exact k9 _ hu
    · exact hu
    · rename_i x19 e20
      have k21 : MemoryOk x19 := (congrArg Acc.Keeps e20).mp (h.access _ _ _ _)
      exact hf _ _ k21

end

theorem MemoryOk.poisonTrap {s u : State} (hu : MemoryOk u) (e : Engine) (a va : Nat) : (s.poisonTrap e a va).Keeps u :=
  (hu.readDecode _).logConsumed _ _ _

section
variable {s : State} (h : MemoryOk s)
include h

theorem MemoryOk.storeAt (pol : Policy) (a : Nat) (n : Nat) (va : Nat) (data : Nat) : OptOk (s.storeAt pol a n va data) := by
  unfold State.storeAt
  dsimp only
  split
  · refine MemoryOk.trimL1 ?_ _ _
    refine MemoryOk.noteL1 ?_ _ _
    refine MemoryOk.modCore ?_ _
    refine foldl_keeps (P := MemoryOk) (fun t1 x2 h3 => ?_) _ _ ?_
    · split
      · exact h3.notePast _ _
      · exact h3
    · exact h
  · trivial

end

theorem MemoryOk.sendAt {s : State} (h : MemoryOk s) (e : Engine) (pc till a : Nat) (p : Part) (t : Todo) :
    (s.sendAt e pc till a p t).Keeps := by
  unfold State.sendAt
  dsimp only
  split
  · intro t ht; exact ht
  · split
    · rename_i s' v hhere
      have hs' : MemoryOk s' := by
        split at hhere
        · obtain ⟨t', ht', e'⟩ := Option.map_eq_some_iff.mp hhere
          cases e'
          exact (congrArg OptOk ht').mp (h.storeAt _ _ _ _ _)
        · obtain ⟨v', _, e'⟩ := Option.map_eq_some_iff.mp hhere
          cases e'
          exact h
      split
      · intro t _; exact hs'.logSram _ _
      · exact hs'
    · split
      · intro t ht; exact ht
      · exact h.sendReq _ _ _ _ _ _ _ _ _ _ _ _

section
variable {s : State} (h : MemoryOk s)
include h

theorem MemoryOk.sendPart (e : Engine) (pc : Nat) (till : Nat) (p : Machine.Part) (t : Todo) :
    (s.sendPart e pc till p t).Keeps := by
  unfold State.sendPart
  split
  · rename_i x2 _ e4
    have k5 : ∀ (t : State), MemoryOk t → MemoryOk (x2 t) := (congrArg Acc.Keeps e4).mp (h.access _ _ _ _)
    intro t6 h7
    exact k5 _ h7
  · rename_i x9 e10
    have k11 : ∀ (t : State), MemoryOk t → MemoryOk (x9 t) := (congrArg Acc.Keeps e10).mp (h.access _ _ _ _)
    intro t12 h13
    exact k11 _ h13
  · intro t21 h22
    exact h22
  · rename_i x25 e26
    have k27 : MemoryOk x25 := (congrArg Acc.Keeps e26).mp (h.access _ _ _ _)
    exact MemoryOk.sendAt k27 _ _ _ _ _ _

end

/-- The parts sent so far, or the trap of one, with the state left. -/
def PartsOk : Except (State × TrapInfo) (State × List Part) → Prop
  | .ok p => MemoryOk p.1
  | .error p => MemoryOk p.1

theorem MemoryOk.partSent {s : State} (h : MemoryOk s) (x : Sent) (ps : List Part) (p : Part) :
    x.Keeps → PartsOk (match x with
      | .wait g => .ok (g s, ps ++ [p])
      | .trap g t => .error (g s, t)
      | .ok s p => .ok (s, ps ++ [p])) := by
  cases x with
  | wait g => exact fun hx => hx s h
  | trap g t => exact fun hx => hx s h
  | ok t q => exact id

theorem MemoryOk.sendParts {s : State} (h : MemoryOk s) (f : Flight) (at_ : Option Nat) : PartsOk (s.sendParts f at_) := by
  unfold State.sendParts
  refine foldl_keeps (P := PartsOk) (fun r p hr => ?_) _ _ h
  split
  · exact hr
  · exact hr
  · rename_i s' ps t _
    have hs' : MemoryOk s' := hr
    cases at_ with
    | some a => exact hs'.partSent _ _ _ (hs'.sendAt _ _ _ _ _ _)
    | none => exact hs'.partSent _ _ _ (hs'.sendPart _ _ _ _ _)

section
variable {s : State} (h : MemoryOk s)
include h

theorem MemoryOk.issueParts {u : State} (hu : MemoryOk u) (e : Engine) (kind : FlightKind) (parts : List Machine.Part)
    (at_ : Option Nat) : (s.issueParts e kind parts at_).Keeps u := by
  unfold State.issueParts
  dsimp only
  split
  · rename_i x2 _ e4
    have k5 : MemoryOk x2 := (congrArg PartsOk e4).mp (h.fresh.sendParts _ _)
    exact k5
  · rename_i x7 _ e9
    have k10 : MemoryOk x7 := (congrArg PartsOk e9).mp (h.fresh.sendParts _ _)
    split
    · exact k10.modCore _
    · exact k10.modCore _

theorem MemoryOk.loadGlobal {u : State} (hu : MemoryOk u) (pol : Policy) (size : Size) (bit18 : Bool) (d : Fin 32)
    (va : Nat) : (s.loadGlobal pol size bit18 d va).Keeps u := by
  unfold State.loadGlobal
  dsimp only
  refine MemoryOk.withAccess h hu _ _ _ _ _ (fun x1 t2 h3 => ?_)
  split
  · split
    · split
      · exact hu.logSram _ _
      · exact h3.setCore _
    · split
      · exact MemoryOk.poisonTrap hu _ _ _
      · exact MemoryOk.issueParts h3 hu _ _ _ _
  · exact MemoryOk.issueParts h3 hu _ _ _ _

end

theorem MemoryOk.storeGlobal {s : State} (h : MemoryOk s) {u : State} (hu : MemoryOk u) (e : Engine) (pol : Policy)
    (n va data : Nat) :
    (s.storeGlobal e pol n va data).Keeps u := by
  unfold State.storeGlobal
  refine MemoryOk.withAccess h hu _ _ _ _ _ (fun a t ht => ?_)
  dsimp only
  split
  · rename_i t' e'
    split at e'
    · exact (congrArg OptOk e').mp (ht.storeAt _ _ _ _ _)
    · cases e'
  · exact MemoryOk.issueParts ht hu _ _ _ _

section
variable {s : State} (h : MemoryOk s)
include h

theorem MemoryOk.pushRelease (scope : Scope) : MemoryOk (s.pushRelease scope) := by
  unfold State.pushRelease
  split
  · exact h
  · exact h.writebackAll _

theorem MemoryOk.acquire (scope : Scope) : MemoryOk (s.acquire scope) := by
  unfold State.acquire
  split
  · exact h
  · exact h.acquireNow _

theorem MemoryOk.await (e : Engine) (kind : FlightKind) : MemoryOk (s.await e kind).2 :=
  h.fresh.modCore _

theorem MemoryOk.endFlight (f : Flight) : MemoryOk (s.endFlight f) :=
  (h.modCore _).finishSig _ _

theorem MemoryOk.endFootprints (e : Engine) : MemoryOk (s.endFootprints e) := by
  unfold State.endFootprints
  split
  · exact h
  · exact h.modCore _

theorem MemoryOk.pushFlight (f : Flight) (scope : Scope) : MemoryOk (s.pushFlight f scope) := by
  unfold State.pushFlight
  dsimp only
  split
  · exact h
  · exact (h.pushRelease _).modCore _

theorem MemoryOk.atomicOwned (kind : ReqKind) (n : Nat) (pol : Policy) (d : Option (Fin 32)) (data : Nat) (a : Nat) (va : Nat) :
    MemoryOk (s.atomicOwned kind n pol d data a va) := by
  unfold State.atomicOwned
  dsimp only
  split
  · refine MemoryOk.setCore ?_ _
    refine MemoryOk.atomicInPlace ?_ _
    refine foldl_keeps (P := MemoryOk) (fun t1 x2 h3 => ?_) _ _ ?_
    · split
      · exact h3.notePast _ _
      · exact h3
    · exact h
  · refine MemoryOk.atomicInPlace ?_ _
    refine foldl_keeps (P := MemoryOk) (fun t4 x5 h6 => ?_) _ _ ?_
    · split
      · exact h6.notePast _ _
      · exact h6
    · exact h

theorem MemoryOk.prefLine (e : Engine) (pc : Nat) (since : Nat) (pol : Policy) (va : Nat) :
    MemoryOk (s.prefLine e pc since pol va) := by
  unfold State.prefLine
  split
  · exact h
  · split
    · rename_i x3 e4
      have k5 : MemoryOk x3 := (congrArg Acc.Keeps e4).mp (h.accessIn _ _ _ _ _ _)
      split
      · exact k5
      · exact k5.sendReq _ _ _ _ _ _ _ _ _ _ _ _
    · exact h

end

theorem Res.performed_keeps {r : Res} (h : ∀ u, MemoryOk u → r.Keeps u) (hs : ∃ u, MemoryOk u) : r.performed.Keeps := by
  obtain ⟨u, hu⟩ := hs
  cases r with
  | done s => exact h u hu
  | trap f t => exact h
  | pend s id => intro t ht; exact ht
  | goto s pc => intro t ht; exact ht
  | resume s => intro t ht; exact ht
  | stall f => intro t ht; exact ht
  | hold s => intro t ht; exact ht
  | doneThen s a => intro t ht; exact ht
  | stop s => intro t ht; exact ht

section
variable {s : State} (h : MemoryOk s)
include h

theorem MemoryOk.performAtomic (pc : Nat) (till : Nat) (ready : Bool) (w : AtomicOp) :
    (s.performAtomic pc till ready w).Keeps := by
  unfold State.performAtomic
  dsimp only
  split
  · rename_i x2 _ e4
    have k5 : ∀ (t : State), MemoryOk t → MemoryOk (x2 t) := (congrArg Acc.Keeps e4).mp (h.access _ _ _ _)
    intro t6 h7
    exact k5 _ h7
  · rename_i x9 e10
    have k11 : ∀ (t : State), MemoryOk t → MemoryOk (x9 t) := (congrArg Acc.Keeps e10).mp (h.access _ _ _ _)
    intro t12 h13
    exact k11 _ h13
  · intro t21 h22
    exact h22
  · rename_i x25 e26
    have k27 : MemoryOk x25 := (congrArg Acc.Keeps e26).mp (h.access _ _ _ _)
    split
    · intro t28 h29
      exact h29
    · split
      · intro t30 h31
        exact h31
      · split
        · split
          · intro t32 h33
            exact k27.logSram _ _
          · change MemoryOk _
            split
            · exact (k27.atomicOwned _ _ _ _ _ _ _).acquire _
            · exact k27.atomicOwned _ _ _ _ _ _ _
        · split
          · exact k27.sendReq _ _ _ _ _ _ _ _ _ _ _ _
          · exact k27.sendReq _ _ _ _ _ _ _ _ _ _ _ _

theorem MemoryOk.performFlush (till : Nat) (va : Nat) : (s.performFlush till va).Keeps := by
  unfold State.performFlush
  dsimp only
  split
  · rename_i x2 _ e4
    have k5 : ∀ (t : State), MemoryOk t → MemoryOk (x2 t) := (congrArg Acc.Keeps e4).mp (h.access _ _ _ _)
    intro t6 h7
    exact k5 _ h7
  · rename_i x9 e10
    have k11 : ∀ (t : State), MemoryOk t → MemoryOk (x9 t) := (congrArg Acc.Keeps e10).mp (h.access _ _ _ _)
    intro t12 h13
    exact k11 _ h13
  · intro t21 h22
    exact h22
  · rename_i x25 e26
    have k27 : MemoryOk x25 := (congrArg Acc.Keeps e26).mp (h.access _ _ _ _)
    split
    · intro t28 h29
      exact h29
    · split
      · intro t30 h31
        exact h31.writebackAll _
      · split
        · exact k27
        · split
          · exact k27.evictLine _ _ _
          · exact k27.evictLine _ _ _

end

theorem MemoryOk.performData {s : State} (h : MemoryOk s) (pc till : Nat) (d : Option (Fin 32)) (o n : Nat)
    (reads writes : Bool)
    (f : State → State) (hf : ∀ t, MemoryOk t → MemoryOk (f t)) : (s.performData pc till d o n reads writes f).Keeps := by
  unfold State.performData
  split
  · intro t ht; exact ht
  · exact Res.performed_keeps (fun u hu => MemoryOk.onDataAt h hu _ _ _ _ _ _ hf) ⟨s, h⟩

section
variable {s : State} (h : MemoryOk s)
include h

theorem MemoryOk.perform (pc : Nat) (till : Nat) (ready : Bool) (x : MemOp) : (s.perform pc till ready x).Keeps := by
  unfold State.perform
  split
  · exact MemoryOk.performAtomic h _ _ _ _
  · exact MemoryOk.performData h _ _ _ _ _ _ _ _ (fun t1 h2 => h2.setCore _)
  · exact MemoryOk.performData h _ _ _ _ _ _ _ _ (fun t3 h4 => h4.setCore _)
  · split
    · intro t5 h6
      exact h6
    · exact MemoryOk.performData h _ _ _ _ _ _ _ _ (fun t7 h8 => h8.setCore _)
  · split
    · intro t9 h10
      exact h10
    · change MemoryOk _
      refine foldl_keeps (P := MemoryOk) (fun t11 x12 h13 => ?_) _ _ ?_
      · exact h13.prefLine _ _ _ _ _
      · exact h
  · exact MemoryOk.performFlush h _ _

end

theorem MemoryOk.issueOp {s : State} (h : MemoryOk s) {u : State} (hu : MemoryOk u) (op : MemOp) : (s.issueOp op).Keeps u := by
  unfold State.issueOp
  extract_lets s1 ready
  have h1 : MemoryOk s1 := by
    unfold s1
    split
    · exact h.pushRelease _
    · exact h
  have hk := h1.perform (s1.eng .S).pc s1.nextId ready op
  split
  · rename_i f t e
    have hf : ∀ t, MemoryOk t → MemoryOk (f t) := (congrArg Performed.Keeps e).mp hk
    exact hf u hu
  · rename_i t e
    exact (congrArg Performed.Keeps e).mp hk
  · rename_i t req kind acq e
    have ht : MemoryOk t := (congrArg Performed.Keeps e).mp hk
    dsimp only
    refine MemoryOk.modCore ?_ _
    split
    · exact ht
    · exact ht.fresh
  · rename_i f e
    have hf : ∀ t, MemoryOk t → MemoryOk (f t) := (congrArg Performed.Keeps e).mp hk
    dsimp only
    split
    · exact (hf s1 h1).await _ _
    · exact (hf s1 h1).await _ _

section
variable {s : State} (h : MemoryOk s)
include h

theorem MemoryOk.dataOp {u : State} (hu : MemoryOk u) (o : Nat) (n : Nat) (op : MemOp) : (s.dataOp o n op).Keeps u := by
  unfold State.dataOp
  split
  · exact hu
  · split
    · exact hu
    · exact MemoryOk.issueOp h hu _

theorem MemoryOk.fenced (e : Engine) (kind : FenceKind) (scope : Scope) : MemoryOk (s.fenced e kind scope) := by
  unfold State.fenced
  dsimp only
  split
  · refine MemoryOk.endFootprints ?_ _
    split
    · exact h.acquire _
    · exact h
  · split
    · exact h.acquire _
    · exact h

theorem MemoryOk.fence {u : State} (hu : MemoryOk u) (e : Engine) (kind : FenceKind) (scope : Scope) :
    (s.fence e kind scope).Keeps u := by
  unfold State.fence
  dsimp only
  split
  · split
    · exact (h.pushRelease _).fenced _ _ _
    · exact (h.pushRelease _).await _ _
  · split
    · exact h.fenced _ _ _
    · exact h.await _ _

theorem MemoryOk.retryOp (f : Flight) (op : MemOp) : MemoryOk (s.retryOp f op) := by
  unfold State.retryOp
  dsimp only
  split
  · rename_i x2 e3
    have k4 : ∀ (t : State), MemoryOk t → MemoryOk (x2 t) := (congrArg Performed.Keeps e3).mp (h.perform _ _ _ _)
    exact k4 _ h
  · rename_i x6 e7
    have k8 : MemoryOk x6 := (congrArg Performed.Keeps e7).mp (h.perform _ _ _ _)
    exact k8.endFlight _
  · rename_i x10 _ e12
    have k13 : ∀ (t : State), MemoryOk t → MemoryOk (x10 t) := (congrArg Performed.Keeps e12).mp (h.perform _ _ _ _)
    exact ((k13 _ h).dropFlight _).lateTrap _ _ _ _
  · rename_i x15 _ _ _ e19
    have k20 : MemoryOk x15 := (congrArg Performed.Keeps e19).mp (h.perform _ _ _ _)
    exact k20.modCore _

theorem MemoryOk.retryParts (f : Flight) : MemoryOk (s.retryParts f) := by
  unfold State.retryParts
  dsimp only
  split
  · rename_i x2 _ e4
    have k5 : MemoryOk x2 := (congrArg PartsOk e4).mp (h.sendParts _ _)
    exact (k5.dropFlight _).lateTrap _ _ _ _
  · rename_i x7 _ e9
    have k10 : MemoryOk x7 := (congrArg PartsOk e9).mp (h.sendParts _ _)
    split
    · exact (k10.modCore _).finishFlight _
    · exact k10.modCore _

end

theorem MemoryOk.progress {s : State} (h : MemoryOk s) (e : Engine) : MemoryOk (s.progress e) := by
  unfold State.progress
  refine foldl_keeps (P := MemoryOk) (fun t f ht => ?_) _ _ h
  split
  · exact ht
  · rename_i f _
    have hparts : MemoryOk (if f.parts.any (fun p => p.todo.isSome) then t.retryParts f else t) := by
      split
      · exact ht.retryParts _
      · exact ht
    split
    · extract_lets t1
      have h1 : MemoryOk t1 := by
        unfold t1
        split
        · exact ht.pushFlight _ _
        · exact ht
      split
      · split
        · exact (h1.fenced _ _ _).endFlight _
        · exact h1
      · exact h1
    · split
      · exact ht.endFlight _
      · split
        · exact ht
        · exact ht.evictLine _ _ _
    · extract_lets t1
      have h1 : MemoryOk t1 := by
        unfold t1
        split
        · exact ht.pushFlight _ _
        · exact ht
      split
      · exact h1.retryOp _ _
      · exact h1
    · exact hparts
    · exact hparts
    · exact hparts
    · exact hparts
    · exact ht

section
variable {s : State} (h : MemoryOk s)
include h

theorem MemoryOk.atomicGlobal {u : State} (hu : MemoryOk u) (kind : ReqKind) (n : Nat) (pol : Policy) (scope : Scope)
    (ord : AtomOrder) (d : Option (Fin 32)) (v : Fin 32) (va : Nat) : (s.atomicGlobal kind n pol scope ord d v va).Keeps u := by
  unfold State.atomicGlobal
  dsimp only
  refine MemoryOk.withAccess h hu _ _ _ _ _ (fun x1 t2 h3 => ?_)
  split
  · exact hu
  · split
    · exact MemoryOk.poisonTrap hu _ _ _
    · exact MemoryOk.issueOp h hu _

end

/-! ### Tensor records -/

section
variable {s : State} (h : MemoryOk s)
include h

theorem MemoryOk.tmrTouch (e : Engine) (ctx : Nat) (idx : Nat) : MemoryOk (s.tmrTouch e ctx idx) := by
  unfold State.tmrTouch
  dsimp only
  split
  · exact h
  · split
    · split
      · exact ((h.walked _ _ _).unitTouch _ _ _).logConsumed _ _ _
      · exact (h.walked _ _ _).unitTouch _ _ _
    · exact (h.walked _ _ _).unitTouch _ _ _

theorem MemoryOk.tmrSnoop (ctx : Nat) (idx : Nat) : MemoryOk (s.tmrSnoop ctx idx) := by
  unfold State.tmrSnoop
  split
  · refine foldl_keeps (P := MemoryOk) (fun t1 x2 h3 => ?_) _ _ ?_
    · exact h3.snoopFor _ _
    · exact h
  · exact h

theorem MemoryOk.setTmr (ctx : Nat) (idx : Nat) (t : Nat) : MemoryOk (s.setTmr ctx idx t) :=
  h.unitWrite _ _ _

theorem MemoryOk.modTmr (ctx : Nat) (idx : Nat) (f : Nat → Nat) : MemoryOk (s.modTmr ctx idx f) := by
  unfold State.modTmr
  split
  · exact h.setTmr _ _ _
  · exact h

theorem MemoryOk.cacheTmr (ctx : Nat) (idx : Nat) : MemoryOk (s.cacheTmr ctx idx) := by
  unfold State.cacheTmr
  dsimp only
  split
  · exact h.tmrTouch _ _ _
  · split
    · exact h
    · refine foldl_keeps (P := MemoryOk) (fun t1 x2 h3 => ?_) _ _ ?_
      · exact h3.modDir _ _
      · exact (h.tmrTouch _ _ _).modCore _

theorem MemoryOk.policyTouch (ctx : Nat) (j : Nat) : MemoryOk (s.policyTouch ctx j) :=
  h.unitTouch _ _ _

theorem MemoryOk.settleTmr (ctx : Nat) (idx : Nat) (left : Bool) : MemoryOk (s.settleTmr ctx idx left) := by
  unfold State.settleTmr
  dsimp only
  split
  · exact h
  · split
    · split
      · split
        · exact memoryOk_mk h
        · exact (memoryOk_mk h).setTmr _ _ _
      · split
        · exact memoryOk_mk h
        · exact (memoryOk_mk h).setTmr _ _ _
    · split
      · split
        · exact h
        · exact h.setTmr _ _ _
      · split
        · exact h
        · exact h.setTmr _ _ _

theorem MemoryOk.coverUpdate (old : BitVec 4) (ctx : Nat) (idx : Nat) (v : Nat) : MemoryOk (s.coverUpdate old ctx idx v) := by
  unfold State.coverUpdate
  dsimp only
  split
  · exact h
  · split
    · exact (h.setTmr _ _ _).settleTmr _ _ _
    · split
      · exact (h.setTmr _ _ _).settleTmr _ _ _
      · exact h

theorem MemoryOk.mergeCounts (ctx : Nat) (idx : Nat) (c : Counts) : MemoryOk (s.mergeCounts ctx idx c) :=
  h.modTmr _ _ _

theorem MemoryOk.applyTmr (p : TmrTask) : MemoryOk (s.applyTmr p) := by
  unfold State.applyTmr
  dsimp only
  split
  · exact h.mergeCounts _ _ _
  · exact h.coverUpdate _ _ _ _
  · exact h.modTmr _ _ _
  · exact h.modTmr _ _ _
  · exact h.modTmr _ _ _
  · exact h.modTmr _ _ _
  · exact h.settleTmr _ _ _

theorem MemoryOk.updateTmr (ctx : Nat) (idx : Nat) (act : TmrUpdate) : MemoryOk (s.updateTmr ctx idx act) := by
  unfold State.updateTmr
  dsimp only
  split
  · exact h.applyTmr _
  · exact (memoryOk_mk h).tmrSnoop _ _

theorem MemoryOk.drainTmrs : MemoryOk (s.drainTmrs) := by
  unfold State.drainTmrs
  dsimp only
  split
  · exact h
  · refine foldl_keeps (P := MemoryOk) (fun t1 x2 h3 => ?_) _ _ ?_
    · exact h3.updateTmr _ _ _
    · exact memoryOk_mk h

theorem MemoryOk.settleContext (ctx : Nat) : MemoryOk (s.settleContext ctx) := by
  unfold State.settleContext
  refine foldl_keeps (P := MemoryOk) (fun t1 x2 h3 => ?_) _ _ ?_
  · split
    · exact h3
    · exact h3.updateTmr _ _ _
  · exact h

theorem MemoryOk.keepVersion (idx : Nat) (v : Nat) : MemoryOk (s.keepVersion idx v) := by
  unfold State.keepVersion
  split
  · exact h
  · exact h.modCore _

theorem MemoryOk.mergeSlot (core : Nat) (idx : Nat) : MemoryOk (s.mergeSlot core idx) := by
  unfold State.mergeSlot
  dsimp only
  split
  · exact (h.updateTmr _ _ _).modCoreAt _ _
  · exact h

theorem MemoryOk.mergeAll (core : Nat) : MemoryOk (s.mergeAll core) := by
  unfold State.mergeAll
  refine foldl_keeps (P := MemoryOk) (fun t1 x2 h3 => ?_) _ _ ?_
  · exact h3.mergeSlot _ _
  · exact h

theorem MemoryOk.feed (idx : Nat) (c : Counts) : MemoryOk (s.feed idx c) := by
  unfold State.feed
  dsimp only
  split
  · exact h.modCore _
  · split
    · exact h.modCore _
    · split
      · exact (h.mergeSlot _ _).modCore _
      · exact h.updateTmr _ _ _

theorem MemoryOk.statsMerge (core : Nat) (slot : Nat) : MemoryOk (s.statsMerge core slot) := by
  unfold State.statsMerge
  dsimp only
  split
  · split
    · exact h.mergeSlot _ _
    · exact h
  · exact h

theorem MemoryOk.evaluate (ctx : Nat) (idx : Nat) : MemoryOk (s.evaluate ctx idx).1 := by
  unfold State.evaluate
  dsimp only
  split
  · exact h.unitTouch _ _ _
  · dsimp only
    split
    · exact h.policyTouch _ _
    · exact (h.policyTouch _ _).setTmr _ _ _

theorem MemoryOk.triggerScope (ctx : Nat) (scope : Nat) : MemoryOk (s.triggerScope ctx scope) := by
  unfold State.triggerScope
  refine foldl_keeps (P := MemoryOk) (fun t1 x2 h3 => ?_) _ _ ?_
  · split
    · exact h3
    · split
      · split
        · exact h3.updateTmr _ _ _
        · exact h3
      · split
        · exact h3
        · exact h3.updateTmr _ _ _
  · exact h

theorem MemoryOk.governorEvaluation (die : Nat) : MemoryOk (s.governorEvaluation die) := by
  unfold State.governorEvaluation
  dsimp only
  split
  · split
    · exact h.tmrSnoop _ _
    · refine MemoryOk.modCoreAt ?_ _ _
      split
      · split
        · exact (((h.setDie _ _).modTmr _ _ _).evaluate _ _).mergeSlot _ _
        · exact ((h.setDie _ _).modTmr _ _ _).evaluate _ _
      · exact ((h.setDie _ _).modTmr _ _ _).evaluate _ _
  · split
    · exact h
    · split
      · exact h.tmrSnoop _ _
      · exact (h.modTmr _ _ _).evaluate _ _

end

theorem MemoryOk.withTmr {s u : State} (hu : MemoryOk u) (e : Engine) (idx : Nat) (f : Nat → Res) (hf : ∀ n, (f n).Keeps u) :
    (s.withTmr e idx f).Keeps u := by
  unfold State.withTmr
  split
  · exact hu.tmrTouch _ _ _
  · split
    · exact hu.tmrTouch _ _ _
    · exact hf _

theorem MemoryOk.gov {s : State} (h : MemoryOk s) (hd : Hdr) (a : Fin 32) (rs : List (Fin 32)) (eff : Nat → Nat → State → Res)
    (heff : ∀ i n t, MemoryOk t → (eff i n t).Keeps s) : OutOk (s.gov hd a rs eff) := by
  unfold State.gov
  exact MemoryOk.issue h _ _ _ _ _ (fun t ht => MemoryOk.withTmr h _ _ _ (fun n => heff _ n t ht))

section
variable {s : State} (h : MemoryOk s)
include h

theorem MemoryOk.govUpdate {u : State} (hu : MemoryOk u) (idx : Nat) (act : TmrUpdate) : (s.govUpdate idx act).Keeps u := by
  unfold State.govUpdate
  dsimp only
  split
  · split
    · exact h
    · exact h
  · split
    · exact h.updateTmr _ _ _
    · exact h.updateTmr _ _ _

end

/-! ### Rows, gathers and scatters -/

section
variable {s : State} (h : MemoryOk s)
include h

theorem MemoryOk.withRows {u : State} (hu : MemoryOk u) (e : Engine) (hd : Fin 64) (runs : List (Nat × Nat))
    (write : Bool) (f : State → Res) (hf : ∀ t0, MemoryOk t0 → (f t0).Keeps u) : (s.withRows e hd runs write f).Keeps u := by
  unfold State.withRows
  split
  · exact hu
  · split
    · exact hu
    · exact MemoryOk.onData h hu _ _ _ _ hf

theorem MemoryOk.vstq {u : State} (hu : MemoryOk u) (t : Fin 256) (k : Fin 16) (hd : Fin 64) (off : BitVec 22)
    (idx : Nat) (tmr : Nat) (v : Nat) (sc : Scale) : (s.vstq t k hd off idx tmr v sc).Keeps u := by
  unfold State.vstq
  dsimp only
  split
  · exact hu
  · split
    · exact hu
    · refine MemoryOk.withRows h hu _ _ _ _ _ (fun t1 h2 => ?_)
      split
      · exact (((hu.policyTouch _ _).cacheTmr _ _).keepVersion _ _).feed _ _
      · exact ((((h2.policyTouch _ _).cacheTmr _ _).keepVersion _ _).feed _ _).modCore _

theorem MemoryOk.dataElements {u : State} (hu : MemoryOk u) (as : List (Nat × Nat)) (write : Bool) (f : Core → Core) :
    (s.dataElements as write f).Keeps u := by
  unfold State.dataElements
  dsimp only
  split
  · exact hu
  · split
    · exact hu
    · exact MemoryOk.onData h hu _ _ _ _ (fun t1 h2 => h2.modCore _)

end

/-- The elements' addresses, or what stops the instruction, at the state `u` that it was issued in. -/
def ReachOk (u : State) : Except Res (List (Nat × Nat × Nat) × State) → Prop
  | .ok p => MemoryOk p.2
  | .error r => r.Keeps u

theorem MemoryOk.reachElements {s : State} (h : MemoryOk s) {u : State} (hu : MemoryOk u) (as : List (Nat × Nat))
    (write : Bool) :
    ReachOk u (s.reachElements as write) := by
  unfold State.reachElements
  dsimp only
  split
  · exact hu
  · refine foldl_keeps (P := ReachOk u) (fun r a hr => ?_) _ _ h
    cases r with
    | error x => exact hr
    | ok q =>
      obtain ⟨l, t⟩ := q
      have ht : MemoryOk t := hr
      dsimp only
      split
      · rename_i f x e
        have hf : ∀ t, MemoryOk t → MemoryOk (f t) := (congrArg Acc.Keeps e).mp (ht.access _ _ _ _)
        exact hf u hu
      · rename_i f e
        have hf : ∀ t, MemoryOk t → MemoryOk (f t) := (congrArg Acc.Keeps e).mp (ht.access _ _ _ _)
        exact hf u hu
      · exact hu
      · rename_i x t' e
        have ht' : MemoryOk t' := (congrArg Acc.Keeps e).mp (ht.access _ _ _ _)
        exact ht'

theorem MemoryOk.gatherGlobal {s : State} (h : MemoryOk s) {u : State} (hu : MemoryOk u) (t : Fin 256) (as : List (Nat × Nat))
    (zs : List Nat) (pol : Policy) (inv : Bool) : (s.gatherGlobal t as zs pol inv).Keeps u := by
  unfold State.gatherGlobal
  dsimp only
  have hr := MemoryOk.reachElements h hu as false
  split
  · rename_i r e
    exact (congrArg (ReachOk u) e).mp hr
  · rename_i xs t' e
    have ht : MemoryOk t' := (congrArg (ReachOk u) e).mp hr
    split
    · exact hu
    · split
      · exact MemoryOk.poisonTrap hu _ _ _
      · exact MemoryOk.issueParts ht hu _ _ _ _

theorem MemoryOk.scatterGlobal {s : State} (h : MemoryOk s) {u : State} (hu : MemoryOk u) (t : Fin 256) (as : List (Nat × Nat))
    (pol : Policy) : (s.scatterGlobal t as pol).Keeps u := by
  unfold State.scatterGlobal
  dsimp only
  have hr := MemoryOk.reachElements h hu as true
  split
  · rename_i r e
    exact (congrArg (ReachOk u) e).mp hr
  · rename_i xs t' e
    have ht : MemoryOk t' := (congrArg (ReachOk u) e).mp hr
    split
    · exact hu
    · exact MemoryOk.issueParts ht hu _ _ _ _

/-! ### The stream engine -/

section
variable {s : State} (h : MemoryOk s)
include h

theorem MemoryOk.issueTmrTouch (c : CCmd) (d : List Byte) : MemoryOk (s.issueTmrTouch c d) := by
  unfold State.issueTmrTouch
  split
  · exact h.tmrTouch _ _ _
  · exact h

theorem MemoryOk.replay (hdr : Fin 64) : MemoryOk (s.replay hdr) := by
  unfold State.replay
  refine foldl_keeps (P := MemoryOk) (fun t1 x2 h3 => ?_) _ _ ?_
  · split
    · exact h3
    · split
      · exact h3.setCore _
      · exact (h3.modEng _ _).lateTrap _ _ _ _
      · exact h3
  · exact h

theorem MemoryOk.enter (c : CCmd) (d : List Byte) (off : Nat) (p : Plan) (pair : Option (Nat × Nat)) (row : Nat) :
    MemoryOk (s.enter c d off p pair row).2 :=
  h.fresh.modCore _

theorem MemoryOk.holdEntry (j : JEntry) (fl : Flags) (offer : Option (Nat × Nat)) : MemoryOk (s.holdEntry j fl offer) :=
  h.modCore _

theorem MemoryOk.finishEntry (j : JEntry) (fl : Flags) (offer : Option (Nat × Nat)) : MemoryOk (s.finishEntry j fl offer) := by
  unfold State.finishEntry
  split
  · refine MemoryOk.holdEntry ?_ _ _ _
    split
    · exact h.pushRelease _
    · exact h
  · refine MemoryOk.modCore ?_ _
    split
    · exact h.acquireNow _
    · exact h

end

theorem MemoryOk.commandEffect {s : State} (h : MemoryOk s) {u : State} (hu : MemoryOk u) (c : CCmd) (d : List Byte) (off : Nat)
    (p : Plan) (pair : Option (Nat × Nat × Scale)) : (s.commandEffect c d off p pair).Keeps u := by
  unfold State.commandEffect
  split
  · exact hu.pushRelease _
  · dsimp -zeta only
    extract_lets s1 s2 s3 s4
    have h1 : MemoryOk s1 := by
      unfold s1
      split
      · exact h
      · exact h.modCore _
    have h2 : MemoryOk s2 := by
      unfold s2
      split
      · exact h1.keepVersion _ _
      · refine MemoryOk.cacheTmr ?_ _ _
        split
        · exact h1.keepVersion _ _
        · exact h1
      · exact h1
    have h3 : MemoryOk s3 := by
      unfold s3
      split
      · exact h2.enter _ _ _ _ _ _
      · exact (h2.enter _ _ _ _ _ _).modCore _
    have h4 : MemoryOk s4 := by
      unfold s4
      split
      · exact h3.finishEntry _ _ _
      · exact h3
    change MemoryOk (if _ then _ else _)
    split
    · exact h4
    · exact h4.replay _

section
variable {s : State} (h : MemoryOk s)
include h

theorem MemoryOk.cissue (hdr : Hdr) (c : CCmd) (r : Fin 16) (o : BitVec 16) (n : Nat) : OutOk (s.cissue hdr c r o n) := by
  unfold State.cissue
  dsimp only
  refine MemoryOk.issue h _ _ _ _ _ (fun t1 h2 => ?_)
  split
  · exact h
  · split
    · exact h
    · split
      · exact h.logSram _ _
      · split
        · exact h.issueTmrTouch _ _
        · split
          · exact h
          · split
            · exact h.freeWord
            · split
              · split
                · exact MemoryOk.commandEffect h2 h _ _ _ _ _
                · exact h.issueTmrTouch _ _
              · split
                · split
                  · exact MemoryOk.commandEffect h2 h _ _ _ _ _
                  · exact h
                · exact MemoryOk.commandEffect (h2.issueTmrTouch _ _) h _ _ _ _ _

theorem MemoryOk.cwindow (hdr : Hdr) (c : CCmd) : OutOk (s.cwindow hdr c) := by
  unfold State.cwindow
  refine MemoryOk.issue h _ _ _ _ _ (fun t1 h2 => ?_)
  split
  · exact h
  · split
    · exact h
    · split
      · exact h
      · exact MemoryOk.commandEffect h2 h _ _ _ _ _

end

/-! ### Transfers -/

theorem MovesOk.map {α β : Type} {get : α → State} {get' : β → State} {r : Except Stop α} (h : MovesOk get r) (f : α → β)
    (hf : ∀ a, MemoryOk (get a) → MemoryOk (get' (f a))) : MovesOk get' (r.map f) := by
  cases r with
  | error e => exact h
  | ok a => exact hf a h

theorem MovesOk.bind {α β : Type} {get : α → State} {get' : β → State} {r : Except Stop α} (h : MovesOk get r)
    (f : α → Except Stop β)
    (hf : ∀ a, MemoryOk (get a) → MovesOk get' (f a)) : MovesOk get' (r.bind f) := by
  cases r with
  | error e => exact h
  | ok a => exact hf a h

theorem MovesOk.mapError {α : Type} {get : α → State} {r : Except Stop α} (h : MovesOk get r) (f : Stop → Stop)
    (hf : ∀ e, e.Keeps → (f e).Keeps) : MovesOk get (r.mapError f) := by
  cases r with
  | error e => exact hf e h
  | ok a => exact h

theorem Stop.Keeps.under {e : Stop} (h : e.Keeps) (ms : List Move) : (e.under ms).Keeps := by
  cases e with
  | wait f => exact h
  | fault f t made => exact h

theorem MovesOk.of_eq {α : Type} {get : α → State} {r r' : Except Stop α} (h : MovesOk get r) (e : r = r') : MovesOk get r' :=
  e ▸ h

theorem movesOk_fault {α : Type} {get : α → State} {t : TrapInfo} : MovesOk get (.error (.fault id t)) :=
  fun _ ht => ht

theorem movesOk_ite {α : Type} {get : α → State} {c : Prop} [Decidable c] {x y : Except Stop α} (hx : MovesOk get x)
    (hy : MovesOk get y) :
    MovesOk get (if c then x else y) := by
  split
  · exact hx
  · exact hy

theorem movesOk_wait {α : Type} {get : α → State} : MovesOk get (.error (.wait id)) :=
  fun _ ht => ht

theorem Stop.Keeps.past {s : State} (hs : MemoryOk s) {e : Stop} (h : e.Keeps) : (e.past s).Keeps := by
  cases e with
  | wait f => exact fun _ _ => h s hs
  | fault f t made => exact fun _ _ => h s hs

section
variable {s : State} (h : MemoryOk s)
include h

theorem MemoryOk.reachC (va : Nat) (n : Nat) (write : Bool) : (s.reachC va n write).Keeps := by
  unfold State.reachC
  split
  · intro t1 h2
    exact h2
  · exact MemoryOk.accessAt h _ _ _ _

theorem MemoryOk.takeBack (r : Req) (ks : List Nat) : MemoryOk (s.takeBack r ks) := by
  unfold State.takeBack
  dsimp only
  split
  · exact h
  · refine MemoryOk.sendInvals ?_ _ _ _ _ _
    refine foldl_keeps (P := MemoryOk) (fun t1 x2 h3 => ?_) _ _ ?_
    · exact h3.recallWord _
    · exact h

theorem MemoryOk.readyC (r : Req) (ks : List Nat) (write : Bool) : MemoryOk (s.readyC r ks write) := by
  unfold State.readyC
  dsimp only
  refine MemoryOk.applyWords ?_ _ _ _ _
  refine MemoryOk.modCore ?_ _
  split
  · refine MemoryOk.takeBack ?_ _ _
    split
    · exact h.obtainHost _ _
    · exact (h.obtainHost _ _).modDir _ _
  · refine MemoryOk.takeBack ?_ _ _
    split
    · exact h.obtainHost _ _
    · exact (h.obtainHost _ _).modDir _ _

end

theorem MemoryOk.readPiece {s : State} (h : MemoryOk s) (j : JEntry) (va n : Nat) :
    MovesOk (fun r => r.2.2) (s.readPiece j va n) := by
  unfold State.readPiece
  have hr := h.reachC va n false
  split
  · rename_i f t e
    exact (congrArg Acc.Keeps e).mp hr
  · rename_i f e
    exact (congrArg Acc.Keeps e).mp hr
  · rename_i s' e
    have h' : MemoryOk s' := (congrArg Acc.Keeps e).mp hr
    split
    · exact movesOk_fault
    · exact memoryOk_mk h'
  · rename_i a s' e
    have h' : MemoryOk s' := (congrArg Acc.Keeps e).mp hr
    dsimp only
    split
    · exact movesOk_wait
    · split
      · exact fun t ht => ht.snoopFor _ _
      · split
        · exact fun t ht => (ht.readDecode _).logConsumed _ _ _
        · exact ((((h'.readyC _ _ _).readDecode _).noteRead _).refreshWords _ _)

theorem MemoryOk.writePiece {s : State} (h : MemoryOk s) (j : JEntry) (va : Nat) (bs : List Byte) (tag : Option (Nat × Nat)) :
    MovesOk id (s.writePiece j va bs tag) := by
  unfold State.writePiece
  have hr := h.reachC va bs.length true
  split
  · rename_i f t e
    exact (congrArg Acc.Keeps e).mp hr
  · rename_i f e
    exact (congrArg Acc.Keeps e).mp hr
  · rename_i s' e
    have h' : MemoryOk s' := (congrArg Acc.Keeps e).mp hr
    split
    · exact movesOk_fault
    · exact memoryOk_mk h'
  · rename_i a s' e
    have h' : MemoryOk s' := (congrArg Acc.Keeps e).mp hr
    dsimp only
    split
    · exact movesOk_wait
    · split
      · exact fun t ht => ht.snoopFor _ _
      · split
        · intro t ht
          dsimp only
          split
          · exact ht.tmrSnoop _ _
          · exact ht
        · split
          · change MemoryOk (if _ then _ else _)
            split
            · exact (h'.readyC _ _ _).applyWords _ _ _ _
            · exact ((h'.readyC _ _ _).applyWords _ _ _ _).updateTmr _ _ _
          · exact (h'.readyC _ _ _).applyWords _ _ _ _

theorem Core.readPool_moves {s : State} (h : MemoryOk s) (k : Core) (o n : Nat) : MovesOk (fun _ => s) (k.readPool o n) := by
  unfold Core.readPool
  split
  · exact fun t ht => ht.logSram _ _
  · exact h

theorem MemoryOk.readSpan {s : State} (h : MemoryOk s) (j : JEntry) (x : Span) : MovesOk (fun r => r.2.2) (s.readSpan j x) := by
  unfold State.readSpan
  split
  · exact (Core.readPool_moves h _ _ _).map _ (fun _ _ => h)
  · split
    · exact (Core.readPool_moves h _ _ _).map _ (fun _ _ => h)
    · refine foldl_keeps (P := MovesOk (fun r : List Byte × List (BitVec 4) × State => r.2.2)) (fun r p hr => ?_) _ _ h
      cases r with
      | error e => exact hr
      | ok q => exact (MemoryOk.readPiece hr j _ _).map _ (fun _ ha => ha)

theorem MemoryOk.writeSpan {s : State} (h : MemoryOk s) (j : JEntry) (x : Span) (bs : List Byte) (tag : Option (Nat × Nat)) :
    MovesOk id (s.writeSpan j x bs tag) := by
  unfold State.writeSpan
  split
  · exact h.modCore _
  · split
    · exact h.modCoreAt _ _
    · refine MovesOk.map (get := fun r => r.1) ?_ _ (fun _ ha => ha)
      refine foldl_keeps (P := MovesOk (fun r : State × List Byte => r.1)) (fun r p hr => ?_) _ _ h
      cases r with
      | error e => exact hr
      | ok q => exact (MemoryOk.writePiece hr j _ _ _).map _ (fun _ ha => ha)

theorem MemoryOk.move {s : State} (h : MemoryOk s) (j : JEntry) (m : Move) (tag : Option (Nat × Nat)) :
    MovesOk (fun q => q.1) (s.move j m tag) := by
  unfold State.move
  have hr : MovesOk (fun r : List Byte × State => r.2) (m.reads.foldl (fun (r : Except Stop (List Byte × State)) x =>
      match r with
      | .error e => .error e
      | .ok (bs, s) => (s.readSpan j x).map (fun q => (bs ++ q.1, q.2.2))) (.ok ([], s))) := by
    refine foldl_keeps (fun r x hr => ?_) _ _ h
    cases r with
    | error e => exact hr
    | ok q => exact (MemoryOk.readSpan hr j _).map _ (fun _ ha => ha)
  split
  · rename_i e he
    exact hr.of_eq he
  · rename_i bs t he
    have ht : MemoryOk t := hr.of_eq he
    refine MovesOk.map (get := fun r => r.1) ?_ _ (fun _ ha => ha)
    refine foldl_keeps (P := MovesOk (fun r : State × List Byte => r.1)) (fun r x hr => ?_) _ _ ht
    cases r with
    | error e => exact hr
    | ok q => exact (MemoryOk.writeSpan hr j _ _ _).map _ (fun _ ha => ha)

theorem MemoryOk.moves {s : State} (h : MemoryOk s) (j : JEntry) (ms : List Move) (tag : Option (Nat × Nat)) :
    MovesOk (fun q => q.1) (s.moves j ms tag) := by
  unfold State.moves
  refine foldl_keeps (P := MovesOk (fun q : State × Flags => q.1)) (fun r m hr => ?_) _ _ h
  cases r with
  | error e => exact hr
  | ok q => exact (MemoryOk.move hr j m tag).map _ (fun _ ha => ha)

theorem MemoryOk.movesUpTo {s : State} (h : MemoryOk s) (j : JEntry) (tag : Option (Nat × Nat)) (ms : List Move) (n : Nat) :
    MemoryOk (s.movesUpTo j tag ms n) := by
  induction ms generalizing s n with
  | nil => exact h
  | cons m ms ih =>
    unfold State.movesUpTo
    split
    · exact h
    · split
      · rename_i t fl e
        exact ih (MovesOk.of_eq (h.move j m tag) e) _
      · exact h

theorem MemoryOk.tmrFor {s : State} (h : MemoryOk s) (idx : Nat) : MovesOk (fun _ => s) (s.tmrFor idx) := by
  unfold State.tmrFor
  split
  · exact fun t ht => ht.tmrTouch _ _ _
  · cases s.tmrLoad s.taskCtx idx with
    | ok t => exact h
    | error t => exact fun t ht => ht.tmrTouch _ _ _

theorem MemoryOk.resolveRuns {s : State} (h : MemoryOk s) (j : JEntry) (idx : Nat) (xs : List Span) :
    MovesOk (fun q => q.2) (s.resolveRuns j idx xs) := by
  unfold State.resolveRuns
  refine (h.tmrFor idx).bind _ (fun t _ => ?_)
  refine MovesOk.map (get := fun q => q.2) ?_ _ (fun _ ha => ha)
  refine foldl_keeps (P := MovesOk (fun q : Option Nat × State => q.2)) (fun r p hr => ?_) _ _ h
  cases r with
  | error e => exact hr
  | ok q =>
    obtain ⟨v, s1⟩ := q
    have h1 : MemoryOk s1 := hr
    have hp := h1.readPiece j p.1 p.2
    dsimp only
    split
    · rename_i e he
      exact hp.of_eq he
    · rename_i tag s2 he
      have h2 : MemoryOk s2 := hp.of_eq he
      split
      · exact movesOk_fault
      · exact h2
      · split
        · exact h2
        · exact movesOk_fault

theorem MemoryOk.decodeScale {s : State} (h : MemoryOk s) (j : JEntry) : MovesOk (fun _ => s) (s.decodeScale j) := by
  unfold State.decodeScale
  dsimp only
  split
  · rename_i e he
    exact (h.tmrFor _).of_eq he
  · rename_i e he _
    exact (h.resolveRuns _ _ _).of_eq he
  · split
    · exact movesOk_fault
    · exact h

theorem MemoryOk.resolveDecode {s : State} (h : MemoryOk s) (j : JEntry) : MovesOk (fun q => q.2.2) (s.resolveDecode j) := by
  unfold State.resolveDecode
  refine (h.decodeScale j).bind _ (fun q _ => ?_)
  exact ((h.resolveRuns _ _ _).map _ (fun _ ha => MemoryOk.cacheTmr ha _ _)).mapError _ (fun _ he => Stop.Keeps.under he _)

theorem MemoryOk.agree {s : State} (h : MemoryOk s) (j : JEntry) (ext : List CollPart) : MovesOk (fun q => q.2)
    (s.agree j ext) := by
  unfold State.agree
  refine (h.tmrFor _).bind _ (fun t _ => ?_)
  have hp := h.policyTouch s.taskCtx (Tmr.policy t)
  split
  · exact fun t ht => ht.policyTouch _ _
  · dsimp only
    split
    · split
      · exact hp
      · exact movesOk_wait
    · split
      · exact movesOk_fault
      · split
        · exact fun t ht => ht.tmrSnoop _ _
        · split
          · exact (hp.setTmr _ _ _).modCore _
          · exact fun _ _ => (hp.setTmr _ _ _).modCore _

/-- A stop met after a state that stands, where there is one. -/
theorem movesOk_past {α : Type} {get : α → State} {s : State} (h : MemoryOk s) {r : Except Stop α} (hr : MovesOk get r)
    (narrow : Bool) :
    MovesOk get (if narrow then r.mapError (Stop.past s) else r) := by
  split
  · exact hr.mapError _ (fun _ he => Stop.Keeps.past h he)
  · exact hr

theorem MemoryOk.collective {s : State} (h : MemoryOk s) (j : JEntry) (op : CollOp) (ext : List CollPart) :
    MovesOk (fun q => q.1) (s.collective j op ext) := by
  unfold State.collective
  extract_lets d n group others narrow idx agreed past ty w
  refine movesOk_ite movesOk_fault ?_
  refine movesOk_ite movesOk_wait ?_
  refine movesOk_ite movesOk_fault ?_
  have ha : MovesOk (fun r : Option Nat × State => r.2) agreed :=
    movesOk_ite ((h.agree j ext).map _ (fun _ ha => ha)) h
  clear_value agreed
  split
  · exact ha
  · rename_i v s1
    have h1 : MemoryOk s1 := ha
    extract_lets s2 sc
    have h2 : MemoryOk s2 := by
      unfold s2
      split
      · exact h1.cacheTmr _ _
      · exact h1
    clear_value s2
    split
    · exact h2
    · refine movesOk_past h2 ?_ _
      split
      · rename_i e he
        exact (h2.readSpan j _).of_eq he
      · rename_i bs _ s3 he
        have h3 : MemoryOk s3 := (h2.readSpan j _).of_eq he
        exact (MemoryOk.writeSpan (memoryOk_mk h3) j _ _ _).map _ (fun _ ha => ha)

theorem MemoryOk.sendMessage {s : State} (h : MemoryOk s) (j : JEntry) : MovesOk id (s.sendMessage j) := by
  unfold State.sendMessage
  dsimp only
  split
  · exact fun t ht => ht.freeWord
  · exact (h.readSpan j _).map _ (fun _ ha => memoryOk_mk ha)

theorem MemoryOk.recvMessage {s : State} (h : MemoryOk s) (j : JEntry) : MovesOk id (s.recvMessage j) := by
  unfold State.recvMessage
  extract_lets d
  split
  · extract_lets drop data
    refine movesOk_ite ?_ ?_
    · show ∀ t, MemoryOk t → MemoryOk _
      exact fun t ht => memoryOk_mk ht
    · exact (h.writeSpan j _ _ _).map _ (fun _ ha => memoryOk_mk ha)
  · split
    · exact fun t ht => ht.freeWord
    · exact movesOk_wait

theorem MemoryOk.preloadCode {s : State} (h : MemoryOk s) (j : JEntry) : MovesOk id (s.preloadCode j) := by
  unfold State.preloadCode
  dsimp only
  have hp := h.readSpan j { space := 1, addr := du j.desc 0 8, len := 256 }
  split
  · exact h
  · split
    · rename_i e he
      exact hp.of_eq he
    · rename_i hd s1 he
      have h1 : MemoryOk s1 := hp.of_eq he
      split
      · exact movesOk_fault
      · refine (h1.readSpan j _).map _ (fun q hq => ?_)
        split
        · exact hq
        · exact MemoryOk.modCoreAt hq _ _

section
variable {s : State} (h : MemoryOk s)
include h

theorem MemoryOk.prefetch (j : JEntry) : MemoryOk (s.prefetch j) := by
  unfold State.prefetch
  dsimp only
  refine foldl_keeps (P := MemoryOk) (fun t1 x2 h3 => ?_) _ _ ?_
  · split
    · rename_i x6 e7
      have k8 : MemoryOk x6 := (congrArg Acc.Keeps e7).mp (h3.reachC _ _ _)
      split
      · exact h3
      · split
        · exact h3
        · exact (k8.readDecode _).noteRead _
    · exact h3
  · exact h

end

theorem MemoryOk.flushLines {s : State} (h : MemoryOk s) (j : JEntry) (xs : List Span) : MovesOk id (s.flushLines j xs) := by
  unfold State.flushLines
  refine foldl_keeps (P := MovesOk id) (fun r p hr => ?_) _ _ h
  cases r with
  | error e => exact hr
  | ok s1 =>
    have h1 : MemoryOk s1 := hr
    have hc := h1.reachC p.1 p.2 false
    dsimp only
    split
    · rename_i f t e
      exact (congrArg Acc.Keeps e).mp hc
    · rename_i f e
      exact (congrArg Acc.Keeps e).mp hc
    · rename_i s2 e
      exact (congrArg Acc.Keeps e).mp hc
    · rename_i a s2 e
      have h2 : MemoryOk s2 := (congrArg Acc.Keeps e).mp hc
      split
      · exact movesOk_wait
      · exact h2.modDir _ _

theorem MemoryOk.firstPass {s : State} (h : MemoryOk s) (j : JEntry) : MovesOk id (s.firstPass j) := by
  unfold State.firstPass
  dsimp only
  split
  · exact h
  · refine (h.tmrFor _).bind _ (fun t _ => ?_)
    split
    · exact fun t ht => ht.policyTouch _ _
    · split
      · exact fun t ht => ht.tmrSnoop _ _
      · split
        · exact fun t ht => ht.feed _ _
        · exact ((h.policyTouch _ _).cacheTmr _ _).feed _ _

/-- Moves under a scale, those made before a fault standing. -/
theorem MemoryOk.scaledMoves {s : State} (h : MemoryOk s) (j : JEntry) (ms : List Move) (tag o : Option (Nat × Nat)) :
    MovesOk (fun q => q.1) (((s.moves j ms tag).map (fun q => (q.1, q.2, o))).mapError (Stop.under ms)) := by
  refine MovesOk.mapError (MovesOk.map (h.moves j ms tag) _ ?_) _ ?_
  · exact fun _ ha => ha
  · exact fun _ he => Stop.Keeps.under he _

theorem MemoryOk.performBody {s : State} (h : MemoryOk s) (j : JEntry) (ext : List CollPart) :
    MovesOk (fun q => q.1) (s.performBody j ext) := by
  unfold State.performBody
  dsimp only
  split
  · split
    · split
      · rename_i e he
        have hk : e.Keeps := (h.resolveRuns _ _ _).of_eq he
        exact Stop.Keeps.under hk _
      · rename_i v t he
        have ht : MemoryOk t := (h.resolveRuns _ _ _).of_eq he
        exact ht.scaledMoves _ _ _ _
    · exact h.scaledMoves _ _ _ _
  · split
    · split
      · rename_i e he
        exact (h.resolveDecode _).of_eq he
      · rename_i sc t he
        have ht : MemoryOk t := (h.resolveDecode _).of_eq he
        exact ht.scaledMoves _ _ _ _
    · split
      · split
        · rename_i e he
          exact (h.firstPass _).of_eq he
        · rename_i t he
          have ht : MemoryOk t := (h.firstPass _).of_eq he
          exact ht.scaledMoves _ _ _ _
      · exact h.scaledMoves _ _ _ _
  · exact h.scaledMoves _ _ _ _
  · exact h.scaledMoves _ _ _ _
  · exact h.scaledMoves _ _ _ _
  · exact h.scaledMoves _ _ _ _
  · exact h.scaledMoves _ _ _ _
  · exact h.scaledMoves _ _ _ _
  · exact h.scaledMoves _ _ _ _
  · split
    · exact movesOk_wait
    · exact h
  · exact (h.sendMessage j).map _ (fun _ ha => ha)
  · exact (h.recvMessage j).map _ (fun _ ha => ha)
  · exact h.collective _ _ _
  · exact h.prefetch j
  · exact (h.preloadCode j).map _ (fun _ ha => ha)
  · exact (h.flushLines j _).map _ (fun _ ha => ha)

theorem MemoryOk.performEntry {s : State} (h : MemoryOk s) (j : JEntry) (ext : List CollPart) :
    MovesOk (fun q => q.1) (s.performEntry j ext) := by
  unfold State.performEntry
  split
  · exact fun t ht => ht.logSram _ _
  · exact h.performBody _ _

/-- One piece's moves, where the transfer has such a piece. -/
theorem MemoryOk.pieceMoves {s : State} (h : MemoryOk s) (j : JEntry) (ms : Option (List Move)) (tag : Option (Nat × Nat))
    (v : Option Nat) :
    MovesOk (fun q => q.1)
      (match ms with
        | some ms => (s.moves j ms tag).map (fun q => (q.1, q.2, v))
        | none => .error (.wait id)) := by
  cases ms with
  | some ms => exact (h.moves _ _ _).map _ (fun _ ha => ha)
  | none => exact movesOk_wait

theorem MemoryOk.performPiece {s : State} (h : MemoryOk s) (j : JEntry) (k : Nat) : MovesOk (fun q => q.1)
    (s.performPiece j k) := by
  unfold State.performPiece
  dsimp only
  split
  · split
    · exact (h.resolveRuns _ _ _).bind _ (fun q hq => MemoryOk.pieceMoves hq _ _ _ _)
    · exact h.pieceMoves _ _ _ _
  · split
    · exact (h.decodeScale j).bind _ (fun q _ => (h.resolveRuns _ _ _).bind _ (fun q hq => MemoryOk.pieceMoves hq _ _ _ _))
    · split
      · exact (h.firstPass j).bind _ (fun t ht => MemoryOk.pieceMoves ht _ _ _ _)
      · exact h.pieceMoves _ _ _ _
  · exact h.pieceMoves _ _ _ _
  · exact h.pieceMoves _ _ _ _
  · exact h.pieceMoves _ _ _ _
  · exact h.pieceMoves _ _ _ _
  · exact h.pieceMoves _ _ _ _
  all_goals exact movesOk_wait

section
variable {s : State} (h : MemoryOk s)
include h

theorem MemoryOk.transferTrap (j : JEntry) (t : TrapInfo) : MemoryOk (s.transferTrap j t) := by
  unfold State.transferTrap
  dsimp only
  split
  · exact h.modCore _
  · exact ((h.modCore _).takeTrap _ _ _).modCore _

theorem MemoryOk.before (j : JEntry) : MemoryOk (s.before j) :=
  h.facing _ _

theorem MemoryOk.beside (s0 : State) (j : JEntry) : MemoryOk (s.beside s0 j) :=
  h.faced _ _ _

end

theorem MemoryOk.makePiece {s : State} (h : MemoryOk s) (core entry k : Nat) : MemoryOk (s.makePiece core entry k) := by
  unfold State.makePiece
  refine h.onCore _ _ (fun t ht => ?_)
  have ht' := ht.sampleCycle
  dsimp only
  split
  · exact ht'
  · rename_i j _
    split
    · exact ht'
    · have hp := (ht'.before j).performPiece j k
      split
      · rename_i f he
        have hf : ∀ t, MemoryOk t → MemoryOk (f t) := hp.of_eq he
        exact hf _ ht'
      · exact ht'
      · rename_i t' fl v he
        have h2 : MemoryOk t' := hp.of_eq he
        exact (h2.beside _ _).modCore _

theorem MemoryOk.transferComplete {s : State} (h : MemoryOk s) (core entry : Nat) (ext : List CollPart) :
    MemoryOk (s.transferComplete core entry ext) := by
  unfold State.transferComplete
  refine h.onCore _ _ (fun t ht => ?_)
  have ht' := ht.sampleCycle
  dsimp only
  split
  · exact ht'
  · rename_i j _
    split
    · split
      · exact ht'
      · exact ht'.finishEntry _ _ _
    · have hp := (ht'.before j).performEntry j ext
      split
      · rename_i f he
        have hf : ∀ t, MemoryOk t → MemoryOk (f t) := hp.of_eq he
        exact hf _ ht'
      · rename_i f x ms he
        have hf : ∀ t, MemoryOk t → MemoryOk (f t) := hp.of_eq he
        split
        · exact (hf _ ht').transferTrap _ _
        · exact ht'
      · rename_i t' fl offer he
        have h2 : MemoryOk t' := hp.of_eq he
        split
        · split
          · exact (h2.beside _ _).transferTrap _ _
          · exact ht'
        · split
          · exact (h2.beside _ _).holdEntry _ _ _
          · exact (h2.beside _ _).finishEntry _ _ _

theorem MemoryOk.transferFault {s : State} (h : MemoryOk s) (core entry doneBytes : Nat) :
    MemoryOk (s.transferFault core entry doneBytes) := by
  unfold State.transferFault
  refine h.onCore _ _ (fun t ht => ?_)
  have ht' := ht.sampleCycle
  dsimp only
  split
  · exact ht'
  · rename_i j _
    have hm := fun (tag : Option (Nat × Nat)) ms n => ((ht'.before j).movesUpTo j tag ms n).beside t.sampleCycle j
    split
    · split
      · exact ht'.transferTrap _ _
      · exact ht'
    · have hp := (ht'.before j).performEntry j []
      split
      · rename_i f x made he
        have hf : ∀ t, MemoryOk t → MemoryOk (f t) := hp.of_eq he
        exact (hf _ (hm _ _ _)).transferTrap _ _
      · rename_i t' fl offer he
        have h2 : MemoryOk t' := hp.of_eq he
        split
        · exact (h2.beside _ _).transferTrap _ _
        · split
          · exact (MemoryOk.freeWord (hm _ _ _)).transferTrap _ _
          · exact ht'
      · rename_i f he
        have hf : ∀ t, MemoryOk t → MemoryOk (f t) := hp.of_eq he
        split
        · exact (MemoryOk.freeWord (hm _ _ _)).transferTrap _ _
        · exact hf _ ht'

theorem MemoryOk.feedWalk {s : State} (h : MemoryOk s) (e : Engine) (o : ObjectInfo) (off first n : Nat) :
    MemoryOk (s.feedWalk e o off first n) :=
  foldl_keeps (P := MemoryOk) (fun _ _ ht => ht.walked _ _ _) _ _ h

theorem MemoryOk.codeFeed {s : State} (h : MemoryOk s) (core : Nat) (e : Engine) : MemoryOk (s.codeFeed core e) := by
  unfold State.codeFeed
  refine h.onCore _ _ (fun t ht => ?_)
  extract_lets c inTrap r slots len off pc read
  have hread : ∀ r first n base, MemoryOk (read r first n base) := by
    intro r first n base
    unfold read
    split
    · split
      · exact ht
      · exact ht.setCore _
    · split
      · exact ht.unitTouch _ _ _
      · have hw := ((ht.feedWalk e c.obj off first n).unitTouch c.obj.ctx (c.obj.addr + off + 8 * first) (8 * n)).modCore
          (fun c => { c with feeds := c.feeds.erase e })
        dsimp only
        split
        · exact hw
        · split
          · exact hw.modCore _
          · exact (hw.modEng _ _).modCore _
  clear_value read
  split
  · exact ht
  split
  · exact hread _ _ _ _
  split
  · exact hread _ _ _ _
  · exact ht.setCore _

/-! ### The fabric -/

section
variable {s : State} (h : MemoryOk s)
include h

theorem MemoryOk.logPort (port : Nat) (type : Nat) : MemoryOk (s.logPort port type) :=
  h.logError _ _

theorem MemoryOk.blockReceive (port : Nat) (mtag : Nat) (len : Nat) (block : List Byte) :
    MemoryOk (s.blockReceive port mtag len block) := by
  unfold State.blockReceive
  split
  · exact h
  · split
    · exact h
    · split
      · exact memoryOk_mk h
      · split
        · exact h.logPort _ _
        · exact memoryOk_mk h

theorem MemoryOk.linkDown (port : Nat) : MemoryOk (s.linkDown port) := by
  unfold State.linkDown
  dsimp only
  split
  · exact h
  · exact (memoryOk_mk h).logPort _ _

theorem MemoryOk.portTraining (port : Nat) (partner : Nat) : MemoryOk (s.portTraining port partner) := by
  unfold State.portTraining
  dsimp only
  split
  · exact h
  · exact memoryOk_mk h

end

/-! ### Scopes, queues and launches -/

section
variable {s : State} (h : MemoryOk s)
include h

theorem MemoryOk.scopeDone (ctx : Nat) (n : Nat) : MemoryOk (s.scopeDone ctx n) :=
  (memoryOk_mk h).triggerScope _ _

end

theorem MemoryOk.completeScopes {s : State} (h : MemoryOk s) (ctx n fuel : Nat) : MemoryOk (s.completeScopes ctx n fuel) := by
  induction fuel generalizing s n with
  | zero => exact h
  | succ fuel ih =>
    unfold State.completeScopes
    dsimp only
    split
    · exact ih ((h.setCtx _ _).scopeDone _ _) _
    · exact h

section
variable {s : State} (h : MemoryOk s)
include h

theorem MemoryOk.closeScope (ctx : Nat) (n : Nat) : MemoryOk (s.closeScope ctx n) :=
  (h.setCtx _ _).completeScopes _ _ _

theorem MemoryOk.leaveScope (t : Machine.Task) : MemoryOk (s.leaveScope t) :=
  (h.setCtx _ _).completeScopes _ _ _

theorem MemoryOk.enqueueTask (q : Nat) (r : List Byte) (issuer : Option Nat) : MemoryOk (s.enqueueTask q r issuer).1 :=
  (h.fresh.setCtx _ _).setTask _ _

theorem MemoryOk.enqueue (q : Nat) (r : List Byte) (issuer : Option Nat) : MemoryOk (s.enqueue q r issuer).1 := by
  unfold State.enqueue
  dsimp only
  split
  · exact h.enqueueTask _ _ _
  · exact h.setCtx _ _
  · exact h.closeScope _ _
  · exact h.setCtx _ _
  · exact h.setCtx _ _

theorem MemoryOk.refusedWrite (m : Master) : MemoryOk (s.refusedWrite m) := by
  unfold State.refusedWrite
  split
  · split
    · exact h.refuseRecord _ _ _
    · exact h
  · exact h

theorem MemoryOk.managed (m : Master) (block : Nat) (f : State → State) (hf : ∀ t0, MemoryOk t0 → MemoryOk (f t0)) :
    MemoryOk (s.managed m block f) := by
  unfold State.managed
  split
  · exact hf _ h
  · exact h.refusedWrite _

theorem MemoryOk.offered (m : Master) (block : Nat) (f : State → State) (hf : ∀ t0, MemoryOk t0 → MemoryOk (f t0)) :
    MemoryOk (s.offered m block f) := by
  unfold State.offered
  split
  · exact hf _ h
  · exact h.refusedWrite _

theorem MemoryOk.queueWrite (m : Master) (q : Nat) (f : State → State) (hf : ∀ t0, MemoryOk t0 → MemoryOk (f t0)) :
    MemoryOk (s.queueWrite m q f) := by
  unfold State.queueWrite
  split
  · split
    · exact hf _ h
    · exact h
  · exact h.managed _ _ _ hf

theorem MemoryOk.prodWrite (q : Nat) (v : Nat) : MemoryOk (s.prodWrite q v) := by
  unfold State.prodWrite
  dsimp only
  split
  · exact h
  · exact h.setQueue _ _

theorem MemoryOk.ringSlot (q : Nat) : MemoryOk (s.ringSlot q).2 := by
  unfold State.ringSlot
  dsimp only
  split
  · exact h.logError _ _
  · split
    · dsimp only
      refine MemoryOk.logError ?_ _ _
      refine foldl_keeps (P := MemoryOk) (fun t1 x2 h3 => ?_) _ _ ?_
      · exact h3.readDecode _
      · exact h
    · dsimp only
      refine foldl_keeps (P := MemoryOk) (fun t4 x5 h6 => ?_) _ _ ?_
      · exact h6.readDecode _
      · exact h

theorem MemoryOk.feedQueue (q : Nat) (want : Option Nat → Bool) : MemoryOk (s.feedQueue q want) := by
  unfold State.feedQueue
  dsimp only
  split
  · exact h
  · split
    · refine foldl_keeps (P := MemoryOk) (fun t1 x2 h3 => ?_) _ _ ?_
      · exact h3.snoopFor _ _
      · exact h
    · split
      · exact h
      · split
        · exact ((h.ringSlot _).setQueue _ _).postEvent _ _ _ _ _ _
        · split
          · exact ((h.ringSlot _).setQueue _ _).postEvent _ _ _ _ _ _
          · exact ((h.ringSlot _).setQueue _ _).enqueue _ _ _

theorem MemoryOk.evconsWrite (q : Nat) (v : Nat) : MemoryOk (s.evconsWrite q v) :=
  memoryOk_mk (h.setQueue _ _)

end

theorem MemoryOk.sluiceOp {s : State} (h : MemoryOk s) (hd : Hdr) (rs : List (Fin 32)) (eff : State → Res)
    (heff : ∀ t, MemoryOk t → (eff t).Keeps s) : OutOk (s.sluiceOp hd rs eff) :=
  MemoryOk.issue h _ _ _ _ _ heff

section
variable {s : State} (h : MemoryOk s)
include h

theorem MemoryOk.answer {u : State} (hu : MemoryOk u) (d : Fin 32) (w : Word64) : (s.answer d w).Keeps u :=
  h.setCore _

theorem MemoryOk.deviceEnqueue (q : Nat) (r : List Byte) : MemoryOk (s.deviceEnqueue q r).1 := by
  unfold State.deviceEnqueue
  dsimp only
  split
  · exact h
  · dsimp only
    refine MemoryOk.enqueue ?_ _ _ _
    split
    · exact h.setQueue _ _
    · exact h

theorem MemoryOk.spill (q : Nat) (n : Nat) (r : List Byte) : MemoryOk (s.spill q n r) := by
  unfold State.spill
  dsimp only
  split
  · exact h
  · exact h.writeNow _ _ _ _

theorem MemoryOk.launchInto (q : Nat) (r : List Byte) : MemoryOk (s.launchInto q r).1 := by
  unfold State.launchInto
  dsimp only
  split
  · exact h
  · split
    · exact h
    · dsimp only
      split
      · exact (h.deviceEnqueue _ _).spill _ _ _
      · exact h.deviceEnqueue _ _

theorem MemoryOk.launchRead {u : State} (hu : MemoryOk u) (va : Nat) (k : List Byte → State → Res)
    (hk : ∀ x0 t1, MemoryOk t1 → (k x0 t1).Keeps u) : (s.launchRead va k).Keeps u := by
  unfold State.launchRead
  dsimp only
  refine MemoryOk.withAccess h hu _ _ _ _ _ (fun x1 t2 h3 => ?_)
  refine MemoryOk.withAccess h3 hu _ _ _ _ _ (fun x4 t5 h6 => ?_)
  split
  · change MemoryOk _
    refine foldl_keeps (P := MemoryOk) (fun t7 x8 h9 => ?_) _ _ ?_
    · exact h9.snoopFor _ _
    · exact h6
  · split
    · exact MemoryOk.poisonTrap hu _ _ _
    · split
      · exact MemoryOk.poisonTrap hu _ _ _
      · exact hk _ _ ((h6.readDecode _).readDecode _)

theorem MemoryOk.launch {u : State} (hu : MemoryOk u) (d : Fin 32) (a : Fin 32) (b : Fin 32) : (s.launch d a b).Keeps u := by
  unfold State.launch
  dsimp only
  split
  · exact hu
  · split
    · exact hu
    · split
      · exact h.pushRelease _
      · exact MemoryOk.launchRead h hu _ _ (fun x1 t2 h3 => MemoryOk.answer (h3.launchInto _ _) hu _ _)

theorem MemoryOk.fsopen {u : State} (hu : MemoryOk u) (d : Fin 32) (n : Nat) : (s.fsopen d n).Keeps u := by
  unfold State.fsopen
  dsimp only
  split
  · exact MemoryOk.answer h hu _ _
  · split
    · exact MemoryOk.answer h hu _ _
    · exact MemoryOk.answer (h.setCtx _ _) hu _ _

theorem MemoryOk.fsclose {u : State} (hu : MemoryOk u) (d : Fin 32) (n : Nat) : (s.fsclose d n).Keeps u := by
  unfold State.fsclose
  dsimp only
  split
  · exact MemoryOk.answer h hu _ _
  · exact MemoryOk.answer (h.closeScope _ _) hu _ _

theorem MemoryOk.fswait {u : State} (hu : MemoryOk u) (hdr : Hdr) (d : Fin 32) (a : Fin 32) (n : Nat) :
    (s.fswait hdr d a n).Keeps u := by
  unfold State.fswait
  dsimp only
  split
  · exact MemoryOk.answer h hu _ _
  · exact MemoryOk.answer (h.acquire _) hu _ _
  · split
    · exact MemoryOk.answer h hu _ _
    · exact h.fresh.modCore _

theorem MemoryOk.fstest {u : State} (hu : MemoryOk u) (d : Fin 32) (n : Nat) : (s.fstest d n).Keeps u := by
  unfold State.fstest
  dsimp only
  split
  · exact MemoryOk.answer h hu _ _
  · exact MemoryOk.answer (h.acquire _) hu _ _
  · exact MemoryOk.answer h hu _ _

theorem MemoryOk.unitReply (core : Nat) : MemoryOk (s.unitReply core) := by
  unfold State.unitReply
  dsimp only
  refine MemoryOk.onCore h _ _ (fun t1 h2 => ?_)
  split
  · exact h2
  · split
    · exact h2
    · refine MemoryOk.finishSig ?_ _ _
      refine MemoryOk.modCore ?_ _
      split
      · exact h2.acquire _
      · exact h2

end

theorem MemoryOk.qctl {s : State} (h : MemoryOk s) (hd : Hdr) (d a b : Fin 32) (eff : Nat → Word64 → State → State × Word64)
    (heff : ∀ q v t, MemoryOk t → MemoryOk (eff q v t).1) : OutOk (s.qctl hd d a b eff) := by
  unfold State.qctl
  refine MemoryOk.issue h _ _ _ _ _ (fun t ht => ?_)
  dsimp only
  split
  · exact MemoryOk.answer ht h _ _
  · exact MemoryOk.answer (heff _ _ _ ht) h _ _

section
variable {s : State} (h : MemoryOk s)
include h

theorem MemoryOk.qctlEnqueue (q : Nat) (r : List Byte) : MemoryOk (s.qctlEnqueue q r).1 := by
  unfold State.qctlEnqueue
  dsimp only
  split
  · exact h
  · split
    · exact h
    · exact h.deviceEnqueue _ _

end

/-! ### Placement -/

section
variable {s : State} (h : MemoryOk s)
include h

theorem MemoryOk.putLock (p : PageLock) (on : Bool) : MemoryOk (s.putLock p on) :=
  h.putWords _ _ _

theorem MemoryOk.takeLock (p : PageLock) : MemoryOk (s.takeLock p) :=
  (h.putLock _ _).dropTlb _

theorem MemoryOk.awaitPages (id : Nat) (ps : List (Nat × Nat)) : MemoryOk (s.awaitPages id ps) := by
  unfold State.awaitPages
  dsimp only
  split
  · exact h
  · exact h.setTask _ _

theorem MemoryOk.serveAsk (id : Nat) (x : Nat × Nat × Nat) : MemoryOk (s.serveAsk id x) := by
  unfold State.serveAsk
  dsimp only
  split
  · exact h
  · split
    · exact h
    · split
      · exact h.setTask _ _
      · split
        · split
          · exact h.setTask _ _
          · exact h.setTask _ _
        · split
          · exact h.setTask _ _
          · exact ((h.takeLock _).setTask _ _).postEvent _ _ _ _ _ _

theorem MemoryOk.serveAsks : MemoryOk (s.serveAsks) := by
  unfold State.serveAsks
  split
  · refine foldl_keeps (P := MemoryOk) (fun t1 x2 h3 => ?_) _ _ ?_
    · exact h3.serveAsk _ _
    · exact h
  · exact h

theorem MemoryOk.walkAll (ws : List (Nat × Nat)) : MemoryOk (s.walkAll ws) := by
  unfold State.walkAll
  refine foldl_keeps (P := MemoryOk) (fun t1 x2 h3 => ?_) _ _ ?_
  · exact h3.walked _ _ _
  · exact h

theorem MemoryOk.hotTouch (t : Machine.Task) : MemoryOk (s.hotTouch t) := by
  unfold State.hotTouch
  split
  · exact h
  · exact h.unitTouch _ _ _

end

theorem MemoryOk.postHotness {s : State} (h : MemoryOk s) (t : Machine.Task) : MemoryOk (s.postHotness t) := by
  unfold State.postHotness
  have h0 : MemoryOk (if t.hot.isEmpty then (0, s) else s.fresh).2 := by
    split
    · exact h
    · exact h.fresh
  refine foldl_keeps (P := MemoryOk) (fun t e ht => ?_) _ _ h0
  extract_lets r told
  split
  · exact ht.postEvent _ _ _ _ _ _
  · exact ht

/-! ### The sluice -/

section
variable {s : State} (h : MemoryOk s)
include h

theorem MemoryOk.topUp (share : Nat) (d : Nat) (spare : Nat) : MemoryOk (s.topUp share d spare) := by
  unfold State.topUp
  dsimp only
  split
  · exact h
  · exact h.setDie _ _

theorem MemoryOk.topUpAll : MemoryOk (s.topUpAll) := by
  unfold State.topUpAll
  refine foldl_keeps (P := MemoryOk) (fun t1 x2 h3 => ?_) _ _ ?_
  · split
    · split
      · exact h3.topUp _ _ _
      · exact h3
    · exact h3
  · exact h

theorem MemoryOk.dropHolder (id : Nat) (d : Nat) : MemoryOk (s.dropHolder id d) := by
  unfold State.dropHolder
  dsimp only
  split
  · exact h.setDie _ _
  · exact h

theorem MemoryOk.dropOldHolders : MemoryOk (s.dropOldHolders) := by
  unfold State.dropOldHolders
  refine foldl_keeps (P := MemoryOk) (fun t1 x2 h3 => ?_) _ _ ?_
  · split
    · split
      · split
        · exact h3
        · exact h3.dropHolder _ _
      · split
        · exact h3
        · exact h3.dropHolder _ _
    · exact h3
  · exact h

theorem MemoryOk.copyHolder (u0 : State) (id : Nat) (d : Nat) : MemoryOk (s.copyHolder u0 id d) := by
  unfold State.copyHolder
  dsimp only
  split
  · exact h.setDie _ _
  · exact h

theorem MemoryOk.pinLayers (ctx : Nat) (ls : List Nat) (up : Bool) : MemoryOk (s.pinLayers ctx ls up) := by
  unfold State.pinLayers
  dsimp only
  refine foldl_keeps (P := MemoryOk) (fun t1 x2 h3 => ?_) _ _ ?_
  · split
    · exact (h3.setLayer _ _ _).requestLayer _ _
    · exact h3.setLayer _ _ _
  · exact h

end

theorem MemoryOk.retireTask {s : State} (h : MemoryOk s) (id : Nat) : MemoryOk (s.retireTask id) := by
  unfold State.retireTask
  split
  · exact h
  · rename_i t _
    extract_lets bound s1 s2 s3 s4 s5 s6 s7
    have h2 : MemoryOk s2 := by
      unfold s2
      split
      · exact (h.postHotness t).postEvent _ _ _ _ _ _
      · exact h.postHotness t
    have h3 : MemoryOk s3 := by
      unfold s3
      split
      · exact h2.pinLayers _ _ _
      · exact h2
    have h4 : MemoryOk s4 := foldl_keeps (P := MemoryOk) (fun _ n ht => ht.modCoreAt n _) _ _ h3
    have h7 : MemoryOk s7 := foldl_keeps (P := MemoryOk) (fun _ d ht => ht.dropHolder id d) _ _ ((h4.dropSaves id).setTask _ _)
    exact ((h7.leaveScope t).settleContext _).topUpAll

section
variable {s : State} (h : MemoryOk s)
include h

theorem MemoryOk.refuseTask (id : Nat) (at_ : Option (Nat × Nat)) : MemoryOk (s.refuseTask id at_) := by
  unfold State.refuseTask
  split
  · exact h
  · exact ((h.walkAll _).postEvent _ _ _ _ _ _).retireTask _

theorem MemoryOk.cleanCore (n : Nat) : MemoryOk (s.cleanCore n) :=
  (h.mergeAll _).cleanL1 _

theorem MemoryOk.taskRetire (id : Nat) : MemoryOk (s.taskRetire id) := by
  unfold State.taskRetire
  split
  · exact h
  · split
    · exact h
    · split
      · exact h.retireTask _
      · refine foldl_keeps (P := MemoryOk) (fun t1 x2 h3 => ?_) _ _ ?_
        · split
          · exact h3
          · exact h3.cleanCore _
        · exact h

theorem MemoryOk.bindTask (id : Nat) (t : Machine.Task) (cores : List Nat) (warm : Bool) (p : Option Placement) :
    MemoryOk (s.bindTask id t cores warm p) := by
  unfold State.bindTask
  dsimp only
  refine MemoryOk.pinLayers ?_ _ _ _
  refine foldl_keeps (P := MemoryOk) (fun t1 x2 h3 => ?_) _ _ ?_
  · exact h3.setDie _ _
  · refine foldl_keeps (P := MemoryOk) (fun t4 x5 h6 => ?_) _ _ ?_
    · exact h6.dropHolder _ _
    · refine foldl_keeps (P := MemoryOk) (fun t7 x8 h9 => ?_) _ _ ?_
      · exact h9.modCoreAt _ _
      · exact (h.hotTouch _).setTask _ _

end

/-- A selection's walk: what it has done. -/
def WalkOk (w : Walk) : Prop := MemoryOk w.s

/-- A candidate placed: bound, or the holder of the dies on which its share does not fit. -/
theorem WalkOk.meet {w : Walk} (h : WalkOk w) (ranks : SMap Nat) (named : List Nat) (id : Nat) :
    WalkOk (w.meet ranks named id) := by
  unfold Walk.meet
  split
  · exact h
  split
  · exact h
  extract_lets avail lost q d r place
  have hp : ∀ loops p, WalkOk (place loops p) := by
    intro loops p
    unfold place
    extract_lets share ds short
    split
    · change MemoryOk (List.foldl _ w.s short)
      exact foldl_keeps (P := MemoryOk) (fun _ _ ht => ht.copyHolder _ _ _) _ _ h
    · change MemoryOk (State.setDie (State.bindTask _ _ _ _ _ _) _ _)
      exact MemoryOk.setDie (MemoryOk.bindTask h _ _ _ _ _) _ _
  clear_value place
  split
  · exact hp _ _
  split
  · exact h
  split
  · exact MemoryOk.hotTouch h _
  split
  · exact hp _ _
  · exact MemoryOk.refuseTask h _ _
  · exact MemoryOk.awaitPages h _ _
  · exact MemoryOk.unitTouch h _ _ _

theorem MemoryOk.select {s : State} (h : MemoryOk s) (d : Nat) (named : List Nat) : MemoryOk (s.select d named) := by
  unfold State.select
  dsimp only
  split
  · exact h
  · refine MemoryOk.setDie (memoryOk_mk ?_) _ _
    exact foldl_keeps (P := WalkOk) (fun w id hw => WalkOk.meet hw _ _ _) _ _ h.dropOldHolders

section
variable {s : State} (h : MemoryOk s)
include h

theorem MemoryOk.wakeIsland (i : Nat) : MemoryOk (s.wakeIsland i) := by
  unfold State.wakeIsland
  dsimp only
  split
  · exact h
  · refine foldl_keeps (P := MemoryOk) (fun t1 x2 h3 => ?_) _ _ ?_
    · exact h3.modCoreAt _ _
    · exact memoryOk_mk h

theorem MemoryOk.restored (x : Saved) (id : Nat) (n : Nat) (p : Placement) (ranges : Vector RangeReg 16) :
    MemoryOk (s.restored x id n p ranges) :=
  memoryOk_mk ((h.setCoreAt _ _).acquireNow _)

theorem MemoryOk.shrinkTo (n : Nat) (bytes : Nat) : MemoryOk (s.shrinkTo n bytes) :=
  h.shrinkL1 _ _ _ _

theorem MemoryOk.resumeTask (id : Nat) (t : Machine.Task) (p : Placement) (ranges : Vector RangeReg 16) :
    MemoryOk (s.resumeTask id t p ranges) := by
  unfold State.resumeTask
  dsimp only
  refine MemoryOk.dropSaves ?_ _
  refine foldl_keeps (P := MemoryOk) (fun t1 x2 h3 => ?_) _ _ ?_
  · exact (h3.shrinkTo _ _).restored _ _ _ _ _
  · exact h

theorem MemoryOk.launchPath (id : Nat) : MemoryOk (s.launchPath id) := by
  unfold State.launchPath
  dsimp only
  split
  · exact h
  · split
    · exact h
    · split
      · exact h.refuseTask _ _
      · exact h.awaitPages _ _
      · exact h.unitTouch _ _ _
      · split
        · exact h.refuseTask _ _
        · exact ((h.walkAll _).setTask _ _).awaitPages _ _
        · exact h.unitTouch _ _ _
        · split
          · refine MemoryOk.resumeTask ?_ _ _ _ _
            refine MemoryOk.setTask ?_ _ _
            refine foldl_keeps (P := MemoryOk) (fun t1 x2 h3 => ?_) _ _ ?_
            · exact h3.wakeIsland _
            · exact h.walkAll _
          · refine foldl_keeps (P := MemoryOk) (fun t4 x5 h6 => ?_) _ _ ?_
            · exact ((h6.shrinkTo _ _).modCoreAt _ _).acquireNow _
            · refine MemoryOk.setTask ?_ _ _
              refine foldl_keeps (P := MemoryOk) (fun t7 x8 h9 => ?_) _ _ ?_
              · exact h9.wakeIsland _
              · exact h.walkAll _

theorem MemoryOk.preemptionRound (d : Nat) : MemoryOk (s.preemptionRound d) := by
  unfold State.preemptionRound
  dsimp only
  split
  · exact h
  · split
    · exact h
    · split
      · exact h
      · split
        · exact h
        · refine MemoryOk.setDie ?_ _ _
          refine foldl_keeps (P := MemoryOk) (fun t1 x2 h3 => ?_) _ _ ?_
          · refine foldl_keeps (P := MemoryOk) (fun t4 x5 h6 => ?_) _ _ ?_
            · exact h6.modCoreAt _ _
            · exact h3
          · exact h

theorem MemoryOk.budgetExhaustion (id : Nat) : MemoryOk (s.budgetExhaustion id) := by
  unfold State.budgetExhaustion
  dsimp only
  split
  · exact h
  · split
    · exact h
    · refine foldl_keeps (P := MemoryOk) (fun t1 x2 h3 => ?_) _ _ ?_
      · exact h3.modCoreAt _ _
      · exact h

theorem MemoryOk.budgetBoundary (core : Nat) : MemoryOk (s.budgetBoundary core) := by
  unfold State.budgetBoundary
  dsimp only
  refine MemoryOk.onCore h _ _ (fun t1 h2 => ?_)
  split
  · exact h2
  · split
    · exact h2
    · exact (h2.setCore _).takeTrap _ _ _

end

/-! ### Residency -/

section
variable {s : State} (h : MemoryOk s)
include h

theorem MemoryOk.addTable (ctx : Nat) (ia : Nat) : MemoryOk (s.addTable ctx ia) := by
  unfold State.addTable
  dsimp only
  split
  · exact ((h.writeNow _ _ _ _).writeNow _ _ _ _).setCtx _ _
  · exact h

theorem MemoryOk.mapPage (ctx : Nat) (ia : Nat) (pa : Option Nat) : MemoryOk (s.mapPage ctx ia pa) := by
  unfold State.mapPage
  dsimp only
  split
  · refine MemoryOk.writeNow ?_ _ _ _ _
    refine MemoryOk.dropTlb ?_ _
    split
    · refine foldl_keeps (P := MemoryOk) (fun t1 x2 h3 => ?_) _ _ ?_
      · split
        · exact h3.addTable _ _
        · exact h3
      · exact h
    · exact h
  · split
    · refine foldl_keeps (P := MemoryOk) (fun t4 x5 h6 => ?_) _ _ ?_
      · split
        · exact h6.addTable _ _
        · exact h6
      · exact h
    · exact h

theorem MemoryOk.mapLayer (ctx : Nat) (l : Layer) (on : Bool) : MemoryOk (s.mapLayer ctx l on) := by
  unfold State.mapLayer
  refine foldl_keeps (P := MemoryOk) (fun t1 x2 h3 => ?_) _ _ ?_
  · exact h3.mapPage _ _ _
  · exact h

theorem MemoryOk.growRes (ctx : Nat) (n : Nat) (up : Bool) : MemoryOk (s.growRes ctx n up) :=
  h.setCtx _ _

theorem MemoryOk.dropPages (ctx : Nat) (l : Nat) (st : LayerState) (req : Bool) (fail : Nat) :
    MemoryOk (s.dropPages ctx l st req fail) :=
  ((h.mapLayer _ _ _).growRes _ _ _).setLayer _ _ _

end

theorem MemoryOk.evictFor {s : State} (h : MemoryOk s) (need : Nat) (xs : List (Nat × Nat × Layer)) :
    MemoryOk (s.evictFor need xs) := by
  induction xs generalizing s need with
  | nil => exact h
  | cons x xs ih =>
    unfold State.evictFor
    split
    · exact h
    · exact ih (h.setLayer _ _ _) _

section
variable {s : State} (h : MemoryOk s)
include h

theorem MemoryOk.startLayer (d : Nat) (x : Nat × Nat × LayerEntry) : OptOk (s.startLayer d x) := by
  unfold State.startLayer
  dsimp only
  split
  · exact h.requestAbsent _ _ _
  · split
    · exact ((h.setLayer _ _ _).growRes _ _ _).mapLayer _ _ _
    · split
      · exact h
      · split
        · trivial
        · exact h.evictFor _ _

end

/-- The first state that a list's elements give, or another where none does. -/
theorem memoryOk_findSome?_getD {α : Type} {f : α → Option State} {t : State} (hf : ∀ x, OptOk (f x)) (ht : MemoryOk t)
    (xs : List α) :
    MemoryOk ((xs.findSome? f).getD t) := by
  cases e : xs.findSome? f with
  | none => exact ht
  | some r =>
    obtain ⟨x, -, hx⟩ := List.exists_of_findSome?_eq_some e
    exact (congrArg OptOk hx).mp (hf x)

theorem MemoryOk.arrivalStart {s : State} (h : MemoryOk s) (d : Nat) : MemoryOk (s.arrivalStart d) := by
  unfold State.arrivalStart
  dsimp only
  have ht : MemoryOk ((s.wanted d).foldl (fun s x => s.layerTouch x.1 x.2.1) s) :=
    foldl_keeps (P := MemoryOk) (fun _ _ ht => ht.layerTouch _ _) _ _ h
  split
  · exact ht
  · refine memoryOk_findSome?_getD (fun x => ?_) ht _
    exact ht.startLayer d x

section
variable {s : State} (h : MemoryOk s)
include h

theorem MemoryOk.failArrival (ctx : Nat) (l : Nat) (code : Nat) : MemoryOk (s.failArrival ctx l code) :=
  (h.dropPages _ _ _ _ _).logLayer _ _

theorem MemoryOk.arrivalComplete (ctx : Nat) (l : Nat) : MemoryOk (s.arrivalComplete ctx l) := by
  unfold State.arrivalComplete
  dsimp only
  split
  · exact h
  · split
    · exact h.failArrival _ _ _
    · refine MemoryOk.setLayer ?_ _ _ _
      refine memoryOk_mk ?_
      refine foldl_keeps (P := MemoryOk) (fun t1 x2 h3 => ?_) _ _ ?_
      · exact h3.writeNow _ _ _ _
      · exact h

theorem MemoryOk.arrivalFail (ctx : Nat) (l : Nat) (code : Nat) : MemoryOk (s.arrivalFail ctx l code) := by
  unfold State.arrivalFail
  dsimp only
  split
  · split
    · split
      · exact (h.setLayer _ _ _).logLayer _ _
      · exact h
    · exact h
  · split
    · exact h.failArrival _ _ _
    · exact h

theorem MemoryOk.evictionComplete (ctx : Nat) (l : Nat) : MemoryOk (s.evictionComplete ctx l) := by
  unfold State.evictionComplete
  dsimp only
  split
  · exact h
  · exact h.dropPages _ _ _ _ _

end

theorem MemoryOk.layerOp {s : State} (h : MemoryOk s) (hd : Hdr) (a : Fin 32) (rs : List (Fin 32)) (eff : Nat → State → Res)
    (heff : ∀ l t, MemoryOk t → (eff l t).Keeps s) : OutOk (s.layerOp hd a rs eff) := by
  unfold State.layerOp
  refine MemoryOk.sluiceOp h _ _ _ (fun t ht => ?_)
  have ht' := fun l => ht.layerTouch t.taskCtx l
  dsimp only
  split
  · exact ht' _
  · split
    · exact ht' _
    · exact heff _ _ (ht' _)

section
variable {s : State} (h : MemoryOk s)
include h

theorem MemoryOk.lwait {u : State} (hu : MemoryOk u) (l : Nat) : (s.lwait l).Keeps u := by
  unfold State.lwait
  dsimp only
  split
  · exact hu.modCore _
  · exact h.modCore _
  · exact (h.requestLayer _ _).modCore _

theorem MemoryOk.pin (ctx : Nat) (l : Nat) (rerequest : Bool) : MemoryOk (s.pin ctx l rerequest).1 := by
  unfold State.pin
  dsimp only
  split
  · split
    · exact h.setLayer _ _ _
    · dsimp only
      split
      · exact (memoryOk_mk ((h.setLayer _ _ _).requestLayer _ _)).arrivalStart _
      · exact (h.setLayer _ _ _).requestLayer _ _
  · split
    · exact h.setLayer _ _ _
    · dsimp only
      split
      · exact (memoryOk_mk ((h.setLayer _ _ _).requestLayer _ _)).arrivalStart _
      · exact (h.setLayer _ _ _).requestLayer _ _

theorem MemoryOk.unpin (ctx : Nat) (l : Nat) : MemoryOk (s.unpin ctx l).1 := by
  unfold State.unpin
  dsimp only
  split
  · exact h.setLayer _ _ _
  · exact h.setLayer _ _ _

end

/-! ### Trap return -/

section
variable {s : State} (h : MemoryOk s)
include h

theorem MemoryOk.takeHeld : MemoryOk (s.takeHeld) := by
  unfold State.takeHeld
  dsimp only
  split
  · split
    · refine MemoryOk.takeTrap ?_ _ _ _
      refine foldl_keeps (P := MemoryOk) (fun t1 x2 h3 => ?_) _ _ ?_
      · exact h3.modEng _ _
      · exact h.modEng _ _
    · refine foldl_keeps (P := MemoryOk) (fun t4 x5 h6 => ?_) _ _ ?_
      · exact h6.modEng _ _
      · exact h.modEng _ _
  · split
    · exact (h.modEng _ _).takeTrap _ _ _
    · split
      · split
        · exact h.transferTrap _ _
        · exact h
      · exact h

theorem MemoryOk.leaveTrapMode : MemoryOk (s.leaveTrapMode) :=
  (h.setCore _).takeHeld

theorem MemoryOk.eret {u : State} (hu : MemoryOk u) (hdr : Hdr) : (s.eret hdr).Keeps u := by
  unfold State.eret
  split
  · exact hu
  · split
    · exact hu
    · exact h.leaveTrapMode

end

/-! ### Management -/

section
variable {s : State} (h : MemoryOk s)
include h

theorem MemoryOk.modMgmt (f : Mgmt → Mgmt) : MemoryOk (s.modMgmt f) :=
  memoryOk_mk h

theorem MemoryOk.zeroLayerWord (ctx : Nat) (l : Nat) : MemoryOk (s.zeroLayerWord ctx l) :=
  h.unitWrite _ _ _

theorem MemoryOk.createContext (ctx : Nat) : MemoryOk (s.createContext ctx) := by
  unfold State.createContext
  dsimp only
  split
  · exact h
  · refine foldl_keeps (P := MemoryOk) (fun t1 x2 h3 => ?_) _ _ ?_
    · exact h3.zeroLayerWord _ _
    · exact h.setCtx _ _

theorem MemoryOk.dropContext (ctx : Nat) : MemoryOk (s.dropContext ctx) := by
  unfold State.dropContext
  dsimp only
  split
  · exact h
  · refine MemoryOk.setCtx ?_ _ _
    refine foldl_keeps (P := MemoryOk) (fun t1 x2 h3 => ?_) _ _ ?_
    · exact h3.writeNow _ _ _ _
    · refine foldl_keeps (P := MemoryOk) (fun t4 x5 h6 => ?_) _ _ ?_
      · exact (h6.dropPages _ _ _ _ _).setLayer _ _ _
      · exact h

theorem MemoryOk.startShootdown : MemoryOk (s.startShootdown) := by
  unfold State.startShootdown
  split
  · exact h
  · exact (h.dropTlb _).modMgmt _

theorem MemoryOk.shootdownComplete : MemoryOk (s.shootdownComplete) := by
  unfold State.shootdownComplete
  split
  · exact h.modMgmt _
  · exact h

theorem MemoryOk.migrationRequest : MemoryOk (s.migrationRequest) := by
  unfold State.migrationRequest
  dsimp only
  split
  · exact h.modMgmt _
  · split
    · exact (h.takeLock _).modMgmt _
    · split
      · exact h.modMgmt _
      · exact h.modMgmt _

theorem MemoryOk.migrationDone : MemoryOk (s.migrationDone) := by
  unfold State.migrationDone
  dsimp only
  split
  · split
    · exact (memoryOk_mk h).putLock _ _
    · exact memoryOk_mk h
  · exact memoryOk_mk h

theorem MemoryOk.setOwner (o : Nat) : MemoryOk (s.setOwner o) :=
  h.modMgmt _

theorem MemoryOk.claim (n : Nat) : MemoryOk (s.claim n) := by
  unfold State.claim
  split
  · exact (h.setOwner _).modMgmt _
  · split
    · exact h.modMgmt _
    · exact h

theorem MemoryOk.trapControl (m : Master) (f : State → State) (hf : ∀ t0, MemoryOk t0 → MemoryOk (f t0)) :
    OutOk (s.trapControl m f) := by
  unfold State.trapControl
  refine MemoryOk.managed h _ _ _ (fun t1 h2 => ?_)
  split
  · exact h2.onCore _ _ hf
  · exact h2

theorem MemoryOk.logCons (die : Nat) (v : Nat) : MemoryOk (s.logCons die v) := by
  unfold State.logCons
  dsimp only
  split
  · exact h
  · exact h.setDie _ _

theorem MemoryOk.raiseQueued (die : Nat) (ch : Nat) : MemoryOk (s.raiseQueued die ch) := by
  unfold State.raiseQueued
  dsimp only
  split
  · exact h
  · split
    · exact h
    · exact h.setDie _ _

theorem MemoryOk.putMgmtWord (off : Nat) (v : Nat) : MemoryOk (s.putMgmtWord off v) := by
  unfold State.putMgmtWord
  dsimp only
  split
  · split
    · exact h.setQueue _ _
    · split
      · exact h.setCtx _ _
      · exact h
  · exact memoryOk_mk h
  · split
    · exact h.modMgmt _
    · exact h
  · exact h.modMgmt _
  · split
    · exact h.modMgmt _
    · exact h
  · exact memoryOk_mk h
  · exact h

theorem MemoryOk.putMgmt (off : Nat) (bs : List Byte) : MemoryOk (s.putMgmt off bs) := by
  unfold State.putMgmt
  dsimp only
  refine foldl_keeps (P := MemoryOk) (fun t1 x2 h3 => ?_) _ _ ?_
  · exact h3.putMgmtWord _ _
  · exact h

theorem MemoryOk.mgmtRead (m : Master) (off : Nat) : MemoryOk (s.mgmtRead m off).1 := by
  unfold State.mgmtRead
  dsimp only
  split
  · exact h
  · exact h
  · exact h
  · split
    · exact h
    · exact h.refuseRecord _ _ _

theorem MemoryOk.readMgmt (m : Master) (off : Nat) : MemoryOk (s.readMgmt m off) :=
  (h.mgmtRead _ _).modMgmt _

theorem MemoryOk.firmwareWrite (m : Master) (off : Nat) (bs : List Byte) : MemoryOk (s.firmwareWrite m off bs) := by
  unfold State.firmwareWrite
  dsimp only
  split
  · split
    · exact h
    · exact memoryOk_mk h
  · exact MemoryOk.managed h _ _ _ (fun t1 h2 => memoryOk_mk h2)

theorem MemoryOk.spdmAnswer (code : Byte) (body : List Byte) : MemoryOk (s.spdmAnswer code body) :=
  memoryOk_mk h

end

/-! ### The matrix engine -/

theorem MemoryOk.mma {s : State} (h : MemoryOk s) {u : State} (hu : MemoryOk u) (z : Fin 256) (w : Fin 16) (off : BitVec 12)
    (via : State → (State → Res) → Res) (src : Core → SMap Byte) (a : Nat)
    (hvia : ∀ t f, MemoryOk t → (∀ t, MemoryOk t → (f t).Keeps u) → (via t f).Keeps u) : (s.mma z w off via src a).Keeps u := by
  unfold State.mma
  dsimp only
  split
  · exact hu
  · split
    · exact hu
    · refine hvia _ _ h (fun t ht => ?_)
      split
      · exact hu.logSram _ _
      · exact MemoryOk.onPool ht hu _ _ _ _ (fun t ht => ht.modCore _)

/-! ### Power and recovery -/

section
variable {s : State} (h : MemoryOk s)
include h

theorem MemoryOk.setIsland (i : Nat) (x : Island) : MemoryOk (s.setIsland i x) :=
  memoryOk_mk h

theorem MemoryOk.scrubRead (stack : Nat) : MemoryOk (s.scrubRead stack) := by
  unfold State.scrubRead
  dsimp only
  split
  · exact h
  · exact memoryOk_mk (h.readDecode _)

theorem MemoryOk.logRow (stack : Nat) (row : Nat) (type : Nat) : MemoryOk (s.logRow stack row type) :=
  h.logError _ _

theorem MemoryOk.rowRepair (stack : Nat) (row : Nat) (spare : Nat) : MemoryOk (s.rowRepair stack row spare) := by
  unfold State.rowRepair
  dsimp only
  split
  · exact h
  · split
    · refine MemoryOk.logRow ?_ _ _ _
      refine memoryOk_mk ?_
      refine foldl_keeps (P := MemoryOk) (fun t1 x2 h3 => ?_) _ _ ?_
      · exact h3.readDecode _
      · exact h
    · split
      · exact h
      · exact (memoryOk_mk h).logRow _ _ _

theorem MemoryOk.sendReport : MemoryOk (s.sendReport) := by
  unfold State.sendReport
  dsimp only
  split
  · exact h
  · exact memoryOk_mk h

theorem MemoryOk.tenter (rs : List Reading) : MemoryOk (s.tenter rs) := by
  unfold State.tenter
  dsimp only
  refine MemoryOk.sendReport ?_
  refine memoryOk_mk ?_
  refine foldl_keeps (P := MemoryOk) (fun t1 x2 h3 => ?_) _ _ ?_
  · exact h3.setIsland _ _
  · exact h

theorem MemoryOk.tenteringPass (rs : List Reading) : MemoryOk (s.tenteringPass rs) := by
  unfold State.tenteringPass
  split
  · exact h
  · exact h.tenter _

theorem MemoryOk.loadImage (x : ConfigImage) : MemoryOk (s.loadImage x) :=
  memoryOk_mk h

end

theorem MemoryOk.afterReset {s : State} (h : MemoryOk s) (x : ConfigImage) (kept : SMap Word64) (stage : Nat) (recov : Bool) :
    MemoryOk (s.afterReset x kept stage recov) := by
  unfold State.afterReset
  refine MemoryOk.loadImage ?_ x
  exact ⟨Laws.wf_filter _ _ _ h.1, Laws.wf_filter _ _ _ h.2⟩

section
variable {s : State} (h : MemoryOk s)
include h

theorem MemoryOk.bringUp (kept : SMap Word64) : MemoryOk (s.bringUp kept) := by
  unfold State.bringUp
  dsimp only
  split
  · exact (h.afterReset _ _ _ _).tenter _
  · exact memoryOk_mk (h.afterReset _ _ _ _)

theorem MemoryOk.movePoint (n : Nat) (op : Nat) : MemoryOk (s.movePoint n op) := by
  unfold State.movePoint
  dsimp only
  split
  · exact h
  · exact h.setIsland _ _

theorem MemoryOk.stepIsland (n : Nat) : MemoryOk (s.stepIsland n) := by
  unfold State.stepIsland
  dsimp only
  split
  · exact h
  · exact (h.setIsland _ _).movePoint _ _

theorem MemoryOk.endPointChange (n : Nat) : MemoryOk (s.endPointChange n) := by
  unfold State.endPointChange
  dsimp only
  split
  · split
    · exact h
    · split
      · exact (h.setIsland _ _).sendReport
      · exact h.setIsland _ _
  · exact h

theorem MemoryOk.powerStep (watts : Nat) (temp : Nat) : MemoryOk (s.powerStep watts temp) := by
  unfold State.powerStep
  dsimp only
  split
  · exact h
  · refine foldl_keeps (P := MemoryOk) (fun t1 x2 h3 => ?_) _ _ ?_
    · exact (h3.endPointChange _).stepIsland _
    · exact memoryOk_mk h

theorem MemoryOk.sleepIsland (n : Nat) : MemoryOk (s.sleepIsland n) := by
  unfold State.sleepIsland
  dsimp only
  split
  · exact h
  · split
    · exact h.setIsland _ _
    · refine foldl_keeps (P := MemoryOk) (fun t1 x2 h3 => ?_) _ _ ?_
      · split
        · exact h3
        · exact h3.cleanCore _
      · exact h

end

/-! ### Time and the schedule -/

section
variable {s : State} (h : MemoryOk s)
include h

theorem MemoryOk.endPause (e : Engine) : MemoryOk (s.endPause e) := by
  unfold State.endPause
  dsimp only
  split
  · refine MemoryOk.finishSig ?_ _ _
    refine MemoryOk.modCore ?_ _
    split
    · exact (h.modEng _ _).finishSig _ _
    · exact h
  · split
    · exact (h.modEng _ _).finishSig _ _
    · exact h

theorem MemoryOk.passTime (dt : Nat) : MemoryOk (s.passTime dt) := by
  unfold State.passTime
  dsimp only
  refine memoryOk_mk ?_
  split
  · exact h
  · exact h.storeLogs

theorem MemoryOk.takeTurn : MemoryOk (s.takeTurn).2 := by
  unfold State.takeTurn
  split
  · exact (memoryOk_mk h).passTime _
  · exact h.passTime _

end

theorem MemoryOk.flipSymbol {s : State} (h : MemoryOk s) (line i : Nat) (v : Byte) : MemoryOk (s.flipSymbol line i v) := by
  unfold State.flipSymbol
  dsimp only
  split
  · exact h.recode _ _ _
  · split
    · exact h.withMem _ (Laws.Memory.wf_write _ _ _ h.1)
    · split
      · exact ⟨h.1, Laws.wf_set _ _ _ _ h.2⟩
      · split
        · exact ⟨h.1, Laws.wf_set _ _ _ _ h.2⟩
        · exact h

section
variable {s : State} (h : MemoryOk s)
include h

theorem MemoryOk.upset (x : Upset) : MemoryOk (s.upset x) := by
  unfold State.upset
  dsimp only
  split
  · exact h.flipSymbol _ _ _
  · split
    · exact h.logError _ _
    · exact h
  · split
    · exact h
    · split
      · exact (h.logError _ _).recode _ _ _
      · exact h.logError _ _
  · split
    · exact h.modCoreAt _ _
    · exact h
  · split
    · split
      · exact h.modCoreAt _ _
      · exact h
    · split
      · exact h.modCoreAt _ _
      · exact h
    · split
      · exact h.modCoreAt _ _
      · exact h
    · split
      · exact h.modCoreAt _ _
      · exact h
  · split
    · exact h.modCoreAt _ _
    · exact h

end

/-! ### Pre-emption -/

section
variable {s : State} (h : MemoryOk s)
include h

theorem MemoryOk.fillSlot (ctx : Nat) (slot : Nat) (hard : Bool) : MemoryOk (s.fillSlot ctx slot hard) := by
  unfold State.fillSlot
  dsimp only
  refine foldl_keeps (P := MemoryOk) (fun t1 x2 h3 => ?_) _ _ ?_
  · split
    · exact (memoryOk_mk h3).unitWrite _ _ _
    · exact memoryOk_mk h3
  · exact h

theorem MemoryOk.putSave (n : Nat) (img : Core) (reqs : List Req) (hard : Bool) : MemoryOk (s.putSave n img reqs hard) := by
  unfold State.putSave
  dsimp only
  split
  · exact h
  · exact ((memoryOk_mk (h.setCtx _ _)).fillSlot _ _ _).modCoreAt _ _

theorem MemoryOk.partialMoves (js : List JEntry) : MemoryOk (s.partialMoves js) := by
  unfold State.partialMoves
  dsimp only
  refine foldl_keeps (P := MemoryOk) (fun t1 x2 h3 => ?_) _ _ ?_
  · exact ((h3.freeWord.before _).movesUpTo _ _ _ _).beside _ _
  · exact h

theorem MemoryOk.settleStopped : MemoryOk (s.settleStopped) := by
  unfold State.settleStopped
  split
  · refine foldl_keeps (P := MemoryOk) (fun t1 x2 h3 => ?_) _ _ ?_
    · split
      · exact h3
      · exact MemoryOk.onCore h3 _ _ (fun t4 h5 => (h5.partialMoves _).modCore _)
    · exact h
  · exact h

theorem MemoryOk.discardTransfers (n : Nat) : MemoryOk (s.discardTransfers n) :=
  MemoryOk.onCore h _ _ (fun t1 h2 => memoryOk_mk (h2.partialMoves _))

theorem MemoryOk.softPreempt (n : Nat) : MemoryOk (s.softPreempt n) := by
  unfold State.softPreempt
  dsimp only
  split
  · exact h
  · split
    · exact (h.discardTransfers _).modCoreAt _ _
    · split
      · exact h.putSave _ _ _ _
      · exact h.cleanCore _

theorem MemoryOk.withdraw (rs : List Req) : MemoryOk (s.withdraw rs) := by
  unfold State.withdraw
  dsimp only
  refine memoryOk_mk ?_
  refine foldl_keeps (P := MemoryOk) (fun t1 x2 h3 => ?_) _ _ ?_
  · exact h3.clearBusy _ _
  · exact h

end

theorem MemoryOk.hardPreempt {s : State} (h : MemoryOk s) (n : Nat) : MemoryOk (s.hardPreempt n) := by
  unfold State.hardPreempt
  extract_lets c due rs held waits s'
  have hs' : MemoryOk s' := h.withdraw _
  split
  · exact h
  split
  · exact (h.discardTransfers _).modCoreAt _ _
  split
  · exact h
  split
  · exact hs'.putSave _ _ _ _
  · exact h.cleanCore _

section
variable {s : State} (h : MemoryOk s)
include h

theorem MemoryOk.saveComplete (n : Nat) : MemoryOk (s.saveComplete n) := by
  unfold State.saveComplete
  dsimp only
  split
  · exact h
  · split
    · exact h
    · split
      · exact ((h.modCoreAt _ _).setTask _ _).topUpAll
      · exact ((((h.modCoreAt _ _).setTask _ _).pinLayers _ _ _).settleContext _).topUpAll

theorem MemoryOk.phaseStart {u : State} (hu : MemoryOk u) (hdr : Hdr) (v : Word64) : (s.phaseStart hdr v).Keeps u := by
  unfold State.phaseStart
  dsimp only
  split
  · exact hu
  · split
    · exact hu
    · exact h.modCore _

theorem MemoryOk.withoutL1 (w : Word64) : MemoryOk (s.withoutL1 w) := by
  unfold State.withoutL1
  dsimp only
  split
  · exact h
  · exact memoryOk_mk h

theorem MemoryOk.phaseComplete (core : Nat) : MemoryOk (s.phaseComplete core) := by
  unfold State.phaseComplete
  dsimp only
  refine MemoryOk.onCore h _ _ (fun t1 h2 => ?_)
  split
  · exact h2
  · split
    · exact h2
    · split
      · exact (h2.setCore _).takeTrap _ _ _
      · split
        · exact h2.shrinkTo _ _
        · split
          · exact h2
          · exact ((h2.setCore _).withoutL1 _).retire _ _ _

theorem MemoryOk.coreDeadlock (core : Nat) : MemoryOk (s.coreDeadlock core) := by
  unfold State.coreDeadlock
  dsimp only
  refine MemoryOk.onCore h _ _ (fun t1 h2 => ?_)
  split
  · exact h2.setCore _
  · split
    · split
      · exact h2
      · exact (h2.setCore _).takeTrap _ _ _
    · exact h2.setCore _

end

/-! ### Scalar words -/

section
variable {s : State} (h : MemoryOk s)
include h

theorem MemoryOk.int2 (hdr : Hdr) (d : Fin 32) (a : Fin 32) (b : Fin 32) (f : Word64 → Word64 → Word64) :
    OutOk (s.int2 hdr d a b f) :=
  MemoryOk.sop h _ _ _ _

theorem MemoryOk.int1 (hdr : Hdr) (d : Fin 32) (a : Fin 32) (f : Word64 → Word64) : OutOk (s.int1 hdr d a f) :=
  MemoryOk.sop h _ _ _ _

end

/-! ### Between turns -/

section
variable {s : State} (h : MemoryOk s)
include h

theorem MemoryOk.pruneL1 : MemoryOk (s.pruneL1) := by
  unfold State.pruneL1
  split
  · exact memoryOk_mk h
  · exact h

theorem MemoryOk.between : MemoryOk (s.between) :=
  h.tick.serveAsks.settleStopped.drainTmrs.pruneL1

theorem MemoryOk.finishAccesses (e : Engine) : MemoryOk (s.finishAccesses e) := by
  unfold State.finishAccesses
  split
  · exact h.endFootprints _
  · exact h

theorem MemoryOk.settle (e : Engine) : MemoryOk (s.settle e) := by
  unfold State.settle
  dsimp only
  refine MemoryOk.flushSigs ?_ _ _
  split
  · exact ((((h.modCore _).finishAccesses _).endPause _).progress _).modCore _
  · exact (((h.modCore _).finishAccesses _).endPause _).progress _

theorem MemoryOk.noteUses (e : Engine) (i : Instr) : MemoryOk (s.noteUses e i) := by
  unfold State.noteUses
  split
  · split
    · exact h.modCore _
    · exact h
  · exact h

end

/-! ### Control words (instructions and events) -/

section
variable {s : State} (h : MemoryOk s)
include h

theorem MemoryOk.execEnd (e : Engine) (hdr : Hdr) : OutOk (execEnd e hdr s) := by
  unfold Machine.execEnd
  refine MemoryOk.issue h _ _ _ _ _ (fun t1 h2 => ?_)
  split
  · exact h2
  · exact h2

theorem MemoryOk.execLoop (e : Engine) (hdr : Hdr) (len : BitVec 13) (count : LoopCount) :
    OutOk (execLoop e hdr len count s) := by
  unfold Machine.execLoop
  split
  · exact MemoryOk.issue h _ _ _ _ _ (fun t1 h2 => MemoryOk.loop h2 h _ _ _)
  · exact MemoryOk.issue h _ _ _ _ _ (fun t3 h4 => MemoryOk.loop h4 h _ _ _)

theorem MemoryOk.execBrXb (e : Engine) (hdr : Hdr) (cond : XbCond) (abs : Bool) (off : BitVec 32) :
    OutOk (execBrXb e hdr cond abs off s) := by
  unfold Machine.execBrXb
  refine MemoryOk.issue h _ _ _ _ _ (fun t1 h2 => ?_)
  split
  · exact MemoryOk.branch h2 h _ _
  · exact h2

theorem MemoryOk.execCallXb (e : Engine) (hdr : Hdr) (cond : XbCond) (abs : Bool) (off : BitVec 32) :
    OutOk (execCallXb e hdr cond abs off s) := by
  unfold Machine.execCallXb
  refine MemoryOk.issue h _ _ _ _ _ (fun t1 h2 => ?_)
  split
  · exact MemoryOk.call h2 h _ _
  · exact h2

theorem MemoryOk.execTok (e : Engine) (hdr : Hdr) (pop : Bool) (q : Fin 16) (r : Fin 32) : OutOk (execTok e hdr pop q r s) := by
  unfold Machine.execTok
  refine MemoryOk.issue h _ _ _ _ _ (fun t1 h2 => ?_)
  split
  · change MemoryOk _
    split
    · exact h2.setCore _
    · exact (h2.setCore _).teach _ _
  · exact h2

theorem MemoryOk.execHset (e : Engine) (hdr : Hdr) (hd : Fin 64) (base : Fin 32) (count : Fin 32) :
    OutOk (execHset e hdr hd base count s) := by
  unfold Machine.execHset
  refine MemoryOk.issue h _ _ _ _ _ (fun t1 h2 => ?_)
  split
  · exact h
  · exact h2.setCore _

theorem MemoryOk.execHwait (e : Engine) (hdr : Hdr) (hd : Fin 64) (free : Bool) : OutOk (execHwait e hdr hd free s) := by
  unfold Machine.execHwait
  refine MemoryOk.issue h _ _ _ _ _ (fun t1 h2 => ?_)
  split
  · split
    · exact h2
    · exact h2
  · split
    · exact h2
    · exact h2

end

/-! ### The vector engine (instructions and events) -/

section
variable {s : State} (h : MemoryOk s)
include h

theorem MemoryOk.execVshape (hdr : Hdr) (rows : Fin 32) (cols : Fin 256) (ty : ElemType) (stride : StrideSrc) :
    OutOk (execVshape hdr rows cols ty stride s) := by
  unfold Machine.execVshape
  dsimp only
  refine MemoryOk.vissue h _ _ _ _ _ _ ?_
  intro t1 h2
  exact h2.modCore _

theorem MemoryOk.execVrand (hdr : Hdr) (m : Fin 8) (z : Bool) (unif : Bool) (d : Fin 256) (a : Fin 16) (b : Fin 16) :
    OutOk (execVrand hdr m z unif d a b s) := by
  unfold Machine.execVrand
  dsimp only
  exact MemoryOk.vcore h _ _ _ _ _

end

/-! ### Memory words (instructions and events) -/

section
variable {s : State} (h : MemoryOk s)
include h

theorem MemoryOk.execSPref (hdr : Hdr) (pol : Policy) (lines : Size) (b : Fin 32) (off : BitVec 18) :
    OutOk (execSPref hdr pol lines b off s) := by
  unfold Machine.execSPref
  refine MemoryOk.issue h _ _ _ _ _ (fun t1 h2 => ?_)
  split
  · exact h
  · exact MemoryOk.issueOp h2 h _

theorem MemoryOk.execFlush (hdr : Hdr) (b : Fin 32) (off : BitVec 18) : OutOk (execFlush hdr b off s) := by
  unfold Machine.execFlush
  dsimp only
  refine MemoryOk.issue h _ _ _ _ _ (fun t1 h2 => ?_)
  exact MemoryOk.withAccess h2 h _ _ _ _ _ (fun x3 t4 h5 => MemoryOk.issueOp h2 h _)

theorem MemoryOk.execFence (e : Engine) (hdr : Hdr) (kind : FenceKind) (scope : Scope) :
    OutOk (execFence e hdr kind scope s) := by
  unfold Machine.execFence
  refine MemoryOk.issue h _ _ _ _ _ (fun t1 h2 => ?_)
  split
  · exact h
  · exact MemoryOk.fence h2 h _ _ _

end

/-! ### Tensor records (instructions and events) -/

section
variable {s : State} (h : MemoryOk s)
include h

theorem MemoryOk.execGoveval (hdr : Hdr) (rebind : Bool) (d : Fin 32) (a : Fin 32) : OutOk (execGoveval hdr rebind d a s) := by
  unfold Machine.execGoveval
  dsimp only
  refine MemoryOk.gov h _ _ _ _ (fun x1 x2 t3 h4 => ?_)
  split
  · exact h
  · exact ((((h4.mergeSlot _ _).updateTmr _ _ _).fresh).setDie _ _).modCore _

theorem MemoryOk.execGovrd (hdr : Hdr) (item : GovItem) (d : Fin 32) (a : Fin 32) : OutOk (execGovrd hdr item d a s) := by
  unfold Machine.execGovrd
  dsimp only
  refine MemoryOk.gov h _ _ _ _ (fun x1 x2 t3 h4 => ?_)
  split
  · exact (h4.cacheTmr _ _).setCore _
  · exact ((h4.cacheTmr _ _).keepVersion _ _).setCore _
  · exact (h4.cacheTmr _ _).setCore _

end

/-! ### Rows, gathers and scatters (instructions and events) -/

section
variable {s : State} (h : MemoryOk s)
include h

theorem MemoryOk.execVld (hdr : Hdr) (t : Fin 256) (k : Fin 16) (hd : Fin 64) (off : BitVec 22) :
    OutOk (execVld hdr t k hd off s) := by
  unfold Machine.execVld
  dsimp only
  refine MemoryOk.vissue h _ _ _ _ _ _ (fun t1 h2 => ?_)
  exact MemoryOk.withRows h2 h _ _ _ _ _ (fun t3 h4 => h4.modCore _)

theorem MemoryOk.execVst (hdr : Hdr) (t : Fin 256) (k : Fin 16) (hd : Fin 64) (off : BitVec 22) :
    OutOk (execVst hdr t k hd off s) := by
  unfold Machine.execVst
  dsimp only
  refine MemoryOk.vissue h _ _ _ _ _ _ (fun t1 h2 => ?_)
  exact MemoryOk.withRows h2 h _ _ _ _ _ (fun t3 h4 => h4.modCore _)

theorem MemoryOk.execVstq (hdr : Hdr) (t : Fin 256) (k : Fin 16) (hd : Fin 64) (off : BitVec 22) :
    OutOk (execVstq hdr t k hd off s) := by
  unfold Machine.execVstq
  dsimp only
  refine MemoryOk.vissue h _ _ _ _ _ _ (fun t1 h2 => ?_)
  refine MemoryOk.withTmr h _ _ _ (fun x3 => ?_)
  split
  · exact h
  · split
    · exact h.tmrSnoop _ _
    · split
      · exact h.policyTouch _ _
      · exact MemoryOk.vstq h2 h _ _ _ _ _ _ _ _

theorem MemoryOk.execVldq (hdr : Hdr) (t : Fin 256) (k : Fin 16) (hd : Fin 64) (off : BitVec 22) :
    OutOk (execVldq hdr t k hd off s) := by
  unfold Machine.execVldq
  dsimp only
  refine MemoryOk.vissue h _ _ _ _ _ _ (fun t1 h2 => ?_)
  split
  · exact h
  · refine MemoryOk.withTmr h _ _ _ (fun x3 => ?_)
    split
    · exact h
    · split
      · exact h
      · exact MemoryOk.withRows h2 h _ _ _ _ _ (fun t4 h5 => (h5.cacheTmr _ _).modCore _)

theorem MemoryOk.execVgath (hdr : Hdr) (t : Fin 256) (idx : Fin 256) (k : Fin 16) (sp : VecSpace) (m : Fin 8) (z : Bool) :
    OutOk (execVgath hdr t idx k sp m z s) := by
  unfold Machine.execVgath
  dsimp only
  refine MemoryOk.vissue h _ _ _ _ _ _ (fun t1 h2 => ?_)
  split
  · exact MemoryOk.dataElements h2 h _ _ _
  · exact MemoryOk.gatherGlobal h2 h _ _ _ _ _

theorem MemoryOk.execVscat (hdr : Hdr) (t : Fin 256) (idx : Fin 256) (k : Fin 16) (sp : VecSpace) (m : Fin 8) (x : Bool) :
    OutOk (execVscat hdr t idx k sp m x s) := by
  unfold Machine.execVscat
  dsimp only
  refine MemoryOk.vissue h _ _ _ _ _ _ (fun t1 h2 => ?_)
  split
  · exact MemoryOk.dataElements h2 h _ _ _
  · exact MemoryOk.scatterGlobal h2 h _ _ _

theorem MemoryOk.execVdrain (hdr : Hdr) (m : Fin 8) (z : Bool) (rm : Rounding) (sat : Bool) (d : Fin 256)
    (za : Fin 256) (k : Fin 16) : OutOk (execVdrain hdr m z rm sat d za k s) := by
  unfold Machine.execVdrain
  refine MemoryOk.vissue h _ _ _ _ _ _ (fun t1 h2 => ?_)
  exact MemoryOk.onPool h2 h _ _ _ _ (fun t3 h4 => h4.modCore _)

theorem MemoryOk.execVzld (hdr : Hdr) (m : Fin 8) (z : Bool) (zd : Fin 256) (a : Fin 256) (k : Fin 16) :
    OutOk (execVzld hdr m z zd a k s) := by
  unfold Machine.execVzld
  dsimp only
  refine MemoryOk.vissue h _ _ _ _ _ _ (fun t1 h2 => ?_)
  split
  · split
    · split
      · exact h2.modCore _
      · exact h
    · split
      · exact h2.modCore _
      · exact h
  · exact h2.modCore _

end

/-! ### The fabric (instructions and events) -/

section
variable {s : State} (h : MemoryOk s)
include h

theorem MemoryOk.execLinkErrorRetransmitted (die : Nat) (channel : Nat) : OutOk (execLinkErrorRetransmitted die channel s) := by
  unfold Machine.execLinkErrorRetransmitted
  change MemoryOk _
  split
  · exact h.logError _ _
  · exact h

end

/-! ### Management (instructions and events) -/

section
variable {s : State} (h : MemoryOk s)
include h

theorem MemoryOk.execHandover (m : Master) (dest : BitVec 3) : OutOk (execHandover m dest s) := by
  unfold Machine.execHandover
  refine MemoryOk.managed h _ _ _ (fun t1 h2 => ?_)
  split
  · exact h2.modMgmt _
  · exact h2

theorem MemoryOk.execAccept (m : Master) : OutOk (execAccept m s) := by
  unfold Machine.execAccept
  refine MemoryOk.offered h _ _ _ (fun t1 h2 => ?_)
  split
  · exact h2.setOwner _
  · exact h2

theorem MemoryOk.execHeartbeatExpiry : OutOk (execHeartbeatExpiry s) := by
  unfold Machine.execHeartbeatExpiry
  change MemoryOk _
  split
  · exact h.setOwner _
  · exact h

theorem MemoryOk.execMgmtRegisterWrite (m : Master) (off : Nat) (bytes : List Byte) :
    OutOk (execMgmtRegisterWrite m off bytes s) := by
  unfold Machine.execMgmtRegisterWrite
  dsimp only
  change MemoryOk _
  split
  · split
    · exact MemoryOk.queueWrite h _ _ _ (fun t1 h2 => h2.putMgmt _ _)
    · exact h
  · exact MemoryOk.managed h _ _ _ (fun t3 h4 => h4.putMgmt _ _)

end

/-! ### The matrix engine (instructions and events) -/

theorem MemoryOk.execMma {s : State} (h : MemoryOk s) (hd : Hdr) (z a : Fin 256) (w : Fin 16) (off : BitVec 12) :
    OutOk (execMma hd z a w off s) := by
  refine MemoryOk.issue h _ _ _ _ _ (fun t ht => ?_)
  split
  · exact h
  · have hr := fun (src : Core → SMap Byte) => MemoryOk.mma ht h z w off
      (fun t f => t.onPool .M .tile [(a.val * 1024, t.core.mshape.aBytes)] f) src (a.val * 1024)
      (fun t f ht hf => MemoryOk.onPool ht h _ _ _ f hf)
    split
    · rename_i t' e
      have ht' : MemoryOk t' := (congrArg (Res.Keeps · s) e).mp (hr _)
      exact ht'.modCore _
    · exact hr _

theorem MemoryOk.execMmas {s : State} (h : MemoryOk s) (hd : Hdr) (z : Fin 256) (w d : Fin 16) (off : BitVec 12) :
    OutOk (execMmas hd z w d off s) := by
  refine MemoryOk.issue h _ _ _ _ _ (fun t ht => ?_)
  refine MemoryOk.mma ht h _ _ _ _ _ _ (fun t f ht hf => ?_)
  split
  · exact h
  · exact MemoryOk.onData ht h _ _ _ f hf

section
variable {s : State} (h : MemoryOk s)
include h

theorem MemoryOk.execWld (hdr : Hdr) (w : Fin 16) (off : BitVec 12) (d : Fin 16) (hd : Fin 64) (sparse : Bool)
    (len : BitVec 13) : OutOk (execWld hdr w off d hd sparse len s) := by
  unfold Machine.execWld
  dsimp only
  refine MemoryOk.issue h _ _ _ _ _ (fun t1 h2 => ?_)
  exact MemoryOk.withRows h2 h _ _ _ _ _ (fun t3 h4 => h4.modCore _)

theorem MemoryOk.execMdrain (hdr : Hdr) (z : Fin 256) (k : Fin 16) (hd : Fin 64) (off : BitVec 22) :
    OutOk (execMdrain hdr z k hd off s) := by
  unfold Machine.execMdrain
  dsimp only
  refine MemoryOk.issue h _ _ _ _ _ (fun t1 h2 => ?_)
  refine MemoryOk.withRows h2 h _ _ _ _ _ (fun t3 h4 => ?_)
  exact MemoryOk.onPool h4 h _ _ _ _ (fun t5 h6 => h6.modCore _)

end

/-! ### Scalar words (instructions and events) -/

section
variable {s : State} (h : MemoryOk s)
include h

theorem MemoryOk.execPmov (hdr : Hdr) (toS : Bool) (p : Fin 8) (r : Fin 32) : OutOk (execPmov hdr toS p r s) := by
  unfold Machine.execPmov
  split
  · exact MemoryOk.sop h _ _ _ _
  · exact MemoryOk.pop h _ _ _ _

end

/-! ### Instructions, events and steps -/

theorem MemoryOk.exec {s : State} (h : MemoryOk s) (i : Instr) : OutOk (exec i s) := by
  cases i with
  | nop | trap | brk =>
    unfold Machine.exec
    exact MemoryOk.issue h _ _ _ _ _ (fun t1 h2 => h2)
  | endw =>
    unfold Machine.exec
    exact h.execEnd _ _
  | loop =>
    unfold Machine.exec
    exact h.execLoop _ _ _ _
  | brSb | brx =>
    unfold Machine.exec
    exact MemoryOk.issue h _ _ _ _ _ (fun t1 h2 => MemoryOk.branch h2 h _ _)
  | brXb =>
    unfold Machine.exec
    exact h.execBrXb _ _ _ _ _
  | callSb =>
    unfold Machine.exec
    exact MemoryOk.issue h _ _ _ _ _ (fun t1 h2 => MemoryOk.call h2 h _ _)
  | callXb =>
    unfold Machine.exec
    exact h.execCallXb _ _ _ _ _
  | ret =>
    unfold Machine.exec
    exact MemoryOk.issue h _ _ _ _ _ (fun t1 h2 => MemoryOk.ret h2 h _)
  | tok =>
    unfold Machine.exec
    exact h.execTok _ _ _ _ _
  | hset =>
    unfold Machine.exec
    exact h.execHset _ _ _ _ _
  | hwait =>
    unfold Machine.exec
    exact h.execHwait _ _ _ _
  | safe =>
    unfold Machine.exec
    exact MemoryOk.issue h _ _ _ _ _ (fun t1 h2 => MemoryOk.safePoint h2 h _ _)
  | fence =>
    unfold Machine.exec
    exact h.execFence _ _ _ _
  | srd | time =>
    unfold Machine.exec
    exact MemoryOk.issue h _ _ _ _ _ (fun t1 h2 => h2.setCore _)
  | swr =>
    unfold Machine.exec
    exact MemoryOk.swr h _ _ _ _ _ (fun x1 t2 h3 => h3)
  | flagsWrite =>
    unfold Machine.exec
    exact MemoryOk.swr h _ _ _ _ _ (fun x1 t2 h3 => h3.modEng _ _)
  | trapRegisterWrite =>
    unfold Machine.exec
    exact MemoryOk.swr h _ _ _ _ _ (fun x1 t2 h3 => h3.modCore _)
  | chHashWrite | pcHashWrite =>
    unfold Machine.exec
    exact MemoryOk.swr h _ _ _ _ _ (fun x1 t2 h3 => h3.writeHash _ _)
  | preemptWaitWrite =>
    unfold Machine.exec
    exact MemoryOk.swr h _ _ _ _ _ (fun x1 t2 h3 => h3.writePreemptWait _)
  | pause =>
    unfold Machine.exec
    exact MemoryOk.issue h _ _ _ _ _ (fun t1 h2 => MemoryOk.pause h2 h _ _)
  | kli | kaddi | kadd | ksub | kmul | kshl | kshr | kand =>
    unfold Machine.exec
    exact MemoryOk.kop h _ _ _ _
  | add | sub | mul | mulh | and | or | xor | andn | shl | shr | sar | rotr | min | max | bfx =>
    unfold Machine.exec
    exact MemoryOk.int2 h _ _ _ _ _
  | div | rem | sel | bfi | li | lih | fadd | fsub | fmul | ffma | fmin | fmax | fcvt | fdiv | fsqrt =>
    unfold Machine.exec
    exact MemoryOk.sop h _ _ _ _
  | clz | ctz | popc | addi | andi | ori | xori | shli | shri | sari | muli =>
    unfold Machine.exec
    exact MemoryOk.int1 h _ _ _ _
  | cmp | cmpi | pset | fcmp =>
    unfold Machine.exec
    exact MemoryOk.pop h _ _ _ _
  | pmov =>
    unfold Machine.exec
    exact h.execPmov _ _ _ _
  | ld =>
    unfold Machine.exec
    exact MemoryOk.issue h _ _ _ _ _ (fun t1 h2 => MemoryOk.loadGlobal h2 h _ _ _ _ _)
  | st =>
    unfold Machine.exec
    exact MemoryOk.issue h _ _ _ _ _ (fun t1 h2 => MemoryOk.storeGlobal h2 h _ _ _ _ _)
  | lds | sts | atoms =>
    unfold Machine.exec
    exact MemoryOk.issue h _ _ _ _ _ (fun t1 h2 => MemoryOk.dataOp h2 h _ _ _)
  | sPref =>
    unfold Machine.exec
    exact h.execSPref _ _ _ _ _
  | flush =>
    unfold Machine.exec
    exact h.execFlush _ _ _
  | atom | red | cas =>
    unfold Machine.exec
    exact MemoryOk.issue h _ _ _ _ _ (fun t1 h2 => MemoryOk.atomicGlobal h2 h _ _ _ _ _ _ _ _)
  | launch =>
    unfold Machine.exec
    exact MemoryOk.sluiceOp h _ _ _ (fun t1 h2 => MemoryOk.launch h2 h _ _ _)
  | fsopen =>
    unfold Machine.exec
    exact MemoryOk.sluiceOp h _ _ _ (fun t1 h2 => MemoryOk.fsopen h2 h _ _)
  | fsclose =>
    unfold Machine.exec
    exact MemoryOk.sluiceOp h _ _ _ (fun t1 h2 => MemoryOk.fsclose h2 h _ _)
  | fswait =>
    unfold Machine.exec
    exact MemoryOk.sluiceOp h _ _ _ (fun t1 h2 => MemoryOk.fswait h2 h _ _ _ _)
  | fstest =>
    unfold Machine.exec
    exact MemoryOk.sluiceOp h _ _ _ (fun t1 h2 => MemoryOk.fstest h2 h _ _)
  | lwait =>
    unfold Machine.exec
    exact MemoryOk.layerOp h _ _ _ _ (fun x1 t2 h3 => MemoryOk.lwait h3 h _)
  | lpin =>
    unfold Machine.exec
    exact MemoryOk.layerOp h _ _ _ _ (fun x1 t2 h3 => MemoryOk.answer (h3.pin _ _ _) h _ _)
  | lunpin =>
    unfold Machine.exec
    exact MemoryOk.layerOp h _ _ _ _ (fun x1 t2 h3 => MemoryOk.answer (h3.unpin _ _) h _ _)
  | phase =>
    unfold Machine.exec
    exact MemoryOk.sluiceOp h _ _ _ (fun t1 h2 => MemoryOk.phaseStart h2 h _ _)
  | qctlSetprio =>
    unfold Machine.exec
    exact MemoryOk.qctl h _ _ _ _ _ (fun x1 x2 t3 h4 => h4.setQueue _ _)
  | qctlDetset | qctlSeed =>
    unfold Machine.exec
    exact MemoryOk.qctl h _ _ _ _ _ (fun x1 x2 t3 h4 => h4.qctlEnqueue _ _)
  | qctlQread =>
    unfold Machine.exec
    exact MemoryOk.qctl h _ _ _ _ _ (fun x1 x2 t3 h4 => h4)
  | goveval =>
    unfold Machine.exec
    exact h.execGoveval _ _ _ _
  | govrd =>
    unfold Machine.exec
    exact h.execGovrd _ _ _ _
  | govhold | govrel =>
    unfold Machine.exec
    exact MemoryOk.gov h _ _ _ _ (fun x1 x2 t3 h4 => MemoryOk.govUpdate h4 h _ _)
  | eret =>
    unfold Machine.exec
    exact MemoryOk.issue h _ _ _ _ _ (fun t1 h2 => MemoryOk.eret h2 h _)
  | vshape =>
    unfold Machine.exec
    exact h.execVshape _ _ _ _ _
  | vld =>
    unfold Machine.exec
    exact h.execVld _ _ _ _ _
  | vst =>
    unfold Machine.exec
    exact h.execVst _ _ _ _ _
  | vstq =>
    unfold Machine.exec
    exact h.execVstq _ _ _ _ _
  | vldq =>
    unfold Machine.exec
    exact h.execVldq _ _ _ _ _
  | vgath =>
    unfold Machine.exec
    exact h.execVgath _ _ _ _ _ _ _
  | vscat =>
    unfold Machine.exec
    exact h.execVscat _ _ _ _ _ _ _
  | vmov | vabs | vneg | vsqrt | vrcp | vrsq =>
    unfold Machine.exec
    exact MemoryOk.v1 h _ _ _ _ _ _ _
  | vbcast | vcmp | vsel | mop | mcnt | vcvt | vamax | vscale | vred | vscan | vxpose | vperm =>
    unfold Machine.exec
    exact MemoryOk.vcore h _ _ _ _ _
  | vadd | vsub | vmul | vmin | vmax | vdiv | vand | vor | vxor | vshl | vshr | vsar | vimin | vimax =>
    unfold Machine.exec
    exact MemoryOk.v2 h _ _ _ _ _ _ _ _
  | vfma | vfms | vfnma =>
    unfold Machine.exec
    exact MemoryOk.v3 h _ _ _ _ _ _ _ _ _
  | vexp2 | vexp | vlog2 | vsinpi | vcospi | vtanh =>
    unfold Machine.exec
    exact MemoryOk.vtrans h _ _ _ _ _ _ _
  | viadd | visub | vimul =>
    unfold Machine.exec
    exact MemoryOk.viarith h _ _ _ _ _ _ _ _
  | viota =>
    unfold Machine.exec
    exact MemoryOk.vissue h _ _ _ _ _ _ (fun t1 h2 => h2.modCore _)
  | vrand =>
    unfold Machine.exec
    exact h.execVrand _ _ _ _ _ _ _
  | vdrain =>
    unfold Machine.exec
    exact h.execVdrain _ _ _ _ _ _ _ _
  | vzld =>
    unfold Machine.exec
    exact h.execVzld _ _ _ _ _ _
  | mshape | mzero | wclr =>
    unfold Machine.exec
    exact MemoryOk.issue h _ _ _ _ _ (fun t1 h2 => h2.modCore _)
  | wld =>
    unfold Machine.exec
    exact h.execWld _ _ _ _ _ _ _
  | mma =>
    unfold Machine.exec
    exact h.execMma _ _ _ _ _
  | mmas =>
    unfold Machine.exec
    exact h.execMmas _ _ _ _ _
  | mdrain =>
    unfold Machine.exec
    exact h.execMdrain _ _ _ _ _
  | copy | copyc | gather | scatter | fill | win | xform | xpq | send | recv | coll | cPref | code | cflush =>
    unfold Machine.exec
    exact MemoryOk.cissue h _ _ _ _ _
  | adv | wend =>
    unfold Machine.exec
    exact MemoryOk.cwindow h _ _
  | phaseComplete =>
    unfold Machine.exec
    exact h.phaseComplete _
  | transferComplete =>
    unfold Machine.exec
    exact h.transferComplete _ _ _
  | transferFault =>
    unfold Machine.exec
    exact h.transferFault _ _ _
  | loadResponse =>
    unfold Machine.exec
    exact h.loadResponse _ _
  | codeFeedRefill =>
    unfold Machine.exec
    exact h.codeFeed _ _
  | coreDeadlock =>
    unfold Machine.exec
    exact h.coreDeadlock _
  | budgetExhaustion =>
    unfold Machine.exec
    exact h.budgetExhaustion _
  | budgetBoundaryTrap =>
    unfold Machine.exec
    exact h.budgetBoundary _
  | homeLoadSi | homeLoadWi | homeLoadWt | homeLoadOwn =>
    unfold Machine.exec
    exact h.homeLoad _ _
  | homeStoreWi | homeStoreWt | homeStoreOwn =>
    unfold Machine.exec
    exact h.homeStore _ _
  | homeWriteback =>
    unfold Machine.exec
    exact h.homeWriteback _
  | homeAtomic =>
    unfold Machine.exec
    exact h.homeAtomic _
  | invalidation =>
    unfold Machine.exec
    exact h.invalidationEvent _
  | invalidationAck =>
    unfold Machine.exec
    exact h.invalidationAck _
  | l1DirtyTimeout =>
    unfold Machine.exec
    exact h.sendWriteback _ _
  | l1CleanTimeout =>
    unfold Machine.exec
    exact h.modCoreAt _ _
  | faultBufferRetry =>
    unfold Machine.exec
    exact h.faultRetry _ _
  | hostReadShared | hostReadExclusive =>
    unfold Machine.exec
    exact h.hostRead _ _
  | hostWrite =>
    unfold Machine.exec
    exact h.hostWrite _ _
  | bisnpComplete =>
    unfold Machine.exec
    exact h.bisnpComplete _ _
  | biconflict =>
    unfold Machine.exec
    exact h.biconflict _
  | hostSnoop =>
    unfold Machine.exec
    exact h.hostSnoop _ _ _
  | peerRequest =>
    unfold Machine.exec
    exact h.peerRequest _ _ _ _ _
  | fabricBlockReceive =>
    unfold Machine.exec
    exact h.blockReceive _ _ _ _
  | linkDown =>
    unfold Machine.exec
    exact h.linkDown _
  | prodWrite =>
    unfold Machine.exec
    exact MemoryOk.queueWrite h _ _ _ (fun t1 h2 => h2.prodWrite _ _)
  | launchRecordEnqueue | scopeOpenPacket | scopeClosePacket | detsetPacket | seedPacket =>
    unfold Machine.exec
    exact h.feedQueue _ _
  | evconsWrite =>
    unfold Machine.exec
    exact MemoryOk.queueWrite h _ _ _ (fun t1 h2 => h2.evconsWrite _ _)
  | sluiceSelection =>
    unfold Machine.exec
    exact h.select _ _
  | taskRetire =>
    unfold Machine.exec
    exact h.taskRetire _
  | preemptionRound =>
    unfold Machine.exec
    exact h.preemptionRound _
  | softPreemption =>
    unfold Machine.exec
    exact h.softPreempt _
  | hardPreemption =>
    unfold Machine.exec
    exact h.hardPreempt _
  | governorEvaluation =>
    unfold Machine.exec
    exact h.governorEvaluation _
  | statsMerge =>
    unfold Machine.exec
    exact h.statsMerge _ _
  | layerArrivalStart =>
    unfold Machine.exec
    exact h.arrivalStart _
  | layerArrivalComplete =>
    unfold Machine.exec
    exact h.arrivalComplete _ _
  | layerArrivalFail =>
    unfold Machine.exec
    exact h.arrivalFail _ _ _
  | layerEvictionComplete =>
    unfold Machine.exec
    exact h.evictionComplete _ _
  | contextValidSet =>
    unfold Machine.exec
    exact MemoryOk.managed h _ _ _ (fun t1 h2 => h2.createContext _)
  | contextValidClear =>
    unfold Machine.exec
    exact MemoryOk.managed h _ _ _ (fun t1 h2 => h2.dropContext _)
  | seedWrite =>
    unfold Machine.exec
    exact MemoryOk.managed h _ _ _ (fun t1 h2 => h2.setCtx _ _)
  | sdGo =>
    unfold Machine.exec
    exact MemoryOk.managed h _ _ _ (fun t1 h2 => h2.startShootdown)
  | shootdownComplete =>
    unfold Machine.exec
    exact h.shootdownComplete
  | mgReq =>
    unfold Machine.exec
    exact MemoryOk.managed h _ _ _ (fun t1 h2 => h2.migrationRequest)
  | mgDone =>
    unfold Machine.exec
    exact MemoryOk.managed h _ _ _ (fun t1 h2 => h2.migrationDone)
  | claim =>
    unfold Machine.exec
    exact MemoryOk.offered h _ _ _ (fun t1 h2 => h2.claim _)
  | handover =>
    unfold Machine.exec
    exact h.execHandover _ _
  | accept =>
    unfold Machine.exec
    exact h.execAccept _
  | heartbeat =>
    unfold Machine.exec
    exact MemoryOk.managed h _ _ _ (fun t1 h2 => h2.modMgmt _)
  | heartbeatExpiry =>
    unfold Machine.exec
    exact h.execHeartbeatExpiry
  | tcPcWrite =>
    unfold Machine.exec
    exact MemoryOk.trapControl h _ _ (fun t1 h2 => h2.modCore _)
  | tcActResume =>
    unfold Machine.exec
    exact MemoryOk.trapControl h _ _ (fun t1 h2 => h2.leaveTrapMode)
  | tcActAbandon =>
    unfold Machine.exec
    exact MemoryOk.trapControl h _ _ (fun t1 h2 => h2.abandon _ _)
  | logConsWrite =>
    unfold Machine.exec
    exact MemoryOk.managed h _ _ _ (fun t1 h2 => h2.logCons _ _)
  | mgmtRegisterWrite =>
    unfold Machine.exec
    exact h.execMgmtRegisterWrite _ _ _
  | errorEventQueued =>
    unfold Machine.exec
    exact h.raiseQueued _ _
  | scrubRead =>
    unfold Machine.exec
    exact h.scrubRead _
  | rowRepair =>
    unfold Machine.exec
    exact h.rowRepair _ _ _
  | powerOnReset | deviceReset =>
    unfold Machine.exec
    exact h.bringUp _
  | powerStep =>
    unfold Machine.exec
    exact h.powerStep _ _
  | pointChangeEnd =>
    unfold Machine.exec
    exact h.endPointChange _
  | tenteringPass =>
    unfold Machine.exec
    exact h.tenteringPass _
  | retentionSleepEntry =>
    unfold Machine.exec
    exact h.sleepIsland _
  | retentionWake =>
    unfold Machine.exec
    exact h.wakeIsland _
  | spdmRequest =>
    unfold Machine.exec
    exact h.spdmAnswer _ _
  | firmwareUpdateWrite =>
    unfold Machine.exec
    exact h.firmwareWrite _ _ _
  | launchPathComplete =>
    unfold Machine.exec
    exact h.launchPath _
  | saveComplete =>
    unfold Machine.exec
    exact h.saveComplete _
  | unitReply =>
    unfold Machine.exec
    exact h.unitReply _
  | fabricGroupWrite =>
    unfold Machine.exec
    exact memoryOk_mk h
  | portTraining =>
    unfold Machine.exec
    exact h.portTraining _ _
  | linkErrorRetransmitted =>
    unfold Machine.exec
    exact h.execLinkErrorRetransmitted _ _
  -- a recall, whose constructor's name is a token of Mathlib's
  | _ =>
    unfold Machine.exec
    exact h.recallEvent _

theorem MemoryOk.stepEngine {s : State} (h : MemoryOk s) (e : Engine) : OutOk (stepEngine s e) := by
  unfold Machine.stepEngine
  extract_lets s0 s1
  have h0 : MemoryOk s0 := MemoryOk.sampleCycle (memoryOk_mk h)
  have h1 : MemoryOk s1 := h0.settle e
  split
  · exact h
  split
  · exact h0
  split
  · exact h1
  split
  · exact h1.takeTrap _ _ _
  · exact h1
  · split
    · exact (h1.logSram _ _).takeTrap _ _ _
    · split
      · exact h1.takeTrap _ _ _
      · exact MemoryOk.exec (h1.noteUses _ _) _

theorem MemoryOk.stepEvent {s : State} (h : MemoryOk s) (i : Instr) : OutOk (stepEvent s i) := by
  unfold Machine.stepEvent
  split
  · exact h.exec i
  · exact h

/-- One turn, of an engine, of an event, or of an error, an eviction, a piece or a management read. -/
theorem MemoryOk.step {s : State} (h : MemoryOk s) : OutOk (step s) := by
  unfold Machine.step
  extract_lets t s1
  have h1 : MemoryOk s1 := h.takeTurn.between
  split
  · split
    · exact MemoryOk.stepEngine (memoryOk_mk h1) _
    · trivial
  · exact h1.stepEvent _
  · exact h1.upset _
  · exact h1.evict _
  · change MemoryOk (if _ then _ else _)
    split
    · exact h1.makePiece _ _ _
    · exact h1
  · exact h1.readMgmt _ _

end Sys2Proof
end

open Sys2Proof Sys2Proof.Machine Laws

/-- Settles O60: every function that a turn runs keeps memory and sideband in canonical form, the layer above saying it of each
in the order of the model's definitions. -/
theorem stepKeepsMemoryOk : Obligations.StepKeepsMemoryOk := by
  intro s t h e
  exact (congrArg OutOk e).mp h.step
